-- ==== Sys2Proof/Word.lean ====
section
/-!
DEFINITION. The word types of the K5 (R5, R6): bytes, 32-bit registers, 16-bit and 32-bit floating codes.
-/

namespace Sys2Proof

/-- A byte. -/
abbrev Byte := BitVec 8

/-- A 32-bit register word (R6). -/
abbrev Word := BitVec 32

/-- An FP32 code (R30). -/
abbrev F32 := BitVec 32

/-- A BF16 code (R30). -/
abbrev BF16 := BitVec 16

/-- A device address of the DUA range, 52 bits (R191), carried as a number. -/
abbrev Dua := Nat

/-- A partition number, 0 to 31 (R289). -/
abbrev PartId := Fin 32

/-- A physical hearth number, 0 to 63 (R13). -/
abbrev HearthId := Fin 64

/-- A flue link number, 0 to 15 (R225). -/
abbrev LinkId := Fin 16

/-- A network port number (R399). -/
abbrev PortId := Fin 2

/-- A queue page: 0 to 31 is QP0 to QP31 and 32 is QPM (R260). -/
abbrev QPage := Fin 33

end Sys2Proof
end

