-- ==== Sys2Proof/Syntax.lean ====
section
/-!
DEFINITION. The commands of the block: one constructor per row of spec/opcode_table.json, with the operand types.
Data that the manual does not compute (logits, gradients, records that arrive from outside, sensor values, decrypted payloads)
are operands: every value of them is a command of its own.
-/

namespace Sys2Proof

/-- Who makes a register or memory access (R310, R394, R403, R404): a host-link request with or without a PASID, a message on
the MGMT connection of a port, the management controller (its 1 GbE service included), or the firebox. -/
inductive Origin
  | host (pasid : Option (BitVec 20)) (rid : BitVec 16)
  | mgmt (port : PortId)
  | mc
  | firebox
deriving DecidableEq, Repr

/-- A requester of the memory system (R193, R195, R204, R310): the partition it acts for (none: the module), its world, whether
it is one of the three that may read the vault window, the hearth whose load path carries the access, if one does, and the engine it comes from
(0 SE, 1 LF, 2 WX, 3 CP, 4 CL), if one does. -/
structure MemWho where
  part : Option PartId
  secure : Bool := false
  vault : Bool := false
  hearth : Option HearthId := none
  eng : Option (Fin 5) := none
deriving DecidableEq, Repr

/-- A started command: queue page, engine (0 SE, 1 LF, 2 WX, 3 CP, 4 CL), queue and SEQ (R261, R265). -/
structure CmdRef where
  page : QPage
  eng : Fin 5
  q : Fin 8
  seq : BitVec 16
deriving DecidableEq, Repr

/-- How a long command ends (R272). -/
inductive EndHow
  | ok
  | tagFail (dua : Nat)
  | unreachable (fabric : Nat)
  | abandoned
  | connBroke
  | noKey (fabric : Nat)
deriving DecidableEq, Repr

/-- The router's ranking of one row at a layer with routed experts: which row, all experts in rank order, and how many the
router selects (R128). -/
structure RowRoute where
  row : Nat
  ranked : List Nat
  selected : Nat
deriving DecidableEq, Repr

/-- The FP32 logits of one sampled row (R120): its slot. -/
structure RowLogits where
  slot : Nat
  logits : List F32
deriving DecidableEq, Repr

/-- The FP32 logits of one training forward row: hold entry and position (R174, R175). -/
structure TrainLogits where
  hold : Nat
  pos : Nat
  logits : List F32
deriving DecidableEq, Repr

/-- The gradient that arrives at one element of one row at a wax site in the counter-sweep (R181): the row of the sweeping cohort, layer, site,
channel, the incoming gradient dy, and the scale record of the gradient tensor that dy × s enters. -/
structure SiteGrad where
  row : Nat
  layer : Nat
  site : Nat
  ch : Nat
  dy : F32
  rcd : Nat
deriving DecidableEq, Repr

/-- The gradient that reaches one clipped element of an input tensor in the counter-sweep (R181): row, layer, input-tensor index, channel. -/
structure ClipGrad where
  row : Nat
  layer : Nat
  input : Nat
  ch : Nat
  dy : F32
deriving DecidableEq, Repr

/-- The BF16 input of one row of the stride at a checkpoint layer (R178). -/
structure RowInput where
  row : Nat
  vals : List BF16
deriving DecidableEq, Repr

/-- One row's vector in the counter-sweep: the logits of the head (R180), or the gradient at the input of the segment's first layer (R179). -/
structure SweepVec where
  row : Nat
  vals : List F32
deriving DecidableEq, Repr

/-- A Perquel record as the key holder sees it after decryption (R157, R158): its 64-byte header, the plaintext payload, whether its GCM tag passes, and
the digest it carries. -/
structure PqRec where
  header : List Byte
  payload : List Byte
  tagOk : Bool
  digest : BitVec 256
deriving DecidableEq, Repr

/-- The 64-byte descriptor of a wax record (R137). -/
structure WaxDesc where
  wax : Nat := 0
  follow : Bool := false
  clip : Bool := false
  state : Bool := false
  account : Nat := 0
  version : Nat := 1
  keyHandle : Nat := 0
  format : Nat := 1
  siteMap : Nat := 0
  base : BitVec 256 := 0
deriving DecidableEq, Repr

/-- The step header of R185. -/
structure StepHdr where
  step : Nat := 0
  b1pow : F32 := 0x3F800000
  b2pow : F32 := 0x3F800000
  version : Nat := 0
  lossTokens : Nat := 0
deriving DecidableEq, Repr

/-- One entry of the clip directory (R136). -/
structure ClipEntry where
  layer : Nat
  tensor : Nat
  count16 : Nat
  start256 : Nat
deriving DecidableEq, Repr

/-- A wax record: descriptor, clip directory (its used entries; `dirBad` when the bytes of its record header break R136), value halves, moments and block
scales by value index, and the step header. Unlisted halves and moments are zero. -/
structure WaxRec where
  desc : WaxDesc := {}
  clips : List ClipEntry := []
  dirBad : Bool := false
  hi : List (Nat × BitVec 16) := []
  lo : List (Nat × BitVec 16) := []
  m1 : List (Nat × Byte) := []
  m2 : List (Nat × Byte) := []
  m1s : List (Nat × F32) := []
  m2s : List (Nat × F32) := []
  step : StepHdr := {}
deriving DecidableEq, Repr

/-- What a fetch's transfer brings (R150, R160): the record of the local store, or the record set of the remote store with the record header it
belongs to (R136), a record that fails its digest or tag, or a broken connection (R400). -/
inductive Arrival
  | stored
  | remote (set : List PqRec) (header : List Byte)
  | digestFail
  | connBroke
deriving DecidableEq, Repr

/-- A rink operation from another module of the fabric (R240, R343, R344): SEM_WAIT and SEM_SIGNAL with the semaphore, COUNT and the partition that
acts, and an arrival at one of the 1,024 barriers with its member list, by fabric ID. -/
inductive RinkOp
  | wait (sem count part : Nat)
  | signal (sem count part : Nat)
  | barrier (n : Nat) (members : List Nat)
deriving DecidableEq, Repr

/-- A flit of 256 bytes on a flue link (R225, R229, R235): sender, epoch, channel, stream tag, 24-bit flow sequence number, what it carries, and the
rink operation that a VC0 flit carries, as its receiver reads it (R240; the layout of such a flit is not in the manual). -/
structure Flit where
  src : Nat
  epoch : Word
  dst : Nat
  vc : Fin 4
  stream : Nat
  seq : BitVec 24
  payload : List Byte
  rink : Option RinkOp := none
deriving DecidableEq, Repr

/-- The manifest's tables as the firebox and the lift read them (R323, R444); `router` is the layer's router-logits site, if it has one (R181). -/
structure BaseLayer where
  codeTable : List Nat := []
  kvTable : List Nat := []
  matrices : List (Nat × Nat) := []
  sites : List Nat := []
  outliers : List Nat := []
  clips : List (List BF16) := []
  routed : Nat := 0
  expertBytes : Nat := 0
  router : Option Nat := none
deriving DecidableEq, Repr

/-- A sealed tile (R313): layer, first DUA and extent of its weights, mode, TRANSPOSED, input tensor (of a transposed tile: the forward input tensor whose
gradient it forms), wax site if the output is one, and its reduction depth. -/
structure SealedTile where
  layer : Nat
  dua : Nat
  extent : Nat
  mode : Nat
  transposed : Bool
  input : Nat
  site : Option Nat
  depth : Nat
deriving DecidableEq, Repr

/-- One entry of the shard table (R218). -/
structure Shard where
  number : Nat
  offset : Nat
  length : Nat
  routed : Option (Nat × Nat)
  digest : BitVec 256
deriving DecidableEq, Repr

/-- The installation manifest (R323). -/
structure Manifest where
  baseId : BitVec 256 := 0
  online : Bool := false
  peerTransfer : Bool := false
  ownerFloor : List Nat := [0, 0, 0, 0]
  siteMap : Nat := 0
  keyCheck : BitVec 256 := 0
  vocab : Nat := 0
  clipCapacity : Nat := 0
  pinnedBytes : Nat := 0
  outlierBytes : Nat := 0
  layers : List BaseLayer := []
  tiles : List SealedTile := []
  shards : List Shard := []
deriving DecidableEq, Repr

/-- A payload sent to the firebox under a session key, decrypted (R322, R333): whether its GCM tag passes, the 256-bit key it
carries, and the manifest for INSTALL_OPEN. -/
structure FbInput where
  tagOk : Bool
  key : BitVec 256
  manifest : Manifest
deriving DecidableEq, Repr

/-- A peer firebox's report as the sender checks it (R325): DEBUG_LOCKED and the four running SVNs. -/
structure PeerReport where
  fabric : Nat
  debugLocked : Bool
  svn : List Nat
deriving DecidableEq, Repr

/-- What a REGION_SET asks (R316): the region's entry if it exists, first DUA, pages (0 removes), owner and world. -/
structure RegionArgs where
  base : Nat
  pages : Nat
  owner : Nat
  secure : Bool
deriving DecidableEq, Repr

/-- A key sent by a peer firebox (R325): 0 base, 1 account, 2 image; its account or image handle and the key. -/
structure PeerKey where
  kind : Fin 3
  arg : Nat
  key : BitVec 256
deriving DecidableEq, Repr

/-- A 64-byte message on a MGMT connection (R404). -/
structure MgmtMsg where
  port : PortId
  seq : Word
  addr : Nat
  bytes : Nat
  data : List Byte
deriving DecidableEq, Repr

namespace Machine

/-- A loss-table entry (R173). -/
structure LossEnt where
  kind : Nat := 0
  baseline : Nat := 0
  norm : Nat := 0
  klKind : Nat := 0
  epsLow : F32 := 0
  epsHigh : F32 := 0
  dualC : F32 := 0
  klCoef : F32 := 0
  stdEps : F32 := 0
  ratioMax : F32 := 0
deriving DecidableEq, Repr

/-- A rerun-table entry's thresholds (R56). -/
structure RerunEnt where
  thresh : Nat := 256
  enable : Bool := true
  grad : Bool := false
deriving DecidableEq, Repr

/-- A detour-policy entry (R127). -/
structure DetourEnt where
  mode : Nat := 0
  waitMax : Nat := 0
deriving DecidableEq, Repr

/-- A voltage-frequency entry (R432). -/
structure VfEnt where
  mhz : Nat := 0
  mv : Nat := 0
  tjMax : Nat := 0
  valid : Bool := false
deriving DecidableEq, Repr

/-- The signed table bundle (R330, R421): whether its signature is good, its SVN, its version, tables 1, 7, 8, 9, 10, 12, 13. -/
structure Bundle where
  sigOk : Bool := true
  svn : Nat := 0
  version : Nat := 1
  loss : List LossEnt := []
  rerun : List (Nat × RerunEnt) := []
  detour : List (Nat × DetourEnt) := []
  vf : List VfEnt := []
  text : List (List Byte) := []
  slotRows : List (List Byte) := []
  profiles : List Nat := []
  profileRows : List (List Byte) := []
deriving DecidableEq, Repr

end Machine

/-- An image beside the MC's own in a firmware slot (R330): its signature good, and its SVN. -/
structure FwPart where
  sigOk : Bool := true
  svn : Nat := 0
deriving DecidableEq, Repr

/-- The images of a firmware slot (R330): of the MC's own the signature, the SVN, the settings formats it reads and its version; the firebox's image, the
engine microcode, and the table bundle, if the slot brings one. -/
structure FwImage where
  sigOk : Bool := false
  svn : Nat := 0
  reads : List Nat := []
  version : Nat := 0
  bundle : Option Machine.Bundle := none
  fb : FwPart := {}
  ucode : FwPart := {}
deriving DecidableEq, Repr

/-- A settings area (R350, R403). -/
structure Settings where
  format : Nat := 0
  seq : Nat := 0
  uncommitted : Bool := false
  digestOk : Bool := false
  hostless : Bool := false
  fabricId : Nat := 0
  epoch : Word := 0
  routePlanes : Nat := 16
  routeTiers : List Nat := []
  conns : List (Nat × List Word) := []
deriving DecidableEq, Repr

/-- Where an uncorrectable error lies (R341). -/
inductive ErrSite
  | dramLine (dua : Nat)
  | hearth (h : HearthId)
  | cacheTags (quadrant : Fin 8)
  | flueLost (link : LinkId)
  | hostLost
  | vaultRead (shard : Nat)
deriving DecidableEq, Repr

/-- The activation row a hearth issues (R38, R49, R52): the row's number in its stride, or in the sweeping cohort, and the FP32 elements by reduction
position of the pass. -/
structure VecIn where
  row : Nat
  elems : List F32
deriving DecidableEq, Repr

/-- A staging fill that has landed (R71 to R78): the partition, a tile of its layer program or, with `fromSealed`, an entry of the base's sealed tile
list; K-chunk, N-chunk and row group; the rows of every row group of the tile, as its first fill fixes them; the scale records of a sealed tile, which
the manual does not number; the source (1 scratch, 2 load path, 3 transposing read port); and the cycles a front waited for the slot. -/
structure FillReq where
  part : PartId
  fromSealed : Bool
  tile : Nat
  kch : Nat
  nch : Nat
  grp : Nat
  groups : List (List Nat)
  inRec : Nat
  outRec : Nat
  src : Fin 4
  waited : Nat
deriving DecidableEq, Repr

/-- Where the drain writes a result (R85 D6): scratch, DRAM at a DUA, or the vector unit. -/
inductive DrainDst
  | scratch
  | dram (dua : Nat)
  | vector
deriving DecidableEq, Repr

/-- A layout of pipeline training across modules (R255): `modules` p, `perModule` v, `microbatches` m, the number of segments of each layer group in
order, and this module's pipeline rank. -/
structure Layout where
  modules : Nat
  perModule : Nat
  microbatches : Nat
  sizes : List Nat
  rank : Nat
deriving DecidableEq, Repr

/-- A tile all of whose passes have run (R79): a tile of the layer program or an entry of the sealed tile list. -/
structure TileRun where
  part : PartId
  fromSealed : Bool
  tile : Nat
deriving DecidableEq, Repr

/-- A member's gradient bank as the reduction receives it (R182, R248): the listed values by value index, and the statistics. -/
structure BankIn where
  vals : List (Nat × F32)
  lossTokens : Nat
  sequences : Nat
  cohorts : Nat
  clipped : Nat
  sat : Nat
  nan : Nat
  lossSum : F32
  klSum : F32
deriving DecidableEq, Repr

/-- One command of the block: one row of the table. -/
inductive Instr
  -- register pages
  | registerWrite (o : Origin) (off bytes : Nat) (v : BitVec 64) (hwInc : Nat)
  | counterLowRead (o : Origin) (off bytes : Nat)
  | ctrlEnableSet (o : Origin) (page : Nat)
  | consistencyCheckEnd (page : Nat)
  | ctrlEnableClear (o : Origin) (page : Nat)
  | blockQuiesced (page : Nat)
  | eventStatusClear (o : Origin) (page : Nat) (mask hw : Word)
  | eventEnableWrite (o : Origin) (page : Nat) (v : Word)
  | headerSemWrite (o : Origin) (page : Nat) (v : Word)
  | tbEntryWrite (o : Origin) (v : Word)
  -- strides
  | strideStart (p : PartId)
  | assembleDone (p : PartId)
  | forwardSweepDone (p : PartId)
  | layerDone (p : PartId) (layer : Nat) (routes : List RowRoute := []) (inputs : List RowInput := [])
  | deadlineExpiry (p : PartId) (layer : Nat) (routes : List RowRoute)
  | detourWaitExpiry (p : PartId) (layer : Nat)
  | segmentDone (p : PartId) (site : List SiteGrad) (clip : List ClipGrad) (logits : List SweepVec) (carry : List SweepVec := [])
  | sampleDone (p : PartId) (rows : List RowLogits) (train : List TrainLogits)
  | strideBoundary (p : PartId)
  | strideHang (p : PartId)
  | strideCtrlWrite (o : Origin) (p : PartId) (v : Word)
  -- hearths
  | vectorIssue (h : HearthId) (x : VecIn)
  | frontStart (h : HearthId)
  | stagingFillDone (h : HearthId) (slot : Fin 2) (d : FillReq)
  | drainRow (h : HearthId) (row : Nat) (form : Fin 3) (more : Bool := false) (dst : DrainDst := .scratch)
  | waxLineLanded (h : HearthId) (index : Nat)
  | tileComplete (t : TileRun)
  -- queues
  | commandStart (eng : Fin 5)
  | qtailDoorbell (o : Origin) (page : QPage) (eng : Fin 5) (q : Fin 8) (v : Word) (popNow : Bool)
  | qcfgEnable (o : Origin) (page : QPage) (eng : Fin 5) (q : Fin 8) (v : Word)
  | qcfgDisable (o : Origin) (page : QPage) (eng : Fin 5) (q : Fin 8) (v : Word)
  | qcfgStart (o : Origin) (page : QPage) (eng : Fin 5) (q : Fin 8)
  | commandHang (c : CmdRef)
  | heldRecordsWritten (page : QPage)
  -- opcodes: any engine
  | nop (c : CmdRef)
  | fence (c : CmdRef)
  | semWait (c : CmdRef)
  | semSignal (c : CmdRef)
  -- SE
  | join (c : CmdRef)
  | leave (c : CmdRef)
  | suspend (c : CmdRef)
  | resume (c : CmdRef)
  | reward (c : CmdRef)
  | groupClose (c : CmdRef)
  | programSet (c : CmdRef) (layout : Option Layout := none)
  -- WX
  | waxTrain (c : CmdRef)
  | waxUntrain (c : CmdRef)
  | waxStep (c : CmdRef)
  | waxLoad (c : CmdRef)
  | waxRefresh (c : CmdRef)
  | waxEvict (c : CmdRef)
  | waxStore (c : CmdRef) (set : List PqRec) (header : List Byte)
  | waxDelete (c : CmdRef)
  | waxExport (c : CmdRef)
  | overlaySet (c : CmdRef)
  -- LF, CP
  | baseLoad (c : CmdRef) (badShards : List Nat)
  | baseUnload (c : CmdRef)
  | copy (c : CmdRef)
  | fill (c : CmdRef)
  -- CL
  | allReduce (c : CmdRef) (inputs : List (List F32))
  | reduceScatter (c : CmdRef) (inputs : List (List F32))
  | allGather (c : CmdRef) (inputs : List (List Byte))
  | broadcast (c : CmdRef) (data : List Byte)
  | allToAll (c : CmdRef) (inputs : List (List Byte))
  | clReduce (p : PartId) (wax : Nat) (group gen step : Nat) (inputs : List BankIn)
  | groupSet (c : CmdRef)
  | peerSet (c : CmdRef)
  | chimneySend (c : CmdRef)
  -- fetches and saves
  | fetchTagAcquired
  | missTimeout (tag : Fin 512)
  | fetchStart
  | fetchTransferDone (tag : Fin 512) (gen : Nat) (a : Arrival)
  | waxSaveDone (wax : Nat) (ok : Bool)
  | holdBudgetExpiry (hold : Nat)
  -- memory
  | memoryRead (who : MemWho) (dua len : Nat) (macOk : Bool)
  | memoryWrite (who : MemWho) (dua : Nat) (data : List Byte) (macOk : Bool := true)
  | pageDemote (page : Nat)
  | pagePromote (page : Nat)
  | migrationSwitch (page : Nat)
  | regionZeroFillDone (region : Nat)
  | liftFillStart
  | expertLanded (layer expert : Nat) (digestOk : Bool)
  | patrolPassStart
  | patrolShardChecked (digestOk : Bool)
  -- fabric
  | flitSend (link : LinkId) (f : Flit)
  | flitReceived (link : LinkId) (f : Flit)
  | creditReturn (link : LinkId) (vc : Fin 4) (n : Nat)
  | replayTimeout (link : LinkId)
  | linkIdleTimeout (link : LinkId)
  | linkTrained (link : LinkId) (lanes : Nat) (peer : Nat)
  | quarantineReceived (epoch : Word)
  | silenceTimeout (fabric : Nat)
  | chimneyChunkArrived (shard : Nat) (children : List Nat) (last digestOk bad : Bool)
  | preparedReceived (group step rank : Nat) (digest : BitVec 256)
  | outcomeReceived (group step : Nat) (commit : Bool)
  | commitTimeout (group step : Nat)
  | outcomeQueryReceived (group step rank : Nat)
  -- partitions
  | ptResizeGo (o : Origin) (p : PartId)
  | hearthTransitDone (h : HearthId)
  | ptFreezeSet (o : Origin) (p : PartId)
  | freezeBudgetExpiry (p : PartId)
  | ptFreezeClear (o : Origin) (p : PartId)
  | imageSave (o : Origin) (p : PartId)
  | imageSaveDone (p : PartId) (ok : Bool)
  | imageRestore (o : Origin) (p : PartId)
  | imageRestoreDone (p : PartId) (chunksOk : Bool)
  | ptAshout (o : Origin) (p : PartId)
  | ashoutDone (p : PartId)
  | mapGo (o : Origin) (p : PartId) (v : Word)
  | mapDone (p : PartId)
  | mbT2mProdWrite (o : Origin) (p : PartId) (v : Word)
  | mbM2tProdWrite (o : Origin) (p : PartId) (v : Word)
  -- firebox
  | attest
  | installOpen (input : FbInput)
  | installClose
  | keyRelease (input : FbInput)
  | accountKeySet (input : FbInput)
  | accountKeyCreate
  | exportKeySet (input : FbInput)
  | keyTransfer (report : PeerReport)
  | regionSet (r : RegionArgs)
  | keyDelete
  | floorCommit
  | fbRequestTimeout
  | sessionExpiry (session : Fin 16)
  | trngStart
  | trngTestsDone (pass : Bool)
  | trngConditioned
  | trngContinuousFail
  | debugUnlock (tokenOk : Bool)
  -- faults and recovery
  | resetRequest (o : Option Origin) (domain cause : Nat)
  | damperDrainTimeout (domain : Nat)
  | domainRelease (domain : Nat)
  | uncorrectableError (e : ErrSite)
  | correctableError (slice : Option (Fin 8) := none)
  | teardownWatchdog (eng : Fin 5) (p : PartId)
  | hearthSelftestFail (h : HearthId)
  | semCfgWrite (o : Origin) (v : Word)
  | hostLinkDrop
  | heartbeatTimeout
  | hostHbWrite (o : Origin)
  | bankingComplete
  | adoptGo (o : Origin) (v : Word)
  | mcBoot
  | bootTimeout
  | fwCommit (o : Origin)
  | fwSwitch (o : Origin)
  | recoveryImageWrite (slotB : Bool) (img : FwImage)
  -- ordered mode and meter
  | orderStepWrite (o : Origin) (p : PartId) (v : Word)
  | reportAck (tokenSum trainSum : Nat)
  | energyWindowClose (mJ : Nat) (outOfClass : Bool)
  | meterCounterLoRead (o : Origin) (counter : Fin 5)
  | readAccount
  | readTotal
  | cert
  | tamperEvent (removed : Bool)
  | meterFwChange (version : Word)
  -- host and network
  | hostLinkTrained (mode width : Nat)
  | hostReset
  | bar2Access (o : Origin) (dua len : Nat) (write : Option (List Byte))
  | placeSet (o : Origin) (index : BitVec 12)
  | placeClear (o : Origin) (index : BitVec 12)
  | rdmaIncoming (port : PortId)
  | connConnect (o : Origin) (port : PortId) (qpn : BitVec 24)
  | connBroken (port : PortId) (cls : Fin 3)
  | pushGo (o : Origin) (port : PortId)
  | pushDone (port : PortId) (ok : Bool)
  | regRead (m : MgmtMsg)
  | regWrite (m : MgmtMsg)
  | duaRead (m : MgmtMsg)
  | duaWrite (m : MgmtMsg)
  | heartbeat (m : MgmtMsg)
  -- power and module
  | standbyRailUp
  | powerStepDone (ok : Bool) (mainPermit : Bool)
  | mainRailFault
  | mainPermitFall
  | standbyRailLoss
  | modRst
  | dvfsCheck (watts tj : Nat)
  | thermalTrip
  | coolantOutOfRange (inlet flow : Nat)
  | instGo (o : Origin)
  | instShardWritten (shard : Nat) (digestOk scaleFF : Bool)
  | instDone
  | mainRailReturn (mainPermit : Bool)
  | thermalTripRelease
  | networkLinkTrained (port : PortId) (half : Bool)
  | networkLinkDown (port : PortId)
  | peerKeyReceived (k : PeerKey)
  | baseShardRewritten (dua : Nat) (ok : Bool)
  | waxReloadDone (slot : Nat) (ok : Bool)
  | commandEnd (c : CmdRef) (how : EndHow)
  | firmwareUpdate (slotB : Bool) (img : FwImage)
  | settingsUpdate (st : Settings)
  | meterCardPresent
deriving DecidableEq, Repr

end Sys2Proof
end

