-- ==== Sys2Proof/Config.lean ====
section
/-!
DEFINITION. What the manual leaves open, as uninterpreted constants: nothing in Lean can evaluate one or prove a value of it.
Each is named in a row of notes/assumptions/.
-/

namespace Sys2Proof.Config

/-- Free choice number `k` where the manual does not say which of several free things is taken (a slot, a hold entry, a
frame, a tag). The caller reduces it modulo the number of candidates (DESIGN CHOICE, log entry 3). -/
opaque choice : Nat → Nat

/-- Which two partial sums an adder combines next, for a sum of the given length at the given step: the order of additions
of R53 and R66 (DESIGN CHOICE, log entry 4). -/
opaque addPick : Nat → Nat → Nat

/-- The vector unit's normal-mode result of a function (0 exp, 1 log) on an FP32 code; the model uses it only where it lies
within the 2 units in the last place of R120 (DESIGN CHOICE, log entry 5). -/
opaque vectorFn : Nat → F32 → F32

/-- The ordered profile's approximation (profile version, function number, argument) of R358 (DESIGN CHOICE, log entry 5). -/
opaque profileFn : Nat → Nat → F32 → F32

/-- SHA-256 as published (R317, uninterpreted: log entry 6). -/
opaque sha256 : List Byte → BitVec 256

/-- SHA-384 as published (R317, uninterpreted: log entry 6). -/
opaque sha384 : List Byte → BitVec 384

/-- HMAC-SHA-256 of a BASE_ID under a base key: KEY_CHECK of R323 (log entry 6). -/
opaque keyCheck : BitVec 256 → BitVec 256 → BitVec 256

/-- HKDF with SHA-384 (R317): key, information word, derived 256-bit key (log entry 6). -/
opaque hkdf : BitVec 256 → Nat → BitVec 256

/-- The ECDSA P-384 signature (r then s) of the identity, attestation or card key over the bytes signed (log entry 6). -/
opaque ecdsaSign : Nat → List Byte → BitVec 768

/-- The conditioned output of the random source: draw number `k` (R320, log entry 6). -/
opaque randomBits : Nat → BitVec 256

/-- A public session key, uncompressed P-384, of a session's random draw (R322, log entry 6). -/
opaque ecdhPublic : BitVec 256 → BitVec 776

/-- AES-256-GCM ciphertext and tag of a payload under a key and a nonce (R317, log entry 6). -/
opaque gcmSeal : BitVec 256 → BitVec 96 → List Byte → List Byte

/-- The certificate chain of the meter card in DER form and of the attestation key (R322, R383; contents not given). -/
opaque certificate : Nat → List Byte

/-- The stack of bits a capacitor-backed field holds that the manual gives no value for (serial numbers, MAC addresses,
local queue-pair numbers), by an index (log entry 7). -/
opaque identityWord : Nat → Nat

/-- The home slice of a shared-cache line by its frame address: the hash of R203 (log entry 8). -/
opaque homeSlice : Nat → Nat

/-- The set of a line in its slice by its frame address: one of 49,152, by a hash the manual does not give (log entry 8). -/
opaque cacheSet : Nat → Nat

/-- The AES-256-XTS ciphertext of a 64-byte line under a region's data key pair, with the line's DUA as tweak (R212, log entry 6). -/
opaque lineCipher : BitVec 512 → Nat → List Byte → List Byte

/-- The 56-bit MAC of a line: tag key, DUA, key generation, ciphertext (R212, R317, log entry 6). -/
opaque lineMac : BitVec 256 → Nat → Nat → List Byte → BitVec 56

/-- The data key pair and the tag key of memory outside every region (log entry 14). -/
opaque outsideDataKey : BitVec 512

/-- The same for the tag key (log entry 14). -/
opaque outsideTagKey : BitVec 256

/-- Bytes of a destination range that an ABORTED COPY, FILL or collective leaves undefined (R272): draw number, address (log entries 43, 56 and 87). -/
opaque abortedByte : Nat → Nat → Byte

/-- Bytes 0 to 296 of a key/value entry the forward sweep writes (R43): draw number, address. The network between the tiles is not
in the manual (log entry 19). -/
opaque kvByte : Nat → Nat → Byte

/-- The DUA where firmware places a slot's region: kind 0 an inference slot, 1 a waxing slot, and its number (R205: in pinned pages
the manual does not number; log entry 33). -/
opaque slotPlace : Nat → Nat → Nat

/-- Where firmware places a table in pinned MODULE pages: 0 the rerun table, 1 the detour table, 2 the deadline table, 3 the peer table, 4 the
group table, 5 the page tables of the slots, 6 the placement table (R115, R205, R223, R236, R258, R396, R421; log entry 33). -/
opaque tablePlace : Nat → Nat

/-- The pages of memory space where firmware places the page map, the tables, the slots, the banks and the checkpoints: pinned MODULE pages (R205;
log entry 33). -/
opaque modulePages : List Nat

/-- The first page of the lift window (R205, R206; log entry 33). -/
opaque windowPage : Nat

/-- The shard of a base that holds a DUA of its weights: BASE_ID, DUA (R218; where the shards lie in memory space is not in the manual: log entry
37). -/
opaque baseShardAt : BitVec 256 → Nat → Nat

/-- Bytes of DRAM that firmware reserves for the base (R206, R436: the reservation is not in the manual; log entry 37). -/
opaque baseShare : Nat

/-- The byte of the base with this identity at a vault offset (R218: the base's contents are not in the manual; log entry 37). -/
opaque baseByte : BitVec 256 → Nat → Byte

/-- The chimney table as its 4 KiB spell it: each node with its children (R241; the layout is not in the manual: log entry 38). -/
opaque chimneyTable : List Byte → List (Nat × List Nat)

/-- The DER or 512-byte forms the manual fixes only by reference are cut to this length by the model where a length is
needed; a free number (log entry 6). -/
opaque measure : Nat → BitVec 384

/-- Bytes of an image's state block (R299: its layout is not in the manual; log entry 49). -/
opaque stateBlockBytes : Nat → Nat

/-- The ciphertext bytes of an image's chunks and manifest (R299; free: log entry 49): draw number, offset. -/
opaque imageByte : Nat → Nat → Byte

/-- One 16-byte entry of a restore's remap list (R302: the places of its five fields are not in the manual; log entry 49). -/
opaque remapEntry : Nat → Nat → Nat → Nat → Nat → BitVec 128

/-- The main rail's voltage in units of 0.1 V at a microsecond (R441: a sensor; log entry 50). -/
opaque inputDv : Nat → Nat

/-- The millijoules of an energy window that a loss of the standby rail cuts short (R382: a measurement; log entry 50). -/
opaque windowMj : Nat → Nat

/-- A byte of an entry of the site map, the sealed tile list or the fabric routes (R421: their entry layouts are not in the manual; log entry
58): what is loaded (a BASE_ID or the SEQ of the settings), table, entry, byte. -/
opaque tableByte : BitVec 256 → Nat → Nat → Nat → Byte

/-- One value of the BF16 side row of an outlier channel (R52, R81: each matrix has its own; where a base holds them is not in the manual): BASE_ID,
layer, the matrix by the DUA of its weights, channel, column of the matrix (log entry 141). -/
opaque sideRow : BitVec 256 → Nat → Nat → Nat → Nat → BitVec 16

/-- The source of a staging fill in progress at a hearth at a microsecond: 0 none, 1 scratch, 2 load path, 3 transposing read port (R97: a fill lands
whole in the model; log entry 95). -/
opaque fillSource : Nat → Nat → Nat

end Sys2Proof.Config
end

