-- ==== Sys2Proof/Machine/AMap.lean ====
section
/-!
DEFINITION. Sparse maps as plain data: a list of (key, value) pairs in one canonical form, keys strictly rising and no entry
equal to what an unlisted key reads as. Memory, register words, slots and every other numbered collection of State are such.
-/

namespace Sys2Proof.Machine

/-- A sparse map; the value of an unlisted key is given at each read. -/
abbrev AMap (α : Type) := List (Nat × α)

/-- The value of a key, `d` when it is not listed. -/
def AMap.get {α : Type} (d : α) (m : AMap α) (k : Nat) : α :=
  match m with
  | [] => d
  | (k', v) :: t => if k' = k then v else AMap.get d t k

/-- The value of a key, if it is listed. -/
def AMap.find {α : Type} (m : AMap α) (k : Nat) : Option α :=
  match m with
  | [] => none
  | (k', v) :: t => if k' = k then some v else AMap.find t k

/-- The map without the keys lo to lo + n - 1. -/
def AMap.delRange {α : Type} (m : AMap α) (lo n : Nat) : AMap α := m.filter (fun e => !(decide (lo ≤ e.1) && decide (e.1 < lo + n)))

/-- The map without a key. -/
def AMap.del {α : Type} (m : AMap α) (k : Nat) : AMap α := m.filter (fun e => e.1 != k)

/-- A new key put in its place. -/
def AMap.ins {α : Type} (k : Nat) (v : α) : AMap α → AMap α
  | [] => [(k, v)]
  | (k', v') :: t => if k < k' then (k, v) :: (k', v') :: t else (k', v') :: AMap.ins k v t

/-- The map with the value of one key changed; a value equal to the unlisted one removes the entry. -/
def AMap.put {α : Type} [DecidableEq α] (d : α) (m : AMap α) (k : Nat) (v : α) : AMap α :=
  if v = d then AMap.del m k else AMap.ins k v (AMap.del m k)

/-- The canonical form. -/
def AMap.wf {α : Type} [DecidableEq α] (d : α) (m : AMap α) : Bool :=
  decide (m.Pairwise (fun a b => a.1 < b.1)) && m.all (fun e => decide (e.2 ≠ d))

/-- The values put at consecutive keys. -/
def AMap.putList {α : Type} [DecidableEq α] (d : α) (m : AMap α) (k : Nat) : List α → AMap α
  | [] => m
  | v :: vs => AMap.putList d (AMap.put d m k v) (k + 1) vs

/-- The values of `n` consecutive keys. -/
def AMap.getList {α : Type} (d : α) (m : AMap α) (k : Nat) : Nat → List α
  | 0 => []
  | n + 1 => AMap.get d m k :: AMap.getList d m (k + 1) n

/-- Every listed value changed by a function of key and value. -/
def AMap.mapAll {α : Type} [DecidableEq α] (d : α) (f : Nat → α → α) (m : AMap α) : AMap α :=
  m.foldl (fun acc e => AMap.put d acc e.1 (f e.1 (AMap.get d m e.1))) m

end Sys2Proof.Machine
end

