-- ==== Sys2Proof/Machine/State.lean ====
section
/-!
DEFINITION. The state of the module as plain data: everything 00_scope.md to 17_power_up_and_module.md name, with the queue of
waiting commands. Numbered collections are sparse maps whose unlisted members hold their reset values.
-/

namespace Sys2Proof.Machine

/-- The block has no fault outcome: every stop, trap and refusal the manual describes is an effect on State (R272, R275,
R341, R414). Nobody raises a fault. -/
inductive Fault
deriving DecidableEq, Repr

/-- Why a command has no meaning. -/
inductive Refusal
  /-- The command's meaning is not written (safe). -/
  | notModelled (mnemonic : String)
deriving DecidableEq, Repr

/-- The answer the originating interface gets to the last access (R6, R7, R349, R395, R400); the error response of a read carries 0xFFFF_FFFF, that of
a write nothing. -/
inductive Reply
  | none
  | ok
  | data (bytes : List Byte)
  | errorResponse (bytes : List Byte)
  | fenced
  | refused (reason : Nat)
  | tagFail
  | nak
deriving DecidableEq, Repr

/-- What the module sends out of itself, in order of sending, the newest first. -/
inductive Output
  | msix (vector : Nat)
  | flit (link : Nat) (f : Flit)
  | credit (link vc n : Nat)
  | quarantine (fabric : Nat) (epoch : Word)
  | prepared (group step : Nat) (digest : BitVec 256)
  | outcome (group step : Nat) (commit : Bool)
  | outcomeAck (group step : Nat)
  | outcomeQuery (group step : Nat)
  | outcomeAnswer (rank group step : Nat) (known : Option Bool)
  | chunkForward (child shard : Nat) (bad : Bool)
  | chunkRequest (shard : Nat)
  | collective (op group vc : Nat) (bytes : List Byte)
  | stage (rank layer : Nat) (gradient : Bool)
  | rdmaRead (port raddr : Nat) (rkey : Word) (bytes : Nat)
  | rdmaWrite (port raddr : Nat) (rkey : Word) (bytes : List Byte)
  | nak (port : Nat)
  | answer (port : Nat) (bytes : List Byte)
  | keyTransfer (fabric kind : Nat) (sealed : List Byte)
  | reading (bytes : List Byte)
  | rink (fabric status reason : Nat) (abandoned : Bool)
  | barrier (n fabric status : Nat)
  | baseLoadIssued
deriving DecidableEq, Repr

/-! ## The part (R1, R14, R418) -/

/-- The order code's grade and vault, the fused hearths, and the identity words. -/
structure PartInfo where
  grade60 : Bool
  vault64 : Bool
  fused : List Nat
  serial : BitVec 64
  slotId : BitVec 4
deriving DecidableEq, Repr

/-! ## Register pages (R408 to R415) -/

/-- A page's common header (R409), with what a check in progress and held writes need (R410 to R413). -/
structure PageHdr where
  enableBit : Bool := false
  freeze : Bool := false
  world : Bool := false
  enabled : Bool := false
  refused : Bool := false
  fenced : Bool := false
  checking : Option (List (Nat × Word)) := none
  heldCtrl : List Word := []
  fenceEnable : Bool := false
  apply : List (Nat × Word) := []
  stopping : Bool := false
  reason : BitVec 16 := 0
  evStat : Word := 0
  evEn : Word := 0
  semPart : BitVec 6 := 0
  semDom : BitVec 8 := 0
  semEpoch : Word := 0
  semHeld : Bool := false
  semAband : Bool := false
deriving DecidableEq, Repr

/-! ## Memory (R191 to R217) -/

/-- A line's metadata: its key generation, its MAC, and its poison marker (R211, R214). -/
structure LineMeta where
  gen : Nat := 0
  mac : BitVec 56 := 0
  poison : Bool := false
deriving DecidableEq, Repr

/-- A page-map entry (R194). -/
structure PageEnt where
  frame : Nat := 0
  tier : Nat := 0
  owner : Nat := 0
  valid : Bool := false
  pinned : Bool := false
  migrating : Bool := false
  accessed : Bool := false
  idle : Nat := 0
  secure : Bool := false
  readOnly : Bool := false
  modulePinned : Bool := false
deriving DecidableEq, Repr

/-- A migration in progress (R198): its target tier and frame, and how many of its 32 chunks are copied; the next one is being copied. -/
structure Migr where
  tier : Nat
  frame : Nat
  copied : Nat := 0
deriving DecidableEq, Repr

/-- A cached translation (R196). -/
structure Tlb where
  who : Nat
  page : Nat
  tier : Nat
  frame : Nat
deriving DecidableEq, Repr

/-- A line of the shared cache (R203): its slice, its set, the way it lies in, its page's owner, and its address. -/
structure CacheLine where
  slice : Nat
  set : Nat
  way : Nat
  owner : Nat
  line : Nat
deriving DecidableEq, Repr

/-- A prefetch stream of a hearth's load path (R204): the last line read and how many consecutive reads led to it. -/
structure Stream where
  line : Nat
  run : Nat
deriving DecidableEq, Repr

/-- Memory space: bytes as plaintext, line metadata, page map, migrations, the pages whose promotion is called for (R197), translation caches, shared
cache, prefetch streams. -/
structure Mem where
  bytes : AMap Byte := []
  lines : AMap LineMeta := []
  pmap : AMap PageEnt := []
  migr : AMap Migr := []
  wanted : List Nat := []
  tlb : List Tlb := []
  cache : List CacheLine := []
  streams : AMap (List Stream) := []
deriving DecidableEq, Repr

/-- Memory is in its canonical form: bytes, line metadata and page map list their keys in rising order and no entry equal to what an unlisted one
reads as. -/
abbrev Mem.wf (m : Mem) : Prop := AMap.wf 0 m.bytes = true ∧ AMap.wf {} m.lines = true ∧ AMap.wf {} m.pmap = true

/-! ## Queues and records (R260 to R288) -/

inductive QSt
  | disabled
  | running
  | stopped
deriving DecidableEq, Repr

/-- A command queue (R261, R264, R279, R284): state, generation, pointers, expected SEQ, the high part of a v3 SEQ, a disable
that waits for started commands, and the pending doorbell bit. -/
structure Queue where
  st : QSt := .disabled
  gen : Nat := 1
  head : Word := 0
  tail : Word := 0
  expSeq : Option Nat := none
  seqHi : Nat := 0
  closing : Bool := false
  bell : Bool := false
  taken : Nat := 0
  ended : Nat := 0
deriving DecidableEq, Repr

/-- Where a started command stands: taken and checked; accepted by its opcode and waiting for a later event; done and waiting for its
end (COMMAND_END). -/
inductive Phase
  | taken
  | waiting
  | running
deriving DecidableEq, Repr

/-- A command an engine has taken from a queue and not yet ended (R265, R273): `aux` is the length of its destination while it runs, `data` the
records an export will write at its end. -/
structure Started where
  page : Nat
  eng : Nat
  q : Nat
  seq : Nat
  tag : Nat
  opcode : Nat
  notify : Bool
  quiet : Bool
  fenceBit : Bool
  cookie : Nat
  budget : Nat
  start : Nat
  ops : List Byte
  phase : Phase := .taken
  aux : Nat := 0
  data : List (List Byte) := []
deriving DecidableEq, Repr

/-- A completion record before it is laid out (R270). -/
structure CRec where
  kind : Nat
  status : Nat
  reason : Nat := 0
  opcode : Nat := 0
  queue : Nat := 0
  seq : Nat := 0
  tag : Nat := 0
  part : Nat
  cookie : Nat := 0
  elapsed : Nat := 0
  result : List Byte := []
  notify : Bool := false
deriving DecidableEq, Repr

/-- An error record before it is laid out (R275). -/
structure ERec where
  kind : Nat
  status : Nat
  reason : Nat := 0
  opcode : Nat := 0
  queue : Nat := 0
  seq : Nat := 0
  tag : Nat := 0
  part : Nat
  cookie : Nat := 0
  time : Nat := 0
  dua : Nat := 0
  id : Nat := 0
  idGen : Nat := 0
  wax : Nat := 0
  fabric : Nat := 0
  detail : Nat := 0
deriving DecidableEq, Repr

/-- Records held for a page whose ring is full or whose page is not ENABLED (R274, R276). -/
structure HeldRecs where
  comp : List CRec := []
  err : List ERec := []
deriving DecidableEq, Repr

/-! ## Sequences (R104 to R119) -/

inductive SlotSt
  | free
  | joining
  | decoding
  | suspended
  | faulted
deriving DecidableEq, Repr

/-- A join descriptor (R109). -/
structure JoinDesc where
  wax : Nat := 0
  train : Bool := false
  pfx : Bool := false
  noLogprob : Bool := false
  seed : BitVec 64 := 0
  promptLen : Nat := 0
  maxNew : Nat := 0
  promptDua : Nat := 0
  temp : BF16 := 0
  topP : BF16 := 0
  topK : Nat := 0
  keyGen : Nat := 0
  group : Nat := 0
  pfxDua : Nat := 0
  pfxTokens : Nat := 0
  stops : List Word := []
deriving DecidableEq, Repr

/-- The JOIN command's identity, carried into the JOINED and LEFT records (R270), and its DESC_DUA (R275). -/
structure JoinId where
  queue : Nat := 0
  seq : Nat := 0
  tag : Nat := 0
  cookie : Nat := 0
  dua : Nat := 0
deriving DecidableEq, Repr

/-- A key/value page of a sequence (R115): its DUA and whether it is SHARED. -/
structure KvPage where
  dua : Nat := 0
  shared : Bool := false
deriving DecidableEq, Repr

/-- A trace record (R169). -/
structure Trace where
  token : Word
  logprob : F32
  version : Nat
  detour : Bool
  prompt : Bool
deriving DecidableEq, Repr

/-- A sequence slot (R104, R107). -/
structure Slot where
  gen : Nat := 1
  st : SlotSt := .free
  owner : Nat := 0
  d : JoinDesc := {}
  jid : JoinId := {}
  done : Nat := 0
  made : Nat := 0
  lastToken : Word := 0
  pinned : Nat := 0
  version : Nat := 0
  inf : Option Nat := none
  lastVersion : Nat := 0
  wasJoining : Bool := false
  bank : Bool := false
  resumeAt : Bool := false
  pages : AMap KvPage := []
  hold : Option Nat := none
  trace : List Trace := []
  tracePages : List Nat := []
  order : Nat := 0
deriving DecidableEq, Repr

/-- A park-queue entry (R111, R147): its partition, descriptor, JOIN and the fetch it waits for. -/
structure Park where
  part : Nat
  d : JoinDesc
  jid : JoinId
  fetch : Option Nat
deriving DecidableEq, Repr

/-! ## Holds, groups, cohorts, banks (R166 to R188) -/

inductive HoldSt
  | free
  | held
  | grouped
  | ready
  | forward
  | sweep
deriving DecidableEq, Repr

/-- A hold entry (R168 to R170). -/
structure Hold where
  gen : Nat := 1
  st : HoldSt := .free
  reserved : Bool := false
  owner : Nat := 0
  wax : Nat := 0
  temp : BF16 := 0
  group : Nat := 0
  pfxTokens : Nat := 0
  pfxDua : Nat := 0
  pages : AMap KvPage := []
  trace : List Trace := []
  tracePages : List Nat := []
  since : Nat := 0
  left : Option Nat := none
  reward : F32 := 0
  baseline : F32 := 0
  adv : F32 := 0
  rowsRun : Nat := 0
  detoured : List Nat := []
  order : Nat := 0
  expired : Bool := false
deriving DecidableEq, Repr

/-- A group instance (R171). -/
structure GroupInst where
  part : Nat
  wax : Nat
  group : Nat
  isOpen : Bool
  members : List Nat
deriving DecidableEq, Repr

/-- A cohort (R177, R179): hold entries in placement order and the rows promised. -/
structure Cohort where
  entries : List Nat := []
  rows : Nat := 0
deriving DecidableEq, Repr

/-- A gradient bank (R182). -/
structure Bank where
  vals : AMap F32 := []
  lossTokens : Nat := 0
  sequences : Nat := 0
  cohorts : Nat := 0
  clipped : Nat := 0
  lossSum : F32 := 0
  klSum : F32 := 0
  sat : Nat := 0
  nan : Nat := 0
deriving DecidableEq, Repr

/-- A training configuration (R166). -/
structure TrainCfg where
  wax : Nat := 0
  lossEntry : Nat := 0
  keepDetour : Bool := false
  clipTrain : Bool := false
  manual : Bool := false
  groupSize : Nat := 0
  stepCohorts : Nat := 1
  maxLag : Nat := 0
  lrScale : F32 := 0
  lrOffset : F32 := 0
  lrClip : F32 := 0
  beta1 : F32 := 0
  beta2 : F32 := 0
  eps : F32 := 0
  decay : F32 := 0
  maxGnorm : F32 := 0
  minTokens : Nat := 0
  replicaGroup : Nat := 0
deriving DecidableEq, Repr

/-- An inference slot's state (R143, R152, R154). -/
inductive InfSt
  | free
  | filling
  | landed
  | valid
  | reserved
deriving DecidableEq, Repr

/-- An inference slot (R143). -/
structure InfSlot where
  gen : Nat := 1
  st : InfSt := .free
  owner : Nat := 0
  wax : Nat := 0
  version : Nat := 0
  rcd : WaxRec := {}
  lastStride : Nat := 0
  evictMark : Bool := false
  poisoned : Bool := false
deriving DecidableEq, Repr

/-- A waxing slot (R143, R146, R182): the training state of a wax, its banks, its reserved inference slot. -/
structure WaxingSlot where
  gen : Nat := 1
  used : Bool := false
  ready : Bool := false
  owner : Nat := 0
  wax : Nat := 0
  cfg : TrainCfg := {}
  rcd : WaxRec := {}
  old : Option Nat := none
  reservedSlot : Option Nat := none
  bank : Bank := {}
  flight : Option Bank := none
  stepAsked : Bool := false
  untrain : Option (Nat × Nat × Nat × Nat) := none
  cohorts : Nat := 0
  dirty : Bool := false
  outcome : Option Bool := none
  stepOpen : Bool := false
deriving DecidableEq, Repr

/-! ## Fetches and the store (R147 to R156) -/

inductive FetchKind
  | first
  | train
  | refresh
deriving DecidableEq, Repr

inductive FetchSt
  | waitTag
  | missHeld
  | miss
  | waitStart
  | transfer
deriving DecidableEq, Repr

/-- What a remote transfer reads or writes over a port: the port, the remote address, its key and the bytes (R149, R400 to R402). -/
structure Remote where
  port : Nat
  raddr : Nat
  rkey : Word
  bytes : Nat
deriving DecidableEq, Repr

/-- A fetch (R147 to R152). -/
structure Fetch where
  id : Nat
  part : Nat
  wax : Nat
  version : Nat
  kind : FetchKind
  st : FetchSt
  tag : Option (Nat × Nat) := none
  since : Nat := 0
  left : Option Nat := none
  remote : Option Remote := none
  slot : Option Nat := none
  cmd : Option (Nat × Nat × Nat × Nat) := none
  load : Option (Nat × Nat × Nat × Nat) := none
  retried : Bool := false
deriving DecidableEq, Repr

/-- A save of a waxing wax's full record (R155). -/
structure Save where
  wax : Nat
  rcd : WaxRec
  begun : Bool
deriving DecidableEq, Repr

/-- An overlay entry (R161). -/
structure Overlay where
  part : Nat := 0
  valid : Bool := false
  base : Nat := 0
  units : Nat := 0
  repl : Nat := 0
deriving DecidableEq, Repr

/-- The wax engine: fetches, tag generations, rotation pointers, the local store, saves and overlays. -/
structure WaxEng where
  fetches : List Fetch := []
  tagGen : AMap Nat := []
  nextId : Nat := 0
  rotTag : Nat := 0
  rotStart : Nat := 0
  store : AMap WaxRec := []
  inUse : Nat := 0
  reservedFrames : List Nat := []
  saves : List Save := []
  overlay : AMap Overlay := []
  overlayForce : AMap Overlay := []
deriving DecidableEq, Repr

/-! ## Strides (R100 to R129, R176 to R181) -/

inductive StrideSt
  | idle
  | assemble
  | forward
  | sweep
  | sample
  | boundary
  | paused
deriving DecidableEq, Repr

inductive RowKind
  | decode
  | prompt
  | train
deriving DecidableEq, Repr

/-- Rows of a stride: one decode row, one prompt chunk, or one training forward row, with its wax binding (R89, R102). -/
structure Rows where
  kind : RowKind
  id : Nat
  pos : Nat
  n : Nat
  wax : Nat
  version : Nat
  inf : Option Nat
  detour : Bool := false
deriving DecidableEq, Repr

/-- A sampled token before its record is written (R121). -/
structure Sample where
  slot : Nat
  gen : Nat
  token : Word
  logprob : F32
  pos : Nat
  wax : Nat
  version : Nat
  trunc : Bool
  nanLogit : Bool
  detour : Bool
  first : Bool
  moved : Bool
deriving DecidableEq, Repr

/-- A request that takes effect at a boundary (R101, R107, R170). -/
inductive ReqKind
  | leave
  | suspend
  | resume
  | reward (reward baseline : F32) (drop : Bool)
  | groupClose (wax group : Nat)
deriving DecidableEq, Repr

structure BReq where
  kind : ReqKind
  target : Nat
  gen : Nat
  cmd : Nat × Nat × Nat × Nat
  late : Bool := false
deriving DecidableEq, Repr

/-- A tile descriptor (R269). -/
structure Tile where
  m16 : Nat
  n16 : Nat
  k16 : Nat
  mode : Nat
  report : Bool
  transposed : Bool
  siteBit : Bool
  layer : Nat
  site : Nat
  input : Nat
  weight : Nat
  inScale : Nat
  outScale : Nat
  inBuf : Nat
  outBuf : Nat
deriving DecidableEq, Repr

/-- The counts and the maximum one record collects in a stride (R46, R48). -/
structure RecCnt where
  sat : Nat := 0
  nan : Nat := 0
  clip : Nat := 0
  conv : Nat := 0
  amax : F32 := 0
  input : Bool := false
deriving DecidableEq, Repr

/-- One expert substitution or drop (R128): layer, row, missing expert, its replacement. -/
structure Detour where
  layer : Nat
  row : Nat
  missing : Nat
  repl : Option Nat
deriving DecidableEq, Repr

/-- A layer that waits under the WAIT policy (R128). -/
structure WaitLayer where
  layer : Nat
  since : Nat
  routes : List RowRoute
deriving DecidableEq, Repr

/-- A cut of ordered mode (R360): the tail of every SE and WX queue as it stood. -/
structure Cut where
  tails : List (Nat × Word)
deriving DecidableEq, Repr

/-- A row's loss coefficient kept with its checkpoint, with the loss and KL values of its token before any division (R175). -/
structure Coef where
  hold : Nat
  pos : Nat
  g : F32
  token : Word
  isLoss : Bool := false
  clipped : Bool := false
  loss : F32 := 0
  kl : F32 := 0
deriving DecidableEq, Repr

/-- A set of experts kept for one row at one layer (R128, R178): the row's number among the entry's rows. -/
structure KeptExperts where
  layer : Nat
  row : Nat
  experts : List Nat
deriving DecidableEq, Repr

/-- A row's BF16 input at a checkpoint layer (R178): the row's number among the entry's rows. -/
structure CkptIn where
  layer : Nat
  row : Nat
  vals : List BF16
deriving DecidableEq, Repr

/-- The checkpoints of one row entry of training forward rows (R57, R178): the entry with its bindings, its stride, and the SCALE values, rerun
decisions and expert sets of that stride; `moved` once the copy engine has put them in the sequence-parallel mapping (R179). -/
structure Ckpt where
  rows : Rows
  stride : Nat
  scales : AMap Nat := []
  reruns : List Nat := []
  experts : List KeptExperts := []
  inputs : List CkptIn := []
  moved : Bool := false
deriving DecidableEq, Repr

/-- An FP32 value of one element of one row of the sweeping cohort: layer, site or input-tensor index, channel. -/
structure SweepElem where
  row : Nat
  layer : Nat
  place : Nat
  ch : Nat
  v : F32
deriving DecidableEq, Repr

/-- Conversions already counted in a stride (R54, R57): the conversion, the record, layer, input tensor, row and block of 128 positions. -/
structure ConvKey where
  conv : Nat
  rcd : Nat
  layer : Nat
  input : Nat
  row : Nat
  block : Nat
deriving DecidableEq, Repr

/-- The progress of a tile in a stride (R77 to R79): which tile and whether in a rerun, the rows of each row group, the passes closed as (N-chunk, row
group, K-chunk), and the hearths that ran them, in order. -/
structure Run where
  fromSealed : Bool
  tile : Nat
  rerun : Bool
  groups : List (List Nat)
  passes : List (Nat × Nat × Nat) := []
  hearths : List Nat := []
  complete : Bool := false
deriving DecidableEq, Repr

/-- The sum so far of a result that several passes make (R86): layer, output buffer, row, first column. -/
structure Combine where
  layer : Nat
  buf : Nat
  row : Nat
  col : Nat
  vals : List F32
deriving DecidableEq, Repr

/-- Codes and scale bytes of the four-bit key/value form that the drain made for a row at a layer, from value `at_` of the entry on (R43, R44). -/
structure KvPart where
  layer : Nat
  row : Nat
  at_ : Nat
  codes : List Nat
  scales : List Nat
deriving DecidableEq, Repr

/-- A partition's stride engine context (R99, R100). -/
structure Se where
  st : StrideSt := .idle
  num : Nat := 0
  start : Nat := 0
  asmAt : Nat := 0
  cohortMax : Nat := 32768
  rows : List Rows := []
  samples : List Sample := []
  cnts : AMap RecCnt := []
  layer : Nat := 0
  layerSat : Nat := 0
  layerConv : Nat := 0
  gradCnt : AMap (Nat × Nat) := []
  bankUndo : List (Nat × Bank) := []
  reruns : List Nat := []
  rerunActive : Bool := false
  detours : List Detour := []
  waitLayers : List WaitLayer := []
  pageWait : Bool := false
  ringWait : Bool := false
  meterWait : Bool := false
  bStage : Nat := 0
  pauseLate : Bool := false
  freezeLate : Bool := false
  resizeLate : Bool := false
  landedStride : Bool := false
  tokensOut : Bool := false
  phase : Nat := 0
  collecting : Cohort := {}
  sweeping : Cohort := {}
  coefs : List Coef := []
  ckpts : List Ckpt := []
  ckptIns : List CkptIn := []
  experts : List KeptExperts := []
  scales : AMap Nat := []
  convDone : List ConvKey := []
  weightReads : List (Nat × Nat × Nat) := []
  runs : List Run := []
  combine : List Combine := []
  kvParts : List KvPart := []
  kvRec : AMap Nat := []
  sweepStep : Nat := 0
  gradReruns : List Nat := []
  siteX : List SweepElem := []
  clipped : List SweepElem := []
  logitGrads : List SweepVec := []
  carry : List SweepVec := []
  carryUndo : Option (List SweepVec) := none
  passed : List SweepElem := []
  reqs : List BReq := []
  program : List Tile := []
  newProgram : Option (List Tile × Option Layout) := none
  layout : Option Layout := none
  ordered : Bool := false
  profile : Nat := 0
  cuts : List Cut := []
  cutBound : Option (List (Nat × Word)) := none
  groups : List GroupInst := []
  heldSteps : List (List Byte) := []
  cycles0 : Nat := 0
  weighted : List (Nat × Nat) := []
deriving DecidableEq, Repr

/-! ## Hearths (R64 to R98) -/

/-- A wax-cache line (R91): its tag, whether its fill has landed, and the scale and offset high halves it holds from then on. -/
structure WaxLine where
  slot : Nat
  version : Nat
  layer : Nat
  site : Nat
  group : Nat
  landed : Bool := false
  scales : List BF16 := []
  offsets : List BF16 := []
deriving DecidableEq, Repr

/-- The pass a front brings in (R64, R76, R77): its tile with the stored form of the weights and the mode it runs in, its chunks and the rows of its row
group, the tensors it reads and writes, and the conversion of its input: 0 forward activation, 1 gradient, 2 and 3 the same in a rerun, 4 and 5 a
recompute's forward activation, in FP8 and in BF16 (R38, R55, R57). -/
structure PassHdr where
  part : Nat
  fromSealed : Bool
  tile : Nat
  layer : Nat
  stored : Nat
  mode : Nat
  transposed : Bool
  k : Nat
  n : Nat
  kch : Nat
  nch : Nat
  grp : Nat
  rows : List Nat
  weight : Nat
  input : Nat
  site : Option Nat
  inRec : Nat
  outRec : Nat
  outBuf : Nat
  conv : Nat
  outs : List Nat
deriving DecidableEq, Repr

/-- What a staging slot holds (R64, R81): per column and reduction position the weight's code and its scale byte (127 where the form has none), and the
side rows of the pass, one for each of its outlier channels. -/
structure StageData where
  hdr : PassHdr
  codes : List (List Nat)
  scales : List (List Nat)
  side : List (List BF16)
deriving DecidableEq, Repr

/-- A row in an accumulator: its column sums and side sums so far, the K-chunks issued and those summed (R77, R81, R84). -/
structure RowSums where
  cols : List F32 := []
  side : List F32 := []
  issued : List Nat := []
  summed : List Nat := []
deriving DecidableEq, Repr

/-- One of a hearth's two accumulators, as long as its row group is in flight (R77, R92, R94): tile, chunk and group it serves, the rows still to be
written, their wax lines, and whether PREFETCH was set when the group began. -/
structure Accum where
  fromSealed : Bool
  tile : Nat
  conv : Nat
  nch : Nat
  grp : Nat
  rows : List Nat
  lines : List WaxLine
  prefetch : Bool
  sums : AMap RowSums := []
deriving DecidableEq, Repr

/-- The column sums of an issued vector on their way to the drain (R66). -/
structure PendSum where
  row : Nat
  hdr : PassHdr
  cols : List F32
deriving DecidableEq, Repr

/-- A result in a hearth's scratch (R85 D6): its layer, the buffer, the row, the first column, and its bytes. -/
structure ScratchEnt where
  layer : Nat
  buf : Nat
  row : Nat
  col : Nat
  data : List Byte
deriving DecidableEq, Repr

/-- A hearth. -/
structure Hearth where
  pass : Option StageData := none
  issued : Nat := 0
  stage0 : Option StageData := none
  stage1 : Option StageData := none
  nextSlot : Bool := false
  frontBand : Option Nat := none
  stageWait : Bool := false
  table0 : Nat := 0
  table1 : Nat := 0
  codes0 : List Nat := []
  codes1 : List Nat := []
  accs : List Accum := []
  drainIn : List PendSum := []
  scratch : List ScratchEnt := []
  vregs : List F32 := []
  lines : List WaxLine := []
  stalled : Bool := false
  fold0 : Word := 0
  fold1 : Word := 0
  tally : Nat := 0
  owner : Option Nat := none
  transit : Option Nat := none
  failed : Bool := false
  fails : List Nat := []
deriving DecidableEq, Repr

/-! ## Partitions (R289 to R309) -/

inductive InstSt
  | disabled
  | enabled
  | freezing
  | frozen
  | saving
  | restoring
  | ashing
deriving DecidableEq, Repr

/-- A map or unmap request in progress (R306). -/
structure MapReq where
  page : Nat
  left : Nat
  unmap : Bool
  pinned : Bool
  readOnly : Bool
deriving DecidableEq, Repr

/-- The values of a partition in force (R290, R293): quotas, hearths wanted (logical), PASIDs, accounts. -/
structure PtForce where
  seq : Nat := 0
  inf : Nat := 0
  wxs : Nat := 0
  frames : Nat := 0
  hearths : List Nat := []
  pasids : List Nat := []
  accts : List Nat := []
deriving DecidableEq, Repr

/-- An instance image (R299): header fields and the state block. -/
structure Image where
  part : Nat := 0
  format : Nat := 1
  manifest : BitVec 256 := 0
  wrap : Nat := 0
  dbg : Bool := false
  fwVersion : Nat := 0
  base : BitVec 256 := 0
  siteMap : Nat := 0
  pages : List (Nat × PageEnt) := []
  bytes : AMap Byte := []
  regs : AMap Word := []
  hdrs : AMap PageHdr := []
  se : Se := {}
  queues : AMap Queue := []
  slots : AMap Slot := []
  holds : AMap Hold := []
  infs : AMap InfSlot := []
  wxs : AMap WaxingSlot := []
  parks : List Park := []
  overlays : AMap Overlay := []
deriving DecidableEq, Repr

/-- A partition (R294). -/
structure Pt where
  st : InstSt := .disabled
  cur : PtForce := {}
  resize : Option PtForce := none
  shrinking : List Nat := []
  freezeAt : Nat := 0
  freezeLeft : Option Nat := none
  map : Option MapReq := none
  ashAt : Nat := 0
  ashFenced : Bool := false
  imgAt : Nat := 0
deriving DecidableEq, Repr

/-! ## The base and the lift (R206 to R221, R436) -/

/-- A window buffer (R206, R207): the layer it holds, the experts its fill reads, those that have landed, and what it is held for: 0 a forward sweep, 1 the
recompute, 2 the gradient step; none: it is free, its contents standing until the next fill. -/
structure WinBuf where
  layer : Nat
  need : List Nat
  landed : List Nat
  claim : Option Nat
deriving DecidableEq, Repr

/-- A chimney shard in arrival (R243): chunks seen and whether it was asked for again. -/
structure Arriving where
  shard : Nat
  chunks : Nat
  again : Bool
deriving DecidableEq, Repr

/-- The vault, the loaded base and the lift. -/
structure Lift where
  installed : Option Manifest := none
  written : List Nat := []
  base : Option Manifest := none
  streamed : Bool := false
  bad : List Nat := []
  retried : List Nat := []
  bufs : List WinBuf := []
  blocked : Bool := false
  dl : AMap Nat := []
  dlAt : Nat := 0
  patrolPos : Nat := 0
  patrolOn : Bool := false
  patrolAt : Nat := 0
  patrolLate : Bool := false
  openInstall : Bool := false
  passed : List Nat := []
  scaleFF : List Nat := []
  instBusy : Bool := false
  instLeft : List Nat := []
  winLayers : Nat := 4
  peerLanded : List (Nat × Nat) := []
  arriving : List Arriving := []
  rewriting : List Nat := []
deriving DecidableEq, Repr

/-! ## Fabric (R225 to R259) -/

/-- A channel of a link (R226, R228): credits held, flits sent whose credit has not come back, and flits held in this module's receive buffer. -/
structure Chan where
  held : Nat := 0
  flight : Nat := 0
  buf : Nat := 0
deriving DecidableEq, Repr

inductive LinkSt
  | down
  | training
  | up
deriving DecidableEq, Repr

/-- A flow at the receiver (R229): the next sequence number, and the early flits held, each with the link whose buffer holds it. -/
structure Flow where
  src : Nat
  vc : Nat
  stream : Nat
  next : BitVec 24
  early : List (Nat × Flit)
deriving DecidableEq, Repr

/-- A flow at the sender (R229): the sequence number its next flit takes. -/
structure TxFlow where
  dst : Nat
  vc : Nat
  stream : Nat
  next : BitVec 24
deriving DecidableEq, Repr

/-- A flit in a link's replay buffer, with the microsecond it was last sent in (R229). -/
structure Sent where
  flit : Flit
  at_ : Nat
deriving DecidableEq, Repr

/-- A flit that waits to leave; `numbered` once it has its flow sequence number, as one has that another link lost (R230). -/
structure Waiting where
  flit : Flit
  numbered : Bool := false
deriving DecidableEq, Repr

/-- A flue link: its channels, replay buffer and waiting flits; the channel whose turn it is and what is left of its share (R227); the flits VC0 sent in
its last microsecond (R226); the microsecond of the last flit seen (R230). -/
structure Link where
  st : LinkSt := .down
  degraded : Bool := false
  k4 : Bool := false
  peer : Nat := 0
  chans : AMap Chan := []
  replay : List Sent := []
  queue : List Waiting := []
  turn : Nat := 1
  share : Nat := 0
  vc0At : Nat := 0
  vc0Sent : Nat := 0
  lastRx : Nat := 0
deriving DecidableEq, Repr

/-- What GROUP_SET gives a group (R245). -/
structure GroupSpec where
  size : Nat
  rank : Nat
  dua : Nat
  members : List Nat
  digest : BitVec 256
deriving DecidableEq, Repr

/-- A collective group (R245); `slot` is its entry's place in the group table, which firmware's table leaves to the module. -/
structure Group where
  id : Nat := 0
  gen : Nat := 0
  size : Nat := 0
  rank : Nat := 0
  members : List Nat := []
  digest : BitVec 256 := 0
  dua : Nat := 0
  slot : Nat := 0
  next : Option GroupSpec := none
deriving DecidableEq, Repr

/-- An open step of two-phase commit (R249 to R252). -/
structure Commit where
  group : Nat
  gen : Nat
  wax : Nat
  part : Nat
  step : Nat
  digest : BitVec 256
  since : Nat
  prepared : List (Nat × BitVec 256)
  asked : Bool := false
  coordDead : Bool := false
deriving DecidableEq, Repr

/-- A rink barrier in progress (R240): its member list and the members that have arrived. -/
structure Barrier where
  members : List Nat := []
  arrived : List Nat := []
deriving DecidableEq, Repr

/-- A rink operation of another module that waits for tokens (R240, R344). -/
structure RinkWait where
  src : Nat
  epoch : Word
  sem : Nat
  count : Nat
  part : Nat
deriving DecidableEq, Repr

/-- The fabric state of the module. -/
structure Fabric where
  links : AMap Link := []
  flows : List Flow := []
  delivered : List Flit := []
  peers : AMap Word := []
  groups : AMap Group := []
  commits : List Commit := []
  outcomes : List (Nat × Nat × Bool) := []
  quarantined : Bool := false
  txFlows : List TxFlow := []
  barriers : AMap Barrier := []
  rinkWaits : List RinkWait := []
deriving DecidableEq, Repr

/-! ## The rink (R343 to R346) -/

/-- A rink semaphore (R343); `ledger` is the sum that VALUE and HELD keep by law 3 of R367. -/
structure Sem where
  value : Nat := 0
  held : Nat := 0
  hPart : Nat := 0
  hDom : Nat := 0
  hEpoch : Word := 0
  aband : Bool := false
  part : Nat := 63
  owned : Bool := false
  ledger : Int := 0
deriving DecidableEq, Repr

/-! ## The firebox (R310 to R334) -/

inductive TrngSt
  | off
  | health
  | condition
  | ready
  | failed
deriving DecidableEq, Repr

/-- A key of the firebox key table (R318): generation of its index, whether it is an export key, its account, the key, and the debug state it
was sealed under (R329). -/
structure KeyEnt where
  gen : Nat := 1
  used : Bool := false
  outKey : Bool := false
  account : Nat := 0
  key : BitVec 256 := 0
  dbg : Bool := false
deriving DecidableEq, Repr

/-- A session (R322). -/
structure Session where
  since : Nat := 0
  key : BitVec 256 := 0
deriving DecidableEq, Repr

/-- A region, with its data key pair and its tag key (R315, R317). -/
structure Region where
  base : Nat := 0
  pages : Nat := 0
  owner : Nat := 0
  valid : Bool := false
  secure : Bool := false
  keygen : Nat := 1
  filling : Bool := false
  dataKey : BitVec 512 := 0
  tagKey : BitVec 256 := 0
deriving DecidableEq, Repr

/-- The firebox: `posted` holds when each request that waits in its ring was posted (R321), `block` the keys wrapped in the vault's key block (R326),
`wrapped` the base key there (R324). -/
structure Fbx where
  trng : TrngSt := .off
  bits : Nat := 0
  readyUs : Nat := 0
  startAt : Nat := 0
  draws : Nat := 0
  attKey : Option (BitVec 256) := none
  keys : AMap KeyEnt := []
  sessions : AMap (Option Session) := []
  regions : AMap Region := []
  baseKey : Option (BitVec 256) := none
  wrapped : Option (BitVec 256) := none
  unlocked : Bool := false
  lockFuse : Bool := true
  floors : List Nat := [0, 0, 0, 0]
  svns : List Nat := [0, 0, 0, 0]
  posted : List Nat := []
  imageKeys : List Nat := []
  block : AMap KeyEnt := []
  wrappedDbg : Bool := false
  unlockWaits : Bool := false
deriving DecidableEq, Repr

/-! ## The management controller (R335 to R354, R424 to R442) -/

/-- A reset in progress (R337, R338): the domain, its cause, when the fence closed, and its phase (1 fencing, 2 in reset). -/
structure Rst where
  dom : Nat
  cause : Nat
  at_ : Nat
  phase : Nat
deriving DecidableEq, Repr

inductive BankSt
  | normal
  | banking
  | banked
  | adopting
deriving DecidableEq, Repr

/-- The management controller with its flash (R350), rails and power-up sequence (R428). -/
structure Mc where
  running : Bool := false
  booting : Bool := false
  bootAt : Nat := 0
  recovery : Bool := false
  recoveryDone : Bool := false
  slotB : Bool := false
  active : Bool := false
  committedA : Bool := true
  committedB : Bool := false
  tries : Nat := 0
  fallback : Nat := 0
  imgA : FwImage := { sigOk := true, reads := [0] }
  imgB : FwImage := { sigOk := true, reads := [0] }
  sa0 : Settings := { digestOk := true }
  sa1 : Settings := {}
  bundle : Bundle := {}
  loaded : Bool := false
  sbOk : Bool := false
  mainOk : Bool := false
  step : Nat := 0
  failStep : Nat := 0
  stopped : Bool := false
  vaultMounted : Bool := false
  ready : Bool := false
  mainPermit : Bool := false
  faultAt : Nat := 0
  mainOff : Bool := false
  tripHold : Bool := false
  vfPoint : Nat := 0
  coolMs : Nat := 0
  watts : Nat := 0
  tj : Nat := 0
  inlet : Nat := 0
  flow : Nat := 0
  bank : BankSt := .normal
  bankCause : Nat := 0
  railLost : Bool := false
  lastHb : Nat := 0
  ticksAligned : Bool := false
  tickFailed : Nat := 0
  late : List (Nat × Nat × Nat × Nat) := []
deriving DecidableEq, Repr

/-! ## The meter card (R372 to R388) -/

/-- An account's counters (R373). -/
structure Acct where
  gen : Nat := 0
  trained : Nat := 0
  cycles : Nat := 0
  energy : Nat := 0
deriving DecidableEq, Repr

/-- One account's part of a stride report (R374, R375). -/
structure RepLine where
  account : Nat
  tokens : Nat
  trained : Nat
  cycles : Nat
deriving DecidableEq, Repr

/-- A stride report (R374): its partition, the stride's token records and training rows, the lines, and the grate-cycles left over. -/
structure Report where
  part : Nat
  tokens : Nat
  trained : Nat
  lines : List RepLine
  rest : Nat
deriving DecidableEq, Repr

/-- The meter card and the meter interface; `out` while the card is out of its connector. -/
structure Meter where
  present : Bool := false
  alloc : List Nat := []
  accts : AMap Acct := []
  unattr : Acct := {}
  total : Nat := 0
  window : List (Nat × Nat) := []
  windowRest : Nat := 0
  outOfClass : Bool := false
  oocWindows : Nat := 0
  lossWindow : Bool := false
  sealBroken : Bool := false
  tampers : Nat := 0
  fwChanges : Nat := 0
  fwVersion : Nat := 0
  auditFaults : Nat := 0
  auditLate : List Nat := []
  auditSeen : AMap Nat := []
  oocSeen : AMap Nat := []
  readingSeq : Nat := 0
  held : List Report := []
  out : Bool := false
  snap : AMap Nat := []
deriving DecidableEq, Repr

/-! ## Host and network (R389 to R407, R415, R419) -/

/-- A placement entry (R396). -/
structure Place where
  base : Nat := 0
  len : Nat := 0
  rid : Nat := 0
  valid : Bool := false
  rd : Bool := false
  wr : Bool := false
  expt : Bool := false
  anyRid : Bool := false
  pasidEn : Bool := false
  owner : Nat := 0
  pasid : Nat := 0
deriving DecidableEq, Repr

/-- A connection of a port (R400, R406). -/
structure Conn where
  ip : List Word := [0, 0, 0, 0]
  qpn : Nat := 0
  valid : Bool := false
  pmtu : Nat := 5
  prio : Nat := 3
deriving DecidableEq, Repr

/-- The last SEQ served on a port's MGMT connection and its stored answer (R404). -/
structure MgmtSt where
  seq : Option Word := none
  answer : List Byte := []
deriving DecidableEq, Repr

/-- The host interface and the network ports. -/
structure HostSt where
  linkUp : Bool := false
  training : Bool := false
  mode : Nat := 0
  width : Nat := 0
  fenced : Bool := false
  place : AMap Place := []
  conns : AMap Conn := []
  mgmt : AMap MgmtSt := []
  intmap : AMap Word := []
  msix : AMap Word := []
  pba : AMap Bool := []
  netUp : AMap Nat := []
  pushes : AMap (Option (Nat × Remote)) := []
deriving DecidableEq, Repr

/-- The doorbell queues of the five engines (R283, R284): the queues whose doorbell event waits, oldest first, at most 64 each;
and the turns of R266: the page and the queue served last at each engine and priority, one higher (0: none yet). -/
structure EvQ where
  bells : AMap (List Nat) := []
  turnPage : AMap Nat := []
  turnQ : AMap Nat := []
deriving DecidableEq, Repr

/-- The state of the module. The last five fields are the model's own: the clock's place in time, the free-choice counter, the
answer to the last access, what was sent out, and the commands waiting. -/
structure State where
  part : PartInfo
  regs : AMap Word
  force : AMap Word
  pages : AMap PageHdr
  latch : AMap Word
  tbData : List Byte
  mem : Mem
  queues : AMap Queue
  started : List Started
  held : AMap HeldRecs
  evq : EvQ
  se : AMap Se
  slots : AMap Slot
  parks : List Park
  holds : AMap Hold
  infs : AMap InfSlot
  wxs : AMap WaxingSlot
  wx : WaxEng
  hearths : AMap Hearth
  pts : AMap Pt
  images : List Image
  lift : Lift
  fab : Fabric
  sems : AMap Sem
  fbx : Fbx
  mc : Mc
  up : List Nat
  epochs : AMap Word
  resets : List Rst
  meter : Meter
  host : HostSt
  holdSeq : Nat
  nowUs : Nat
  freeCtr : Nat
  reply : Reply
  out : List Output
  pending : List Instr
deriving DecidableEq, Repr

/-! ## Reset -/

/-- The loss table of table-bundle version 1 (R445): FP32 codes of 0.2, 0.28, 0.001, 10^-6, 3.0, 0.01 and 5.0. -/
def lossTable1 : List LossEnt :=
  [{}, { baseline := 1 }, { baseline := 2, norm := 1 },
   { kind := 1, baseline := 1, epsLow := 0x3E4CCCCD, epsHigh := 0x3E8F5C29 },
   { kind := 1, baseline := 3, klKind := 2, epsLow := 0x3E4CCCCD, epsHigh := 0x3E4CCCCD, klCoef := 0x3A83126F, stdEps := 0x358637BD },
   { kind := 2, baseline := 3, epsLow := 0x3E4CCCCD, epsHigh := 0x3E4CCCCD, dualC := 0x40400000, stdEps := 0x358637BD },
   { kind := 1, baseline := 2, norm := 1, klKind := 1, epsLow := 0x3E4CCCCD, epsHigh := 0x3E4CCCCD, klCoef := 0x3C23D70A },
   { kind := 1, baseline := 1, epsLow := 0x3E4CCCCD, epsHigh := 0x3E8F5C29, ratioMax := 0x40A00000 },
   {}, {}, {}, {}, {}, {}, {}, {}]

/-- The voltage and frequency curve of the model's bundle: entry 0 at 1,600 MHz as R432 says; the other contents are the
model's (DESIGN CHOICE, log entry 11). -/
def vfTable1 : List VfEnt :=
  (List.range 32).map (fun i => { mhz := 1600 - 38 * i, mv := 800 - 10 * i, tjMax := 105, valid := true })

/-- The table bundle the flash holds (R421, R445; what the manual does not print is the model's: log entry 11). -/
def bundle1 : Bundle := { loss := lossTable1, vf := vfTable1, profiles := [1] }

/-- The module before the standby rail has come up for the first time (R428): nothing runs, memory lists nothing, every
numbered collection is at its Reset column. The order code is KMA5-64L-V64 (log entry 12). -/
def State.reset : State where
  part := { grade60 := false, vault64 := true, fused := [], serial := 0, slotId := 0 }
  regs := []
  force := []
  pages := []
  latch := []
  tbData := []
  mem := {}
  queues := []
  started := []
  held := []
  evq := {}
  se := []
  slots := []
  parks := []
  holds := []
  infs := []
  wxs := []
  wx := {}
  hearths := []
  pts := []
  images := []
  lift := {}
  fab := {}
  sems := []
  fbx := {}
  mc := { bundle := bundle1 }
  up := []
  epochs := []
  resets := []
  meter := {}
  host := {}
  holdSeq := 0
  nowUs := 0
  freeCtr := 0
  reply := .none
  out := []
  pending := []

end Sys2Proof.Machine
end

