-- ==== Sys2Proof/Machine/Regs.lean ====
section
/-!
DEFINITION. The register window: pages (R408), the registers that hold a value of their own with their access masks, reset
values and checked fields (the register tables of every chapter), and reading and writing such words.
-/

namespace Sys2Proof.Machine

/-- The kinds of page of R408. -/
inductive Kind
  | mc | fb | fq | mt | mq | hi | np | ms | lf | wx | cl | cp | rk | tb | fl | qd | die | ht | se | pt | qpm | qp | mb
deriving DecidableEq, Repr

/-- The page at a page index (window offset ÷ 0x1000), with its number among its kind (R408). -/
def kindOf (page : Nat) : Option (Kind × Nat) :=
  match page with
  | 0 => some (.mc, 0)
  | 1 => some (.fb, 0)
  | 2 => some (.fq, 0)
  | 3 => some (.mt, 0)
  | 4 => some (.mq, 0)
  | 5 => some (.hi, 0)
  | 6 => some (.np, 0)
  | 7 => some (.np, 1)
  | 8 => some (.ms, 0)
  | 9 => some (.lf, 0)
  | 10 => some (.wx, 0)
  | 11 => some (.cl, 0)
  | 12 => some (.cp, 0)
  | 13 => some (.rk, 0)
  | 14 => some (.tb, 0)
  | _ =>
    if 0x10 ≤ page && page < 0x20 then some (.fl, page - 0x10)
    else if 0x20 ≤ page && page < 0x28 then some (.qd, page - 0x20)
    else if 0x28 ≤ page && page < 0x2A then some (.die, page - 0x28)
    else if 0x40 ≤ page && page < 0x80 then some (.ht, page - 0x40)
    else if 0x80 ≤ page && page < 0xA0 then some (.se, page - 0x80)
    else if 0xA0 ≤ page && page < 0xC0 then some (.pt, page - 0xA0)
    else if page = 0x100 then some (.qpm, 0)
    else if 0x110 ≤ page && page < 0x130 then some (.qp, page - 0x110)
    else if 0x130 ≤ page && page < 0x150 then some (.mb, page - 0x130)
    else none

def pgMC : Nat := 0
def pgFB : Nat := 1
def pgFQ : Nat := 2
def pgMT : Nat := 3
def pgMQ : Nat := 4
def pgHI : Nat := 5
def pgNP (n : Nat) : Nat := 6 + n
def pgMS : Nat := 8
def pgLF : Nat := 9
def pgWX : Nat := 10
def pgCL : Nat := 11
def pgCP : Nat := 12
def pgRK : Nat := 13
def pgTB : Nat := 14
def pgFL (n : Nat) : Nat := 0x10 + n
def pgQD (n : Nat) : Nat := 0x20 + n
def pgDIE (n : Nat) : Nat := 0x28 + n
def pgHT (n : Nat) : Nat := 0x40 + n
def pgSE (p : Nat) : Nat := 0x80 + p
def pgPT (p : Nat) : Nat := 0xA0 + p
def pgQPM : Nat := 0x100
/-- The page of a queue page number: 0 to 31 QPp, 32 QPM (R260). -/
def pgQP (p : Nat) : Nat := if p < 32 then 0x110 + p else pgQPM
def pgMB (p : Nat) : Nat := 0x130 + p

/-- BLOCK_ID.TYPE (R408). -/
def Kind.type (k : Kind) : Nat :=
  match k with
  | .mc => 0x01 | .fb => 0x02 | .fq => 0x03 | .mt => 0x04 | .mq => 0x05 | .hi => 0x06 | .np => 0x07 | .ms => 0x08
  | .lf => 0x09 | .wx => 0x0A | .cl => 0x0B | .cp => 0x0C | .rk => 0x0D | .tb => 0x0E | .fl => 0x10 | .qd => 0x11
  | .die => 0x12 | .ht => 0x20 | .se => 0x21 | .pt => 0x22 | .qpm => 0x24 | .qp => 0x23 | .mb => 0x25

/-- A register that holds a value: offset in its page, writable bits, bits a 1 clears (W1C and RWS), reset value, bits checked at
ENABLE (R410), and whether it carries SEC (R8). -/
structure Reg where
  off : Nat
  rw : Word
  rst : Word := 0
  chk : Word := 0
  sec : Bool := false
  clr : Word := 0
deriving DecidableEq, Repr

def allOnes : Word := 0xFFFFFFFF

/-- A run of `n` counter words (64-bit counters, RW, reset 0: R97, R409). -/
def counterRegs (off n : Nat) (sec : Bool) : List Reg :=
  (List.range n).map (fun i => { off := off + 4 * i, rw := allOnes, sec := sec })

/-- A checked register, all of its writable bits checked. -/
def chkReg (off : Nat) (mask rst : Word) : Reg := { off := off, rw := mask, rst := rst, chk := mask }

/-- The registers of a page kind beyond the header, from the register tables of the chapters. Counters in the header words are
in `headerCounters`. A dash in a Reset column stands here as 0 (DESIGN CHOICE, log entry 9). -/
def regsOf (k : Kind) : List Reg :=
  match k with
  | .se =>
    [chkReg 0x040 0x7FFF7FFF 0x4000, chkReg 0x044 allOnes 1000000, { off := 0x054, rw := 1 }] ++ counterRegs 0x058 10 false ++
    [chkReg 0x088 allOnes 0, chkReg 0x08C allOnes 0, chkReg 0x090 0x1F 0, chkReg 0x098 allOnes 0, chkReg 0x09C allOnes 0,
     chkReg 0x0A0 0x1F 0] ++ counterRegs 0x0C0 12 false ++
    [chkReg 0x0F0 0x7FFF 0, chkReg 0x0F4 allOnes 600000, chkReg 0x0FC 0x1FFFF 32768, chkReg 0x108 allOnes 0,
     chkReg 0x10C allOnes 0, chkReg 0x110 0x1F 0, { off := 0x120, rw := 0xFFFF0001, rst := 0x00010000 }]
  | .ht => [{ off := 0x050, rw := 1, rst := 1 }] ++ counterRegs 0x058 6 false
  | .wx =>
    [{ off := 0x040, rw := 0x000103FF, rst := 512, chk := 0x3FF }, chkReg 0x044 allOnes 100000] ++ counterRegs 0x058 6 false ++
    [chkReg 0x070 allOnes 0, chkReg 0x074 allOnes 0, chkReg 0x078 0x1F 0, { off := 0x080, rw := 0, clr := 3 }]
  | .ms =>
    [{ off := 0x040, rw := 0x0FFFFFFF, rst := 0x00040040 }, { off := 0x04C, rw := 0, clr := 1 }, { off := 0x058, rw := allOnes },
     { off := 0x05C, rw := allOnes }] ++ (List.range 33).map (fun i => chkReg (0x07C + 4 * i) allOnes 0)
  | .lf =>
    [chkReg 0x040 0x1F 4, { off := 0x044, rw := 0xFFFF07FF, rst := 0x07D00708, chk := 0x7FF }, { off := 0x060, rw := allOnes },
     { off := 0x064, rw := allOnes }, { off := 0x068, rw := 0xFFFFFF }, { off := 0x06C, rw := 0xFFFFFF }]
  | .fl =>
    [chkReg 0x044 0xFFF 0x124, { off := 0x048, rw := 0, clr := 0xF }, { off := 0x04C, rw := 1, sec := true },
     { off := 0x050, rw := allOnes, sec := true, chk := allOnes }]
  | .cl =>
    [{ off := 0x040, rw := 0x7FFF, sec := true }, { off := 0x044, rw := allOnes, sec := true }, chkReg 0x048 allOnes 10000,
     chkReg 0x04C allOnes 2000, { off := 0x068, rw := allOnes, rst := 20000 }]
  | .qp =>
    [{ off := 0x040, rw := 0, clr := 1 }, chkReg 0x600 allOnes 0, chkReg 0x604 allOnes 0, chkReg 0x608 0x1F 0, { off := 0x610, rw := allOnes },
     chkReg 0x620 allOnes 0, chkReg 0x624 allOnes 0, chkReg 0x628 0x1F 0, { off := 0x630, rw := allOnes }, { off := 0x644, rw := allOnes },
     { off := 0x648, rw := allOnes }, { off := 0x654, rw := allOnes }]
  | .qpm =>
    [{ off := 0x040, rw := 0, clr := 1 }, chkReg 0x600 allOnes 0, chkReg 0x604 allOnes 0, chkReg 0x608 0x1F 0, { off := 0x610, rw := allOnes },
     chkReg 0x620 allOnes 0, chkReg 0x624 allOnes 0, chkReg 0x628 0x1F 0, { off := 0x630, rw := allOnes }, { off := 0x65C, rw := allOnes }]
  | .pt =>
    [chkReg 0x040 allOnes 0, chkReg 0x044 allOnes 0, chkReg 0x048 0x1FFF 0, chkReg 0x04C 0x3FFF 0, chkReg 0x050 0x7FF 0,
     chkReg 0x054 0x7FFFF 0, chkReg 0x058 0x800FFFFF 0, chkReg 0x05C 0x800FFFFF 0, chkReg 0x060 0x800FFFFF 0, chkReg 0x064 0x800FFFFF 0,
     chkReg 0x068 allOnes 0, chkReg 0x06C allOnes 0, chkReg 0x070 0x7F 0, { off := 0x07C, rw := 1 }, { off := 0x080, rw := allOnes },
     { off := 0x084, rw := allOnes }, chkReg 0x090 allOnes 1000, { off := 0x098, rw := allOnes }, { off := 0x09C, rw := allOnes },
     { off := 0x0A0, rw := 0x0031FFFF }, chkReg 0x0A8 3 0]
  | .hi =>
    [{ off := 0x044, rw := 0xFFFF }, chkReg 0x048 allOnes 0, chkReg 0x04C allOnes 0, chkReg 0x050 0x7FFFFF 0, { off := 0x058, rw := allOnes },
     { off := 0x05C, rw := allOnes }, { off := 0x060, rw := 0x00010FFF }, { off := 0x080, rw := 0x3FFF }]
  | .np =>
    [{ off := 0x050, rw := allOnes }, { off := 0x054, rw := allOnes }, { off := 0x058, rw := allOnes }, { off := 0x05C, rw := allOnes },
     { off := 0x060, rw := 3 }, { off := 0x080, rw := allOnes }, { off := 0x084, rw := allOnes }, { off := 0x088, rw := allOnes },
     { off := 0x08C, rw := 0xFFF }, { off := 0x090, rw := allOnes }, { off := 0x094, rw := allOnes }, { off := 0x098, rw := allOnes },
     { off := 0x09C, rw := allOnes }]
  | .fq => [chkReg 0x040 allOnes 0, chkReg 0x044 allOnes 0, chkReg 0x048 0x1F 0, { off := 0x04C, rw := allOnes }]
  | .mq =>
    [chkReg 0x040 allOnes 0, chkReg 0x044 allOnes 0, chkReg 0x048 0x1F 0, { off := 0x04C, rw := allOnes }, { off := 0x060, rw := allOnes }]
  | .mc =>
    [{ off := 0x100, rw := 0xFF }, chkReg 0x10C 0xFFFF 100, { off := 0x114, rw := 0xFFFF0001, rst := 0x01F40000, chk := 0xFFFF0000 },
     { off := 0x118, rw := 0, clr := 0x40 }, { off := 0x11C, rw := 2 }] ++ counterRegs 0x130 4 false ++ [{ off := 0x184, rw := 0xFFF, rst := 2400 }]
  | .rk => [{ off := 0x040, rw := 0x3FFF }, { off := 0x054, rw := 0, clr := 1 }]
  | .mt => [{ off := 0x040, rw := 0, clr := 1 }]
  | .tb => [{ off := 0x040, rw := 0xFF }, { off := 0x044, rw := 0xFFFF }]
  | .mb => [{ off := 0x040, rw := allOnes }, { off := 0x044, rw := allOnes }, { off := 0x048, rw := allOnes }, { off := 0x04C, rw := allOnes }]
  | .fb => []
  | .cp => []
  | .qd => []
  | .die => []

/-- The four counters of the header (R409); reserved on MQ, SEC on FB and MT (R332, R387). -/
def headerCounters (k : Kind) : List Reg :=
  match k with
  | .mq => []
  | .fb => counterRegs 0x020 8 true
  | .mt => counterRegs 0x020 4 true ++ counterRegs 0x030 4 false
  | _ => counterRegs 0x020 8 false

/-- The register at an offset of a page kind, if it holds a value. -/
def regAt (k : Kind) (off : Nat) : Option Reg :=
  (headerCounters k ++ regsOf k).find? (fun r => r.off == off)

/-- The key of a register word: its window offset ÷ 4. -/
def regKey (page off : Nat) : Nat := page * 0x400 + off / 4

/-- The reset value of the word at an offset of a page (R11). -/
def rstAt (page off : Nat) : Word :=
  match kindOf page with
  | none => 0
  | some (k, _) => match regAt k off with | some r => r.rst | none => 0

/-! ## Whole fields -/

def State.setHoldSeq (s : State) (x : Nat) : State := { s with holdSeq := x }
def State.setParks (s : State) (x : List Park) : State := { s with parks := x }
def State.setFreeCtr (s : State) (x : Nat) : State := { s with freeCtr := x }
def State.setPages (s : State) (x : AMap PageHdr) : State := { s with pages := x }
def State.setLatch (s : State) (x : AMap Word) : State := { s with latch := x }
def State.setSes (s : State) (x : AMap Se) : State := { s with se := x }
def State.setStarted (s : State) (x : List Started) : State := { s with started := x }
def State.setEvq (s : State) (x : EvQ) : State := { s with evq := x }
def State.setWxs (s : State) (x : AMap WaxingSlot) : State := { s with wxs := x }
def State.setUp (s : State) (x : List Nat) : State := { s with up := x }
def State.setOut (s : State) (x : List Output) : State := { s with out := x }
def State.setResets (s : State) (x : List Rst) : State := { s with resets := x }
def State.setEpochs (s : State) (x : AMap Word) : State := { s with epochs := x }
def State.setHolds (s : State) (x : AMap Hold) : State := { s with holds := x }
def State.setSlots (s : State) (x : AMap Slot) : State := { s with slots := x }
def State.setInfs (s : State) (x : AMap InfSlot) : State := { s with infs := x }
def State.setQueues (s : State) (x : AMap Queue) : State := { s with queues := x }
def State.setHearths (s : State) (x : AMap Hearth) : State := { s with hearths := x }
def State.setNowUs (s : State) (x : Nat) : State := { s with nowUs := x }
def State.setImages (s : State) (x : List Image) : State := { s with images := x }

/-- The word a register holds: what software wrote last, or the hardware. -/
def State.rd (s : State) (page off : Nat) : Word := AMap.get (rstAt page off) s.regs (regKey page off)

/-- The value in force of a register (R410): differs from `rd` only while a checked field of an enabled block is pending. -/
def State.frc (s : State) (page off : Nat) : Word := AMap.get (rstAt page off) s.force (regKey page off)

/-- A word written, in force at once. -/
def State.wr (s : State) (page off : Nat) (v : Word) : State :=
  { s with regs := AMap.put (rstAt page off) s.regs (regKey page off) v
           force := AMap.put (rstAt page off) s.force (regKey page off) v }

/-- A word written whose checked bits stay pending (R410). -/
def State.wrPending (s : State) (page off : Nat) (chk v : Word) : State :=
  { s with regs := AMap.put (rstAt page off) s.regs (regKey page off) v
           force := AMap.put (rstAt page off) s.force (regKey page off) ((s.frc page off &&& chk) ||| (v &&& ~~~chk)) }

/-- Only the value in force (a pending value taking effect). -/
def State.setForce (s : State) (page off : Nat) (v : Word) : State :=
  { s with force := AMap.put (rstAt page off) s.force (regKey page off) v }

/-- A low/high pair as a number (R6, R97). -/
def State.rd64 (s : State) (page off : Nat) : Nat := (s.rd page off).toNat + 2 ^ 32 * (s.rd page (off + 4)).toNat

def State.frc64 (s : State) (page off : Nat) : Nat := (s.frc page off).toNat + 2 ^ 32 * (s.frc page (off + 4)).toNat

def State.wr64 (s : State) (page off : Nat) (n : Nat) : State :=
  (s.wr page off (BitVec.ofNat 32 n)).wr page (off + 4) (BitVec.ofNat 32 (n / 2 ^ 32))

/-- A bit field [hi:lo] of a word. -/
def fld (w : Word) (hi lo : Nat) : Nat := (w.toNat / 2 ^ lo) % 2 ^ (hi + 1 - lo)

/-- A hardware increment of a 64-bit counter (R10, R97); the count is kept modulo 2^64 (DESIGN CHOICE, log entry 10). -/
def State.bump (s : State) (page off n : Nat) : State := if n = 0 then s else s.wr64 page off ((s.rd64 page off + n) % 2 ^ 64)

/-- The page header (R409). -/
def State.hdr (s : State) (page : Nat) : PageHdr := AMap.get {} s.pages page

def State.setHdr (s : State) (page : Nat) (h : PageHdr) : State := { s with pages := AMap.put {} s.pages page h }

/-! ## Members of the numbered collections -/

def State.seOf (s : State) (p : Nat) : Se := AMap.get {} s.se p
def State.setSe (s : State) (p : Nat) (x : Se) : State := { s with se := AMap.put {} s.se p x }
def State.slot (s : State) (n : Nat) : Slot := AMap.get {} s.slots n
def State.setSlot (s : State) (n : Nat) (x : Slot) : State := { s with slots := AMap.put {} s.slots n x }
def State.hold (s : State) (n : Nat) : Hold := AMap.get {} s.holds n
def State.setHold (s : State) (n : Nat) (x : Hold) : State := { s with holds := AMap.put {} s.holds n x }
def State.inf (s : State) (n : Nat) : InfSlot := AMap.get {} s.infs n
def State.setInf (s : State) (n : Nat) (x : InfSlot) : State := { s with infs := AMap.put {} s.infs n x }
def State.wxOf (s : State) (n : Nat) : WaxingSlot := AMap.get {} s.wxs n
def State.setWx (s : State) (n : Nat) (x : WaxingSlot) : State := { s with wxs := AMap.put {} s.wxs n x }
def State.hearth (s : State) (n : Nat) : Hearth := AMap.get {} s.hearths n
def State.setHearth (s : State) (n : Nat) (x : Hearth) : State := { s with hearths := AMap.put {} s.hearths n x }
def State.pt (s : State) (n : Nat) : Pt := AMap.get {} s.pts n
def State.setPt (s : State) (n : Nat) (x : Pt) : State := { s with pts := AMap.put {} s.pts n x }
def State.queue (s : State) (n : Nat) : Queue := AMap.get {} s.queues n
def State.setQueue (s : State) (n : Nat) (x : Queue) : State := { s with queues := AMap.put {} s.queues n x }
def State.sem (s : State) (n : Nat) : Sem := AMap.get {} s.sems n
def State.setSem (s : State) (n : Nat) (x : Sem) : State := { s with sems := AMap.put {} s.sems n x }
def State.link (s : State) (n : Nat) : Link := AMap.get {} s.fab.links n
def State.setLink (s : State) (n : Nat) (x : Link) : State := { s with fab := { s.fab with links := AMap.put {} s.fab.links n x } }
def State.region (s : State) (n : Nat) : Region := AMap.get {} s.fbx.regions n
def State.setRegion (s : State) (n : Nat) (x : Region) : State :=
  { s with fbx := { s.fbx with regions := AMap.put {} s.fbx.regions n x } }
def State.heldOf (s : State) (n : Nat) : HeldRecs := AMap.get {} s.held n
def State.setHeld (s : State) (n : Nat) (x : HeldRecs) : State := { s with held := AMap.put {} s.held n x }
def State.epoch (s : State) (d : Nat) : Word := AMap.get 1 s.epochs d
def State.setReply (s : State) (r : Reply) : State := { s with reply := r }
def State.emit (s : State) (o : Output) : State := s.setOut (o :: s.out)
def State.setMc (s : State) (x : Mc) : State := { s with mc := x }
def State.setLift (s : State) (x : Lift) : State := { s with lift := x }
def State.setFab (s : State) (x : Fabric) : State := { s with fab := x }
def State.setFbx (s : State) (x : Fbx) : State := { s with fbx := x }
def State.setMeter (s : State) (x : Meter) : State := { s with meter := x }
def State.setHost (s : State) (x : HostSt) : State := { s with host := x }
def State.setWax (s : State) (x : WaxEng) : State := { s with wx := x }
def State.setMem (s : State) (x : Mem) : State := { s with mem := x }

/-- A free choice of R-silence: an index below `n`, and the counter stepped (log entry 3). -/
def State.pick (s : State) (n : Nat) : Nat × State := (Config.choice s.freeCtr % n, (s.setFreeCtr (s.freeCtr + 1)))

/-- One member of a list freely chosen. -/
def State.pickOf (s : State) (l : List Nat) : Option Nat × State :=
  match l with
  | [] => (none, s)
  | x :: xs => let r := s.pick (xs.length + 1); (some ((x :: xs).getD r.1 x), r.2)

end Sys2Proof.Machine
end

