-- ==== Sys2Proof/Machine/Flags.lean ====
section
/-!
DEFINITION. Events, interrupts and refusals: the flags of a register page (R414, R415, R419) and the counter latches (R97).
-/

namespace Sys2Proof.Machine

/-- The vector-control word of MSI-X vector `v` masks it. The mask bits are 1 at reset, as the PCIe capability has them (PRESUMED, log
entry 13). -/
def State.msixMasked (s : State) (v : Nat) : Bool := (AMap.get 1 s.host.msix (4 * v + 3)).getLsbD 0

/-- One MSI-X message of a vector, or its pending bit (R415). -/
def State.sendVector (s : State) (v : Nat) : State :=
  if s.msixMasked v || !s.host.linkUp then s.setHost { s.host with pba := AMap.put false s.host.pba v true }
  else s.emit (.msix v)

/-- The page's interrupt message (R415) by the page's INTMAP entry (R419); EN = 0 sends none. -/
def State.sendMsi (s : State) (page : Nat) : State :=
  let e := AMap.get 0 s.host.intmap page
  if e.getLsbD 31 then s.sendVector (fld e 10 0) else s

/-- The interrupt condition of a page (R415). -/
def PageHdr.cond (h : PageHdr) : Bool := decide (h.evStat &&& h.evEn ≠ 0)

/-- Hardware sets event `bit` of a page; a message goes out when the condition rises (R415). -/
def State.raise (s : State) (page bit : Nat) : State :=
  let h := s.hdr page
  let h' := { h with evStat := h.evStat ||| BitVec.ofNat 32 (2 ^ bit) }
  let s' := s.setHdr page h'
  if !h.cond && h'.cond then s'.sendMsi page else s'

/-- A message again when a software write leaves the condition non-zero (R415). -/
def State.resend (s : State) (page : Nat) : State := if (s.hdr page).cond then s.sendMsi page else s

/-- A refused write or enable: REFUSED and REFUSE_REASON (R414). -/
def State.refuse (s : State) (page reason : Nat) : State :=
  s.setHdr page { s.hdr page with refused := true, reason := BitVec.ofNat 16 reason }

/-- The pending bits of unmasked vectors sent, once the link is up (R415). -/
def State.flushPba (s : State) : State :=
  if s.host.linkUp then
    s.host.pba.foldl (fun s e =>
      if s.msixMasked e.1 then s
      else (s.setHost { s.host with pba := AMap.put false s.host.pba e.1 false }).emit (.msix e.1)) s
  else s

/-- The latch of a counter, by the key of its low word (R97). -/
def State.latchOf (s : State) (page off : Nat) : Word := AMap.get 0 s.latch (regKey page off)

/-- A read of the low word copies the high word into the latch (R97). -/
def State.snapshot (s : State) (page off : Nat) : State :=
  s.setLatch (AMap.put 0 s.latch (regKey page off) (s.rd page (off + 4)))

/-- Is a page ENABLED (R409)? -/
def State.enabled (s : State) (page : Nat) : Bool := (s.hdr page).enabled

end Sys2Proof.Machine
end

