-- ==== Sys2Proof/Machine/Fp.lean ====
section
/-!
DEFINITION. The number formats of 02_numbers.md: decoding, rounding (R35 to R37), arithmetic with its counts (R33, R34, R443),
the coded formats and the moments (R39 to R44, R61 to R63), and the functions of the vector units (R120).
-/

namespace Sys2Proof.Machine

/-! ## Formats (R30) -/

/-- A floating format of R30: exponent and mantissa widths, bias, magnitude code of the largest finite value, the NaN code
written, and whether the all-ones exponent stands for infinities and NaNs. -/
structure Fmt where
  ebits : Nat
  mbits : Nat
  bias : Nat
  maxMag : Nat
  nanCode : Nat
  ieee : Bool
deriving DecidableEq, Repr

def fmtE4M3 : Fmt := ⟨4, 3, 7, 0x7E, 0x7F, false⟩
def fmtE5M2 : Fmt := ⟨5, 2, 15, 0x7B, 0x7F, true⟩
def fmtBF16 : Fmt := ⟨8, 7, 127, 0x7F7F, 0x7FC0, true⟩
def fmtFP32 : Fmt := ⟨8, 23, 127, 0x7F7FFFFF, 0x7FC00000, true⟩

/-- A decoded value: NaN, an infinity, or (-1)^neg × m × 2^e exactly. -/
inductive FVal
  | nan
  | inf (neg : Bool)
  | fin (neg : Bool) (m : Nat) (e : Int)
deriving DecidableEq, Repr

/-- Reading a code of a format (R30, R31: subnormals are values). -/
def Fmt.decode (f : Fmt) (code : Nat) : FVal :=
  let sgn := f.ebits + f.mbits
  let neg := code.testBit sgn
  let mag := code % 2 ^ sgn
  let ex := mag >>> f.mbits
  let ma := mag % 2 ^ f.mbits
  if f.ieee then
    if ex = 2 ^ f.ebits - 1 then (if ma = 0 then .inf neg else .nan)
    else if ex = 0 then .fin neg ma (1 - f.bias - f.mbits) else .fin neg (ma + 2 ^ f.mbits) ((ex : Int) - f.bias - f.mbits)
  else if mag = f.nanCode then .nan
  else if ex = 0 then .fin neg ma (1 - f.bias - f.mbits) else .fin neg (ma + 2 ^ f.mbits) ((ex : Int) - f.bias - f.mbits)

/-- 2^k of an integer exponent as a numerator. -/
def pow2Num (k : Int) : Nat := 2 ^ k.toNat

/-- 2^k of an integer exponent as a denominator. -/
def pow2Den (k : Int) : Nat := 2 ^ (-k).toNat

/-- The quotient rounded to the nearest integer, ties to the even one (R35). -/
def roundDiv (n d : Nat) : Nat :=
  let q := n / d
  let r := n % d
  if 2 * r < d then q else if d < 2 * r then q + 1 else if q % 2 = 0 then q else q + 1

/-- floor(log2(n / d)) for positive n and d. -/
def floorLog2 (n d : Nat) : Int :=
  let g : Int := (Nat.log2 n : Int) - Nat.log2 d
  if d * pow2Num g ≤ n * pow2Den g then g else g - 1

/-- The largest finite value of a format as a fraction. -/
def Fmt.maxFrac (f : Fmt) : Nat × Nat :=
  match f.decode f.maxMag with
  | .fin _ m e => (m * pow2Num e, pow2Den e)
  | _ => (0, 1)

/-- Rounding a non-negative fraction to a magnitude code (R35) with the saturation of R36. -/
def Fmt.roundMag (f : Fmt) (n d : Nat) : Nat × Bool :=
  if n = 0 then (0, false)
  else
    let mx := f.maxFrac
    if mx.1 * d < n * mx.2 then (f.maxMag, true)
    else
      let lo : Int := 1 - f.bias
      let e := max (floorLog2 n d) lo
      let qe := e - f.mbits
      let q := roundDiv (n * pow2Den qe) (d * pow2Num qe)
      (min f.maxMag ((e + f.bias - 1).toNat * 2 ^ f.mbits + q), false)

/-- The sign bit of a format put on a magnitude code. -/
def Fmt.signed (f : Fmt) (neg : Bool) (mag : Nat) : Nat := if neg then 2 ^ (f.ebits + f.mbits) + mag else mag

/-! ## Counts -/

/-- The counts a record takes (R45, R48): saturations, NaNs, elements clipped, elements converted. -/
structure Cnt where
  sat : Nat := 0
  nan : Nat := 0
  clip : Nat := 0
  conv : Nat := 0
deriving DecidableEq, Repr

def Cnt.add (a b : Cnt) : Cnt := ⟨a.sat + b.sat, a.nan + b.nan, a.clip + b.clip, a.conv + b.conv⟩

/-- An FP32 result with the counts of the operation that formed it. -/
structure FR where
  v : F32
  cnt : Cnt := {}
deriving DecidableEq, Repr

def f32NaN : F32 := 0x7FC00000
def f32Max (neg : Bool) : F32 := BitVec.ofNat 32 (fmtFP32.signed neg fmtFP32.maxMag)
def f32Zero (neg : Bool) : F32 := if neg then 0x80000000 else 0
def f32One : F32 := 0x3F800000
def f32Val (a : F32) : FVal := fmtFP32.decode a.toNat

/-- A conversion to a format (R33 to R37): code and counts, one conversion counted. -/
def Fmt.convert (f : Fmt) (a : F32) : Nat × Cnt :=
  match f32Val a with
  | .nan => (f.nanCode, { nan := 1, conv := 1 })
  | .inf neg => (f.signed neg f.maxMag, { sat := 1, conv := 1 })
  | .fin neg m e =>
    let r := f.roundMag (m * pow2Num e) (pow2Den e)
    (f.signed neg r.1, { sat := if r.2 then 1 else 0, conv := 1 })

/-- The FP32 rounding of an exact signed fraction (R35, R36). -/
def frOfFrac (neg : Bool) (n d : Nat) : FR :=
  let r := fmtFP32.roundMag n d
  ⟨BitVec.ofNat 32 (fmtFP32.signed neg r.1), { sat := if r.2 then 1 else 0 }⟩

/-- R443: no defined value. -/
def frUndef : FR := ⟨f32NaN, { nan := 1 }⟩

/-- R34: a NaN operand. -/
def frNaN : FR := ⟨f32NaN, {}⟩

/-- R33: the limit is infinite. -/
def frLimit (neg : Bool) : FR := ⟨f32Max neg, { sat := 1 }⟩

def f32IsNaN (a : F32) : Bool := f32Val a == .nan

def f32IsFinite (a : F32) : Bool := match f32Val a with | .fin .. => true | _ => false

def f32IsInf (a : F32) : Bool := match f32Val a with | .inf _ => true | _ => false

/-- Exact sum of two signed dyadic values as a signed fraction. -/
def addFrac (na : Bool) (ma : Nat) (ea : Int) (nb : Bool) (mb : Nat) (eb : Int) : Int × Int :=
  let e := min ea eb
  let x : Int := (ma * pow2Num (ea - e) : Nat)
  let y : Int := (mb * pow2Num (eb - e) : Nat)
  ((if na then -x else x) + (if nb then -y else y), e)

/-- FP32 addition under R35 with R32, R33, R34 and R443. -/
def fadd (a b : F32) : FR :=
  match f32Val a, f32Val b with
  | .nan, _ => frNaN
  | _, .nan => frNaN
  | .inf x, .inf y => if x = y then frLimit x else frUndef
  | .inf x, _ => frLimit x
  | _, .inf y => frLimit y
  | .fin na ma ea, .fin nb mb eb =>
    let s := addFrac na ma ea nb mb eb
    if s.1 = 0 then ⟨f32Zero (na && nb), {}⟩
    else frOfFrac (s.1 < 0) (s.1.natAbs * pow2Num s.2) (pow2Den s.2)

/-- The negative of an FP32 code (no rounding). -/
def fneg (a : F32) : F32 := if f32IsNaN a then f32NaN else a ^^^ 0x80000000

/-- The magnitude of an FP32 code. -/
def fabs (a : F32) : F32 := if f32IsNaN a then f32NaN else a &&& 0x7FFFFFFF

def fsub (a b : F32) : FR := fadd a (fneg b)

/-- FP32 multiplication. -/
def fmul (a b : F32) : FR :=
  match f32Val a, f32Val b with
  | .nan, _ => frNaN
  | _, .nan => frNaN
  | .inf x, .inf y => frLimit (x != y)
  | .inf x, .fin nb mb _ => if mb = 0 then frUndef else frLimit (x != nb)
  | .fin na ma _, .inf y => if ma = 0 then frUndef else frLimit (na != y)
  | .fin na ma ea, .fin nb mb eb => frOfFrac (na != nb) (ma * mb * pow2Num (ea + eb)) (pow2Den (ea + eb))

/-- FP32 division. -/
def fdiv (a b : F32) : FR :=
  match f32Val a, f32Val b with
  | .nan, _ => frNaN
  | _, .nan => frNaN
  | .inf _, .inf _ => frUndef
  | .inf x, .fin nb _ _ => frLimit (x != nb)
  | .fin na _ _, .inf y => ⟨f32Zero (na != y), { sat := 1 }⟩
  | .fin na ma ea, .fin nb mb eb =>
    if mb = 0 then (if ma = 0 then frUndef else frLimit (na != nb))
    else frOfFrac (na != nb) (ma * pow2Num (ea - eb)) (mb * pow2Den (ea - eb))

/-- The integer square root. -/
def isqrt (n : Nat) : Nat :=
  (List.range (Nat.log2 n / 2 + 1)).reverse.foldl (fun r i => if (r + 2 ^ i) * (r + 2 ^ i) ≤ n then r + 2 ^ i else r) 0

/-- FP32 square root, correctly rounded (R35, R443). -/
def fsqrt (a : F32) : FR :=
  match f32Val a with
  | .nan => frNaN
  | .inf neg => if neg then frUndef else frLimit false
  | .fin neg m e =>
    if m = 0 then ⟨f32Zero neg, {}⟩
    else if neg then frUndef
    else
      -- m × 2^e = n × 2^(2h) with n carrying 60 further bits; a last bit stands for what the root leaves over
      let h : Int := (if e % 2 = 0 then e else e - 1) / 2
      let n := (if e % 2 = 0 then m else 2 * m) * 2 ^ 60
      let r := isqrt n
      let q := 2 * r + (if r * r = n then 0 else 1)
      let k := h - 31
      frOfFrac false (q * pow2Num k) (pow2Den k)

/-- Multiplication by 2^k (R42, R47): rounds only outside the normal range. -/
def fscale (a : F32) (k : Int) : FR :=
  match f32Val a with
  | .nan => frNaN
  | .inf neg => frLimit neg
  | .fin neg m e => frOfFrac neg (m * pow2Num (e + k)) (pow2Den (e + k))

/-- A total key of the value of a code: its sign and magnitude as an integer; the two zeros are equal (callers rule NaN out). -/
def f32Key (a : F32) : Int :=
  let m : Int := ((a &&& 0x7FFFFFFF).toNat : Int)
  if a.getLsbD 31 then -m else m

/-- a ≤ b on non-NaN codes; false with a NaN. -/
def fle (a b : F32) : Bool := !f32IsNaN a && !f32IsNaN b && decide (f32Key a ≤ f32Key b)

def flt (a b : F32) : Bool := !f32IsNaN a && !f32IsNaN b && decide (f32Key a < f32Key b)

/-- The FP32 code of a whole number (rounded by R35). -/
def f32OfNat (n : Nat) : F32 := (frOfFrac false n 1).v

/-- BF16 widened exactly (R59, R87). -/
def bf16ToF32 (b : BF16) : F32 := b ++ (0 : BitVec 16)

/-- An E4M3 code as FP32, exactly. -/
def e4m3ToF32 (c : Nat) : F32 :=
  match fmtE4M3.decode c with
  | .fin neg m e => (frOfFrac neg (m * pow2Num e) (pow2Den e)).v
  | .inf neg => f32Max neg
  | .nan => f32NaN

/-! ## Sums (R53, R66) -/

/-- Adds two results' values, keeping every count. -/
def frPlus (a b : FR) : FR := let r := fadd a.v b.v; ⟨r.v, (a.cnt.add b.cnt).add r.cnt⟩

/-- A sum in list order. -/
def sumOrdered : List FR → FR
  | [] => ⟨0, {}⟩
  | x :: xs => xs.foldl frPlus x

/-- A sum by a tree of additions: at each step `addPick` names two of the sums that still stand and they are added, so that every tree is among the
choices; every element is added exactly once (log entry 4). -/
def treeSum (plus : FR → FR → FR) : Nat → List FR → FR
  | _, [] => ⟨0, {}⟩
  | 0, x :: xs => xs.foldl plus x
  | _ + 1, [x] => x
  | fuel + 1, x :: y :: xs =>
    let l := x :: y :: xs
    let i := Config.addPick (xs.length + 2) (2 * fuel + 1) % l.length
    let rest := l.eraseIdx i
    let j := Config.addPick (xs.length + 1) (2 * fuel) % rest.length
    treeSum plus fuel (plus (l.getD i x) (rest.getD j y) :: rest.eraseIdx j)

/-- A sum in an order the manual leaves to the implementation (R53, R66): any tree of additions (log entry 4). -/
def sumFree (fuel : Nat) (l : List FR) : FR := treeSum frPlus fuel l

/-- An operation of R181 that forms or consumes a NaN counts one NaN. -/
def nanCounted (r : FR) : FR := if f32IsNaN r.v then ⟨r.v, { r.cnt with nan := 1 }⟩ else r

/-- An addition into a gradient bank (R181). -/
def bankPlus (a b : FR) : FR := let r := nanCounted (fadd a.v b.v); ⟨r.v, (a.cnt.add b.cnt).add r.cnt⟩

/-- A gradient bank's sum, in list order or in any order (R53, R181). -/
def bankSum (ordered : Bool) (l : List FR) : FR :=
  match l with
  | [] => ⟨0, {}⟩
  | x :: xs => if ordered then xs.foldl bankPlus x else treeSum bankPlus l.length l

/-! ## Products (R42) -/

/-- An exact product of two decoded values with a power-of-two factor, rounded once into FP32 (R42). -/
def mulVals (x y : FVal) (k : Int) : FR :=
  match x, y with
  | .nan, _ => frNaN
  | _, .nan => frNaN
  | .inf s, .inf t => frLimit (s != t)
  | .inf s, .fin t m _ => if m = 0 then frUndef else frLimit (s != t)
  | .fin s m _, .inf t => if m = 0 then frUndef else frLimit (s != t)
  | .fin s m e, .fin t n f => frOfFrac (s != t) (m * n * pow2Num (e + f + k)) (pow2Den (e + f + k))

/-- A W4T product: table entry (E4M3) times activation code, the block scale's exponent added (R41, R42). -/
def w4Product (entry scale : Nat) (act : Nat) : FR :=
  if scale = 0xFF then frNaN else mulVals (fmtE4M3.decode entry) (fmtE4M3.decode act) ((scale : Int) - 127)

/-! ## Coded formats (R35, R40, R44) -/

/-- Distance of a table entry from a fraction, over the common denominator `d` (both with the entry's exact value). -/
def entryDist (entry : Nat) (neg : Bool) (n d : Nat) : Nat × Nat :=
  match fmtE4M3.decode entry with
  | .fin s m e =>
    let x : Int := (m * pow2Num e * d : Nat)
    let y : Int := (n * pow2Den e : Nat)
    (((if s then -x else x) - (if neg then -y else y)).natAbs, d * pow2Den e)
  | _ => (1, 0)

/-- a/b < c/d as fractions. -/
def fracLt (a c : Nat × Nat) : Bool := decide (a.1 * c.2 < c.1 * a.2)

/-- R35 for a coded format: the index of the chosen entry for the signed fraction (neg, n / d). -/
def nearestEntry (table : List Nat) (neg : Bool) (n d : Nat) : Nat :=
  let ix := (List.range table.length).filter (fun i => fmtE4M3.decode (table.getD i 0) != .nan)
  let dist := fun i => entryDist (table.getD i 0) neg n d
  let cand := ix.filter (fun i => ix.all (fun j => !fracLt (dist j) (dist i)))
  let zpos := cand.filter (fun i => table.getD i 0 == 0)
  let zneg := cand.filter (fun i => table.getD i 0 == 0x80)
  let cand2 :=
    if zpos.isEmpty || zneg.isEmpty then cand
    else cand.filter (fun i => table.getD i 0 != (if neg then 0 else 0x80))
  match cand2.filter (fun i => i % 2 == 0) with
  | i :: _ => i
  | [] => cand2.headD 0

/-- The magnitude of an E4M3 entry as a fraction. -/
def entryMag (entry : Nat) : Nat × Nat :=
  match fmtE4M3.decode entry with
  | .fin _ m e => (m * pow2Num e, pow2Den e)
  | _ => (0, 1)

/-- The largest magnitude of a code table. -/
def tableMax (table : List Nat) : Nat × Nat :=
  table.foldl (fun b t => if fracLt b (entryMag t) then entryMag t else b) (0, 1)

/-- The largest e, limited to [-127, 127], with amax × 2^e not above mx (R44, R46): the floor of log2(mx / amax). -/
def largestExp (amax mx : Nat × Nat) : Int := floorLog2 (mx.1 * amax.2) (mx.2 * amax.1)

/-- One block of 64 key/value values coded (R44): scale byte, codes, counts. -/
def kvEncode (table : List Nat) (vals : List F32) : Nat × List Nat × Cnt :=
  let fin := vals.filterMap (fun v => match f32Val v with | .fin _ m e => some (m * pow2Num e, pow2Den e) | _ => none)
  let amax := fin.foldl (fun b t => if fracLt b t then t else b) (0, 1)
  let mx := tableMax table
  let e : Int := if amax.1 = 0 then 0 else max (-127) (min 127 (largestExp amax mx))
  let bigIdx := ((List.range table.length).filter (fun i =>
      table.all (fun t => !fracLt (entryMag (table.getD i 0)) (entryMag t)))).headD 0
  let one := fun v =>
    match f32Val v with
    | .nan => (bigIdx, ({ nan := 1, conv := 1 } : Cnt))
    | .inf neg => (nearestEntry table neg (2 ^ 40) 1, { sat := 1, conv := 1 })
    | .fin neg m x =>
      let n := m * pow2Num (x + e)
      let d := pow2Den (x + e)
      (nearestEntry table neg n d, { sat := if fracLt mx (n, d) then 1 else 0, conv := 1 })
  let rs := vals.map one
  ((127 - e).toNat, rs.map (·.1), rs.foldl (fun c r => c.add r.2) {})

/-! ## Moments (R61 to R63) -/

/-- The block scale: the largest finite magnitude, as an FP32 code. -/
def m8bScale (vals : List F32) : F32 :=
  vals.foldl (fun b v => if f32IsFinite v && decide (f32Key b < f32Key (fabs v)) then fabs v else b) 0

/-- The final rounding to a whole code (R61), with the value's sign. -/
def roundToInt (a : F32) : Int :=
  match f32Val a with
  | .fin neg m e =>
    let q : Int := (roundDiv (m * pow2Num e) (pow2Den e) : Nat)
    if neg then -q else q
  | _ => 0

/-- First-moment code of one value under scale `s`, with counts (R61, R63). -/
def m8bEncodeSigned (s v : F32) : Byte × Cnt :=
  match f32Val v with
  | .nan => (127, { nan := 1 })
  | .inf neg => (if neg then BitVec.ofInt 8 (-127) else 127, { sat := 1 })
  | .fin .. =>
    if f32Key s = 0 then (0, {})
    else
      let p := fmul v (f32OfNat 127)
      let q := fdiv p.v s
      (BitVec.ofInt 8 (max (-127) (min 127 (roundToInt q.v))), p.cnt.add q.cnt)

def m8bDecodeSigned (s : F32) (q : Byte) : FR :=
  if q = 0x80 then ⟨fneg s, {}⟩
  else
    let i := q.toInt
    let qf := if i < 0 then fneg (f32OfNat i.natAbs) else f32OfNat i.natAbs
    let p := fmul qf s
    let d := fdiv p.v (f32OfNat 127)
    ⟨d.v, p.cnt.add d.cnt⟩

/-- Second-moment code of one value under scale `s` (R61, R63). -/
def m8bEncodeUnsigned (s v : F32) : Byte × Cnt :=
  match f32Val v with
  | .nan => (255, { nan := 1 })
  | .inf neg => (if neg then 0 else 255, { sat := 1 })
  | .fin neg m _ =>
    if f32Key s = 0 then (0, {})
    else if neg && m != 0 then (0, {})
    else
      let d := fdiv v s
      let r := fsqrt d.v
      let p := fmul r.v (f32OfNat 255)
      (BitVec.ofInt 8 (max 0 (min 255 (roundToInt p.v))), (d.cnt.add r.cnt).add p.cnt)

def m8bDecodeUnsigned (s : F32) (q : Byte) : FR :=
  let d := fdiv (f32OfNat q.toNat) (f32OfNat 255)
  let sq := fmul d.v d.v
  let p := fmul s sq.v
  ⟨p.v, (d.cnt.add sq.cnt).add p.cnt⟩

/-! ## Scales (R46, R47) -/

/-- Step 3 of R46: SCALE from the history maximum `h` (finite, positive), the margin and the format's largest value. -/
def scaleOf (h : F32) (margin : Nat) (e5m2 : Bool) : Nat :=
  match f32Val h with
  | .fin _ m e =>
    if m = 0 then 127
    else
      let mx := if e5m2 then fmtE5M2.maxFrac else fmtE4M3.maxFrac
      let k := largestExp (m * pow2Num e, pow2Den e) mx
      (max 0 (min 0xFE (k - margin + 127))).toNat
  | _ => 127

/-- R47: the drain's factor 2^(127 - SCALE), NaN for 0xFF. -/
def unscale (a : F32) (scale : Nat) : FR := if scale = 0xFF then frNaN else fscale a (127 - (scale : Int))

/-- The scale of R46 applied before a conversion. -/
def applyScale (a : F32) (scale : Nat) : FR := if scale = 0xFF then frNaN else fscale a ((scale : Int) - 127)

/-! ## exp and log of the vector units (R120) -/

/-- Fraction bits of the enclosures used for exp and log. -/
def fixBits : Nat := 512

/-- exp(n / d) × 2^512 of a fraction 0 ≤ n / d below 128, by the series of the 1024th part squared ten times. -/
def expFix (n d : Nat) : Nat :=
  let one := 2 ^ fixBits
  let x := n * one / (d * 1024)
  let t := (List.range 40).foldl (fun (acc : Nat × Nat) k =>
      let term := acc.2 * x / one / (k + 1)
      (acc.1 + term, term)) (one, one)
  (List.range 10).foldl (fun y _ => y * y / one) t.1

/-- ln(n / d) × 2^512 for 1 ≤ n / d ≤ 2, by the series of the inverse hyperbolic tangent. -/
def lnFix (n d : Nat) : Nat :=
  let one := 2 ^ fixBits
  let z := (n - d) * one / (n + d)
  let z2 := z * z / one
  let r := (List.range 340).foldl (fun (acc : Nat × Nat) k =>
      (acc.1 + acc.2 / (2 * k + 1), acc.2 * z2 / one)) (0, z)
  2 * r.1

/-- Is `code` within 2 units in the last place of the positive fraction n / d? -/
def within2Ulp (n d : Nat) (neg : Bool) (code : F32) : Bool :=
  match f32Val code with
  | .fin s m e =>
    let q := max (floorLog2 n d) (-126) - 23
    let a : Int := (m * pow2Num e * d * pow2Den q : Nat)
    let b : Int := (n * pow2Den e * pow2Den q : Nat)
    decide (s = neg) && decide ((a - b).natAbs ≤ 2 * (pow2Num q * d * pow2Den e))
  | _ => false

/-- A result the manual fixes to 2 units in the last place: the free value where it keeps that limit, else the rounded one. -/
def ulpFree (fn : Nat) (arg : F32) (neg : Bool) (n d : Nat) : FR :=
  let r := frOfFrac neg n d
  let f := Config.vectorFn fn arg
  if within2Ulp n d neg f then ⟨f, r.cnt⟩ else r

/-- exp in FP32; `profile` is the ordered profile in force, if any (R120, R33, R443). -/
def fexp (profile : Option Nat) (a : F32) : FR :=
  match f32Val a with
  | .nan => frNaN
  | .inf neg => if neg then ⟨0, { sat := 1 }⟩ else frLimit false
  | .fin neg m e =>
    match profile with
    | some v => ⟨Config.profileFn v 0 a, {}⟩
    | none =>
      if m = 0 then ulpFree 0 a false 1 1
      else
        let n := m * pow2Num e
        let d := pow2Den e
        if d * 128 ≤ n then (if neg then ⟨0, {}⟩ else frLimit false)
        else
          let y := expFix n d
          if neg then ulpFree 0 a false (2 ^ fixBits) y else ulpFree 0 a false y (2 ^ fixBits)

/-- log in FP32 (R120, R443). -/
def flog (profile : Option Nat) (a : F32) : FR :=
  match f32Val a with
  | .nan => frNaN
  | .inf neg => if neg then frUndef else frLimit false
  | .fin neg m e =>
    if m = 0 then frLimit true
    else if neg then frUndef
    else
      match profile with
      | some v => ⟨Config.profileFn v 1 a, {}⟩
      | none =>
        let k := Nat.log2 m
        let l : Int := (lnFix m (2 ^ k) : Int) + (e + k) * (lnFix 2 1 : Int)
        if l = 0 then ⟨0, {}⟩ else ulpFree 1 a (decide (l < 0)) l.natAbs (2 ^ fixBits)

/-! ## Philox-4x32-10 (R122) -/

/-- One round of Philox-4x32 on the four counter words and the two key words. -/
def philoxRound (c : Word × Word × Word × Word) (k : Word × Word) : Word × Word × Word × Word :=
  let p0 := c.1.toNat * 0xD2511F53
  let p1 := c.2.2.1.toNat * 0xCD9E8D57
  let hi := fun (p : Nat) => BitVec.ofNat 32 (p / 2 ^ 32)
  let lo := fun (p : Nat) => BitVec.ofNat 32 p
  (hi p1 ^^^ c.2.1 ^^^ k.1, lo p1, hi p0 ^^^ c.2.2.2 ^^^ k.2, lo p0)

/-- Ten rounds with the key increments of R122: the first output word. -/
def philox (c : Word × Word × Word × Word) (k : Word × Word) : Word :=
  ((List.range 10).foldl (fun (s : (Word × Word × Word × Word) × (Word × Word)) _ =>
    (philoxRound s.1 s.2, (s.2.1 + 0x9E3779B9, s.2.2 + 0xBB67AE85))) (c, k)).1.1

/-- The draw u of R122: a 24-bit fraction as an exact FP32 value. -/
def drawU (seed : BitVec 64) (pos gen : Nat) : F32 :=
  let x0 := philox (BitVec.ofNat 32 pos, 0, BitVec.ofNat 32 gen, 0) (seed.setWidth 32, (seed >>> 32).setWidth 32)
  (frOfFrac false (x0.toNat / 2 ^ 8) (2 ^ 24)).v

end Sys2Proof.Machine
end

