-- ==== Sys2Proof/Machine/Operands.lean ====
section
/-!
DEFINITION. Operand forms: the little-endian layouts of what lies in DUA memory (R5): command records (R265, R267, R286), join descriptors (R109),
training configurations (R166), tile descriptors (R269), and the records the module writes (R121, R149, R188, R270, R275).
-/

namespace Sys2Proof.Machine

/-! ## Little-endian words (R5) -/

/-- The bytes of a number, least significant first. -/
def leBytes (n : Nat) : Nat → List Byte
  | 0 => []
  | k + 1 => BitVec.ofNat 8 n :: leBytes (n / 256) k

/-- The number that bytes spell, least significant first. -/
def ofLe : List Byte → Nat
  | [] => 0
  | b :: bs => b.toNat + 256 * ofLe bs

/-- Bytes [lo, hi] of a record as a number; bytes beyond the list read as zero. -/
def field (r : List Byte) (lo hi : Nat) : Nat := ofLe ((r.drop lo).take (hi + 1 - lo))

/-- A list brought to a length: cut, or filled with zeros. -/
def padTo (n : Nat) (l : List Byte) : List Byte := (l ++ List.replicate (n - l.length) 0).take n

/-- Is every byte from `lo` to `hi` zero? -/
def zeroFrom (r : List Byte) (lo hi : Nat) : Bool := ((r.drop lo).take (hi + 1 - lo)).all (· == 0)

/-! ## Command records (R265 to R268, R285, R286) -/

/-- A v5 command record, or a v4 or v3 record translated to it. -/
structure Cmd where
  opcode : Nat
  fence : Bool
  notify : Bool
  quiet : Bool
  length : Nat
  tag : Nat
  seq : Nat
  budget : Nat
  cookie : Nat
  ops : List Byte
  reservedBit : Bool
  untranslatable : Bool := false
deriving DecidableEq, Repr

/-- A row of R267: code, the engine that accepts it (5: any), LENGTH, whether it is a Module opcode, default budget. -/
structure OpRow where
  code : Nat
  eng : Nat
  len : Nat
  module : Bool
  budget : Nat
deriving DecidableEq, Repr

/-- The opcode table of R267. -/
def opTable : List OpRow :=
  [⟨0x00, 5, 0, false, 1000⟩, ⟨0x01, 5, 0, false, 1000000⟩, ⟨0x02, 5, 4, false, 1000000⟩, ⟨0x03, 5, 4, false, 1000⟩,
   ⟨0x10, 0, 8, false, 1000⟩, ⟨0x11, 0, 4, false, 1000000⟩, ⟨0x12, 0, 4, false, 1000000⟩, ⟨0x13, 0, 4, false, 1000000⟩,
   ⟨0x14, 0, 13, false, 1000000⟩, ⟨0x15, 0, 16, false, 1000000⟩, ⟨0x16, 0, 12, false, 1000000⟩,
   ⟨0x20, 2, 8, false, 1000000⟩, ⟨0x21, 2, 6, false, 10000000⟩, ⟨0x22, 2, 6, false, 1000⟩, ⟨0x23, 2, 20, false, 1000000⟩,
   ⟨0x24, 2, 12, false, 1000000⟩, ⟨0x25, 2, 4, false, 1000⟩, ⟨0x26, 2, 12, false, 1000000⟩, ⟨0x27, 2, 6, false, 1000⟩,
   ⟨0x28, 2, 36, false, 10000000⟩, ⟨0x29, 2, 24, false, 1000⟩, ⟨0x30, 1, 0, true, 600000000⟩, ⟨0x31, 1, 0, true, 1000000⟩,
   ⟨0x40, 3, 24, false, 1000000⟩, ⟨0x41, 3, 20, false, 1000000⟩, ⟨0x50, 4, 32, false, 100000⟩, ⟨0x51, 4, 32, false, 100000⟩,
   ⟨0x52, 4, 32, false, 100000⟩, ⟨0x53, 4, 32, false, 100000⟩, ⟨0x54, 4, 32, false, 100000⟩, ⟨0x55, 4, 20, false, 100000⟩,
   ⟨0x56, 4, 8, false, 1000⟩, ⟨0x57, 4, 8, true, 1000⟩, ⟨0x58, 4, 16, true, 600000000⟩]

def opRow (code : Nat) : Option OpRow := opTable.find? (fun r => r.code == code)

/-- Reserved bits inside the operands of an opcode (R267: bits the table leaves unnamed between named operands): pairs of byte
range and the bits that are named in it. -/
def operandGaps (code : Nat) : List (Nat × Nat × Nat) :=
  match code with
  | 0x11 => [(16, 17, 0x0FFF)]
  | 0x12 => [(16, 17, 0x0FFF)]
  | 0x13 => [(16, 17, 0x0FFF)]
  | 0x14 => [(16, 17, 0x3FFF), (28, 28, 1)]
  | 0x15 => [(22, 23, 0)]
  | 0x23 => [(19, 19, 0)]
  | 0x24 => [(22, 23, 0)]
  | 0x25 => [(16, 17, 0x1FFF)]
  | 0x28 => [(22, 23, 0), (38, 39, 0)]
  | 0x29 => [(18, 18, 1), (19, 19, 0), (22, 23, 0)]
  | 0x55 => [(22, 23, 0), (30, 31, 0)]
  | 0x57 => [(18, 19, 0)]
  | _ => []

/-- A one in a reserved bit of a 64-byte v5 record (R265). -/
def reservedOne (r : List Byte) : Bool :=
  let code := field r 0 0
  let len := match opRow code with | some o => o.len | none => 48
  decide (field r 1 1 / 8 ≠ 0) || decide (field r 5 5 ≠ 0) || !zeroFrom r (16 + len) 63 ||
    (operandGaps code).any (fun g => decide (field r g.1 g.2.1 &&& (2 ^ (8 * (g.2.1 + 1 - g.1)) - 1 - g.2.2) ≠ 0))

/-- A v5 record as read (R265). -/
def cmdV5 (r : List Byte) : Cmd :=
  { opcode := field r 0 0, fence := (field r 1 1).testBit 0, notify := (field r 1 1).testBit 1, quiet := (field r 1 1).testBit 2,
    length := field r 2 3, tag := field r 4 4, seq := field r 6 7, budget := field r 8 11, cookie := field r 12 15,
    ops := padTo 64 r, reservedBit := reservedOne r }

/-- The v5 operand bytes of a translated record: 16 zero bytes of header, then the operands. -/
def opsAt16 (b : List Byte) : List Byte := padTo 64 (List.replicate 16 0 ++ b)

/-- A v4 record translated (R286); `gen` is the queue's generation and `groupGen` the group table's GEN of a group. -/
def cmdV4 (r : List Byte) (gen : Nat) (groupGen : Nat → Nat) : Cmd :=
  let code := field r 0 0
  let a48 := fun lo => leBytes (field r lo (lo + 7) % 2 ^ 48) 8
  let base : Cmd :=
    { opcode := code, fence := (field r 1 1).testBit 0, notify := (field r 1 1).testBit 1, quiet := false, length := 0, tag := gen,
      seq := field r 2 3, budget := 0, cookie := 0, ops := opsAt16 [], reservedBit := false }
  if code = 0x00 then base
  else if code = 0x01 then
    { base with opcode := 0x40, length := 24, ops := opsAt16 (a48 8 ++ a48 16 ++ leBytes (field r 24 31) 8) }
  else if code = 0x02 then
    { base with opcode := 0x41, length := 20, ops := opsAt16 (a48 8 ++ leBytes (field r 16 23) 8 ++ leBytes (field r 24 27) 4) }
  else if 0x10 ≤ code && code ≤ 0x14 then
    { base with opcode := 0x50 + (code - 0x10), length := 32,
                ops := opsAt16 (leBytes (field r 8 11) 4 ++ leBytes (groupGen (field r 8 11)) 2 ++ leBytes (field r 12 13) 2 ++
                  a48 16 ++ a48 24 ++ leBytes (field r 32 39) 8) }
  else { base with untranslatable := true }

/-- A v3 record translated (R286); `seq` is its 8-bit SEQ extended. -/
def cmdV3 (r : List Byte) (gen seq : Nat) : Cmd :=
  let code := field r 0 0
  let a40 := fun lo => leBytes (field r lo (lo + 7) % 2 ^ 40) 8
  let base : Cmd :=
    { opcode := code, fence := (field r 1 1).testBit 0, notify := (field r 1 1).testBit 1, quiet := false, length := 0, tag := gen,
      seq := seq, budget := 0, cookie := 0, ops := opsAt16 [], reservedBit := false }
  if code = 0x00 then base
  else if code = 0x01 then
    { base with opcode := 0x40, length := 24, ops := opsAt16 (a40 8 ++ a40 16 ++ leBytes (field r 4 7) 8) }
  else { base with untranslatable := true }

/-- R268: the first failing check, on engine `eng` of a queue page (`qp` 32: QPM). -/
def cmdCheck (c : Cmd) (eng qp : Nat) : Option Nat :=
  if c.untranslatable then some 0x0604
  else
    match opRow c.opcode with
    | none => some 0x0260
    | some o =>
      if o.eng ≠ 5 && o.eng ≠ eng then some 0x0260
      else if c.length ≠ o.len then some 0x0261
      else if c.reservedBit then some 0x0264
      else if o.module && qp ≠ 32 then some 0x0403
      else if c.opcode = 0x55 then some 0x0263
      else none

/-- The command's first operand whose name ends in _DUA (R275); 0 when it has none. -/
def firstDua (code : Nat) (ops : List Byte) : Nat :=
  match code with
  | 0x10 => field ops 16 23
  | 0x16 => field ops 16 23
  | 0x20 => field ops 16 23
  | 0x26 => field ops 16 23
  | 0x28 => if field ops 36 36 = 0 then field ops 40 47 else 0
  | 0x29 => field ops 24 31
  | 0x40 => field ops 16 23
  | 0x41 => field ops 16 23
  | 0x50 => field ops 24 31
  | 0x51 => field ops 24 31
  | 0x52 => field ops 24 31
  | 0x53 => field ops 24 31
  | 0x54 => field ops 24 31
  | 0x56 => field ops 16 23
  | 0x58 => field ops 16 23
  | _ => 0

/-! ## Descriptors -/

/-- A join descriptor (R109). -/
def joinDescOf (r : List Byte) : JoinDesc :=
  let fl := field r 6 7
  { wax := field r 0 5, train := fl.testBit 0, pfx := fl.testBit 1, noLogprob := fl.testBit 2,
    seed := BitVec.ofNat 64 (field r 8 15), promptLen := field r 16 19, maxNew := field r 20 23, promptDua := field r 24 31,
    temp := BitVec.ofNat 16 (field r 32 33), topP := BitVec.ofNat 16 (field r 34 35), topK := field r 36 37,
    keyGen := field r 38 39, group := field r 40 47, pfxDua := field r 48 55, pfxTokens := field r 56 59,
    stops := (List.range (min 8 (field r 60 61))).map (fun i => BitVec.ofNat 32 (field r (64 + 4 * i) (67 + 4 * i))) }

/-- The STOP_COUNT field of a join descriptor. -/
def joinStopCount (r : List Byte) : Nat := field r 60 61

/-- A training configuration (R166). -/
def trainCfgOf (r : List Byte) : TrainCfg :=
  let f := fun lo => BitVec.ofNat 32 (field r lo (lo + 3))
  { wax := field r 0 5, lossEntry := field r 6 6, keepDetour := (field r 7 7).testBit 0, clipTrain := (field r 7 7).testBit 1,
    manual := (field r 7 7).testBit 2, groupSize := field r 8 9, stepCohorts := field r 10 10, maxLag := field r 11 11,
    lrScale := f 12, lrOffset := f 16, lrClip := f 20, beta1 := f 24, beta2 := f 28, eps := f 32, decay := f 36, maxGnorm := f 40,
    minTokens := field r 44 47, replicaGroup := field r 48 51 }

/-- A finite FP32 value not below zero. -/
def finNonNeg (a : F32) : Bool := f32IsFinite a && fle 0 a

/-- An FP32 value not below zero, no NaN. -/
def nonNeg (a : F32) : Bool := fle 0 a

/-- R166: every field in its range. Only the LR rows ask for a finite value: an infinity above a lower bound lies in a range that names no upper one. -/
def trainCfgOk (c : TrainCfg) (r : List Byte) : Bool :=
  decide (c.wax ≠ 0) && decide (c.lossEntry < 16) && decide (field r 7 7 < 8) &&
  (decide (c.groupSize = 0) || (decide (2 ≤ c.groupSize) && decide (c.groupSize ≤ 64))) &&
  decide (1 ≤ c.stepCohorts) && decide (c.stepCohorts ≤ 16) &&
  finNonNeg c.lrScale && finNonNeg c.lrOffset && finNonNeg c.lrClip &&
  finNonNeg c.beta1 && flt c.beta1 f32One && finNonNeg c.beta2 && flt c.beta2 f32One &&
  flt 0 c.eps && nonNeg c.decay && nonNeg c.maxGnorm && zeroFrom r 52 63

/-- R173: is a loss-table entry usable? -/
def LossEnt.usable (e : LossEnt) : Bool :=
  decide (e.kind ≤ 2) && decide (e.baseline ≤ 3) && decide (e.norm ≤ 1) && decide (e.klKind ≤ 2) &&
  [e.epsLow, e.epsHigh, e.dualC, e.klCoef, e.stdEps, e.ratioMax].all finNonNeg

/-- A tile descriptor (R269). -/
def tileOf (r : List Byte) : Tile :=
  { m16 := field r 0 1, n16 := field r 2 3, k16 := field r 4 5, mode := field r 6 6, report := (field r 7 7).testBit 0,
    transposed := (field r 7 7).testBit 1, siteBit := (field r 7 7).testBit 2, layer := field r 8 9, site := field r 10 10,
    input := field r 11 11, weight := field r 16 23, inScale := field r 24 31, outScale := field r 32 39,
    inBuf := field r 40 43, outBuf := field r 44 47 }

/-! ## Records the module writes -/

/-- A completion record's 64 bytes (R270, R271). -/
def CRec.bytes (c : CRec) : List Byte :=
  leBytes c.kind 1 ++ leBytes c.status 1 ++ leBytes c.reason 2 ++ leBytes c.opcode 1 ++ leBytes c.queue 1 ++ leBytes c.seq 2 ++
  leBytes c.tag 1 ++ leBytes c.part 1 ++ leBytes 0 2 ++ leBytes c.cookie 4 ++ leBytes c.elapsed 4 ++ padTo 44 c.result

/-- An error record's 64 bytes (R275). -/
def ERec.bytes (e : ERec) : List Byte :=
  leBytes e.kind 1 ++ leBytes e.status 1 ++ leBytes e.reason 2 ++ leBytes e.opcode 1 ++ leBytes e.queue 1 ++ leBytes e.seq 2 ++
  leBytes e.tag 1 ++ leBytes e.part 1 ++ leBytes 0 2 ++ leBytes e.cookie 4 ++ leBytes e.time 8 ++ leBytes e.dua 8 ++
  leBytes e.id 2 ++ leBytes e.idGen 2 ++ leBytes e.wax 6 ++ leBytes e.fabric 2 ++ leBytes e.detail 4 ++ leBytes 0 16

/-- A MISS record's 32 bytes (R149). -/
def missBytes (wax part tagIdx tagGen entries version : Nat) : List Byte :=
  leBytes wax 6 ++ leBytes part 1 ++ leBytes 0 1 ++ leBytes (tagIdx % 512 + 512 * tagGen) 2 ++ leBytes (min entries 0xFFFF) 2 ++
  leBytes version 4 ++ leBytes 0 16

/-- A trace record's 16 bytes (R169). -/
def Trace.bytes (t : Trace) : List Byte :=
  leBytes t.token.toNat 4 ++ leBytes t.logprob.toNat 4 ++ leBytes t.version 4 ++
  leBytes ((if t.detour then 1 else 0) + (if t.prompt then 2 else 0)) 2 ++ leBytes 0 2

/-- The 24 bytes of a step header (R185). -/
def StepHdr.bytes (h : StepHdr) : List Byte :=
  leBytes h.step 4 ++ leBytes h.b1pow.toNat 4 ++ leBytes h.b2pow.toNat 4 ++ leBytes h.version 4 ++ leBytes h.lossTokens 8

end Sys2Proof.Machine
end

