-- ==== Sys2Proof/Machine/Ops.lean ====
section
/-!
DEFINITION. The named operations over memory, rings, records and commands that the meanings share: access checks (R192 to R195, R311), lines
(R211 to R216), rings (R262, R263), completion and error records (R270 to R276), and ending a command (R273).
-/

namespace Sys2Proof.Machine

/-! ## The part -/

def State.gradeParts (s : State) : Nat := if s.part.grade60 then 30 else 32
def State.gradeHearths (s : State) : Nat := if s.part.grade60 then 60 else 64

/-- The physical numbers of the enabled hearths, in ascending order: entry k is logical hearth k (R14). -/
def State.physOf (s : State) : List Nat := (List.range 64).filter (fun h => !(s.part.grade60 && s.part.fused.contains h))

/-- The logical number of a physical hearth (R14); the grade's count for a fused one. -/
def State.logicalOf (s : State) (h : Nat) : Nat := s.physOf.idxOf h

/-- The physical hearths a partition uses now. -/
def State.hearthsOf (s : State) (p : Nat) : List Nat := s.physOf.filter (fun h => (s.hearth h).owner == some p)

/-! ## Address map and page map (R191 to R195) -/

def memTop : Nat := 2 ^ 46
def vaultTop : Nat := 2 ^ 47
def regBase : Nat := 2 ^ 47
def regTop : Nat := 2 ^ 47 + 2 ^ 26
def pageSize : Nat := 2 ^ 21

/-- Bytes of the vault base region (R1, R191). -/
def State.baseRegion (s : State) : Nat := (if s.part.vault64 then 52 else 12) * 2 ^ 40

def State.page (s : State) (n : Nat) : PageEnt := AMap.get {} s.mem.pmap n
def State.setPage (s : State) (n : Nat) (e : PageEnt) : State :=
  s.setMem { s.mem with pmap := AMap.put {} s.mem.pmap n e }

/-- The VALID region that holds a page (R315). -/
def State.regionAt (s : State) (page : Nat) : Option (Nat × Region) :=
  s.fbx.regions.find? (fun e => e.2.valid && decide (e.2.base / pageSize ≤ page) && decide (page < e.2.base / pageSize + e.2.pages))

/-- What a line is written under: key generation, data key pair and tag key (R211, R212). -/
structure LineKeys where
  gen : Nat
  dataKey : BitVec 512
  tagKey : BitVec 256
deriving DecidableEq, Repr

/-- The keys in force at a page: its region's; outside every region those of log entry 14. -/
def State.keysAt (s : State) (page : Nat) : LineKeys :=
  match s.regionAt page with
  | some e => ⟨e.2.keygen, e.2.dataKey, e.2.tagKey⟩
  | none => ⟨1, Config.outsideDataKey, Config.outsideTagKey⟩

/-- The current key generation of the region that holds a page; 1 outside every region (log entry 14). -/
def State.keygenAt (s : State) (page : Nat) : Nat := match s.regionAt page with | some e => e.2.keygen | none => 1

/-- Is the region of a page being zero-filled after a step from 255 to 1 (R213)? -/
def State.fillingAt (s : State) (page : Nat) : Bool := match s.regionAt page with | some e => e.2.filling | none => false

/-- What may refuse an access of one page (R192, R195, R311, R194), in the model's order (log entry 15). -/
def State.pageCheck (s : State) (who : MemWho) (write : Bool) (n : Nat) : Option Nat :=
  let e := s.page n
  if !e.valid then some 0x0250
  else
    let owned := match who.part with
      | some p => decide (e.owner = p.val) || (decide (e.owner = 62) && !write)
      | none => decide (e.owner = 63)
    if !owned then some 0x0317
    else if e.secure && !who.secure then some 0x0407
    else if write && (e.readOnly || decide (e.owner = 62)) then some 0x0402
    else none

/-- The first page of a range that refuses an access. -/
def State.pagesCheck (s : State) (who : MemWho) (write : Bool) (first : Nat) : Nat → Option Nat
  | 0 => none
  | n + 1 =>
    match s.pageCheck who write first with
    | some r => some r
    | none => s.pagesCheck who write (first + 1) n

/-- R192, R193, R195, R311: why an access of `len` bytes of memory space or the vault window is refused, if it is. The register window is no memory:
MEMORY_READ and MEMORY_WRITE reach it through the register pages, the block accesses of the engines do not (log entry 88). -/
def State.memCheck (s : State) (who : MemWho) (write : Bool) (dua len : Nat) : Option Nat :=
  if dua + len ≤ memTop then
    s.pagesCheck who write (dua / pageSize) ((dua + len - 1) / pageSize + 1 - dua / pageSize)
  else if memTop ≤ dua && dua + len ≤ vaultTop then
    if memTop + s.baseRegion < dua + len then some 0x0250
    else if write then some 0x0402
    else if who.vault then none
    else some 0x0401
  else some 0x0250

/-! ## Lines (R211 to R216) -/

def State.lineMeta (s : State) (line : Nat) : LineMeta := AMap.get {} s.mem.lines line

/-- The lines a range touches. -/
def linesOf (dua len : Nat) : List Nat := (List.range ((dua + len - 1) / 64 + 1 - dua / 64)).map (· + dua / 64)

def linePage (line : Nat) : Nat := line / 32768

/-- Is a line's stored generation the current one? That of a BASE line is: the lift wrote it after training (R213). -/
def State.lineCurrent (s : State) (line : Nat) : Bool :=
  decide ((s.page (linePage line)).owner = 62) || decide ((s.lineMeta line).gen = s.keygenAt (linePage line))

/-- A byte as a read returns it: zero where the stored generation is not the current one (R213); a BASE page holds the loaded base's bytes, which
the manual does not give (log entry 37). -/
def State.byteAt (s : State) (a : Nat) : Byte :=
  if (s.page (a / pageSize)).owner = 62 then (match s.lift.base with | some m => Config.baseByte m.baseId a | none => 0)
  else if s.lineCurrent (a / 64) then AMap.get 0 s.mem.bytes a else 0

/-- The bytes of a range. -/
def State.peek (s : State) (a : Nat) : Nat → List Byte
  | 0 => []
  | n + 1 => s.byteAt a :: s.peek (a + 1) n

/-- The first poisoned line of a range, if its generation is current (R214). -/
def State.poisonIn (s : State) (dua len : Nat) : Option Nat := (linesOf dua len).find? (fun l => (s.lineMeta l).poison && s.lineCurrent l)

/-- The ciphertext a line stands as in its frame (R211, R212). -/
def Mem.cipher (m : Mem) (k : LineKeys) (line : Nat) : List Byte :=
  Config.lineCipher k.dataKey (64 * line) ((List.range 64).map (fun i => AMap.get 0 m.bytes (64 * line + i)))

/-- A line's metadata as a write leaves it: the current generation and a new tag, no poison (R211, R212, R215). -/
def Mem.lineTag (m : Mem) (k : LineKeys) (line : Nat) : LineMeta :=
  { gen := k.gen, mac := Config.lineMac k.tagKey (64 * line) k.gen (m.cipher k line), poison := false }

/-- A line's part written under the current keys: a stale line counts as zeros first (R213, R215). -/
def Mem.putLine (m : Mem) (k : LineKeys) (line off : Nat) (data : List Byte) : Mem :=
  let b0 := if (AMap.get {} m.lines line).gen = k.gen then m.bytes else AMap.putList 0 m.bytes (64 * line) (List.replicate 64 0)
  let m1 : Mem := { m with bytes := AMap.putList 0 b0 (64 * line + off) data }
  { m1 with lines := AMap.put {} m1.lines line (m1.lineTag k line) }

/-- Data written from a DUA on, line by line; `fuel` bounds the lines. -/
def State.poke (s : State) (dua : Nat) (data : List Byte) : Nat → State
  | 0 => s
  | fuel + 1 =>
    if data.isEmpty then s
    else
      let n := min data.length (64 - dua % 64)
      (s.setMem (s.mem.putLine (s.keysAt (dua / pageSize)) (dua / 64) (dua % 64) (data.take n))).poke (dua + n) (data.drop n) fuel

/-- Bytes written without a check (the caller has made it). -/
def State.storeRaw (s : State) (dua : Nat) (data : List Byte) : State := s.poke dua data (data.length + 1)

/-- Does a range cover a line only in part? -/
def partOf (dua len line : Nat) : Bool := !(decide (dua ≤ 64 * line) && decide (64 * line + 64 ≤ dua + len))

/-- A partly written line of the range that is poisoned (R215). -/
def State.partialPoison (s : State) (dua len : Nat) : Option Nat :=
  (linesOf dua len).find? (fun l => (s.lineMeta l).poison && s.lineCurrent l && partOf dua len l)

/-- The number of the translation cache an access goes through: one for each hearth and engine, the stride engine being one per partition (R196);
accesses of other requesters have none. -/
def whoNum (w : MemWho) : Option Nat :=
  match w.hearth, w.eng with
  | some h, _ => some h.val
  | none, some e => some (if e.val = 0 then 64 + (match w.part with | some p => p.val | none => 32) else 96 + e.val)
  | none, none => none

/-- A page whose promotion is called for (R197): one in coherent memory, until its migration starts. -/
def State.want (s : State) (n : Nat) : State :=
  if (s.page n).tier = 2 && !s.mem.wanted.contains n then s.setMem { s.mem with wanted := s.mem.wanted ++ [n] } else s

/-- A translation put into one of the 512 entries of a cache; which entry leaves a full one is the model's choice, the oldest (log entry 3). -/
def State.translate (s : State) (who n tier frame : Nat) : State :=
  let mine : List Tlb := s.mem.tlb.filter (fun t => t.who == who)
  if mine.any (fun t => t.page == n) then s
  else
    let keep := if mine.length < 512 then s.mem.tlb else s.mem.tlb.filter (fun t => t.who ≠ who || t.page ≠ (mine.getLastD ⟨0, 0, 0, 0⟩).page)
    s.setMem { s.mem with tlb := ⟨who, n, tier, frame⟩ :: keep }

/-- A demand access of a page: ACCESSED set, a demotion under way aborted and its target frame free again (R194, R199), a promotion called for (R197),
the translation cached (R196). -/
def State.touchPage (s : State) (who : Option Nat) (n : Nat) : State :=
  let e := s.page n
  let s1 :=
    match AMap.find s.mem.migr n with
    | some m =>
      if m.tier = 2 then
        (s.setPage n { e with accessed := true, migrating := false }).setMem
          { (s.setPage n { e with accessed := true, migrating := false }).mem with migr := AMap.del s.mem.migr n }
      else s.setPage n { e with accessed := true }
    | none => (s.setPage n { e with accessed := true }).want n
  match who with
  | some w => if e.tier = 0 then s1 else s1.translate w n e.tier e.frame
  | none => s1

/-- The pages a range of memory space touches. -/
def pagesOf (dua len : Nat) : List Nat := (List.range ((dua + len - 1) / pageSize + 1 - dua / pageSize)).map (· + dua / pageSize)

/-- Every page of a range touched. -/
def State.touchRange (s : State) (who : MemWho) (dua len : Nat) : State :=
  if dua + len ≤ memTop then (pagesOf dua len).foldl (fun s n => s.touchPage (whoNum who) n) s else s

/-- The promotion of every page that a range lies on is called for (R197). -/
def State.wantRange (s : State) (dua len : Nat) : State := (pagesOf dua len).foldl (fun s n => s.want n) s

/-- R198: a write to the chunk being copied waits until its copy completes; one to a copied chunk goes to both frames, and one to a later chunk is
copied with it. -/
def Migr.waitFor (m : Migr) (page dua len : Nat) : Migr :=
  let c0 := (max dua (page * pageSize) - page * pageSize) / 65536
  let c1 := (min (dua + len) ((page + 1) * pageSize) - 1 - page * pageSize) / 65536
  if c0 ≤ m.copied && m.copied ≤ c1 then { m with copied := c1 + 1 } else m

/-- The chunks that a write to a range waits for. -/
def State.waitChunks (s : State) (dua len : Nat) : State :=
  (pagesOf dua len).foldl (fun (s : State) n =>
    match AMap.find s.mem.migr n with
    | some m => s.setMem { s.mem with migr := AMap.ins n (m.waitFor n dua len) (AMap.del s.mem.migr n) }
    | none => s) s

/-! ## The shared cache and the stream prefetchers (R203, R204) -/

/-- The ways of a page owner in force: WAYMASKp of a partition, WAYMASK_BASE of BASE and MODULE. -/
def State.waysOf (s : State) (owner : Nat) : List Nat :=
  let w := if owner < 32 then s.frc pgMS (0x080 + 4 * owner) else s.frc pgMS 0x07C
  (List.range 32).filter (fun i => w.getLsbD i)

/-- Sets of a slice: a way of 3 MiB holds one line of each. -/
def waySets : Nat := 49152

/-- The slice and the set of a line, by its frame address. -/
def State.lineHome (s : State) (line : Nat) : Nat × Nat :=
  let a := (s.page (linePage line)).frame * 32768 + line % 32768
  (Config.homeSlice a % 8, Config.cacheSet a % waySets)

/-- Does the cache hold a line? -/
def State.cached (s : State) (line : Nat) : Bool :=
  let h := s.lineHome line
  s.mem.cache.any (fun c => c.slice == h.1 && c.set == h.2 && c.line == line)

/-- A line put into a way of its page's owner: one free in its set, else one that is replaced, which one being open (log entry 3). -/
def State.allocLine (s : State) (line : Nat) : State :=
  let e := s.page (linePage line)
  let h := s.lineHome line
  let ways := s.waysOf e.owner
  let put := fun (s : State) (w : Nat) =>
    s.setMem { s.mem with cache := ⟨h.1, h.2, w, e.owner, line⟩ :: s.mem.cache.filter (fun c => !(c.slice == h.1 && c.set == h.2 && c.way == w)) }
  match ways.find? (fun w => !s.mem.cache.any (fun c => c.slice == h.1 && c.set == h.2 && c.way == w)) with
  | some w => put s w
  | none => match s.pickOf ways with | (some w, s1) => put s1 w | (none, s1) => s1

/-- Does a line go through the cache: its page in a DRAM frame and its owner with ways? -/
def State.cacheable (s : State) (line : Nat) : Bool :=
  decide ((s.page (linePage line)).tier = 1) && !(s.waysOf (s.page (linePage line)).owner).isEmpty

/-- One line looked up and, on a miss, allocated (R203, R420). -/
def State.cacheLine (s : State) (line : Nat) : State :=
  if !s.cacheable line then s
  else if s.cached line then s.bump (pgQD (s.lineHome line).1) 0x020 1
  else (s.bump (pgQD (s.lineHome line).1) 0x028 1).allocLine line

/-- A line prefetched: dropped where its page is not backed by DRAM or the line is poisoned; it sets no ACCESSED and counts nowhere (R204). -/
def State.prefetchLine (s : State) (line : Nat) : State :=
  if !s.cacheable line || (s.lineMeta line).poison || s.cached line then s else s.allocLine line

/-- The 16 stream prefetchers of a load path see a line read: a stream goes on, or the oldest gives way to a new one; one trained by four consecutive
reads runs up to 64 lines ahead inside its page (R204). -/
def State.streamLine (s : State) (h line : Nat) : State :=
  let l := AMap.get [] s.mem.streams h
  let old := l.find? (fun t => t.line + 1 == line)
  let t1 : Stream := { line := line, run := min 4 ((match old with | some t => t.run | none => 0) + 1) }
  let l1 := match old with
    | some t => t1 :: l.filter (fun u => u.line ≠ t.line)
    | none => (t1 :: l).take 16
  let s1 := s.setMem { s.mem with streams := AMap.put [] s.mem.streams h l1 }
  if t1.run = 4 then ((List.range 64).map (fun i => line + 1 + i)).foldl (fun s x => if linePage x = linePage line then s.prefetchLine x else s) s1
  else s1

/-- A line that a hearth reads or writes behind the other die: its 64 bytes leave by the die bridge, of a read from the line's die and of a write from the
hearth's (R420; DEDUCED: a line's die is that of its home slice, log entry 171). -/
def State.bridgeLine (s : State) (h line : Nat) (isRead : Bool) : State :=
  let far := (s.lineHome line).1 / 4
  if (s.page (linePage line)).tier = 1 && decide (far ≠ h / 32) then s.bump (pgDIE (if isRead then far else h / 32)) 0x020 64 else s

/-- The lines of a range through the cache, and of a hearth over the die bridge and through the prefetchers of its load path. -/
def State.cacheRange (s : State) (who : MemWho) (dua len : Nat) (isRead : Bool) : State :=
  (linesOf dua len).foldl (fun (s : State) l =>
    let s1 := s.cacheLine l
    match who.hearth with
    | some h => let s2 := s1.bridgeLine h.val l isRead; if isRead then s2.streamLine h.val l else s2
    | none => s1) s

/-- A demand access of a range of memory space: pages touched, lines through the cache. -/
def State.demand (s : State) (who : MemWho) (dua len : Nat) (isRead : Bool) : State :=
  if dua + len ≤ memTop then (s.touchRange who dua len).cacheRange who dua len isRead else s

/-- What a read or write by an engine comes to. -/
inductive Acc
  | done (s : State)
  | refused (reason : Nat)
  | tagFail (dua : Nat)

/-- A read of memory space by a requester: the bytes and the state after it, or why not. -/
def State.load (s : State) (who : MemWho) (dua len : Nat) : Except (Nat ⊕ Nat) (List Byte × State) :=
  if len = 0 then .ok ([], s)
  else
    match s.memCheck who false dua len with
    | some r => .error (.inl r)
    | none =>
      let s1 := s.demand who dua len true
      match s1.poisonIn dua len with
      | some l => .error (.inr (64 * l))
      | none => .ok (s1.peek dua len, s1)

/-- A write by a requester; a refused write changes nothing (R192), a partial write of a poisoned line answers TAG_FAIL (R215). -/
def State.store (s : State) (who : MemWho) (dua : Nat) (data : List Byte) : Except (Nat ⊕ Nat) State :=
  if data.isEmpty then .ok s
  else
    match s.memCheck who true dua data.length with
    | some r => .error (.inl r)
    | none =>
      let s1 := (s.demand who dua data.length false).waitChunks dua data.length
      match s1.partialPoison dua data.length with
      | some l => .error (.inr (64 * l))
      | none => .ok (s1.storeRaw dua data)

/-- A write whose refusal changes nothing else (the rings and records the module writes: log entry 16). -/
def State.storeTry (s : State) (who : MemWho) (dua : Nat) (data : List Byte) : State :=
  match s.store who dua data with
  | .ok s' => s'
  | .error _ => s

/-- An access as one of an engine (R196): 0 SE, 1 LF, 2 WX, 3 CP, 4 CL. -/
def byEngine (w : MemWho) (e : Fin 5) : MemWho := { w with eng := some e }

/-- The non-secure access of an engine for a partition or, from 32 on, the module (R310). -/
def whoOf (p : Nat) : MemWho := { part := if h : p < 32 then some ⟨p, h⟩ else none }

/-- The stride engine's own access for its partition. -/
def seWho (p : Nat) : MemWho := byEngine (whoOf p) 0

/-- The secure internal access of an engine for a partition or the module (R310). -/
def secureOf (p : Nat) : MemWho := { part := if h : p < 32 then some ⟨p, h⟩ else none, secure := true }

/-! ## Rings (R262, R263) -/

/-- Entries between two free-running pointers. -/
def ringUsed (prod cons : Word) : Nat := (prod - cons).toNat

/-- Room in a ring whose registers stand at these offsets of a page (R262). -/
structure Ring where
  page : Nat
  base : Nat
  size : Nat
  ptrPage : Nat
  prod : Nat
  cons : Nat
  entry : Nat
deriving DecidableEq, Repr

def ringCQ (qp : Nat) : Ring := ⟨pgQP qp, 0x600, 0x608, pgQP qp, 0x60C, 0x610, 64⟩
def ringEQ (qp : Nat) : Ring := ⟨pgQP qp, 0x620, 0x628, pgQP qp, 0x62C, 0x630, 64⟩
def ringTok (p : Nat) : Ring := ⟨pgSE p, 0x088, 0x090, pgQP p, 0x640, 0x644, 32⟩
def ringPool (p : Nat) : Ring := ⟨pgSE p, 0x098, 0x0A0, pgQP p, 0x648, 0x64C, 8⟩
def ringStep (p : Nat) : Ring := ⟨pgSE p, 0x108, 0x110, pgQP p, 0x650, 0x654, 64⟩
def ringEv : Ring := ⟨pgWX, 0x070, 0x078, pgQPM, 0x658, 0x65C, 32⟩
def ringFQ : Ring := ⟨pgFQ, 0x040, 0x048, pgFQ, 0x04C, 0x050, 64⟩
def ringMQ : Ring := ⟨pgMQ, 0x040, 0x048, pgMQ, 0x04C, 0x050, 64⟩

def State.ringSize (s : State) (r : Ring) : Nat := 2 ^ fld (s.frc r.page r.size) 4 0
def State.ringCount (s : State) (r : Ring) : Nat := ringUsed (s.rd r.ptrPage r.prod) (s.rd r.ptrPage r.cons)
def State.ringRoom (s : State) (r : Ring) : Nat := s.ringSize r - s.ringCount r
def State.ringAddr (s : State) (r : Ring) (x : Word) : Nat := s.frc64 r.page r.base + r.entry * (x.toNat % s.ringSize r)

/-- The module writes an entry and advances PROD (R263). -/
def State.produce (s : State) (who : MemWho) (r : Ring) (data : List Byte) : State :=
  let x := s.rd r.ptrPage r.prod
  (s.storeTry who (s.ringAddr r x) data).wr r.ptrPage r.prod (x + 1)

/-- The module reads an entry and advances CONS; what it cannot read it takes as zeros (log entry 16). -/
def State.consume (s : State) (who : MemWho) (r : Ring) : List Byte × State :=
  let x := s.rd r.ptrPage r.cons
  match s.load who (s.ringAddr r x) r.entry with
  | .ok (b, s') => (b, s'.wr r.ptrPage r.cons (x + 1))
  | .error _ => (List.replicate r.entry 0, s.wr r.ptrPage r.cons (x + 1))

/-! ## Completion and error records (R270 to R276) -/

/-- The partition number a page's records carry (R270). -/
def partOfQp (qp : Nat) : Nat := if qp < 32 then qp else 63

/-- One completion record put into its ring. -/
def State.putComp (s : State) (qp : Nat) (c : CRec) : State :=
  let s1 := s.produce (whoOf qp) (ringCQ qp) c.bytes
  if c.notify then s1.raise (pgQP qp) 0 else s1

/-- A completion record written, or held while the ring is full or the page is not ENABLED (R274). -/
def State.complete (s : State) (qp : Nat) (c : CRec) : State :=
  let h := s.heldOf qp
  if h.comp.isEmpty && s.enabled (pgQP qp) && decide (0 < s.ringRoom (ringCQ qp)) then s.putComp qp c
  else
    let s1 := s.setHeld qp { h with comp := h.comp ++ [c] }
    if h.comp.isEmpty then s1.raise (pgQP qp) 3 else s1

/-- One error record put into its ring. -/
def State.putErr (s : State) (qp : Nat) (e : ERec) : State :=
  (s.produce (whoOf qp) (ringEQ qp) e.bytes).raise (pgQP qp) 1

/-- An error record written, held (up to 64), or lost and counted (R276). -/
def State.report (s : State) (qp : Nat) (e : ERec) : State :=
  let h := s.heldOf qp
  if h.err.isEmpty && s.enabled (pgQP qp) && decide (0 < s.ringRoom (ringEQ qp)) then s.putErr qp e
  else if h.err.length < 64 then
    let s1 := s.setHeld qp { h with err := h.err ++ [e] }
    if h.err.isEmpty then s1.raise (pgQP qp) 4 else s1
  else s.bump (pgQP qp) 0x038 1

/-- Held completion records written while there is room (R274). -/
def State.drainComp (s : State) (qp : Nat) : List CRec → State
  | [] => s.setHeld qp { s.heldOf qp with comp := [] }
  | c :: cs =>
    if decide (0 < s.ringRoom (ringCQ qp)) then (s.putComp qp c).drainComp qp cs
    else s.setHeld qp { s.heldOf qp with comp := c :: cs }

/-- Held error records written while there is room (R276). -/
def State.drainErr (s : State) (qp : Nat) : List ERec → State
  | [] => s.setHeld qp { s.heldOf qp with err := [] }
  | e :: es =>
    if decide (0 < s.ringRoom (ringEQ qp)) then (s.putErr qp e).drainErr qp es
    else s.setHeld qp { s.heldOf qp with err := e :: es }

/-! ## Queues and started commands -/

/-- The number of a queue: 40 per page (R261). -/
def qNum (qp eng q : Nat) : Nat := 40 * qp + 8 * eng + q

/-- The offset of a queue's registers in its page (R261). -/
def qOff (eng q : Nat) : Nat := 0x100 + (8 * eng + q) * 0x20

/-- The requester a command's own accesses are made by: its engine, for its page's partition or the module (R195, R196). -/
def Started.who (c : Started) : MemWho := { whoOf c.page with eng := if h : c.eng < 5 then some ⟨c.eng, h⟩ else none }

def Started.qnum (c : Started) : Nat := qNum c.page c.eng c.q

/-- The identity (page, engine, queue, SEQ) of a started command. -/
def Started.key (c : Started) : Nat × Nat × Nat × Nat := (c.page, c.eng, c.q, c.seq)

def refKey (c : CmdRef) : Nat × Nat × Nat × Nat := (c.page.val, c.eng.val, c.q.val, c.seq.toNat)

def State.findCmd (s : State) (k : Nat × Nat × Nat × Nat) : Option Started := s.started.find? (fun c => c.key == k)

/-- A started command that its opcode's row has not taken up yet. -/
def State.taken (s : State) (c : CmdRef) (opcode : Nat) : Option Started :=
  (s.findCmd (refKey c)).filter (fun x => x.opcode == opcode && x.phase == .taken)

def State.setCmd (s : State) (c : Started) : State :=
  s.setStarted (s.started.map (fun x => if x.key == c.key then c else x))

def State.dropCmd (s : State) (c : Started) : State := s.setStarted (s.started.filter (fun x => x.key != c.key))

/-- QUEUE byte of R270. -/
def queueByte (eng q : Nat) (internal : Bool) : Nat := q + 8 * eng + (if internal then 128 else 0)

/-- What a command's ending adds to its records. -/
structure EndInfo where
  reason : Nat := 0
  result : List Byte := []
  dua : Option Nat := none
  detail : Nat := 0
  fabric : Nat := 0
  id : Nat := 0
  idGen : Nat := 0
  wax : Nat := 0
deriving DecidableEq, Repr

/-- The COMMAND record of a command (R270). -/
def Started.comp (c : Started) (now status : Nat) (i : EndInfo) : CRec :=
  { kind := 0, status := status, reason := i.reason, opcode := c.opcode, queue := queueByte c.eng c.q false, seq := c.seq, tag := c.tag,
    part := partOfQp c.page, cookie := c.cookie, elapsed := now - c.start, result := i.result, notify := c.notify }

/-- The error record of a command (R275). -/
def Started.err (c : Started) (now kind status : Nat) (i : EndInfo) : ERec :=
  { kind := kind, status := status, reason := i.reason, opcode := c.opcode, queue := queueByte c.eng c.q false, seq := c.seq, tag := c.tag,
    part := partOfQp c.page, cookie := c.cookie, time := now, dua := i.dua.getD (firstDua c.opcode c.ops), id := i.id, idGen := i.idGen,
    wax := i.wax, fabric := i.fabric, detail := i.detail }

/-! ## Conservation audits (R228, R367 to R371) -/

/-- Credits of a channel per link and direction (R226). -/
def vcTotal (vc : Nat) : Nat := if vc = 0 then 128 else if vc = 2 then 1024 else 2048

def Link.chan (l : Link) (vc : Nat) : Chan := AMap.get {} l.chans vc
def Link.setChan (l : Link) (vc : Nat) (c : Chan) : Link := { l with chans := AMap.put {} l.chans vc c }

/-- A failed check (R369): MISMATCH and the index field of the audit register, the AUDIT event of MC, and the record of KIND 7 to QPM. A MISMATCH that
software has not cleared since is not reported again (DESIGN CHOICE, log entry 163). -/
def State.breach (s : State) (law page off bits index : Nat) : State :=
  let w := s.rd page off
  let m := BitVec.ofNat 32 bits
  if w &&& m = m then s
  else
    ((s.wr page off ((w &&& 0xFFFF) ||| m ||| BitVec.ofNat 32 (index * 65536))).raise pgMC 0).report 32
      { kind := 7, status := 0, part := 63, time := s.nowUs, detail := law + index * 65536 }

/-- Is the audit of a resource suspended: has the fence of a domain that holds it closed, and step 4 of R338 not ended (R368)? -/
def State.auditHeld (s : State) (holds : Nat → Bool) : Bool := s.resets.any (fun r => r.phase == 1 && (r.dom == 0xFF || holds r.dom))

/-- The flits a link's channel holds in its receive buffer (R229). -/
def State.buffered (s : State) (n vc : Nat) : Nat :=
  (s.fab.flows.map (fun w => if w.vc = vc then (w.early.filter (fun e => e.1 == n)).length else 0)).sum

/-- Law 0 for one link: per channel, the credits held and those in flight, and the flits buffered, are all accounted for. -/
def State.checkLink (s : State) (n : Nat) : State :=
  let l := s.link n
  if l.st ≠ .up then s
  else
    let bad := fun (v : Nat) => decide ((l.chan v).held + (l.chan v).flight ≠ vcTotal v) || decide ((l.chan v).buf ≠ s.buffered n v)
    [0, 1, 2, 3].foldl (fun (s : State) v => if bad v then (s.breach 0 (pgFL n) 0x048 (2 ^ v) 0).raise (pgFL n) 3 else s) s

/-- Law 1 for one queue: its commands taken less its endings are its commands outstanding. -/
def State.checkQueue (s : State) (n : Nat) : State :=
  let x := s.queue n
  if x.taken = x.ended + (s.started.filter (fun c => c.qnum == n)).length then s
  else s.breach 1 (pgQP (n / 40)) 0x040 1 (n % 40)

/-- Fetches in transfer (R148, R164). -/
def State.transfers (s : State) : Nat := (s.wx.fetches.filter (fun f => f.st == .transfer)).length

/-- Law 2: the credits taken are those of the fetches in transfer, and the partitions' park entries sum to DEPTH. -/
def State.checkFetch (s : State) : State :=
  let s1 := if s.wx.inUse = s.transfers then s else s.breach 2 pgWX 0x080 1 0
  let sum := ((List.range 32).map (fun p => (s.parks.filter (fun k => k.part == p)).length)).sum
  if sum = s.parks.length then s1 else s1.breach 2 pgWX 0x080 2 0

/-- Law 3 for one semaphore. -/
def State.checkSem (s : State) (n : Nat) : State :=
  let m := s.sem n
  if (m.value : Int) + m.held = m.ledger then s else s.breach 3 pgRK 0x054 1 n

/-- Law 5 broken by a stride of a partition: the audit register, and AUDIT_FAULTS (R369, R371, R381). -/
def State.tokenMismatch (s : State) (p : Nat) : State :=
  let s1 := s.breach 5 pgMT 0x040 1 p
  s1.setMeter { s1.meter with auditFaults := s1.meter.auditFaults + 1 }

/-- The checks of R367 where they fall, while they are not suspended (R368). -/
def State.auditLink (s : State) (n : Nat) : State := if s.auditHeld (· == 0x70 + n) then s else s.checkLink n
def State.auditQueue (s : State) (n : Nat) : State := if s.auditHeld (· == 0x48 + n / 40) then s else s.checkQueue n
def State.auditFetch (s : State) : State := if s.auditHeld (fun d => decide (0x48 ≤ d) && decide (d < 0x68)) then s else s.checkFetch
def State.auditSem (s : State) (n : Nat) : State := if s.auditHeld (fun d => decide (0 < (s.sem n).held) && decide ((s.sem n).hDom = d)) then s else s.checkSem n

/-- A queue that was disabled while commands ran is DISABLED once they have ended (R261, R287). -/
def State.settleQueue (s : State) (n : Nat) : State :=
  let q := s.queue n
  if q.closing && !(s.started.any (fun c => c.qnum == n)) then s.setQueue n { q with st := .disabled, closing := false } else s

/-- A command's ending (R273): its COMMAND record unless QUIET and OK, the counters, and the error record of R275. -/
def State.finish (s : State) (c : Started) (status : Nat) (i : EndInfo := {}) : State :=
  let s2 := if c.quiet && decide (status = 0) then s else s.complete c.page (c.comp s.nowUs status i)
  let s3 := s2.bump (pgQP c.page) 0x020 1
  let s4 := if status = 1 then s3.bump (pgQP c.page) 0x028 1 else s3
  let s5 := if [1, 2, 4, 5, 6].contains status then s4.report c.page (c.err s.nowUs (if status = 4 then 1 else 0) status i) else s4
  let s6 := if c.eng = 3 then s5.bump pgCP 0x028 1 else s5
  (s6.setQueue c.qnum { s6.queue c.qnum with ended := (s6.queue c.qnum).ended + 1 }).auditQueue c.qnum

/-- A started command ends: it is no longer outstanding, and its queue settles. -/
def State.endCmd (s : State) (c : Started) (status : Nat) (i : EndInfo := {}) : State :=
  ((s.dropCmd c).finish c status i).settleQueue c.qnum

/-- A command refused with a reason (R272, R275). -/
def State.refuseCmd (s : State) (c : Started) (reason : Nat) (i : EndInfo := {}) : State := s.endCmd c 1 { i with reason := reason }

/-- A command ended by its identity, if it is still open. -/
def State.endByKey (s : State) (k : Nat × Nat × Nat × Nat) (status : Nat) (i : EndInfo := {}) : State :=
  match s.findCmd k with | some c => s.endCmd c status i | none => s

/-- The shard of the loaded base that holds a DUA (R218). -/
def State.shardAt (s : State) (dua : Nat) : Option (Nat × Shard) :=
  match s.lift.base with
  | some m => (m.shards.find? (fun d => d.number == Config.baseShardAt m.baseId dua)).map (fun d => (d.number, d))
  | none => none

/-- A poisoned line of a BASE page or a window buffer: the lift reads its shard again, and a window expert counts as not landed until then (R217). -/
def State.rewriteShard (s : State) (dua : Nat) : State :=
  match s.shardAt dua with
  | some (n, d) =>
    let bufs := match d.routed with
      | some (l, e) => s.lift.bufs.map (fun b => if b.layer = l then { b with landed := b.landed.filter (· ≠ e) } else b)
      | none => s.lift.bufs
    s.setLift { s.lift with bufs := bufs, rewriting := if s.lift.rewriting.contains n then s.lift.rewriting else s.lift.rewriting ++ [n] }
  | none => s

/-- A memory refusal or TAG_FAIL that a command met, as its ending (R217, R275). A command whose line is the base's waits for the rewrite: it stands as
it was taken, and is carried out again when it comes next. -/
def State.failCmd (s : State) (c : Started) (e : Nat ⊕ Nat) (dua : Nat) : State :=
  match e with
  | .inl r => s.refuseCmd c r { dua := some dua }
  | .inr d => if (s.page (d / pageSize)).owner = 62 then s.rewriteShard d else s.endCmd c 5 { dua := some d }

/-- An error record of a slot, hold entry or other context (R275), not of a command. -/
def State.reportCtx (s : State) (p kind status reason : Nat) (i : EndInfo := {}) : State :=
  s.report p { kind := kind, status := status, reason := reason, part := partOfQp p, time := s.nowUs, dua := i.dua.getD 0, id := i.id,
               idGen := i.idGen, wax := i.wax, fabric := i.fabric, detail := i.detail }

/-- The current settings (R350): of the areas whose digest checks and that are committed, the one with the higher SEQ. -/
def State.settings (s : State) : Settings :=
  let ok := fun (x : Settings) => x.digestOk && !x.uncommitted
  if ok s.mc.sa1 && (!ok s.mc.sa0 || decide (s.mc.sa0.seq < s.mc.sa1.seq)) then s.mc.sa1
  else if ok s.mc.sa0 then s.mc.sa0 else {}

/-! ## Resources -/

/-- A generation's step (R105, R278). -/
def genStep (g : Nat) : Nat := if g = 0xFFFF then 1 else g + 1

/-- A queue generation's step (R279). -/
def qGenStep (g : Nat) : Nat := if g = 255 then 1 else g + 1

/-- A fetch tag generation's step (R151). -/
def tagGenStep (g : Nat) : Nat := if g = 127 then 1 else g + 1

def State.framesUsed (s : State) (tier : Nat) : Nat :=
  (s.mem.pmap.filter (fun e => e.2.valid && e.2.tier == tier)).length + (s.mem.migr.filter (fun e => e.2.tier == tier)).length

def dramFrames : Nat := 393216

/-- Frames of the coherent tier: COH_FRAMES, none without a CXL link (R391, R403). -/
def State.cohFrames (s : State) : Nat :=
  if s.host.mode = 2 || s.host.mode = 4 then fld (s.frc pgHI 0x050) 22 0 else 0

/-- Free DRAM and coherent frames (R200): no DRAM frame is free before DRAM is trained (R222, R428). -/
def State.dramFree (s : State) : Nat := if 2 < s.mc.step then dramFrames - s.framesUsed 1 else 0
def State.cohFree (s : State) : Nat := s.cohFrames - s.framesUsed 2

/-- A frame number of a tier that neither backs a page nor is reserved: which one is free (log entry 3). -/
def State.pickFrame (s : State) (tier : Nat) : Nat × State :=
  let used := (s.mem.pmap.filter (fun e => e.2.valid && e.2.tier == tier)).map (·.2.frame) ++
    (s.mem.migr.filter (fun e => e.2.tier == tier)).map (·.2.frame)
  let total := if tier = 1 then dramFrames else s.cohFrames
  let f0 := (s.pick total).1
  let cand := (List.range (used.length + 1)).map (fun i => (f0 + i) % total)
  ((cand.find? (fun f => !used.contains f)).getD 0, (s.pick total).2)

/-- Is every frame in one state: backing one page, or reserved to one migration (R200)? -/
def State.framesSound (s : State) : Bool :=
  [1, 2].all (fun tier =>
    let used := (s.mem.pmap.filter (fun e => e.2.valid && e.2.tier == tier)).map (·.2.frame) ++
      (s.mem.migr.filter (fun e => e.2.tier == tier)).map (·.2.frame)
    decide used.Nodup)

/-- Law 4, the frame audit of R200: a breach sets MISMATCH with its event (R222, R224). -/
def State.checkFrames (s : State) : State := if s.framesSound then s else (s.breach 4 pgMS 0x04C 1 0).raise pgMS 2

/-- Frames of pages a partition owns (R306). -/
def State.framesOf (s : State) (p : Nat) : Nat := (s.mem.pmap.filter (fun e => e.2.valid && e.2.owner == p)).length

/-- The loaded base's layer count. -/
def State.layers (s : State) : Nat := match s.lift.base with | some b => b.layers.length | none => 0

/-- The number of segments of the loaded base (R179). -/
def State.segments (s : State) : Nat := (s.layers + 7) / 8

/-! ## Pipeline layouts (R255) -/

/-- The bounds of R255 on a base of `s` segments: p 2 or more, v from 2 to 8, every group a whole number of segments and together all of them. -/
def layoutOk (y : Layout) (s : Nat) : Bool :=
  decide (2 ≤ y.modules) && decide (2 ≤ y.perModule) && decide (y.perModule ≤ 8) && decide (y.perModule * y.modules ≤ s) &&
  decide (y.rank < y.modules) && decide (y.sizes.length = y.perModule * y.modules) && y.sizes.all (fun n => decide (1 ≤ n)) &&
  decide (y.sizes.sum = s)

/-- The group of a segment, from the sizes of the groups in order. -/
def groupOfSeg : List Nat → Nat → Nat
  | [], _ => 0
  | n :: ns, j => if j < n then 0 else 1 + groupOfSeg ns (j - n)

/-- Is a segment on this module: group g lies on rank g mod p (R255)? -/
def layoutHas (y : Layout) (j : Nat) : Bool := decide (groupOfSeg y.sizes j % y.modules = y.rank)

/-- A stride context runs the segments of its own groups alone (R255). -/
def Se.owns (e : Se) (j : Nat) : Bool := match e.layout with | some y => layoutHas y j | none => true

/-- What leaves this module at the end of a segment's pass: activations to the next group's module, gradients to the one before, as a flow on VC1
(R255). -/
def State.stageOut (s : State) (p j layer : Nat) (gradient : Bool) : State :=
  match (s.seOf p).layout with
  | none => s
  | some y =>
    let g := groupOfSeg y.sizes j
    let edge := if gradient then decide (0 < j) && decide (groupOfSeg y.sizes (j - 1) ≠ g) else decide (j + 1 < y.sizes.sum) && decide (groupOfSeg y.sizes (j + 1) ≠ g)
    if layoutHas y j && edge then s.emit (.stage ((if gradient then g - 1 else g + 1) % y.modules) layer gradient) else s

/-- Where firmware has placed a table once DRAM is trained: 0 rerun, 1 detour, 2 deadline, 3 peer, 4 group, 5 page tables, 6 placement table (R115, R205,
R223, R236, R258, R396, R422; log entry 33). -/
def State.tableLoc (s : State) (k : Nat) : Nat := if 2 < s.mc.step then Config.tablePlace k else 0

/-- A rerun-table entry, a detour-table entry and a loss-table entry (R56, R127, R173). -/
def State.rerunEnt (s : State) (l : Nat) : RerunEnt := AMap.get {} s.mc.bundle.rerun l
def State.detourEnt (s : State) (l : Nat) : DetourEnt := AMap.get {} s.mc.bundle.detour l
def State.lossEnt (s : State) (n : Nat) : LossEnt := s.mc.bundle.loss.getD n {}

/-- The ordered profile in force for a partition, if ordered mode is (R358). -/
def State.profileOf (s : State) (p : Nat) : Option Nat := if (s.seOf p).ordered then some (s.seOf p).profile else none

end Sys2Proof.Machine
end

