-- ==== Sys2Proof/Machine/Queues.lean ====
section
/-!
DEFINITION. Command queues (R260 to R288): taking, checking and starting commands, doorbells, enabling, disabling and restarting queues,
hangs and their teardown, and held records.
-/

namespace Sys2Proof.Machine

/-! ## Taking a command (R264 to R268, R274, R279, R360) -/

/-- The register page of the block that must be ENABLED for an engine to start work of a queue page (R26, R413); the SE queues
of QPM have no stride engine page of their own. -/
def engPage (eng qp : Nat) : Option Nat :=
  match eng with
  | 0 => if qp < 32 then some (pgSE qp) else none
  | 1 => some pgLF
  | 2 => some pgWX
  | 3 => some pgCP
  | _ => some pgCL

/-- Bytes of a record in a ring (R286). -/
def recBytes (format : Nat) : Nat := if format = 2 then 32 else 64

/-- A queue's configuration word, its ring's size and base (R261, R287). -/
def State.qcfg (s : State) (qp eng q : Nat) : Word := s.rd (pgQP qp) (qOff eng q + 8)
def State.qSize (s : State) (qp eng q : Nat) : Nat := 2 ^ fld (s.qcfg qp eng q) 4 0
def State.qBase (s : State) (qp eng q : Nat) : Nat := s.rd64 (pgQP qp) (qOff eng q)
def State.qFormat (s : State) (qp eng q : Nat) : Nat := fld (s.qcfg qp eng q) 6 5
def State.qPrio (s : State) (qp eng q : Nat) : Nat := fld (s.qcfg qp eng q) 9 8

/-- The DUA of the record at a queue's head (R262). -/
def State.headAddr (s : State) (qp eng q : Nat) : Nat :=
  s.qBase qp eng q + recBytes (s.qFormat qp eng q) * ((s.queue (qNum qp eng q)).head.toNat % s.qSize qp eng q)

/-- R360: in ordered mode the SE and WX queues of a partition give only the records of the current cut, SE before WX and lower
queue numbers first. -/
def State.cutAllows (s : State) (qp eng q : Nat) : Bool :=
  if qp < 32 && (s.seOf qp).ordered && (eng = 0 || eng = 2) then
    match (s.seOf qp).cutBound with
    | none => false
    | some b =>
      let more := fun n => decide ((s.queue n).head ≠ AMap.get (s.queue n).head b n)
      let before := (List.range 8).map (fun i => qNum qp 0 i) ++ (List.range 8).map (fun i => qNum qp 2 i)
      more (qNum qp eng q) && (before.takeWhile (· ≠ qNum qp eng q)).all (fun n => !more n)
  else true

/-- Does the state of the page's partition let its commands be taken (R297, R340, R347)? -/
def State.pageTakes (s : State) (qp : Nat) : Bool :=
  decide (s.mc.bank = .normal) && !(s.hdr (pgQP qp)).fenced &&
  (decide (32 ≤ qp) || decide ((s.pt qp).st = .enabled) || decide ((s.pt qp).st = .freezing))

/-- Is the engine's own domain closed, apart from the queue's: the lift's (R335, R338)? A request that arrives there completes FENCED. -/
def State.edgeFenced (s : State) (eng : Nat) : Bool := decide (eng = 1) && (s.hdr pgLF).fenced

/-- Can the record at the head of a queue be started now, or be turned away at a fenced edge (R266, R274, R338)? -/
def State.startable (s : State) (qp eng q : Nat) : Bool :=
  let n := qNum qp eng q
  let x := s.queue n
  decide (x.st = .running) && !x.closing && decide (x.head ≠ x.tail) && (s.heldOf qp).comp.isEmpty && s.pageTakes qp &&
  (s.edgeFenced eng || (match engPage eng qp with | some pg => s.enabled pg && !(s.hdr pg).fenced && !(s.hdr pg).stopping | none => true)) &&
  s.cutAllows qp eng q &&
  (!(s.byteAt (s.headAddr qp eng q + 1)).getLsbD 0 || !(s.started.any (fun c => c.qnum == n)))

/-- The next number in turn: the first candidate from `last` on, else the first (R266). -/
def inTurn (last : Nat) (cands : List Nat) : Option Nat :=
  match cands.find? (fun c => decide (last ≤ c)) with
  | some c => some c
  | none => cands.head?

/-- The page and queue an engine serves next, with the turns advanced (R266). -/
def State.chooseAt (s : State) (eng prio : Nat) : Option (Nat × Nat × State) :=
  let ok := fun qp q => decide (s.qPrio qp eng q = prio) && s.startable qp eng q
  let pages := (List.range 33).filter (fun qp => (List.range 8).any (ok qp))
  match inTurn (AMap.get 0 s.evq.turnPage (4 * eng + prio)) pages with
  | none => none
  | some qp =>
    match inTurn (AMap.get 0 s.evq.turnQ (20 * qp + 4 * eng + prio)) ((List.range 8).filter (ok qp)) with
    | none => none
    | some q =>
      some (qp, q, s.setEvq { s.evq with
        turnPage := AMap.put 0 s.evq.turnPage (4 * eng + prio) (qp + 1)
        turnQ := AMap.put 0 s.evq.turnQ (20 * qp + 4 * eng + prio) (q + 1) })

/-- The highest priority with a head that can start (R266). -/
def State.choose (s : State) (eng : Nat) : Option (Nat × Nat × State) :=
  match s.chooseAt eng 3 with
  | some r => some r
  | none =>
    match s.chooseAt eng 2 with
    | some r => some r
    | none => match s.chooseAt eng 1 with | some r => some r | none => s.chooseAt eng 0

/-- The pop of an engine's doorbell queue (R283), and the push again of the doorbells that wait as per-queue bits (R284). -/
def State.popBell (s : State) (eng : Nat) : State :=
  let l := (AMap.get [] s.evq.bells eng).drop 1
  let waiting := (List.range (33 * 8)).filterMap (fun i =>
    let n := qNum (i / 8) eng (i % 8)
    if (s.queue n).bell then some n else none)
  let room := waiting.take (64 - l.length)
  let s1 := room.foldl (fun s n => s.setQueue n { s.queue n with bell := false }) s
  s1.setEvq { s1.evq with bells := AMap.put [] s1.evq.bells eng (l ++ room) }

/-- A group's GEN in the group table (R245), for translated collectives (R286). -/
def State.groupGen (s : State) (id : Nat) : Nat :=
  match s.fab.groups.find? (fun g => g.1 == id) with | some g => g.2.gen | none => 0

/-- The queue enters STOPPED (R264, R279, R281). -/
def State.stopQueue (s : State) (qp n : Nat) : State :=
  (s.setQueue n { s.queue n with st := .stopped }).raise (pgQP qp) 5

/-- The started form of a command record. -/
def startedOf (c : Cmd) (qp eng q now : Nat) : Started :=
  let b := match opRow c.opcode with | some o => o.budget | none => 0
  { page := qp, eng := eng, q := q, seq := c.seq, tag := c.tag, opcode := c.opcode, notify := c.notify, quiet := c.quiet,
    fenceBit := c.fence, cookie := c.cookie, budget := if c.budget = 0 then b else c.budget, start := now, ops := c.ops }

/-- The SEQ of a v3 record extended to 16 bits (R286). -/
def extendSeq (x : Queue) (s8 : Nat) : Nat :=
  match x.expSeq with
  | some e => if e % 256 = s8 then e else (e / 256) * 256 + s8
  | none => x.seqHi * 256 + s8

/-- A record taken from a queue: SKIPPED by its TAG, then the SEQ of R279, then the checks of R268, FENCED at a closed edge (R338), then started. -/
def State.takeRecord (s : State) (qp eng q : Nat) (r : List Byte) : State :=
  let n := qNum qp eng q
  let x := s.queue n
  let f := s.qFormat qp eng q
  let c := if f = 0 then cmdV5 r else if f = 1 then cmdV4 r x.gen s.groupGen else cmdV3 r x.gen (extendSeq x (field r 2 2))
  let st := startedOf c qp eng q s.nowUs
  let s1 := s.setQueue n { x with head := x.head + 1, taken := x.taken + 1 }
  if c.tag ≠ x.gen then s1.finish st 13 { reason := 0x0262 }
  else if match x.expSeq with | some e => decide (c.seq ≠ e) | none => false then
    (s1.finish st 1 { reason := 0x0702 }).stopQueue qp n
  else
    let s2 := s1.setQueue n { s1.queue n with expSeq := some ((c.seq + 1) % 65536), seqHi := (c.seq + 1) % 65536 / 256 }
    match cmdCheck c eng qp with
    | some reason => s2.finish st 1 { reason := reason }
    | none => if s2.edgeFenced eng then s2.finish st 3 {} else (s2.setStarted (s2.started ++ [st])).auditQueue n

/-- An engine starts its next command (R265, R266). A ring that cannot be read stops its queue with an error record that names
the address (log entry 17). -/
def State.startNext (s : State) (eng : Nat) : State :=
  match s.choose eng with
  | none => s
  | some (qp, q, s1) =>
    let a := s1.headAddr qp eng q
    match s1.load (whoOf qp) a (recBytes (s1.qFormat qp eng q)) with
    | .ok (r, s2) => s2.takeRecord qp eng q (padTo 64 r)
    | .error (.inl reason) =>
      (s1.report qp { kind := 0, status := 1, reason := reason, queue := queueByte eng q false, tag := (s1.queue (qNum qp eng q)).gen,
                      part := partOfQp qp, time := s1.nowUs, dua := a }).stopQueue qp (qNum qp eng q)
    | .error (.inr d) =>
      (s1.report qp { kind := 4, status := 5, queue := queueByte eng q false, tag := (s1.queue (qNum qp eng q)).gen,
                      part := partOfQp qp, time := s1.nowUs, dua := d }).stopQueue qp (qNum qp eng q)

/-- COMMAND_START (R264 to R268, R279, R283). -/
def execCommandStart (eng : Fin 5) (s : State) : Host.Outcome State Fault Refusal :=
  .next ((s.popBell eng.val).startNext eng.val)

/-! ## Doorbells (R264, R283, R284) -/

/-- The error record of R264 for a tail beyond the ring. -/
def State.tailError (s : State) (qp eng q : Nat) (v : Word) : State :=
  s.report qp { kind := 0, status := 1, reason := 0x0265, queue := queueByte eng q false, tag := (s.queue (qNum qp eng q)).gen,
                part := partOfQp qp, time := s.nowUs, dua := s.qBase qp eng q, detail := v.toNat }

/-- A RUNNING queue whose tail lies beyond its ring enters STOPPED (R264). -/
def State.checkTail (s : State) (qp eng q : Nat) : State :=
  let n := qNum qp eng q
  let x := s.queue n
  if decide (x.st = .running) && decide (s.qSize qp eng q < (x.tail - x.head).toNat) then
    (s.tailError qp eng q x.tail).stopQueue qp n
  else s

/-- The push of a doorbell, with a coincident pop or without (R283, R284). -/
def State.pushBell (s : State) (eng n : Nat) (popNow : Bool) : State :=
  let l := AMap.get [] s.evq.bells eng
  let l1 := if popNow && decide (0 < l.length) then l.drop 1 else l
  if l.length < 64 then (s.setEvq { s.evq with bells := AMap.put [] s.evq.bells eng (l1 ++ [n]) })
  else
    let s1 := s.setEvq { s.evq with bells := AMap.put [] s.evq.bells eng l1 }
    s1.setQueue n { s1.queue n with bell := true }

/-- A QTAIL write (R264). -/
def State.writeTail (s : State) (qp eng q : Nat) (v : Word) (popNow : Bool) : State :=
  let n := qNum qp eng q
  if (s.queue n).tail = v then s
  else ((s.setQueue n { s.queue n with tail := v }).checkTail qp eng q).pushBell eng n popNow

/-! ## QCFG (R261, R279, R282, R287) -/

/-- Formats an engine accepts (R285). -/
def formatOk (eng f : Nat) : Bool :=
  match eng with
  | 3 => decide (f ≤ 2)
  | 4 => decide (f ≤ 1)
  | _ => decide (f = 0)

/-- The checks of R261. -/
def State.qEnableCheck (s : State) (qp eng q : Nat) : Option Nat :=
  if s.qBase qp eng q % 64 ≠ 0 then some 0x023B
  else if fld (s.qcfg qp eng q) 4 0 < 6 || 16 < fld (s.qcfg qp eng q) 4 0 then some 0x0266
  else if !formatOk eng (s.qFormat qp eng q) then some 0x0603
  else if qp < 32 && (decide (s.gradeParts ≤ qp) || decide ((s.hearthsOf qp).length < 2)) then some 0x0110
  else none

/-- The stored fields of QCFG and its ENABLE bit. -/
def qcfgMask : Word := 0x0000037F

/-- A write of QCFG, without START (R261, R287). -/
def State.writeQcfg (s : State) (qp eng q : Nat) (v : Word) : State :=
  let n := qNum qp eng q
  let x := s.queue n
  let old := s.qcfg qp eng q
  let pg := pgQP qp
  let off := qOff eng q + 8
  if x.st = .disabled then
    let s1 := s.wr pg off (v &&& qcfgMask)
    if v.getLsbD 16 then
      match s1.qEnableCheck qp eng q with
      | some r => s1.refuse pg r
      | none => (s1.setQueue n { x with st := .running, gen := qGenStep x.gen, expSeq := none, closing := false }).checkTail qp eng q
    else s1
  else if old &&& 0x7F ≠ v &&& 0x7F then s.refuse pg 0x0704
  else if v.getLsbD 16 && x.closing then s.refuse pg 0x0704
  else
    let s1 := s.wr pg off (v &&& qcfgMask)
    if v.getLsbD 16 then s1 else (s1.setQueue n { x with closing := true }).settleQueue n

/-- QCFG.START (R282). -/
def State.restartQueue (s : State) (qp eng q : Nat) : State :=
  let n := qNum qp eng q
  let x := s.queue n
  if x.st = .stopped && !x.closing then (s.setQueue n { x with st := .running, expSeq := none }).checkTail qp eng q else s

/-! ## Aborting, hangs and teardown (R272, R280, R281) -/

/-- The destination of a COPY, FILL or collective (R267); its length stands in `aux` once the command has been taken up. -/
def dstOf (c : Started) : Option Nat :=
  match c.opcode with
  | 0x40 => some (field c.ops 24 31)
  | 0x41 => some (field c.ops 16 23)
  | 0x50 => some (field c.ops 32 39)
  | 0x51 => some (field c.ops 32 39)
  | 0x52 => some (field c.ops 32 39)
  | 0x53 => some (field c.ops 32 39)
  | 0x54 => some (field c.ops 32 39)
  | _ => none

/-- The destination of a command cut off: undefined bytes inside it, nothing outside (R272). A free value each byte. -/
def State.undefineDst (s : State) (c : Started) : State :=
  match dstOf c with
  | some d =>
    if c.phase = .taken then s
    else
      (s.storeTry c.who d ((List.range c.aux).map (fun i => Config.abortedByte s.freeCtr (d + i)))).setFreeCtr (s.freeCtr + 1)
  | none => s

/-- A tag index returns free and its generation steps (R151). -/
def State.freeTag (s : State) (f : Fetch) : State :=
  match f.tag with
  | some (i, g) => s.setWax { s.wx with tagGen := AMap.put 1 s.wx.tagGen i (tagGenStep g) }
  | none => s

/-- A fetch taken off the list: its credit returns (R148). -/
def State.dropFetch (s : State) (f : Fetch) : State :=
  let s1 := s.freeTag f
  let held := (s1.wx.fetches.filter (fun x => x.id == f.id && x.st == .transfer)).length
  (s1.setWax { s1.wx with fetches := s1.wx.fetches.filter (fun x => x.id ≠ f.id), inUse := s1.wx.inUse - held }).auditFetch

/-- A waxing slot released, with the inference slot and the frame reserved for it (R167). -/
def State.releaseWaxing (s : State) (w : Nat) : State :=
  let x := s.wxOf w
  let s1 := match x.reservedSlot with
    | some n => if (s.inf n).st = InfSt.reserved then s.setInf n { gen := genStep (s.inf n).gen } else s
    | none => s
  let s2 := s1.setWax { s1.wx with reservedFrames := s1.wx.reservedFrames.filter (· ≠ x.wax) }
  s2.setWx w { gen := genStep x.gen }

/-- A fetch that a command had opened ends with it: its slot free, its tag stepped, the waxing slot it should have filled released. -/
def State.withdrawFetch (s : State) (f : Fetch) : State :=
  let s1 := match f.slot with | some n => s.setInf n { gen := genStep (s.inf n).gen } | none => s
  let s2 := s1.dropFetch f
  let ws := (s2.wxs.filter (fun e => e.2.used && !e.2.ready && e.2.owner == f.part && e.2.wax == f.wax)).map (·.1)
  if f.kind == FetchKind.train then ws.foldl (fun s w => s.releaseWaxing w) s2 else s2

/-- What a command cut off still had waiting is withdrawn: boundary requests, program, its fetches (R281 step 2). A fetch that a
WAX_LOAD was answering is a miss again. -/
def State.withdraw (s : State) (c : Started) : State :=
  let s1 := s.setSes (AMap.mapAll {} (fun _ e => { e with reqs := e.reqs.filter (fun r => r.cmd != c.key) }) s.se)
  let s2 := (s1.wx.fetches.filter (fun f => f.cmd == some c.key)).foldl (fun s f => s.withdrawFetch f) s1
  let fs := s2.wx.fetches.map (fun f => if f.load == some c.key then { f with load := none, st := .miss, remote := none, slot := f.slot } else f)
  let held := (s2.wx.fetches.filter (fun f => f.load == some c.key && f.st == .transfer)).length
  let s3 := s2.setWax { s2.wx with fetches := fs, inUse := s2.wx.inUse - held }
  s3.setWxs (AMap.mapAll {} (fun _ w => if w.untrain == some c.key then { w with untrain := none } else w) s3.wxs)

/-- A command ended ABORTED (R272): an SE, LF or WX command has no effect. -/
def State.abortCmd (s : State) (c : Started) : State := ((s.withdraw c).undefineDst c).endCmd c 2

/-- The queue of a hung command torn down (R281). -/
def State.teardownQueue (s : State) (c : Started) : State :=
  let n := c.qnum
  let pg := pgQP c.page
  let s1 := ((s.withdraw c).undefineDst c).endCmd c 4 { detail := c.budget }
  let later := ((s.started.dropWhile (fun x => x.key != c.key)).drop 1).filter (fun x => x.qnum == n)
  let s2 := later.foldl (fun s x => s.abortCmd x) s1
  let x := s2.queue n
  let s3 := s2.setQueue n { x with gen := qGenStep x.gen, st := if x.closing || x.st = .disabled then x.st else .stopped }
  ((if x.st = .running && !x.closing then s3.raise pg 5 else s3).raise pg 2).bump pg 0x030 1

/-- COMMAND_HANG (R280, R281): the command is still running after the tick in which its budget expires. -/
def execCommandHang (c : CmdRef) (s : State) : Host.Outcome State Fault Refusal :=
  .next (match s.findCmd (refKey c) with
    | some x => if x.start + x.budget < s.nowUs then s.teardownQueue x else s
    | none => s)

end Sys2Proof.Machine
end

