-- ==== Sys2Proof/Machine/Access.lean ====
section
/-!
DEFINITION. Who a register access acts for and what it may reach (R6, R292, R310, R312, R346, R349, R353, R394, R408).
-/

namespace Sys2Proof.Machine

/-- A requester: the partition it acts for (none: the module), its world, and the domain of the interface it came through (R346). -/
structure Req where
  part : Option Nat
  secure : Bool
  dom : Nat
  host : Bool := false
deriving DecidableEq, Repr

/-- What an access comes to before the page's own rules: it cannot arrive, it is answered as it stands, it reaches a page that
reads as zero and ignores writes (R14, R408), or it reaches the page. -/
inductive Gate
  | absent
  | answered (s : State)
  | void (s : State)
  | pass (s : State) (r : Req)

def State.isUp (s : State) (dom : Nat) : Bool := s.up.contains dom

/-- The partition a PASID is bound to (R292). -/
def State.pasidOwner (s : State) (pasid : Nat) : Option Nat :=
  (List.range 32).find? (fun p => decide ((s.pt p).st ≠ .disabled) && (s.pt p).cur.pasids.contains pasid)

/-- Is a port's link up (R399)? `netUp` is 0 down, 1 up, 2 up at half rate, 3 training. -/
def State.portUp (s : State) (n : Nat) : Bool := decide (AMap.get 0 s.host.netUp n = 1) || decide (AMap.get 0 s.host.netUp n = 2)

/-- The error response of R6: 0xFFFF_FFFF to a read, nothing to a write. -/
def errorReply (write : Bool) : Reply := .errorResponse (if write then [] else [0xFF, 0xFF, 0xFF, 0xFF])

/-- The requester of an origin, or its answer (R292, R349, R394). -/
def State.requester (s : State) (o : Origin) (write : Bool) : Gate :=
  match o with
  | .host pasid rid =>
    if !s.host.linkUp then .absent
    else
      let driver := pasid.isNone && decide (rid = (s.rd pgHI 0x044).setWidth 16)
      if s.host.fenced && !(driver && decide (s.mc.bank = .banked)) then .answered (s.setReply .fenced)
      else
        match pasid with
        | some x =>
          match s.pasidOwner x.toNat with
          | some p => .pass s ⟨some p, false, 0x48 + p, true⟩
          | none => .answered ((s.bump pgHI 0x030 1).setReply (.refused 0x0405))
        | none => if driver then .pass s ⟨none, false, 0x80, true⟩ else .answered (s.setReply (errorReply write))
  | .mgmt port => if !s.portUp port.val then .absent else .pass s ⟨none, false, 0x81 + port.val, false⟩
  | .mc => if s.mc.running then .pass s ⟨none, true, 0x85, false⟩ else .absent
  | .firebox => if s.isUp 0x84 then .pass s ⟨none, true, 0x84, false⟩ else .absent

/-- The domain whose release a page's registers wait for (R353): MC, FB, FQ, MT, MQ and TB live on the standby side (log entry 18). -/
def pageDomain (k : Kind) (n : Nat) : Nat :=
  match k with
  | .mc => 0x85
  | .tb => 0x85
  | .mt => 0x85
  | .mq => 0x85
  | .fb => 0x84
  | .fq => 0x84
  | .hi => 0x80
  | .np => 0x81 + n
  | .lf => 0x83
  | .fl => 0x70 + n
  | .qd => 0x40 + n
  | .die => 0x68 + n
  | .ht => n
  | .se => 0x48 + n
  | .pt => 0x48 + n
  | .qp => 0x48 + n
  | .mb => 0x48 + n
  | .ms => 0xFF
  | .wx => 0xFF
  | .cl => 0xFF
  | .cp => 0xFF
  | .rk => 0xFF
  | .qpm => 0xFF

/-- May a requester reach a page (R289, R292, R386, R394, R408)? -/
def mayReach (r : Req) (k : Kind) (n : Nat) : Bool :=
  r.secure ||
  match r.part with
  | none => true
  | some p => (decide (k = .qp) || decide (k = .mb)) && decide (n = p)

/-- Pages that read as zero in every word (R14, R289, R408). -/
def State.voidPage (s : State) (k : Kind) (n : Nat) : Bool :=
  match k with
  | .ht => s.part.grade60 && s.part.fused.contains n
  | .pt => decide (s.gradeParts ≤ n)
  | _ => false

/-- CTRL.WORLD of a page (R312): FB always, LF while an installation is open. -/
def State.worldBit (s : State) (k : Kind) : Bool := decide (k = .fb) || (decide (k = .lf) && s.lift.openInstall)

/-- R312: the installation registers stay writable by the module while LF is at WORLD 1. -/
def installReg (off : Nat) : Bool := decide (0x060 ≤ off) && decide (off ≤ 0x070)

/-- A requester's 32-bit access of a window offset (R6, R7, R312, R353, R394, R408). -/
def State.gate (s : State) (r : Req) (off : Nat) (write : Bool) : Gate :=
  let page := off / 0x1000
  let po := off % 0x1000
  let bad := Gate.answered (s.setReply (errorReply write))
  if 0x3000 ≤ page && page ≤ 0x3008 then (if r.secure || (r.host && r.part.isNone) then .pass s r else bad)
  else
    match kindOf page with
    | none => bad
    | some (k, n) =>
      if !mayReach r k n then bad
      else if s.voidPage k n then .void (s.setReply (if write then .ok else .data [0, 0, 0, 0]))
      else if !s.isUp (pageDomain k n) then .answered (s.setReply .fenced)
      else if write && s.worldBit k && !r.secure && !(decide (k = .lf) && installReg po) then bad
      else .pass s r

/-- A 32-bit access of a window offset by an origin. -/
def State.access (s : State) (o : Origin) (off : Nat) (write : Bool) : Gate :=
  match s.requester o write with
  | .absent => .absent
  | .answered s' => .answered s'
  | .void s' => .void s'
  | .pass s' r => s'.gate r off write

/-- What an access that met its gate comes to: `f` where it passed. -/
def Gate.serve (g : Gate) (s : State) (f : State → Req → State) : State :=
  match g with
  | .absent => s
  | .answered s' => s'
  | .void s' => s'
  | .pass s' r => f s' r

/-- A write that passed its gate. -/
def State.withWrite (s : State) (o : Origin) (off : Nat) (f : State → Req → State) : State :=
  (s.access o off true).serve s (fun s' r => f (s'.setReply .ok) r)

/-- A read that passed its gate. -/
def State.withRead (s : State) (o : Origin) (off : Nat) (f : State → Req → State) : State := (s.access o off false).serve s f

/-- The requester a memory access acts as in the register window (R191, R346, R408). -/
def reqOf (w : MemWho) : Req :=
  { part := w.part.map (·.val), secure := w.secure,
    dom := match w.hearth, w.eng, w.part with
      | some h, _, _ => h.val
      | none, some 1, _ => 0x83
      | none, _, some p => 0x48 + p.val
      | none, _, none => 0xFF }

/-- The partition number an access acts for in records of R346: 63 for the module. -/
def Req.partNo (r : Req) : Nat := match r.part with | some p => p | none => 63

end Sys2Proof.Machine
end

