-- ==== Sys2Proof/Machine/Checks.lean ====
section
/-!
DEFINITION. The consistency checks (R410 to R413): each page's checks at ENABLE in their order, the partition checks of R293, and what a
check's outcome does.
-/

namespace Sys2Proof.Machine

/-! ## Partition values (R290, R291, R293) -/

/-- A register's value inside a check: as it stood in the cycle of the write (R411). -/
def snapVal (snap : List (Nat × Word)) (off : Nat) : Word := AMap.get 0 snap off

/-- The values of every register of a page as they stand now. -/
def State.snapOf (s : State) (page : Nat) : List (Nat × Word) :=
  match kindOf page with
  | none => []
  | some (k, _) => (regsOf k).map (fun r => (r.off, s.rd page r.off))

/-- The account list of R291 as the module reads it: for the partition, else for the module; what neither may read is zeros. -/
def State.readAccts (s : State) (p dua count : Nat) : List Nat :=
  let b := match s.load (seWho p) dua (4 * count) with
    | .ok (b, _) => b
    | .error _ => match s.load (whoOf 63) dua (4 * count) with | .ok (b, _) => b | .error _ => []
  (List.range count).map (fun i => field b (4 * i) (4 * i + 3))

/-- Logical hearths named by a mask pair. -/
def maskHearths (lo hi : Word) : List Nat :=
  (List.range 64).filter (fun i => if i < 32 then lo.getLsbD i else hi.getLsbD (i - 32))

/-- The values a partition's registers ask for (R290). -/
def State.ptAsked (s : State) (p : Nat) (v : Nat → Word) : PtForce :=
  { seq := fld (v 0x048) 12 0, inf := fld (v 0x04C) 13 0, wxs := fld (v 0x050) 10 0, frames := fld (v 0x054) 18 0,
    hearths := maskHearths (v 0x040) (v 0x044),
    pasids := ([v 0x058, v 0x05C, v 0x060, v 0x064].filter (fun w => w.getLsbD 31)).map (fun w => fld w 19 0),
    accts := s.readAccts p ((v 0x068).toNat + 2 ^ 32 * (v 0x06C).toNat) (fld (v 0x070) 6 0) }

def State.otherPts (s : State) (p : Nat) : List Nat :=
  (List.range 32).filter (fun q => decide (q ≠ p) && decide ((s.pt q).st ≠ .disabled))

def State.sumPts (s : State) (p : Nat) (f : PtForce → Nat) : Nat := ((s.otherPts p).map (fun q => f (s.pt q).cur)).sum

/-- The physical number of a logical hearth (R14). -/
def State.physical (s : State) (l : Nat) : Nat := s.physOf.getD l 64

/-- DRAM frames not used by BASE or MODULE pages (R290). -/
def State.tenantFrames (s : State) : Nat :=
  dramFrames - (s.mem.pmap.filter (fun e => e.2.valid && e.2.tier == 1 && (e.2.owner == 62 || e.2.owner == 63))).length

/-- Current use of a partition's resources (R293 check 10). -/
def State.seqUsed (s : State) (p : Nat) : Nat := (s.slots.filter (fun e => e.2.owner == p && e.2.st ≠ .free)).length
def State.infUsed (s : State) (p : Nat) : Nat := (s.infs.filter (fun e => e.2.owner == p && e.2.st ≠ .free)).length
def State.wxsUsed (s : State) (p : Nat) : Nat := (s.wxs.filter (fun e => e.2.owner == p && e.2.used)).length
def State.holdUsed (s : State) (p : Nat) : Nat := (s.holds.filter (fun e => e.2.owner == p && e.2.st ≠ .free)).length

def dupNat (l : List Nat) : Bool := !decide l.Nodup

/-- Checks 1 to 9 of R293. -/
def State.ptCheck (s : State) (p : Nat) (a : PtForce) (count : Nat) : Option Nat :=
  let others := s.otherPts p
  if s.gradeParts ≤ p then some 0x0259
  else if a.hearths.length < 2 then some 0x0110
  else if a.hearths.any (fun h => decide (s.gradeHearths ≤ h)) then some 0x0259
  else if a.hearths.any (fun h =>
      let x := s.hearth (s.physical h)
      (match x.owner with | some q => decide (q ≠ p) | none => false) || x.transit.isSome ||
      others.any (fun q => (s.pt q).cur.hearths.contains h || match (s.pt q).resize with | some r => r.hearths.contains h | none => false)) then some 0x0331
  else if 4096 < a.seq || a.inf < 1 || 8192 < a.inf || 1024 < a.wxs || 393216 < a.frames then some 0x0259
  else if a.inf < a.seq + 2 * a.wxs + 1 then some 0x0328
  else if 4096 < a.seq + s.sumPts p (·.seq) then some 0x050A
  else if 8192 < a.inf + s.sumPts p (·.inf) then some 0x050B
  else if 1024 < a.wxs + s.sumPts p (·.wxs) then some 0x050C
  else if s.tenantFrames < a.frames + s.sumPts p (·.frames) then some 0x050D
  else if a.pasids.isEmpty || dupNat a.pasids || a.pasids.any (fun x => others.any (fun q => (s.pt q).cur.pasids.contains x)) then some 0x0332
  else if count < 1 || 64 < count || a.accts.contains 0 then some 0x025A
  else none

/-- Checks 10 and 11 of R293, for a resize. -/
def State.ptResizeCheck (s : State) (p : Nat) (a : PtForce) : Option Nat :=
  if a.seq < s.seqUsed p || a.inf < s.infUsed p || a.wxs < s.wxsUsed p || a.frames < s.framesOf p ||
     fld (s.frc (pgSE p) 0x0F0) 14 0 < s.holdUsed p then some 0x0335
  else if (s.pt p).st ≠ .enabled || (s.pt p).resize.isSome then some 0x0704
  else none

/-! ## The checks of each page -/

/-- The first failing check of a list of (fails, reason). -/
def firstFail (l : List (Bool × Nat)) : Option Nat := (l.find? (·.1)).map (·.2)

def misaligned (w : Word) : Bool := decide (w.toNat % 64 ≠ 0)

/-- The hold-quota sum of R168. -/
def State.holdQuotaSum (s : State) (p : Nat) (own : Nat) : Nat :=
  own + (((List.range 32).filter (fun q => decide (q ≠ p) && s.enabled (pgSE q))).map (fun q => fld (s.frc (pgSE q) 0x0F0) 14 0)).sum

/-- A way named by two masks (R203). -/
def wayClash (ms : List Word) : Bool :=
  (List.range 32).any (fun w => decide (1 < (ms.filter (fun m => m.getLsbD w)).length))

/-- The checks at ENABLE of a page, in the order of its chapter (R411): R130, R164, R223, R203, R234, R235, R227, R257, R258, R287, R293, R308,
R354, R391, R333, R386, R97. -/
def State.enableCheck (s : State) (page : Nat) (snap : List (Nat × Word)) : Option Nat :=
  let v := snapVal snap
  match kindOf page with
  | none => none
  | some (k, n) =>
    match k with
    | .se => firstFail
      [(decide ((s.hearthsOf n).length = 0), 0x0110), (!s.meter.present, 0x0117),
       (let m := fld (v 0x040) 14 0
        decide (m < 4112) || decide (16384 < m) || decide (m % 16 ≠ 0) || decide (m - 4096 < fld (v 0x040) 30 16), 0x0236),
       (decide (v 0x044 = 0), 0x0239), (misaligned (v 0x088), 0x023B), (decide (fld (v 0x090) 4 0 < 13), 0x0231),
       (misaligned (v 0x098), 0x023B), (decide (fld (v 0x0A0) 4 0 < 6) || decide (22 < fld (v 0x0A0) 4 0), 0x023A),
       (decide (16384 < s.holdQuotaSum n (fld (v 0x0F0) 14 0)), 0x0507), (decide (v 0x0F4 = 0), 0x023F),
       (let c := fld (v 0x0FC) 16 0
        decide (c < 512) || decide (98304 < c) || decide (c % 16 ≠ 0), 0x023D),
       (misaligned (v 0x108), 0x023B), (decide (fld (v 0x110) 4 0 < 6) || decide (14 < fld (v 0x110) 4 0), 0x023E)]
    | .wx => firstFail
      [(!s.mc.vaultMounted, 0x0115), (decide (fld (v 0x040) 9 0 = 0) || decide (512 < fld (v 0x040) 9 0), 0x0242),
       (decide (v 0x044 = 0), 0x0249), (misaligned (v 0x070), 0x023B),
       (decide (fld (v 0x078) 4 0 < 9) || decide (16 < fld (v 0x078) 4 0), 0x023C)]
    | .lf => firstFail
      [(!s.mc.vaultMounted, 0x0115), (decide (fld (v 0x040) 4 0 < 2) || decide (16 < fld (v 0x040) 4 0), 0x0251),
       (decide (fld (v 0x044) 10 0 < 100) || decide (1900 < fld (v 0x044) 10 0), 0x0252)]
    | .ms => firstFail [(wayClash (snap.filterMap (fun e => if 0x07C ≤ e.1 then some e.2 else none)), 0x0329)]
    | .fl =>
      let st := s.settings
      firstFail
      [(decide (s.rd pgCL 0x044 = 0), 0x011A),
       (decide (n = 0) && (decide (st.routePlanes ≠ 16) || st.routeTiers.any (fun t => t ≠ st.routeTiers.headD 0)), 0x0253),
       (decide (n = 0) && decide (32768 ≤ st.fabricId), 0x0257),
       (decide (fld (v 0x044) 3 0 = 0) || decide (fld (v 0x044) 7 4 = 0) || decide (fld (v 0x044) 11 8 = 0), 0x0254),
       ((v 0x04C).getLsbD 0 && decide (v 0x050 = 0), 0x011A)]
    | .cl => firstFail [(decide (v 0x048 = 0) || decide (v 0x04C = 0), 0x0258)]
    | .qp => firstFail
      [(misaligned (v 0x600), 0x023B), (decide (fld (v 0x608) 4 0 < 10) || decide (20 < fld (v 0x608) 4 0), 0x0267),
       (misaligned (v 0x620), 0x023B), (decide (fld (v 0x628) 4 0 < 6) || decide (16 < fld (v 0x628) 4 0), 0x0267)]
    | .qpm => firstFail
      [(misaligned (v 0x600), 0x023B), (decide (fld (v 0x608) 4 0 < 10) || decide (20 < fld (v 0x608) 4 0), 0x0267),
       (misaligned (v 0x620), 0x023B), (decide (fld (v 0x628) 4 0 < 6) || decide (16 < fld (v 0x628) 4 0), 0x0267)]
    | .pt =>
      match s.ptCheck n (s.ptAsked n v) (fld (v 0x070) 6 0) with
      | some r => some r
      | none =>
        match (if s.enabled page && s.ptAsked n v ≠ (s.pt n).cur then s.ptResizeCheck n (s.ptAsked n v) else none) with
        | some r => some r
        | none => firstFail [(decide (v 0x090 = 0), 0x025B), (decide (fld (v 0x0A8) 1 0 = 3), 0x025F)]
    | .hi => firstFail
      [(s.settings.hostless, 0x0111),
       (decide (((v 0x048).toNat) % 2 ^ 21 ≠ 0), 0x0269), (decide (7456540 < fld (v 0x050) 22 0), 0x026A),
       (decide (fld (v 0x050) 22 0 ≠ 0) && decide (s.host.mode ≠ 2) && decide (s.host.mode ≠ 4), 0x0111)]
    | .fq => firstFail
      [(misaligned (v 0x040), 0x023B), (decide (fld (v 0x048) 4 0 < 4) || decide (10 < fld (v 0x048) 4 0), 0x0268)]
    | .mq => firstFail
      [(misaligned (v 0x040), 0x023B), (decide (fld (v 0x048) 4 0 < 4) || decide (10 < fld (v 0x048) 4 0), 0x0268)]
    | .mc => firstFail
      [(decide (fld (v 0x10C) 15 0 < 10) || decide (10000 < fld (v 0x10C) 15 0), 0x025C),
       (decide (fld (v 0x114) 31 16 < 100) || decide (10000 < fld (v 0x114) 31 16), 0x025E)]
    | .ht => firstFail [(decide ((s.hearth n).owner = none), 0x0110)]
    | .fb => none
    | .mt => none
    | .np => none
    | .cp => none
    | .rk => none
    | .tb => none
    | .qd => none
    | .die => none
    | .mb => none

/-! ## Outcomes (R412) -/

/-- The checked bits of a register of a page, with the mask. -/
def chkOf (page off : Nat) : Word :=
  match kindOf page with
  | none => 0
  | some (k, _) => match regAt k off with | some r => r.chk | none => 0

/-- Checked values brought into force (R412). -/
def State.applyVals (s : State) (page : Nat) (vals : List (Nat × Word)) : State :=
  vals.foldl (fun s e =>
    let m := chkOf page e.1
    s.setForce page e.1 ((s.frc page e.1 &&& ~~~m) ||| (e.2 &&& m))) s

/-- A hearth given to a partition, unless it is FAILED (R342). -/
def State.giveHearth (s : State) (p l : Nat) : State :=
  let h := s.physical l
  if (s.hearth h).failed then s else s.setHearth h { s.hearth h with owner := some p }

/-- A partition becomes ENABLED: hearths taken, values in force (R293, R294). -/
def State.enablePt (s : State) (p : Nat) (a : PtForce) : State :=
  let s1 := a.hearths.foldl (fun s l => s.giveHearth p l) s
  s1.setPt p { s1.pt p with st := .enabled, cur := a }

/-- The outcome of a check on a page (R412); `snap` holds the values of the write's cycle. -/
def State.checkOutcome (s : State) (page : Nat) (snap : List (Nat × Word)) : State :=
  let h := s.hdr page
  match s.enableCheck page snap with
  | some r =>
    if h.enabled then s.setHdr page { h with refused := true, reason := BitVec.ofNat 16 r, enableBit := !h.stopping }
    else s.setHdr page { h with enableBit := false, refused := true, reason := BitVec.ofNat 16 r }
  | none =>
    let h1 := { h with refused := false, reason := 0, stopping := false }
    match kindOf page with
    | none => s
    | some (k, n) =>
      if h.enabled then
        match k with
        | .se => s.setHdr page { h1 with apply := snap }
        | .pt =>
          if s.ptAsked n (snapVal snap) = (s.pt n).cur then (s.setHdr page h1).applyVals page snap
          else ((s.setHdr page { h1 with apply := snap }).setPt n { s.pt n with resize := some (s.ptAsked n (snapVal snap)) }).setSe n { s.seOf n with resizeLate := decide ((s.seOf n).st = .boundary) }
        | _ => (s.setHdr page h1).applyVals page snap
      else
        let s1 := (s.setHdr page { h1 with enabled := true, enableBit := true }).applyVals page snap
        match k with
        | .pt => s1.enablePt n (s.ptAsked n (snapVal snap))
        | .se => s1.setSe n { s1.seOf n with cohortMax := fld (s1.frc page 0x0FC) 16 0 }
        | .qp => (s1.drainComp n (s1.heldOf n).comp).drainErr n (s1.heldOf n).err
        | .qpm => (s1.drainComp 32 (s1.heldOf 32).comp).drainErr 32 (s1.heldOf 32).err
        | _ => s1

end Sys2Proof.Machine
end

