-- ==== Sys2Proof/Machine/Resid.lean ====
section
/-!
DEFINITION. Residency of waxes (R139 to R145, R154), holds and slots: what is free, referenced, newest or evictable, and freeing each.
-/

namespace Sys2Proof.Machine

/-- A free member of a numbered collection of `total`, given the used ones: which is open (log entry 3). -/
def State.pickFree (s : State) (total : Nat) (used : List Nat) : Nat × State :=
  let r := s.pick total
  let cand := (List.range (used.length + 1)).map (fun i => (r.1 + i) % total)
  ((cand.find? (fun f => !used.contains f)).getD 0, r.2)

/-! ## Whole collections changed -/

def State.mapHolds (s : State) (f : Hold → Hold) : State := s.setHolds (AMap.mapAll {} (fun _ x => f x) s.holds)
def State.mapSlots (s : State) (f : Slot → Slot) : State := s.setSlots (AMap.mapAll {} (fun _ x => f x) s.slots)
def State.mapInfs (s : State) (f : InfSlot → InfSlot) : State := s.setInfs (AMap.mapAll {} (fun _ x => f x) s.infs)
def State.mapWxs (s : State) (f : WaxingSlot → WaxingSlot) : State := s.setWxs (AMap.mapAll {} (fun _ x => f x) s.wxs)
def State.mapQueues (s : State) (f : Nat → Queue → Queue) : State := s.setQueues (AMap.mapAll {} f s.queues)
def State.mapFetches (s : State) (f : Fetch → Fetch) : State := s.setWax { s.wx with fetches := s.wx.fetches.map f }
def State.mapParks (s : State) (f : Park → Park) : State := s.setParks (s.parks.map f)

/-! ## Inference slots -/

/-- The inference slot that holds the newest version of a wax in a partition (R140): resident and committed, the highest version. -/
def State.newestSlot (s : State) (p wax : Nat) : Option Nat :=
  (s.infs.foldl (fun (b : Option (Nat × Nat)) e =>
    if e.2.st = .valid && e.2.owner = p && e.2.wax = wax && !e.2.poisoned then
      (match b with
       | some (v, n) => if v < e.2.version then some (e.2.version, e.1) else some (v, n)
       | none => some (e.2.version, e.1))
    else b) none).map (·.2)

/-- The waxing slot a wax holds, anywhere on the module or in a partition (R146). -/
def State.waxingOf (s : State) (wax : Nat) : Option Nat := (s.wxs.find? (fun e => e.2.used && e.2.wax == wax)).map (·.1)
def State.waxingIn (s : State) (p wax : Nat) : Option Nat :=
  (s.wxs.find? (fun e => e.2.used && e.2.wax == wax && e.2.owner == p)).map (·.1)

/-- R141: is the version an inference slot holds referenced? -/
def State.referenced (s : State) (n : Nat) : Bool :=
  let x := s.inf n
  s.slots.any (fun e => e.2.st ≠ .free && e.2.inf == some n) ||
  s.se.any (fun e => e.2.rows.any (fun r => r.inf == some n)) ||
  (decide (s.newestSlot x.owner x.wax = some n) && (s.waxingIn x.owner x.wax).isSome)

/-- Slots reserved for a wax's next commit, or to be so once the cohort forwarded under their version is swept (R146, R183). -/
def State.reservedInf (s : State) (n : Nat) : Bool :=
  s.wxs.any (fun e => e.2.used && (e.2.reservedSlot == some n || e.2.old == some n))

/-- R154: is an inference slot evictable? A slot whose line was poisoned is never bound again and leaves with its last reference (R217). -/
def State.evictable (s : State) (n : Nat) : Bool :=
  let x := s.inf n
  decide (x.st = .valid) && !s.reservedInf n && !s.referenced n &&
  (decide (s.newestSlot x.owner x.wax ≠ some n) || (s.waxingIn x.owner x.wax).isNone)

/-- Invalidation of a slot's lines in every hearth's wax cache (R95). -/
def State.dropWaxLines (s : State) (n : Nat) : State :=
  s.setHearths (AMap.mapAll {} (fun _ h => { h with lines := h.lines.filter (fun l => l.slot ≠ n) }) s.hearths)

/-- An inference slot becomes free: generation stepped, cache lines invalidated (R95, R143). -/
def State.freeInf (s : State) (n : Nat) : State := (s.dropWaxLines n).setInf n { gen := genStep (s.inf n).gen }

/-- Slots of a partition not free (R143). -/
def State.infOf (s : State) (p : Nat) : List Nat := (s.infs.filter (fun e => e.2.owner == p && e.2.st ≠ .free)).map (·.1)

/-- The slot a partition's fetch or commit takes (R148, R153, R154): a free one within its quota, else of the evictable ones first those marked, then
the one bound longest ago. The eviction is part of it. -/
def State.takeInf (s : State) (p : Nat) : Option Nat × State :=
  if (s.infOf p).length < (s.pt p).cur.inf then
    let r := s.pickFree 8192 ((s.infs.filter (fun e => e.2.st ≠ .free)).map (·.1))
    (some r.1, r.2)
  else
    let cands := (s.infOf p).filter (fun n => s.evictable n)
    let marked := cands.filter (fun n => (s.inf n).evictMark)
    let pool := if marked.isEmpty then cands else marked
    match pool with
    | [] => (none, s)
    | c :: cs =>
      let best := cs.foldl (fun b n => if (s.inf n).lastStride < (s.inf b).lastStride then n else b) c
      (some best, (s.freeInf best).bump pgWX 0x030 1)

/-- A slot whose version lost its last reference after poisoning becomes free (R217). -/
def State.sweepPoisoned (s : State) : State :=
  s.infs.foldl (fun s e =>
    if e.2.poisoned && e.2.st = .valid && !s.slots.any (fun x => x.2.st ≠ .free && x.2.inf == some e.1) then s.freeInf e.1 else s) s

/-- The Account of a wax in a partition: its descriptor's, or the first of the account list for the bare base (R374). -/
def State.accountOf (s : State) (p wax : Nat) (inf : Option Nat) : Nat :=
  if wax = 0 then (s.pt p).cur.accts.headD 0
  else match inf with | some n => (s.inf n).rcd.desc.account | none => (s.pt p).cur.accts.headD 0

/-! ## Page pool (R116, R117) -/

/-- A page put back into the pool by the module, if it has room; the pool's producer is software, so the module appends behind it
(log entry 20). -/
def State.returnPage (s : State) (p dua : Nat) : State :=
  let r := ringPool p
  if s.ringRoom r = 0 then s
  else
    let x := s.rd r.ptrPage r.prod
    (s.storeTry (seWho p) (s.ringAddr r x) (leBytes dua 8)).wr r.ptrPage r.prod (x + 1)

def State.returnPages (s : State) (p : Nat) (l : List Nat) : State := l.foldl (fun s d => s.returnPage p d) s

/-- The DUAs of the non-SHARED pages of a table. -/
def ownPages (m : AMap KvPage) : List Nat := (m.filter (fun e => !e.2.shared)).map (fun e => e.2.dua)

/-- Bytes of a key/value page (R114). -/
def State.kvPageBytes (s : State) : Nat := s.layers * 19072

/-- Trace records a trace page holds (R169). -/
def State.traceCap (s : State) : Nat := s.kvPageBytes / 16

/-- Does a range of memory space meet a page? -/
def onPage (dua len page : Nat) : Bool := decide (dua < (page + 1) * pageSize) && decide (page * pageSize < dua + len)

/-- The promotion of everything a page table or a trace list lies on is called for (R197). -/
def State.wantPages (s : State) (pages : AMap KvPage) (trace : List Nat) : State :=
  (pages.map (·.2.dua) ++ trace).foldl (fun (s : State) d => s.wantRange d (max 1 s.kvPageBytes)) s

/-! ## Hold entries (R168 to R170) -/

/-- Free, unreserved hold entries of a partition. -/
def State.holdFree (s : State) (p : Nat) : Nat :=
  fld (s.frc (pgSE p) 0x0F0) 14 0 - (s.holds.filter (fun e => e.2.owner == p && (e.2.st ≠ .free || e.2.reserved))).length

/-- HOLD_LOW (R190): the free entries have fallen below 64. -/
def State.holdLow (s : State) (p before : Nat) : State := if 64 ≤ before && s.holdFree p < 64 then s.raise (pgSE p) 9 else s

/-- A hold entry becomes FREE (R168, R170): generation stepped, its pages back to the pool; out of its group instance and cohorts. -/
def State.freeHold (s : State) (h : Nat) : State :=
  let x := s.hold h
  let e := s.seOf x.owner
  let e1 := { e with groups := (e.groups.map (fun g => { g with members := g.members.filter (· ≠ h) })).filter (fun g => g.isOpen || !g.members.isEmpty)
                     collecting := { e.collecting with entries := e.collecting.entries.filter (· ≠ h) }
                     sweeping := { e.sweeping with entries := e.sweeping.entries.filter (· ≠ h) } }
  ((s.returnPages x.owner (ownPages x.pages ++ x.tracePages)).setHold h { gen := genStep x.gen }).setSe x.owner e1

/-- A reservation undone without the entry having left FREE (R169). -/
def State.unreserve (s : State) (h : Nat) : State := s.setHold h { gen := (s.hold h).gen }

/-! ## Sequence slots (R104 to R107) -/

/-- A slot becomes FREE with its generation stepped; its page table stays readable (R105, R115, R340). -/
def State.freeSlot (s : State) (n : Nat) : State :=
  let x := s.slot n
  s.setSlot n { gen := genStep x.gen, pages := x.pages }

/-- A slot enters FAULTED with its error record (R107, R118, R217). -/
def State.faultSlot (s : State) (n reason : Nat) (dua : Option Nat := none) : State :=
  let x := s.slot n
  if x.st = .joining || x.st = .decoding || x.st = .suspended then
    (s.setSlot n { x with st := .faulted, wasJoining := x.st = .joining }).reportCtx x.owner 2 1 reason
      { id := n, idGen := x.gen, wax := x.d.wax, dua := dua }
  else s

end Sys2Proof.Machine
end

