-- ==== Sys2Proof/Machine/Assemble.lean ====
section
/-!
DEFINITION. Starting and assembling a stride (R100 to R102, R107, R111 to R119, R140, R176, R177, R208, R360, R361).
-/

namespace Sys2Proof.Machine

/-! ## Work and start (R100, R342, R347, R360) -/

/-- A park entry that waits only for a sequence slot and, with TRAIN, a hold entry: its wax is resident (R111, R169). -/
def State.parkWax (s : State) (k : Park) : Bool :=
  k.fetch.isNone && (decide (k.d.wax = 0) || (s.newestSlot k.part k.d.wax).isSome)

/-- Is a park entry ready (R111, R169)? An entry whose resident wax is evicted before its admission is not ready until the wax is resident again; no
fetch opens for it by itself (DESIGN CHOICE, log entry 143). -/
def State.parkReady (s : State) (k : Park) : Bool :=
  s.parkWax k && decide (s.seqUsed k.part < (s.pt k.part).cur.seq) && (!k.d.train || decide (0 < s.holdFree k.part))

/-- Work of a partition (R100): a live sequence, a ready park entry, a training batch, or a request that waits for a boundary (DEDUCED, log
entry 21). -/
def State.hasWork (s : State) (p : Nat) : Bool :=
  let e := s.seOf p
  if e.ordered then !e.cuts.isEmpty
  else
    s.slots.any (fun x => x.2.owner == p && (x.2.st == .joining || x.2.st == .decoding || (x.2.st == .suspended && x.2.resumeAt))) ||
    s.parks.any (fun k => k.part == p && s.parkReady k) ||
    s.holds.any (fun x => x.2.owner == p && (x.2.st == .ready || x.2.st == .forward || x.2.st == .sweep)) ||
    !e.collecting.entries.isEmpty || !e.sweeping.entries.isEmpty || !e.reqs.isEmpty ||
    s.holds.any (fun x => x.2.owner == p && x.2.expired) ||
    s.wxs.any (fun w => w.2.used && w.2.owner == p && w.2.untrain.isSome)

/-- May a stride of a partition start now? -/
def State.strideMayStart (s : State) (p : Nat) : Bool :=
  s.enabled (pgSE p) && !(s.hdr (pgSE p)).stopping && !(s.hdr (pgSE p)).fenced && s.lift.base.isSome &&
  (decide ((s.pt p).st = .enabled) || decide ((s.pt p).st = .freezing)) && decide (2 ≤ (s.hearthsOf p).length) &&
  decide (s.mc.bank = .normal) && s.hasWork p

/-- A stride engine context with nothing of a stride in progress: its rows, their results and its counts go. -/
def Se.idled (e : Se) : Se :=
  { e with rows := [], samples := [], cnts := [], layer := 0, layerSat := 0, layerConv := 0, gradCnt := [], bankUndo := [], carryUndo := none,
           reruns := [], rerunActive := false, detours := [], waitLayers := [], ringWait := false, meterWait := false, bStage := 0,
           pauseLate := false, freezeLate := false, resizeLate := false, ckptIns := [], experts := [], scales := [], convDone := [],
           weightReads := [], runs := [], combine := [], kvParts := [], kvRec := [], sweepStep := 0, gradReruns := [], siteX := [],
           clipped := [], logitGrads := [], passed := [] }

/-- The stride number incremented and ASSEMBLE entered (R100); in ordered mode the next cut bounds what the stride takes (R360). -/
def State.enterAssemble (s : State) (p : Nat) : State :=
  let e := s.seOf p
  s.setSe p { e.idled with st := .assemble, num := e.num + 1, start := s.nowUs, pageWait := false, tokensOut := false, weighted := [],
                           cutBound := if e.ordered then (e.cuts.head?).map (·.tails) else none,
                           cuts := if e.ordered then e.cuts.drop 1 else e.cuts }

/-- STRIDE_START (R100, R360). -/
def execStrideStart (p : PartId) (s : State) : Host.Outcome State Fault Refusal :=
  .next (if (s.seOf p.val).st = .idle && s.strideMayStart p.val then s.enterAssemble p.val else s)

/-! ## Admission (R107, R111, R112, R119, R169) -/

/-- The shared prefix pages named at PREFIX_DUA, as page-table entries (R115, R119); a list that the partition cannot read names pages at DUA 0
(DESIGN CHOICE, log entry 142). -/
def State.prefixPages (s : State) (p : Nat) (d : JoinDesc) : AMap KvPage :=
  if d.pfx then
    let n := d.pfxTokens / 64
    match s.load (seWho p) d.pfxDua (8 * n) with
    | .ok (b, _) => (List.range n).map (fun i => (i, { dua := field b (8 * i) (8 * i + 7) / 64 * 64 % 2 ^ 52, shared := true }))
    | .error _ => (List.range n).map (fun i => (i, { dua := 0, shared := true }))
  else []

/-- The 8 bytes of a page-table entry: the page's DUA in bits [51:6], VALID, SHARED (R115). -/
def KvPage.bytes (k : KvPage) : List Byte := leBytes (k.dua / 64 * 64 % 2 ^ 52 + 1 + (if k.shared then 2 else 0)) 8

/-- An entry of a slot's page table written in the stride engine's region (R115; log entry 33). -/
def State.writeEntry (s : State) (n i : Nat) (b : List Byte) : State :=
  s.storeTry (byEngine (whoOf 63) 0) (s.tableLoc 5 + 32768 * n + 8 * i) b

/-- A slot's page table written anew at its admission: what the slot's last occupant left goes (R115, R340). -/
def State.writeTable (s : State) (n : Nat) (old new : AMap KvPage) : State :=
  let s1 := (old.filter (fun e => (AMap.find new e.1).isNone)).foldl (fun (s : State) e => s.writeEntry n e.1 (leBytes 0 8)) s
  new.foldl (fun (s : State) e => s.writeEntry n e.1 e.2.bytes) s1

/-- A JOINED or LEFT record's common fields (R270, R271). -/
def State.slotRec (s : State) (p kind status reason : Nat) (j : JoinId) (result : List Byte) : CRec :=
  { kind := kind, status := status, reason := reason, opcode := 0x10, queue := j.queue, seq := j.seq, tag := j.tag, part := p,
    cookie := j.cookie, elapsed := 0 * s.nowUs, result := result }

/-- A ready park entry takes a FREE slot (R107). -/
def State.admitPark (s : State) (k : Park) : State :=
  let p := k.part
  let r := s.pickFree 4096 ((s.slots.filter (fun e => e.2.st ≠ .free)).map (·.1))
  let hr := if k.d.train then
      let q := r.2.pickFree 16384 ((s.holds.filter (fun e => e.2.st ≠ .free || e.2.reserved)).map (·.1))
      (some q.1, q.2)
    else (none, r.2)
  let s1 := match hr.1 with
    | some h => (hr.2.setHold h { gen := (hr.2.hold h).gen, reserved := true, owner := p, wax := k.d.wax }).holdLow p (s.holdFree p)
    | none => hr.2
  let inf := if k.d.wax = 0 then none else s.newestSlot p k.d.wax
  let ver := match inf with | some n => (s.inf n).version | none => 0
  let pfx := if k.d.pfx then k.d.pfxTokens else 0
  let g := (s1.slot r.1).gen
  let s2 := s1.setSlot r.1 { gen := g, st := .joining, owner := p, d := k.d, jid := k.jid, done := pfx, inf := inf, version := ver,
                             pages := s1.prefixPages p k.d, hold := hr.1, order := s1.holdSeq }
  let s2 := (s2.setHoldSeq (s2.holdSeq + 1)).writeTable r.1 (s1.slot r.1).pages (s2.slot r.1).pages
  s2.complete p (s2.slotRec p 1 0 0 k.jid
    (leBytes r.1 2 ++ leBytes g 2 ++ leBytes k.d.wax 6 ++ leBytes 0 2 ++ leBytes ver 4 ++ leBytes (s2.seOf p).num 4))

/-- Ready entries admitted in arrival order; in ordered mode the first one that cannot be admitted holds back the rest (R111, R361). -/
def State.admitAll (s : State) (p : Nat) : List Park → State
  | [] => s
  | k :: ks =>
    if k.part ≠ p then s.admitAll p ks
    else if s.parkReady k then
      ((s.setParks (s.parks.erase k)).auditFetch.admitPark k).admitAll p ks
    else if (s.seOf p).ordered then s
    else s.admitAll p ks

/-! ## Pages (R116, R169) -/

/-- One page from the pool (R116), bits below 64-byte alignment ignored (R115). -/
def State.takePage (s : State) (p : Nat) : Nat × State :=
  let r := s.consume (seWho p) (ringPool p)
  (ofLe r.1 / 64 * 64 % 2 ^ 52, r.2)

/-- Key/value pages that positions [a, a + n) of a table lack. -/
def pagesLacking (m : AMap KvPage) (a n : Nat) : List Nat :=
  (List.range ((a + n + 63) / 64 - a / 64)).filterMap (fun i =>
    let k := a / 64 + i
    if (AMap.find m k).isNone then some k else none)

/-- Trace pages that `count` trace records lack. -/
def State.traceLacking (s : State) (have_ count : Nat) : Nat := (count + s.traceCap - 1) / max 1 s.traceCap - have_

/-- Pages the next `n` rows of a slot need; with `sampled`, the token after the last row too. -/
def State.pagesNeeded (s : State) (x : Slot) (n : Nat) (sampled : Bool) : Nat :=
  (pagesLacking x.pages x.done n).length +
  (if x.d.train then
    s.traceLacking x.tracePages.length (x.done + n - (if x.d.pfx then x.d.pfxTokens else 0) + (if sampled then 1 else 0))
   else 0)

/-- The pages taken for `n` rows of a slot. -/
def State.takePagesFor (s : State) (sl n : Nat) (sampled : Bool) : State :=
  let x := s.slot sl
  let s1 := (pagesLacking x.pages x.done n).foldl (fun s k =>
    let r := s.takePage x.owner
    (r.2.setSlot sl { r.2.slot sl with pages := AMap.put {} (r.2.slot sl).pages k { dua := r.1 } }).writeEntry sl k (KvPage.bytes { dua := r.1 })) s
  let t := if x.d.train then
      s.traceLacking x.tracePages.length (x.done + n - (if x.d.pfx then x.d.pfxTokens else 0) + (if sampled then 1 else 0))
    else 0
  (List.range t).foldl (fun s _ =>
    let r := s.takePage x.owner
    r.2.setSlot sl { r.2.slot sl with tracePages := (r.2.slot sl).tracePages ++ [r.1] }) s1

/-- Rows left out for want of a page (R116). -/
def State.leaveOut (s : State) (p n : Nat) : State :=
  if n = 0 then s
  else
    let s1 := (s.bump (pgSE p) 0x058 n).raise (pgSE p) 1
    s1.setSe p { s1.seOf p with pageWait := true }

/-- How many of the next `n` rows of a slot the pool covers; `sampled n'` says whether row n' is sampled. -/
def State.rowsCovered (s : State) (x : Slot) (n : Nat) (sampled : Nat → Bool) : Nat :=
  let have_ := s.ringCount (ringPool x.owner)
  (((List.range (n + 1)).filter (fun k => decide (k = 0) || decide (s.pagesNeeded x k (sampled k) ≤ have_))).getLast?).getD 0

/-! ## Rows (R102, R112, R140, R177) -/

def State.addRow (s : State) (p : Nat) (r : Rows) : State :=
  let e := s.seOf p
  s.setSe p { e with rows := e.rows ++ [r] }

def State.rowCount (s : State) (p : Nat) : Nat := ((s.seOf p).rows.map (·.n)).sum

/-- The binding of a slot at stride start: a FOLLOW wax takes the newest version (R140). -/
def State.bindSlot (s : State) (sl : Nat) : State :=
  let x := s.slot sl
  match x.inf with
  | none => s
  | some n =>
    let s1 :=
      if (s.inf n).rcd.desc.follow then
        match s.newestSlot x.owner x.d.wax with
        | some m => s.setSlot sl { x with inf := some m, version := (s.inf m).version }
        | none => s
      else s
    match (s1.slot sl).inf with
    | some m => s1.setInf m { s1.inf m with lastStride := (s1.seOf x.owner).num }
    | none => s1

/-- Live slots of a partition in a state, in ascending number. -/
def State.slotsIn (s : State) (p : Nat) (st : SlotSt) : List Nat :=
  (s.slots.filter (fun e => e.2.owner == p && e.2.st == st)).map (·.1)

/-- One decode row for each DECODING sequence (R102 step 1). -/
def State.decodeRows (s : State) (p : Nat) : State :=
  (s.slotsIn p .decoding).foldl (fun s sl =>
    let x := s.slot sl
    if s.rowsCovered x 1 (fun k => decide (k = 1)) = 0 then s.leaveOut p 1
    else
      (s.takePagesFor sl 1 true).addRow p
        { kind := .decode, id := sl, pos := x.done, n := 1, wax := x.d.wax, version := x.version, inf := x.inf }) s

/-- One prompt chunk for each JOINING sequence in admission order (R102 step 3). -/
def State.promptRows (s : State) (p limit : Nat) : State :=
  let order := (((s.slotsIn p .joining).map (fun n => ((s.slot n).order, n))).mergeSort (fun a b => decide (a.1 ≤ b.1))).map (·.2)
  order.foldl (fun s sl =>
    let x := s.slot sl
    let left := limit - s.rowCount p
    let want := min 512 (x.d.promptLen - x.done)
    if left = 0 then s.bump (pgSE p) 0x060 want
    else
      let n := min want left
      let k := s.rowsCovered x n (fun k => decide (x.done + k = x.d.promptLen))
      let s1 := s.leaveOut p (n - k)
      if k = 0 then s1
      else
        (s1.takePagesFor sl k (decide (x.done + k = x.d.promptLen))).addRow p
          { kind := .prompt, id := sl, pos := x.done, n := k, wax := x.d.wax, version := x.version, inf := x.inf }) s

/-- Rows a hold entry trains: one less than its positions after the prefix (R174). -/
def Hold.rowsAll (h : Hold) : Nat := h.trace.length - 1

/-- READY entries placed into the collecting cohort (R177), in the order they became READY. -/
def State.placeReady (s : State) (p : Nat) : State :=
  let ready := (s.holds.filter (fun e => e.2.owner == p && e.2.st == .ready)).map (fun e => (e.2.order, e.1))
  let order := (ready.mergeSort (fun a b => decide (a.1 ≤ b.1))).map (·.2)
  order.foldl (fun s h =>
    let e := s.seOf p
    let x := s.hold h
    let r := x.rowsAll
    let trainRows := fld (s.frc (pgSE p) 0x040) 30 16
    let run := (e.collecting.entries.map (fun i => (s.hold i).rowsRun)).sum
    if r ≤ e.cohortMax - e.collecting.rows && r ≤ trainRows * (s.segments - e.phase) - (e.collecting.rows - run) then
      (s.setHold h { x with st := .forward }).setSe p
        { e with collecting := { entries := e.collecting.entries ++ [h], rows := e.collecting.rows + r } }
    else s) s

/-- Training forward rows up to a limit (R102 steps 2 and 4, R176): placement order, position order, the newest version, whose slot is bound by this
stride (R154). -/
def State.trainRowsUpTo (s : State) (p limit : Nat) : State :=
  ((s.seOf p).collecting.entries.foldl (fun (a : State × Nat) h =>
    let s := a.1
    let x := s.hold h
    let n := min (x.rowsAll - x.rowsRun) a.2
    if n = 0 then a
    else
      let inf := s.newestSlot p x.wax
      let ver := match inf with | some i => (s.inf i).version | none => 0
      let s := match inf with | some i => s.setInf i { s.inf i with lastStride := (s.seOf p).num } | none => s
      ((s.setHold h { x with rowsRun := x.rowsRun + n }).addRow p
        { kind := .train, id := h, pos := x.pfxTokens + x.rowsRun, n := n, wax := x.wax, version := ver, inf := inf },
       a.2 - n)) (s, limit)).1

/-! ## Deadlines (R124, R208, R254) -/

/-- The experts of a layer that the module's own shard table holds, as (expert, bytes). -/
def expertsOf (m : Manifest) (l : Nat) : List (Nat × Nat) :=
  m.shards.filterMap (fun sh => match sh.routed with | some (a, e) => if a = l then some (e, sh.length) else none | none => none)

/-- Has an expert landed in the window, or has its contribution returned from a peer (R207, R254)? -/
def State.landed (s : State) (l e : Nat) : Bool :=
  s.lift.bufs.any (fun b => decide (b.layer = l) && b.claim.isSome && b.landed.contains e) || s.lift.peerLanded.contains (l, e)

/-- DL of every layer with routed experts when a stride leaves ASSEMBLE (R208, R254); layers without have none. -/
def State.deadlines (s : State) (m : Manifest) : AMap Nat :=
  let slack := fld (s.frc pgLF 0x044) 31 16
  let rate := fld (s.frc pgLF 0x044) 10 0 * 1000
  let remote := (s.rd pgCL 0x068).toNat
  ((List.range m.layers.length).foldl (fun (a : AMap Nat × Nat) l =>
    let n := (m.layers.getD l {}).routed
    if n = 0 then a
    else
      let own := expertsOf m l
      let u := a.2 + ((own.filter (fun e => !s.landed l e.1)).map (·.2)).sum
      let dl := slack + (u + rate - 1) / max 1 rate
      (AMap.put 0xFFFFFFFF a.1 l (if own.length < n then max dl remote else dl), u)) ([], 0)).1

/-- The deadline table stored where firmware placed it, for up to 512 layers (R208, R223). -/
def State.storeDeadlines (s : State) (m : Manifest) : State :=
  let data := ((List.range m.layers.length).flatMap (fun l => leBytes (AMap.get 0xFFFFFFFF s.lift.dl l) 4)).take 2048
  s.storeTry (byEngine (secureOf 63) 1) (s.tableLoc 2) data

/-- The deadline table written when a stride leaves ASSEMBLE (R208); in resident mode it is not. -/
def State.writeDeadlines (s : State) : State :=
  match s.lift.base with
  | some m => if s.lift.streamed then (s.setLift { s.lift with dl := s.deadlines m, dlAt := s.nowUs }).storeDeadlines m else s
  | none => s

/-! ## The end of ASSEMBLE -/

/-- R361: what a stride of ordered mode waits for in ASSEMBLE. -/
def State.cutReady (s : State) (p : Nat) : Bool :=
  let e := s.seOf p
  !e.ordered ||
  ((match e.cutBound with
    | some b => ((List.range 8).map (fun i => qNum p 0 i) ++ (List.range 8).map (fun i => qNum p 2 i)).all
        (fun n => decide ((s.queue n).head = AMap.get (s.queue n).head b n))
    | none => true) &&
   s.parks.all (fun k => decide (k.part ≠ p) || s.parkWax k) &&
   !s.started.any (fun c => decide (c.page = p) && (decide (c.opcode = 0x20) || decide (c.opcode = 0x24) ||
     (decide (c.opcode = 0x21) && decide (c.phase = .taken)) || (decide (c.eng = 0) && decide (c.phase = .taken)))))

/-- R361: the pool holds a page for every row of the row set. -/
def State.poolCovers (s : State) (p : Nat) : Bool :=
  let dec := ((s.slotsIn p .decoding).map (fun n => s.pagesNeeded (s.slot n) 1 true)).sum
  let pro := ((s.slotsIn p .joining).map (fun n =>
    let x := s.slot n
    let k := min 512 (x.d.promptLen - x.done)
    s.pagesNeeded x k (decide (x.done + k = x.d.promptLen)))).sum
  decide (dec + pro ≤ s.ringCount (ringPool p))

/-- The tallies of a partition's hearths (R375). -/
def State.tallySum (s : State) (p : Nat) : Nat := ((s.hearthsOf p).map (fun h => (s.hearth h).tally)).sum

/-- The weights of a stride's rows by account (R374). -/
def State.weighRows (s : State) (p : Nat) : List (Nat × Nat) :=
  (s.seOf p).rows.map (fun r => (s.accountOf p r.wax r.inf, r.n))

/-- The row set fixed in its order (R102), with versions bound (R140). -/
def State.buildRows (s : State) (p : Nat) : State :=
  let limit := fld (s.frc (pgSE p) 0x040) 14 0
  let s1 := ((s.slotsIn p .decoding) ++ (s.slotsIn p .joining)).foldl (fun s n => s.bindSlot n) s
  let s2 := s1.decodeRows p
  let s3 := s2.placeReady p
  let s4 := s3.trainRowsUpTo p (min (fld (s.frc (pgSE p) 0x040) 30 16) (limit - s3.rowCount p))
  let s5 := s4.promptRows p limit
  s5.trainRowsUpTo p (limit - s5.rowCount p)

/-- SCALE of a record (R45): byte 64 as the partition reads it; a record it cannot read gives the NaN code (DESIGN CHOICE, log entry 144). -/
def State.scaleAt (s : State) (p dua : Nat) : Nat :=
  match s.load (seWho p) (dua + 64) 1 with | .ok (b, _) => ofLe b | .error _ => 0xFF

/-- The SCALE of a record for the stride, fixed when it leaves ASSEMBLE for the records that its program names, and for any other when the stride first
reads it (R46, R57). -/
def State.fixScale (s : State) (p dua : Nat) : State :=
  if dua = 0 || (AMap.find (s.seOf p).scales dua).isSome then s
  else s.setSe p { s.seOf p with scales := AMap.ins dua (s.scaleAt p dua) (s.seOf p).scales }

/-- The stride leaves ASSEMBLE (R100, R102, R208). -/
def State.leaveAssemble (s : State) (p : Nat) : State :=
  let s0 := s.buildRows p
  let s1 := (s0.seOf p).program.foldl (fun s t => s.fixScale p t.inScale) s0
  let e := s1.seOf p
  (s1.setSe p { e with st := .forward, asmAt := s1.nowUs, cycles0 := s1.tallySum p, weighted := s1.weighRows p }).writeDeadlines

end Sys2Proof.Machine
end

