-- ==== Sys2Proof/Machine/Sample.lean ====
section
/-!
DEFINITION. Sampling and loss coefficients (R113, R120 to R123, R172 to R175): what the vector units do in SAMPLE.
-/

namespace Sys2Proof.Machine

/-! ## Sums over the vocabulary (R53, R359) -/

/-- The blocks of a list. -/
def blocks {α : Type} (n : Nat) (l : List α) : List (List α) :=
  (List.range ((l.length + n - 1) / max 1 n)).map (fun i => (l.drop (n * i)).take n)

/-- A vector-unit reduction: blocks of 256 in ascending order under an ordered profile (R359), in any order otherwise (R53). -/
def vecSum (profile : Option Nat) (l : List F32) : F32 :=
  let f : List FR := l.map (fun v => ⟨v, {}⟩)
  match profile with
  | some _ => (sumOrdered ((blocks 256 f).map sumOrdered)).v
  | none => (sumFree f.length f).v

/-- The largest value that is no NaN; 0 when there is none. -/
def maxNonVoid (a : List F32) : F32 :=
  match a.filter (fun v => !f32IsNaN v) with
  | [] => 0
  | x :: xs => xs.foldl (fun b v => if flt b v then v else b) x

/-- The scaled logits a of R120 step 2; TEMP 0 leaves them. -/
def scaled (temp : BF16) (z : List F32) : List F32 :=
  if temp &&& 0x7FFF = 0 then z else z.map (fun v => (fdiv v (bf16ToF32 temp)).v)

/-- The weights of R120 step 3; a void token weighs nothing. -/
def weights (profile : Option Nat) (a : List F32) : List F32 :=
  let m := maxNonVoid a
  a.map (fun v => if f32IsNaN v then 0 else (fexp profile (fsub v m).v).v)

/-- LOGPROB of R120 step 4, formed as (a_t - max a) - log of the sum of the weights, which is the same value and does not overflow
(DEDUCED, log entry 22). -/
def logProb (profile : Option Nat) (a : List F32) (t : Nat) : F32 :=
  (fsub (fsub (a.getD t 0) (maxNonVoid a)).v (flog profile (vecSum profile ((weights profile a).zip a |>.filterMap
    (fun x => if f32IsNaN x.2 then none else some x.1)))).v).v

/-- The FP32 running sums of a list. -/
def runningSums (l : List F32) : List F32 :=
  match l with
  | [] => []
  | x :: xs => (xs.foldl (fun (acc : List F32 × F32) v => let c := (fadd acc.2 v).v; (acc.1 ++ [c], c)) ([x], x)).1

/-- What sampling a row gives (R120). -/
structure Drawn where
  token : Nat
  logprob : F32
  trunc : Bool
  void : Bool
deriving DecidableEq, Repr

/-- How many leading candidates the cut of TOP_P keeps (R120 step 2). -/
def topPKeep (profile : Option Nat) (w : List F32) (order : List Nat) (topP : BF16) : Nat :=
  let total := vecSum profile w
  let sums := runningSums (order.map (fun i => (fdiv (w.getD i 0) total).v))
  match sums.findIdx? (fun c => fle (bf16ToF32 topP) c) with
  | some j => j + 1
  | none => order.length

/-- The candidates of R120 step 2 in their order. -/
def candidates (profile : Option Nat) (a w : List F32) (topK : Nat) (topP : BF16) : List Nat :=
  let live := (List.range a.length).filter (fun i => !f32IsNaN (a.getD i 0))
  if topK = 0 && topP = 0x3F80 then live
  else
    let before := fun i j => flt (a.getD j 0) (a.getD i 0) || (!flt (a.getD i 0) (a.getD j 0) && decide (i ≤ j))
    let order := live.mergeSort before
    let k := if topK = 0 then order.length else topK
    let r := if topP = 0x3F80 then order.length else topPKeep profile w order topP
    order.take (min k r)

/-- R120: one row sampled under a draw `u`. -/
def sampleRow (profile : Option Nat) (temp : BF16) (topK : Nat) (topP : BF16) (u : F32) (z : List F32) : Drawn :=
  let void := z.any f32IsNaN
  if z.all f32IsNaN then ⟨0, f32NaN, false, void⟩
  else
    let a := scaled temp z
    let live := (List.range z.length).filter (fun i => !f32IsNaN (z.getD i 0))
    if temp &&& 0x7FFF = 0 then
      let t := live.foldl (fun b i => if flt (z.getD b 0) (z.getD i 0) then i else b) (live.headD 0)
      ⟨t, logProb profile a t, false, void⟩
    else
      let w := weights profile a
      let c := candidates profile a w topK topP
      let sums := runningSums (c.map (fun i => w.getD i 0))
      let limit := (fmul u (sums.getLastD 0)).v
      let t := match (c.zip sums).find? (fun x => flt limit x.2) with
        | some x => x.1
        | none => ((c.filter (fun i => f32Key (w.getD i 0) ≠ 0)).getLast?).getD (c.getLastD 0)
      let cut := live.any (fun i => !c.contains i && decide (f32Key (w.getD i 0) ≠ 0))
      ⟨t, logProb profile a t, cut, void⟩

/-! ## The rows of a stride -/

/-- Is the last row of an entry sampled: a decode row or the last row of the last prompt chunk (R113)? -/
def State.sampledRow (s : State) (r : Rows) : Bool :=
  match r.kind with
  | .decode => true
  | .prompt => decide (r.pos + r.n = (s.slot r.id).d.promptLen)
  | .train => false

/-- The row numbers of each entry in the stride's order. -/
def rowStarts (rows : List Rows) : List (Nat × Rows) :=
  (rows.foldl (fun (a : List (Nat × Rows) × Nat) r => (a.1 ++ [(a.2, r)], a.2 + r.n)) ([], 0)).1

/-- Was row `i` of the stride substituted or dropped at a layer (R129)? -/
def Se.rowDetoured (e : Se) (i : Nat) : Bool := e.detours.any (fun d => d.row == i)

/-- Live for sampling: the slot still runs (R107, R118). -/
def State.rowLive (s : State) (r : Rows) : Bool :=
  decide ((s.slot r.id).st = .joining) || decide ((s.slot r.id).st = .decoding)

/-- The sample of a row (R113, R120 to R122). -/
def State.drawRow (s : State) (p first : Nat) (r : Rows) (z : List F32) : Sample × Bool :=
  let x := s.slot r.id
  let pos := r.pos + r.n
  let gen := if x.d.keyGen = 0 then x.gen else x.d.keyGen
  let d := sampleRow (s.profileOf p) x.d.temp x.d.topK x.d.topP (drawU x.d.seed pos gen) z
  let follow := match x.inf with | some n => (s.inf n).rcd.desc.follow | none => false
  let isFirst := decide (r.kind = .prompt)
  ({ slot := r.id, gen := x.gen, token := BitVec.ofNat 32 d.token, logprob := d.logprob, pos := pos, wax := r.wax, version := r.version,
     trunc := d.trunc, nanLogit := d.void, detour := (s.seOf p).rowDetoured (first + r.n - 1), first := isFirst,
     moved := follow && !isFirst && decide (r.version ≠ x.lastVersion) }, d.void)

/-- The counts and maximum added to a record of the stride (R46, R48). -/
def State.addCnt (s : State) (p rec_ : Nat) (c : RecCnt) : State :=
  if rec_ = 0 then s
  else
    let e := s.seOf p
    let o := AMap.get {} e.cnts rec_
    let v : RecCnt := { sat := o.sat + c.sat, nan := o.nan + c.nan, clip := o.clip + c.clip, conv := o.conv + c.conv,
                        amax := if flt o.amax c.amax then c.amax else o.amax, input := o.input || c.input }
    s.setSe p { e with cnts := AMap.put {} e.cnts rec_ v }

/-- The output record of the tile that produces the logits: the last tile of the layer program (DEDUCED, log entry 23). -/
def State.logitRec (s : State) (p : Nat) : Nat := match (s.seOf p).program.getLast? with | some t => t.outScale | none => 0

/-- Every sampled row that still runs, in row order, sampled. -/
def State.drawAll (s : State) (p : Nat) (rows : List RowLogits) : State :=
  (rowStarts (s.seOf p).rows).foldl (fun s fr =>
    if s.sampledRow fr.2 && s.rowLive fr.2 then
      match rows.find? (fun r => r.slot == fr.2.id) with
      | some r =>
        let d := s.drawRow p fr.1 fr.2 r.logits
        let s1 := s.setSe p { s.seOf p with samples := (s.seOf p).samples ++ [d.1] }
        s1.addCnt p (s1.logitRec p) { nan := (r.logits.filter f32IsNaN).length }
      | none => s
    else s) s

/-! ## Loss coefficients (R174, R175) -/

/-- What R175 forms for one loss token before any division by the entry's loss tokens. -/
structure LossVal where
  g : F32
  loss : F32
  kl : F32
  clipped : Bool
  rho : F32
deriving DecidableEq, Repr

/-- The coefficient, loss value and KL value of R175. -/
def lossVal (profile : Option Nat) (e : LossEnt) (a new old : F32) : LossVal :=
  let d := (fsub new old).v
  let rho := (fexp profile d).v
  let neg := flt a 0
  let lowEdge := (fsub f32One e.epsLow).v
  let highEdge := (fadd f32One e.epsHigh).v
  let dual := e.kind = 2 && neg && flt e.dualC rho
  let keep := ((fle 0 a && fle rho highEdge) || (neg && fle lowEdge rho)) && !dual
  let isPg := decide (e.kind = 0)
  let pol := if isPg then fneg a else if keep then fneg (fmul rho a).v else 0
  let expn := (fexp profile (fneg d)).v
  let kl := if e.klKind = 1 then d else if e.klKind = 2 then (fadd (fsub expn f32One).v d).v else 0
  let klG := if e.klKind = 1 then e.klCoef else if e.klKind = 2 then (fmul e.klCoef (fsub f32One expn).v).v else 0
  let p :=
    if isPg then fneg (fmul a new).v
    else if keep then fneg (fmul rho a).v
    else if dual then fneg (fmul e.dualC a).v
    else if neg then fneg (fmul lowEdge a).v
    else fneg (fmul highEdge a).v
  { g := if e.klKind = 0 then pol else (fadd pol klG).v
    loss := if e.klKind = 0 then p else (fadd p (fmul e.klCoef kl).v).v
    kl := kl, clipped := !isPg && !keep, rho := rho }

/-- The kept coefficient of the training forward row at `pos` of a hold entry; `row` is its number in the stride (R174, R175). -/
def State.coefOf (s : State) (p h pos version row : Nat) (z : List F32) : Coef :=
  let x := s.hold h
  let t := x.trace.getD (pos + 1 - x.pfxTokens) ⟨0, 0, 0, false, false⟩
  let cfg := match s.waxingIn p x.wax with | some w => (s.wxOf w).cfg | none => {}
  let le := s.lossEnt cfg.lossEntry
  let a := scaled x.temp z
  let new := if z.all f32IsNaN then f32NaN else logProb (s.profileOf p) a t.token.toNat
  let v := lossVal (s.profileOf p) le x.adv new t.logprob
  let det := (s.seOf p).rowDetoured row
  let masked := t.prompt || (t.detour && !cfg.keepDetour) || det || decide (t.version + cfg.maxLag < version) ||
    (decide (f32Key le.ratioMax ≠ 0) && flt le.ratioMax v.rho)
  if masked then { hold := h, pos := pos, g := 0, token := t.token }
  else { hold := h, pos := pos, g := v.g, token := t.token, isLoss := true, clipped := v.clipped, loss := v.loss, kl := v.kl }

/-- The training forward rows of a stride evaluated in row order. -/
def State.coefAll (s : State) (p : Nat) (train : List TrainLogits) : State :=
  (rowStarts (s.seOf p).rows).foldl (fun s fr =>
    if fr.2.kind = .train then
      let s0 := s.bump (pgSE p) 0x0C0 fr.2.n
      (List.range fr.2.n).foldl (fun s i =>
        match train.find? (fun t => t.hold == fr.2.id && t.pos == fr.2.pos + i) with
        | some t =>
          let c := s.coefOf p fr.2.id (fr.2.pos + i) fr.2.version (fr.1 + i) t.logits
          let s1 := s.setSe p { s.seOf p with coefs := (s.seOf p).coefs ++ [c] }
          let s2 := if c.isLoss then s1.bump (pgSE p) 0x0C8 1 else s1
          if c.clipped then s2.bump (pgSE p) 0x0D0 1 else s2
        | none => s) s0
    else s) s

/-- Are the logits of every row that R120 and R175 read given, over the base's vocabulary? -/
def State.logitsGiven (s : State) (p : Nat) (rows : List RowLogits) (train : List TrainLogits) : Bool :=
  let vocab := match s.lift.base with | some m => m.vocab | none => 0
  (s.seOf p).rows.all (fun r =>
    match r.kind with
    | .train => decide ((s.hold r.id).st ≠ .forward) || (List.range r.n).all (fun i => train.any (fun t => t.hold == r.id && t.pos == r.pos + i))
    | _ => !s.sampledRow r || !s.rowLive r || rows.any (fun l => l.slot == r.id)) &&
  rows.all (fun l => decide (l.logits.length = vocab)) && train.all (fun l => decide (l.logits.length = vocab))

/-- SAMPLE_DONE (R100, R120, R175). -/
def execSampleDone (p : PartId) (rows : List RowLogits) (train : List TrainLogits) (s : State) : Host.Outcome State Fault Refusal :=
  .next (if (s.seOf p.val).st = .sample && s.logitsGiven p.val rows train then
      let s1 := (s.drawAll p.val rows).coefAll p.val train
      s1.setSe p.val { s1.seOf p.val with st := .boundary, bStage := 0, pauseLate := false, freezeLate := false, resizeLate := false }
    else s)

end Sys2Proof.Machine
end

