-- ==== Sys2Proof/Machine/Layers.lean ====
section
/-!
DEFINITION. The forward sweep layer by layer and the counter-sweep segment (R43, R54 to R57, R100, R118, R125 to R129, R178 to R181, R206).
-/

namespace Sys2Proof.Machine

/-! ## Counts in memory (R48) -/

/-- A 64-bit count in memory raised by `n`, staying at its maximum (R48). -/
def State.addCount (s : State) (who : MemWho) (dua n : Nat) : State :=
  match s.load who dua 8 with
  | .ok (b, s1) => s1.storeTry who dua (leBytes (min (2 ^ 64 - 1) (ofLe b + n)) 8)
  | .error _ => s

/-- One rerun of a layer counted in the rerun table where firmware placed it (R56, R421). -/
def State.countRerun (s : State) (l : Nat) : State := s.addCount (secureOf 63) (s.tableLoc 0 + 16 * l + 8) 1

/-! ## Key/value entries (R43, R114, R118, R178, R217) -/

/-- The DUA of the entry of layer `l` and position `t` in a page table (R114). -/
def kvAddr (pages : AMap KvPage) (l t : Nat) : Nat := (AMap.get {} pages (t / 64)).dua + (l * 64 + t % 64) * 298

/-- Why the entry of a non-SHARED position may not be read by a reader of this generation: stale (0x0312) or poisoned (0x0318). An entry whose read the
memory system refuses counts as stale (DESIGN CHOICE, log entry 145). -/
def State.kvBad (s : State) (p : Nat) (pages : AMap KvPage) (gen l t : Nat) : Option (Nat × Nat) :=
  if (AMap.get {} pages (t / 64)).shared then none
  else
    match s.load (seWho p) (kvAddr pages l t) 298 with
    | .ok (b, _) => if field b 297 297 = gen % 256 then none else some (0x0312, kvAddr pages l t)
    | .error (.inl _) => some (0x0312, kvAddr pages l t)
    | .error (.inr d) => some (0x0318, d)

/-- The first bad entry below a position. -/
def State.kvFirstBad (s : State) (p : Nat) (pages : AMap KvPage) (gen l upTo : Nat) : Option (Nat × Nat) :=
  (List.range upTo).findSome? (fun t => s.kvBad p pages gen l t)

/-- Values that an entry's blocks with scale byte 0xFF turn into NaNs (R43). -/
def nanScales (b : List Byte) : Nat := 64 * (((b.drop 288).take 9).filter (· == 0xFF)).length

/-- The NaNs that a reader of every entry below a position meets (R43). -/
def State.kvNans (s : State) (p : Nat) (pages : AMap KvPage) (l upTo : Nat) : Nat :=
  ((List.range upTo).map (fun t => match s.load (seWho p) (kvAddr pages l t) 298 with | .ok (b, _) => nanScales b | .error _ => 0)).sum

/-- The part of a row's entry at a layer that the drain coded and that covers value `i`. -/
def Se.kvPart (e : Se) (l row i : Nat) : Option KvPart :=
  e.kvParts.find? (fun k => k.layer == l && k.row == row && decide (k.at_ ≤ i) && decide (i < k.at_ + k.codes.length))

/-- The code of value `i`; that of a value which no drain of the stride coded is the network's (free: log entry 19). -/
def Se.kvCode (e : Se) (l row draw i : Nat) : Nat :=
  match e.kvPart l row i with | some k => k.codes.getD (i - k.at_) 0 | none => (Config.kvByte draw i).toNat % 16

/-- The scale byte of block `b`, never 0xFF (R43). -/
def Se.kvScale (e : Se) (l row draw b : Nat) : Nat :=
  match e.kvPart l row (64 * b) with | some k => k.scales.getD (b - k.at_ / 64) 0x7F | none => min 0xFE (Config.kvByte draw (288 + b)).toNat

/-- An entry's 298 bytes (R43): the 576 codes, two to a byte, the nine scale bytes, and the generation. -/
def Se.kvEntry (e : Se) (l row draw gen : Nat) : List Byte :=
  (List.range 288).map (fun i => BitVec.ofNat 8 (e.kvCode l row draw (2 * i) % 16 + 16 * (e.kvCode l row draw (2 * i + 1) % 16))) ++
  (List.range 9).map (fun b => BitVec.ofNat 8 (e.kvScale l row draw b)) ++ [BitVec.ofNat 8 gen]

/-- The entries of `n` positions of a layer written (R107, R178); `first` is the first row's number in the stride. -/
def State.kvWrite (s : State) (p : Nat) (pages : AMap KvPage) (gen l first pos n : Nat) : State :=
  (List.range n).foldl (fun s i =>
    if (AMap.get {} pages ((pos + i) / 64)).shared then s
    else
      (s.storeTry (seWho p) (kvAddr pages l (pos + i)) ((s.seOf p).kvEntry l (first + i) s.freeCtr gen)).setFreeCtr (s.freeCtr + 1)) s

/-- A reader's NaNs counted in the record of the layer's key/value tensor (R34, R38, R43). -/
def State.countKv (s : State) (p : Nat) (pages : AMap KvPage) (l upTo : Nat) : State :=
  s.addCnt p (AMap.get 0 (s.seOf p).kvRec l) { nan := s.kvNans p pages l upTo }

/-- A hold entry lost to a stale or poisoned entry: FREE, counted, with its error record (R178, R217, R275). -/
def State.failHold (s : State) (h reason dua : Nat) : State :=
  let x := s.hold h
  (((s.freeHold h).bump (pgSE x.owner) 0x0D8 1).raise (pgSE x.owner) 6).reportCtx x.owner 3 1 reason
    { id := h, idGen := x.gen, wax := x.wax, dua := some dua }

/-- One row entry at one layer: what it reads is checked, what it makes is written. -/
def State.kvRow (s : State) (p l first : Nat) (r : Rows) : State :=
  match r.kind with
  | .train =>
    let x := s.hold r.id
    if x.st ≠ .forward then s
    else
      match s.kvFirstBad p x.pages x.gen l r.pos with
      | some (reason, d) => s.failHold r.id reason d
      | none => (s.countKv p x.pages l r.pos).kvWrite p x.pages x.gen l first r.pos r.n
  | _ =>
    if !s.rowLive r then s
    else
      let x := s.slot r.id
      match s.kvFirstBad p x.pages x.gen l r.pos with
      | some (reason, d) =>
        let s1 := s.faultSlot r.id reason (some d)
        if reason = 0x0312 then s1.raise (pgSE p) 5 else s1
      | none => (s.countKv p x.pages l r.pos).kvWrite p x.pages x.gen l first r.pos r.n

/-! ## What a layer's computation leaves (R55, R90) -/

/-- Everything a hearth holds of a layer's results goes: accumulators, sums on their way to the drain, results in scratch and the vector unit. -/
def Hearth.discard (x : Hearth) (p l : Nat) : Hearth :=
  if x.owner = some p then
    { x with pass := x.pass.filter (fun d => d.hdr.layer != l), issued := 0, stage0 := x.stage0.filter (fun d => d.hdr.layer != l),
             stage1 := x.stage1.filter (fun d => d.hdr.layer != l), frontBand := none, accs := [], drainIn := [], vregs := [], stalled := false,
             scratch := x.scratch.filter (fun r => r.layer != l) }
  else x

/-- The results of a layer's first computation discarded before its rerun (R55); wax lines stay (R90). -/
def State.discardLayer (s : State) (p l : Nat) : State :=
  let s1 := s.setHearths (AMap.mapAll {} (fun _ x => x.discard p l) s.hearths)
  let e := s1.seOf p
  s1.setSe p { e with combine := e.combine.filter (fun c => c.layer != l), kvParts := e.kvParts.filter (fun c => c.layer != l),
                      passed := e.passed.filter (fun c => c.layer != l) }

/-! ## Experts of a layer's rows (R125, R128, R178) -/

/-- The experts of a row's selection that have not landed, in the router's rank order. -/
def State.missing (s : State) (l : Nat) (r : RowRoute) : List Nat := (r.ranked.take r.selected).filter (fun x => !s.landed l x)

/-- Do the expert passes of a layer still wait: in streamed mode, for a selected expert that has not landed and that no detour has replaced? -/
def State.expertsOpen (s : State) (p l : Nat) (routes : List RowRoute) : Bool :=
  s.lift.streamed && routes.any (fun r => (s.missing l r).any (fun x =>
    !(s.seOf p).detours.any (fun d => d.layer == l && d.row == r.row && d.missing == x)))

/-- The experts that served a row at a layer: its selection with what the detour put in place or dropped. -/
def Se.servedBy (e : Se) (l : Nat) (r : RowRoute) : List Nat :=
  (r.ranked.take r.selected).filterMap (fun x =>
    match e.detours.find? (fun d => d.layer == l && d.row == r.row && d.missing == x) with
    | some d => d.repl
    | none => some x)

/-! ## LAYER_DONE, FORWARD_SWEEP_DONE -/

/-- R54, R56: does the layer rerun? -/
def State.rerunNow (s : State) (p l : Nat) : Bool :=
  let e := s.seOf p
  let t := s.rerunEnt l
  t.enable && !e.rerunActive && !e.reruns.contains l && decide (0 < e.layerConv) && decide (t.thresh * e.layerConv < e.layerSat * 2 ^ 20)

/-- Partitions whose strides run. -/
def State.running (s : State) : List Nat := (s.se.filter (fun e => e.2.st != .idle && e.2.st != .paused)).map (·.1)

/-- The checkpoints of the sweeping cohort, in cohort order: the row entries of its counter-sweep. -/
def Se.sweepCkpts (e : Se) : List Ckpt := e.ckpts.filter (·.moved)

/-- The layers of the segment run in this stride (R179). -/
def State.segmentLayers (s : State) (p : Nat) : List Nat :=
  let j := s.segments - 1 - (s.seOf p).phase
  (List.range 8).filterMap (fun i => if 8 * j + i < s.layers then some (8 * j + i) else none)

/-- The experts of a layer in the kept expert sets of a partition's sweeping cohort, in ascending number (R178). -/
def State.keptExperts (s : State) (p l : Nat) : List Nat :=
  (((s.seOf p).sweepCkpts.flatMap (fun c => (c.experts.filter (fun k => k.layer == l)).flatMap (·.experts))).dedup).mergeSort

/-- Layers whose forward sweep a partition's stride still has to run. -/
def State.forwardOpen (s : State) (p l : Nat) : Bool :=
  ((s.seOf p).st == .assemble || (s.seOf p).st == .forward) && decide ((s.seOf p).layer ≤ l)

/-- The steps of a partition's segment still to run, as (1 recompute or 2 gradient, layer), in order (R179). -/
def State.sweepOpen (s : State) (p : Nat) : List (Nat × Nat) :=
  let e := s.seOf p
  let ls := s.segmentLayers p
  let steps : List (Nat × Nat) := ls.map (fun l => (1, l)) ++ ls.reverse.map (fun l => (2, l))
  if e.sweepCkpts.isEmpty || !e.owns (s.segments - 1 - e.phase) then []
  else if e.st == .assemble || e.st == .forward then steps
  else if e.st == .sweep then steps.drop e.sweepStep
  else []

/-- Is a buffer of a layer, held for a use, still needed for it by a stride that runs? -/
def State.useOpen (s : State) (l use : Nat) : Bool :=
  s.running.any (fun p => if use = 0 then s.forwardOpen p l else (s.sweepOpen p).contains (use, l))

/-- The window buffer of a layer free once no stride needs it for the use that has ended (R206); a lift that waited no longer does. -/
def State.freeBuf (s : State) (l use : Nat) : State :=
  let done := fun (b : WinBuf) => decide (b.layer = l) && decide (b.claim = some use) && !s.useOpen l use
  s.setLift { s.lift with bufs := s.lift.bufs.map (fun b => if done b then { b with claim := none } else b)
                          blocked := s.lift.blocked && !s.lift.bufs.any done
                          peerLanded := if use = 0 then s.lift.peerLanded.filter (fun x => x.1 ≠ l) else s.lift.peerLanded }

/-- The window buffers whose claims no stride that runs needs any longer, as after a teardown, are free (R206, R281). -/
def State.freeUnused (s : State) : State :=
  let idle := fun (b : WinBuf) => match b.claim with | some u => !s.useOpen b.layer u | none => false
  s.setLift { s.lift with bufs := s.lift.bufs.map (fun b => if idle b then { b with claim := none } else b), blocked := s.lift.blocked && !s.lift.bufs.any idle }

/-- A layer's rerun begins: its sums start again, its first results go, and the rerun is counted (R54 to R56, R90). -/
def State.startRerun (s : State) (p l : Nat) : State :=
  ((s.setSe p { s.seOf p with rerunActive := true, reruns := (s.seOf p).reruns ++ [l], layerSat := 0, layerConv := 0 }).discardLayer p l).countRerun l

/-- A layer's forward computation ends: key/value entries, expert sets and, at a checkpoint layer's end, the BF16 inputs of the rows for the layer
named (R178: the input of layer 8j). -/
def State.endLayer (s : State) (p l : Nat) (routes : List RowRoute) (inputs : List RowInput) : State :=
  let s1 := (rowStarts (s.seOf p).rows).foldl (fun s fr => s.kvRow p l fr.1 fr.2) s
  let e := s1.seOf p
  let ins : List CkptIn := if l % 8 = 0 then inputs.map (fun r => ⟨l, r.row, r.vals⟩) else []
  (s1.setSe p { e with layer := l + 1, layerSat := 0, layerConv := 0, rerunActive := false, ckptIns := e.ckptIns ++ ins,
                       experts := e.experts ++ routes.map (fun r => ⟨l, r.row, e.servedBy l r⟩) }).freeBuf l 0 |> fun s2 =>
    if (l + 1) % 8 = 0 then s2.stageOut p (l / 8) l false else s2

/-! ## The sweeping cohort (R57, R178 to R180) -/

/-- In streamed mode, is an expert of a kept expert set of a layer not landed (R180)? -/
def State.keptOpen (s : State) (p l : Nat) : Bool :=
  s.lift.streamed && (s.seOf p).sweepCkpts.any (fun c => c.experts.any (fun k => k.layer == l && k.experts.any (fun x => !s.landed l x)))

/-- The entries a recompute reads at a layer: a stale or poisoned one loses its hold entry (R118, R178, R180). -/
def State.sweepReads (s : State) (p l : Nat) : State :=
  (s.seOf p).sweepCkpts.foldl (fun s c =>
    let x := s.hold c.rows.id
    if x.st ≠ .sweep then s
    else
      match s.kvFirstBad p x.pages x.gen l c.rows.pos with
      | some (reason, d) => s.failHold c.rows.id reason d
      | none => s.countKv p x.pages l c.rows.pos) s

/-- Does a layer's activation-gradient step rerun under GRAD (R54 to R57)? It has not done so in this stride. -/
def State.gradFires (s : State) (p l : Nat) : Bool :=
  let c := AMap.get (0, 0) (s.seOf p).gradCnt l
  let t := s.rerunEnt l
  t.enable && t.grad && !(s.seOf p).gradReruns.contains l && decide (0 < c.2) && decide (t.thresh * c.2 < c.1 * 2 ^ 20)

/-- The rerun of a gradient step begins: what the layer passed on goes, and the rerun is counted. -/
def State.startGradRerun (s : State) (p l : Nat) : State :=
  ((s.setSe p { s.seOf p with gradReruns := (s.seOf p).gradReruns ++ [l], reruns := (s.seOf p).reruns ++ [l] }).discardLayer p l).countRerun l

/-- A step of the segment ends: the layers ascending for the recompute, then descending for the gradient (R179). A step whose kept experts have not
all landed goes on waiting (R180); a gradient step that reruns is not over. -/
def State.endSweepStep (s : State) (p l : Nat) : State :=
  let e := s.seOf p
  let ls := s.segmentLayers p
  if (ls ++ ls.reverse)[e.sweepStep]? ≠ some l || e.sweepCkpts.isEmpty || s.keptOpen p l then s
  else if e.sweepStep < ls.length then
    let s1 := s.sweepReads p l
    (s1.setSe p { s1.seOf p with sweepStep := e.sweepStep + 1 }).freeBuf l 1
  else if s.gradFires p l then s.startGradRerun p l
  else (s.setSe p { e with sweepStep := e.sweepStep + 1 }).freeBuf l 2

/-- LAYER_DONE (R54 to R56, R90, R107, R118, R125, R178, R180, R206): the layer computed last, in the forward sweep or in the segment. It waits while
an expert of its rows is awaited (R125) or its detour policy waits (R128). -/
def execLayerDone (p : PartId) (layer : Nat) (s : State) (routes : List RowRoute := []) (inputs : List RowInput := []) :
    Host.Outcome State Fault Refusal :=
  .next (
    let e := s.seOf p.val
    if e.st = .sweep then s.endSweepStep p.val layer
    else if e.st = .forward && decide (e.layer = layer) && decide (layer < s.layers) && !e.waitLayers.any (fun w => w.layer == layer) &&
        !s.expertsOpen p.val layer routes then
      if s.rerunNow p.val layer then s.startRerun p.val layer else s.endLayer p.val layer routes inputs
    else s)

/-- The checkpoints of a stride's training forward rows, each with what the stride keeps for it (R57, R178). -/
def Se.newCkpts (e : Se) : List Ckpt :=
  (rowStarts e.rows).filterMap (fun fr =>
    if fr.2.kind = .train then
      let mine := fun (r : Nat) => decide (fr.1 ≤ r) && decide (r < fr.1 + fr.2.n)
      some { rows := fr.2, stride := e.num, scales := e.scales, reruns := e.reruns,
             experts := (e.experts.filter (fun k => mine k.row)).map (fun k => { k with row := k.row - fr.1 }),
             inputs := (e.ckptIns.filter (fun k => mine k.row)).map (fun k => { k with row := k.row - fr.1 }) }
    else none)

/-- FORWARD_SWEEP_DONE (R100): the last layer has been written. The checkpoints of the stride's training forward rows stand, with its scales, rerun
decisions and expert sets (R57, R178). -/
def execForwardSweepDone (p : PartId) (s : State) : Host.Outcome State Fault Refusal :=
  .next (
    let e := s.seOf p.val
    if e.st = .forward && decide (e.layer = s.layers) && s.lift.base.isSome then
      s.setSe p.val { e with st := .sweep, ckpts := e.ckpts ++ e.newCkpts }
    else s)

/-! ## Deadlines and the detour (R125 to R129, R359) -/

/-- SUBSTITUTE (R128): each missing expert with the best-ranked landed expert outside the selection that no other took. -/
def State.substitutes (s : State) (l : Nat) (r : RowRoute) : List (Nat × Option Nat) :=
  let out := (r.ranked.drop r.selected).filter (fun x => s.landed l x)
  let m := s.missing l r
  (List.range m.length).map (fun i => (m.getD i 0, out[i]?))

/-- The chosen substitutions of a layer kept and counted (R128, R129). A row that is detoured at several layers of a stride counts once in DETOUR_ROWS
(DESIGN CHOICE, log entry 146). -/
def State.detour (s : State) (p : Nat) (ds : List Detour) : State :=
  let e := s.seOf p
  let old := e.detours.map (·.row)
  let fresh := ((ds.map (·.row)).dedup).filter (fun r => !old.contains r)
  let s1 := s.setSe p { e with detours := e.detours ++ ds }
  let s2 := (s1.bump (pgSE p) 0x030 fresh.length).bump (pgSE p) 0x070 (ds.filter (fun d => d.repl.isNone)).length
  if ds.isEmpty then s2 else s2.raise (pgSE p) 3

/-- Every route of a layer substituted. -/
def State.substituteAll (s : State) (p l : Nat) (routes : List RowRoute) : State :=
  s.detour p (routes.flatMap (fun r => (s.substitutes l r).map (fun x => ⟨l, r.row, x.1, x.2⟩)))

/-- Every missing contribution of a layer dropped. -/
def State.dropAll (s : State) (p l : Nat) (routes : List RowRoute) : State :=
  s.detour p (routes.flatMap (fun r => (s.missing l r).map (fun x => ⟨l, r.row, x, none⟩)))

/-- Has a layer's deadline fallen in this stride, and is its policy not yet applied? -/
def State.deadlineFell (s : State) (p l : Nat) : Bool :=
  let e := s.seOf p
  let dl := AMap.get 0xFFFFFFFF s.lift.dl l
  s.lift.streamed && decide (e.st = .forward) && decide (e.layer ≤ l) && decide (dl < 0xFFFFFFFF) && decide (e.asmAt + dl ≤ s.nowUs) &&
  !e.detours.any (fun d => d.layer == l) && !e.waitLayers.any (fun w => w.layer == l)

/-- DEADLINE_EXPIRY (R125, R127, R128, R359). -/
def execDeadlineExpiry (p : PartId) (layer : Nat) (routes : List RowRoute) (s : State) : Host.Outcome State Fault Refusal :=
  .next (
    let late := routes.filter (fun r => !(s.missing layer r).isEmpty)
    if s.deadlineFell p.val layer && !late.isEmpty then
      let e := s.seOf p.val
      let t := s.detourEnt layer
      if e.ordered || t.mode = 2 then
        s.setSe p.val { e with waitLayers := e.waitLayers ++ [{ layer := layer, since := e.asmAt + AMap.get 0xFFFFFFFF s.lift.dl layer, routes := late }] }
      else if t.mode = 1 then s.dropAll p.val layer late
      else s.substituteAll p.val layer late
    else s)

/-- DETOUR_WAIT_EXPIRY (R128): WAIT_MAX has passed and the stride engine substitutes; ordered mode has no limit (R359). -/
def execDetourWaitExpiry (p : PartId) (layer : Nat) (s : State) : Host.Outcome State Fault Refusal :=
  .next (
    let e := s.seOf p.val
    match e.waitLayers.find? (fun w => w.layer == layer) with
    | some w =>
      if e.st = .forward && !e.ordered && decide (w.since + (s.detourEnt layer).waitMax ≤ s.nowUs) then
        (s.setSe p.val { e with waitLayers := e.waitLayers.filter (fun w => w.layer != layer) }).substituteAll p.val layer
          (w.routes.filter (fun r => !(s.missing layer r).isEmpty))
      else s
    | none => s)

/-! ## The counter-sweep segment (R179 to R181) -/

/-- A bank value with contributions added, counts kept (R181). In normal mode the place of the bank's old value in the sum is open (R53). -/
def bankAdd (ordered : Bool) (b : Bank) (i : Nat) (xs : List FR) : Bank :=
  let old : FR := ⟨AMap.get 0 b.vals i, {}⟩
  let r := bankSum ordered (old :: xs)
  { b with vals := AMap.put 0 b.vals i r.v, sat := b.sat + r.cnt.sat, nan := b.nan + r.cnt.nan }

/-- Contributions by value index, added index by index. -/
def bankSweep (ordered : Bool) (b : Bank) (xs : List (Nat × FR)) : Bank :=
  ((xs.map (·.1)).dedup).foldl (fun b i => bankAdd ordered b i ((xs.filter (fun x => x.1 == i)).map (·.2))) b

/-- The value index of a wax value (R133): layer, site, kind (0 scale, 1 offset), channel. -/
def waxIndex (m : Manifest) (l site kind ch : Nat) : Nat :=
  let cs := (m.layers.getD l {}).sites
  ((m.layers.take l).map (fun x => 2 * x.sites.sum)).sum + 2 * (cs.take site).sum + kind * cs.getD site 0 + ch

/-- Wax values of a base, both kinds over every site of every layer: the clip area follows them (R133). -/
def waxValues (m : Manifest) : Nat := ((m.layers.map (fun l => 2 * l.sites.sum))).sum

/-- The clip vectors a record carries: its directory, where FLAGS.CLIP says that it is valid (R136, R137). -/
def waxVectors (r : WaxRec) : List ClipEntry := if r.desc.clip then r.clips else []

/-- A high half of a record: space of the clip area that no carried vector covers holds 0x7F80 (R135). -/
def waxHiAt (m : Manifest) (r : WaxRec) (i : Nat) : BitVec 16 :=
  let n := i - waxValues m
  if waxValues m ≤ i && !(waxVectors r).any (fun c => decide (256 * c.start256 ≤ n) && decide (n < 256 * c.start256 + 16 * c.count16)) then 0x7F80
  else AMap.get 0 r.hi i

/-- The value index of a clip value of a carried vector (R133, R135), where the record carries one for the tensor. -/
def clipIndex (m : Manifest) (r : WaxRec) (l input ch : Nat) : Option Nat :=
  ((waxVectors r).find? (fun c => c.layer == l && c.tensor == input)).map (fun c => waxValues m + 256 * c.start256 + ch)

/-- The checkpoint of a row of the sweeping cohort, with the row's number in its entry. -/
def Se.sweepRow (e : Se) (row : Nat) : Option (Ckpt × Nat) :=
  (((rowStarts (e.sweepCkpts.map (·.rows))).zip e.sweepCkpts).find? (fun x => decide (x.1.1 ≤ row) && decide (row < x.1.1 + x.1.2.n))).map
    (fun x => (x.2, row - x.1.1))

/-- The bindings of a row of the sweeping cohort whose hold entry is still there. -/
def State.sweepLive (s : State) (p row : Nat) : Option Rows :=
  match (s.seOf p).sweepRow row with
  | some (c, _) => if (s.hold c.rows.id).st = .sweep then some c.rows else none
  | none => none

/-- An element's value found in a list of the sweep. -/
def sweepVal (l : List SweepElem) (row layer place ch : Nat) : Option F32 :=
  (l.find? (fun x => x.row == row && x.layer == layer && x.place == place && x.ch == ch)).map (·.v)

/-- May a gradient flow at a channel of a site: at the router-logits site only through the experts that served the row (R181). -/
def State.gradFlows (s : State) (p : Nat) (m : Manifest) (row l site ch : Nat) : Bool :=
  if (m.layers.getD l {}).router = some site then
    match (s.seOf p).sweepRow row with
    | some (c, i) => c.experts.any (fun k => k.layer == l && k.row == i && k.experts.contains ch)
    | none => false
  else true

/-- The gradients of the segment that flow: of live rows, at elements whose recompute stands. With each its bindings and its x. -/
def State.liveSites (s : State) (p : Nat) (m : Manifest) (site : List SiteGrad) : List (SiteGrad × Rows × F32) :=
  site.filterMap (fun g =>
    match s.sweepLive p g.row, sweepVal (s.seOf p).siteX g.row g.layer g.site g.ch with
    | some r, some x => if s.gradFlows p m g.row g.layer g.site g.ch then some (g, r, x) else none
    | _, _ => none)

/-- The contributions to one wax's bank (R181): dy × x and dy at its sites; with CLIP_TRAIN, sign(v) × dy at the clipped elements of the vectors it
carries. -/
def State.bankTerms (s : State) (p wax : Nat) (x : WaxingSlot) (site : List SiteGrad) (clip : List ClipGrad) : List (Nat × FR) :=
  let m := s.lift.base.getD {}
  let mine := (s.liveSites p m site).filter (fun t => t.2.1.wax == wax)
  let clips := if x.cfg.clipTrain then
      clip.filterMap (fun g =>
        match s.sweepLive p g.row, sweepVal (s.seOf p).clipped g.row g.layer g.input g.ch, clipIndex m x.rcd g.layer g.input g.ch with
        | some r, some v, some i =>
          if r.wax = wax then some (i, nanCounted (if f32IsNaN v then frNaN else fmul (if v.getLsbD 31 then 0xBF800000 else f32One) g.dy)) else none
        | _, _, _ => none)
    else []
  mine.map (fun t => (waxIndex m t.1.layer t.1.site 0 t.1.ch, nanCounted (fmul t.1.dy t.2.2))) ++
  mine.map (fun t => (waxIndex m t.1.layer t.1.site 1 t.1.ch, (⟨t.1.dy, {}⟩ : FR))) ++ clips

/-- Waxes with rows in the sweeping cohort. -/
def State.sweptWaxes (s : State) (p : Nat) : List Nat := (((s.seOf p).sweeping.entries.map (fun h => (s.hold h).wax)).dedup).mergeSort

/-- The banks and the carried gradients as they stood, kept for a stride that is torn down (R126, R281). -/
def State.keepBanks (s : State) (p : Nat) : State :=
  let ws := (s.sweptWaxes p).filterMap (fun w => s.waxingIn p w)
  s.setSe p { s.seOf p with bankUndo := ws.map (fun w => (w, (s.wxOf w).bank)), carryUndo := some (s.seOf p).carry }

/-- The gradients of the segment added to the open banks, wax by wax; in ordered mode rows in cohort order (R181, R359). -/
def State.accumulate (s : State) (p : Nat) (site : List SiteGrad) (clip : List ClipGrad) : State :=
  let ord := (s.seOf p).ordered
  let st := if ord then site.mergeSort (fun a b => decide (a.row ≤ b.row)) else site
  let cl := if ord then clip.mergeSort (fun a b => decide (a.row ≤ b.row)) else clip
  (s.sweptWaxes p).foldl (fun s wax =>
    match s.waxingIn p wax with
    | some w => s.setWx w { s.wxOf w with bank := bankSweep ord (s.wxOf w).bank (s.bankTerms p wax (s.wxOf w) st cl) }
    | none => s) s

/-- The gradient passed on at a wax site, dy × s, with its counts in the record of the gradient tensor it enters (R181). -/
def State.passOn (s : State) (p : Nat) (site : List SiteGrad) : State :=
  let m := s.lift.base.getD {}
  (s.liveSites p m site).foldl (fun s t =>
    let g := t.1
    let sc := match t.2.1.inf with | some n => bf16ToF32 (waxHiAt m (s.inf n).rcd (waxIndex m g.layer g.site 0 g.ch)) | none => f32One
    let r := fmul g.dy sc
    let s1 := s.setSe p { s.seOf p with passed := (s.seOf p).passed ++ [⟨g.row, g.layer, g.site, g.ch, r.v⟩] }
    s1.addCnt p g.rcd { sat := r.cnt.sat, nan := r.cnt.nan }) s

/-- A row's logit gradient g × (onehot(token) - softmax(a)) ÷ TEMP (R180), in that order of operations; softmax(a) is the weight over the sum of the
weights of R120 (DEDUCED, log entry 147). -/
def logitGrad (profile : Option Nat) (temp : BF16) (g : F32) (token : Nat) (z : List F32) : List F32 :=
  let a := scaled temp z
  let w := weights profile a
  let total := vecSum profile w
  let t := if temp &&& 0x7FFF = 0 then f32One else bf16ToF32 temp
  (List.range z.length).map (fun i =>
    (fdiv (fmul g (fsub (if i = token then f32One else 0) (fdiv (w.getD i 0) total).v).v).v t).v)

/-- The logit gradients of the sweeping cohort's rows, formed in the last segment from the kept coefficients (R175, R180). -/
def State.headGrads (s : State) (p : Nat) (logits : List SweepVec) : List SweepVec :=
  if (s.seOf p).phase ≠ 0 then []
  else
    logits.filterMap (fun z =>
      match (s.seOf p).sweepRow z.row with
      | some (c, i) =>
        ((s.seOf p).coefs.find? (fun k => k.hold == c.rows.id && k.pos == c.rows.pos + i)).map (fun k =>
          ⟨z.row, logitGrad (s.profileOf p) (s.hold c.rows.id).temp k.g k.token.toNat z.vals⟩)
      | none => none)

/-- The segment's end: banks, the gradient passed on, the logit gradients, the gradient carried to the segment before, its buffers free. -/
def State.endSegment (s : State) (p : Nat) (site : List SiteGrad) (clip : List ClipGrad) (logits carry : List SweepVec) : State :=
  let s1 := ((s.keepBanks p).accumulate p site clip).passOn p site
  let s2 := s1.setSe p { s1.seOf p with st := .sample, logitGrads := s1.headGrads p logits, carry := carry }
  let s3 := (s.segmentLayers p).foldl (fun s l => (s.freeBuf l 1).freeBuf l 2) s2
  let j := s.segments - 1 - (s.seOf p).phase
  s3.stageOut p j (8 * j) true

/-- SEGMENT_DONE (R57, R100, R179 to R181, R206): it waits for the kept experts (R180); gradient steps that rerun under GRAD begin again, and what they
had formed enters no bank (R55, R56). -/
def execSegmentDone (p : PartId) (site : List SiteGrad) (clip : List ClipGrad) (logits : List SweepVec) (s : State) (carry : List SweepVec := []) :
    Host.Outcome State Fault Refusal :=
  .next (
    let e := s.seOf p.val
    if e.st ≠ .sweep then s
    else if e.sweeping.entries.isEmpty || !e.owns (s.segments - 1 - e.phase) then s.setSe p.val { e with st := .sample }
    else
      let ls := s.segmentLayers p.val
      let again := ls.filter (fun l => s.gradFires p.val l)
      if ls.any (fun l => s.keptOpen p.val l) then s
      else if !again.isEmpty then again.foldl (fun s l => s.startGradRerun p.val l) s
      else s.endSegment p.val site clip logits carry)

end Sys2Proof.Machine
end

