-- ==== Sys2Proof/Machine/Update.lean ====
section
/-!
DEFINITION. The value order of a wax (R62, R133, R135), the update of R184 with its anchors and rates (R186), step records (R188), and saves
(R155).
-/

namespace Sys2Proof.Machine

/-! ## The value order -/

/-- The kinds of wax value. -/
inductive ValKind
  | scale
  | offset
  | clip
deriving DecidableEq, Repr

/-- One M8B block: first value index, values in it, and their kind (R62). -/
structure Block where
  start : Nat
  len : Nat
  kind : ValKind
deriving DecidableEq, Repr

/-- The blocks of `c` consecutive channels from a value index. -/
def blocksFrom (start c : Nat) (k : ValKind) : List Block :=
  (List.range ((c + 255) / 256)).map (fun i => ⟨start + 256 * i, min 256 (c - 256 * i), k⟩)

/-- The blocks of one layer's sites. -/
def siteBlocks (start : Nat) : List Nat → List Block
  | [] => []
  | c :: cs => blocksFrom start c .scale ++ blocksFrom (start + c) c .offset ++ siteBlocks (start + 2 * c) cs

/-- The blocks of every site, layer by layer. -/
def layerBlocks (start : Nat) : List BaseLayer → List Block
  | [] => []
  | l :: ls => siteBlocks start l.sites ++ layerBlocks (start + 2 * l.sites.sum) ls

/-- The blocks of the carried clip vectors (R135). Space that no vector covers holds 0x7F80 and never changes. -/
def clipBlocks (m : Manifest) (r : WaxRec) : List Block :=
  (waxVectors r).flatMap (fun c => blocksFrom (waxValues m + 256 * c.start256) (16 * c.count16) .clip)

def waxBlocks (m : Manifest) (r : WaxRec) : List Block := layerBlocks 0 m.layers ++ clipBlocks m r

def Block.idx (b : Block) : List Nat := (List.range b.len).map (· + b.start)

/-- A master of its two halves (R58). -/
def masterOf (r : WaxRec) (i : Nat) : F32 := AMap.get (0 : BitVec 16) r.hi i ++ AMap.get (0 : BitVec 16) r.lo i

/-- Both halves of a master written together (R59). -/
def setMaster (r : WaxRec) (i : Nat) (w : F32) : WaxRec :=
  { r with hi := AMap.put 0 r.hi i (w.extractLsb' 16 16), lo := AMap.put 0 r.lo i (w.extractLsb' 0 16) }

/-! ## The update (R184 to R186) -/

def lrOf (c : TrainCfg) (k : ValKind) : F32 := match k with | .scale => c.lrScale | .offset => c.lrOffset | .clip => c.lrClip

/-- What one value's update gives: moments kept for encoding, the new master if one is formed, counts. -/
structure ValUpd where
  m : F32
  v : F32
  w : Option F32
  cnt : Cnt
deriving DecidableEq, Repr

/-- One value of R184; `g` is the normalised gradient. -/
def updateValue (c : TrainCfg) (h : StepHdr) (k : ValKind) (g m1 v1 master : F32) : ValUpd :=
  let oneB1 := fsub f32One c.beta1
  let oneB2 := fsub f32One c.beta2
  let p := fmul c.beta1 m1
  let q := fmul oneB1.v g
  let m := fadd p.v q.v
  let r := fmul c.beta2 v1
  let t := fmul oneB2.v g
  let t2 := fmul t.v g
  let v := fadd r.v t2.v
  let cnt1 := [oneB1, oneB2, p, q, m, r, t, t2, v].foldl (fun a x => a.add x.cnt) ({} : Cnt)
  if f32IsInf master then ⟨m.v, v.v, none, cnt1⟩
  else
    let d1 := fsub f32One h.b1pow
    let d2 := fsub f32One h.b2pow
    let mh := fdiv m.v d1.v
    let vh := fdiv v.v d2.v
    let sq := fsqrt vh.v
    let den := fadd sq.v c.eps
    let quo := fdiv mh.v den.v
    let old := match k with | .clip => fabs master | _ => master
    let dec := match k with
      | .clip => ([], quo)
      | .scale => let x := fsub old f32One; let y := fmul c.decay x.v; ([x, y], fadd quo.v y.v)
      | .offset => let x := fsub old 0; let y := fmul c.decay x.v; ([x, y], fadd quo.v y.v)
    let st := fmul (lrOf c k) dec.2.v
    let w := fsub old st.v
    let out := match k with | .clip => fabs w.v | _ => w.v
    ⟨m.v, v.v, some out, ([d1, d2, mh, vh, sq, den, quo, dec.2, st, w] ++ dec.1).foldl (fun a x => a.add x.cnt) cnt1⟩

/-- An update in progress: the record, the saturations, and the NaNs of undefined operations and of the moment encoding (R63, R443). -/
structure Upd where
  r : WaxRec
  sat : Nat := 0
  nan : Nat := 0
deriving DecidableEq, Repr

/-- The moments of a block encoded from the kept m and v (R61 to R63). -/
def encodeBlock (u : Upd) (b : Block) (vals : List ValUpd) : Upd :=
  let s1 := m8bScale (vals.map (·.m))
  let s2 := m8bScale (vals.map (·.v))
  let r0 : WaxRec := { u.r with m1s := AMap.put 0 u.r.m1s b.start s1, m2s := AMap.put 0 u.r.m2s b.start s2 }
  (b.idx.zip vals).foldl (fun u x =>
    let a := m8bEncodeSigned s1 x.2.m
    let c := m8bEncodeUnsigned s2 x.2.v
    { r := { u.r with m1 := AMap.put 0 u.r.m1 x.1 a.1, m2 := AMap.put 0 u.r.m2 x.1 c.1 }
      sat := u.sat + a.2.sat + c.2.sat, nan := u.nan + a.2.nan + c.2.nan }) { u with r := r0 }

/-- A block updated and encoded. -/
def updateBlock (c : TrainCfg) (g : Nat → F32) (u : Upd) (b : Block) : Upd :=
  let s1 := AMap.get 0 u.r.m1s b.start
  let s2 := AMap.get 0 u.r.m2s b.start
  let vals := b.idx.map (fun i =>
    let a := m8bDecodeSigned s1 (AMap.get 0 u.r.m1 i)
    let d := m8bDecodeUnsigned s2 (AMap.get 0 u.r.m2 i)
    let x := updateValue c u.r.step b.kind (g i) a.v d.v (masterOf u.r i)
    { x with cnt := (x.cnt.add a.cnt).add d.cnt })
  let r1 := (b.idx.zip vals).foldl (fun r x => match x.2.w with | some w => setMaster r x.1 w | none => r) u.r
  encodeBlock { r := r1, sat := u.sat + (vals.map (fun x => x.cnt.sat)).sum, nan := u.nan + (vals.map (fun x => x.cnt.nan)).sum } b vals

/-- What a step did: the record after it, the status of R188, and its statistics. -/
structure StepOut where
  r : WaxRec
  status : Nat
  gnorm : F32
  sat : Nat
  nan : Nat
deriving DecidableEq, Repr

/-- `n` of R184. -/
def stepN (b : Bank) (norm : Nat) : F32 := f32OfNat (if norm = 0 then b.lossTokens else b.sequences)

/-- Counts of a list of results in one. -/
def cntSum (l : List FR) : Cnt := l.foldl (fun a x => a.add x.cnt) {}

/-- The normalised gradient of every value of a wax in ascending value order, and its norm (R184). -/
def stepGrads (m : Manifest) (b : Bank) (norm : Nat) (r : WaxRec) : List (Nat × FR) :=
  ((waxBlocks m r).flatMap Block.idx).map (fun i => (i, fdiv (AMap.get 0 b.vals i) (stepN b norm)))

def stepNorm (gs : List (Nat × FR)) : FR :=
  let sum := sumOrdered (gs.map (fun g => fmul g.2.v g.2.v))
  let n := fsqrt sum.v
  ⟨n.v, sum.cnt.add n.cnt⟩

/-- R184 on a bank; VERSION is raised by the commit (R139). -/
def updateWax (m : Manifest) (b : Bank) (c : TrainCfg) (norm : Nat) (r : WaxRec) : StepOut :=
  if 0 < b.nan then ⟨r, 1, 0, b.sat, b.nan⟩
  else
    let gs := stepGrads m b norm r
    let nrm := stepNorm gs
    let big := decide (f32Key c.maxGnorm ≠ 0) && flt c.maxGnorm nrm.v
    let f := fdiv c.maxGnorm nrm.v
    let gs2 := if big then gs.map (fun g => (g.1, fmul g.2.v f.v)) else gs
    let gmap := gs2.foldl (fun a x => AMap.put (0 : F32) a x.1 x.2.v) []
    let h := r.step
    let p1 := fmul h.b1pow c.beta1
    let p2 := fmul h.b2pow c.beta2
    let r1 : WaxRec := { r with step := { h with step := (h.step + 1) % 2 ^ 32, b1pow := p1.v, b2pow := p2.v } }
    let c0 := cntSum (gs.map (·.2) ++ [nrm, p1, p2] ++ (if big then f :: gs2.map (·.2) else []))
    let u := (waxBlocks m r).foldl (updateBlock c (fun i => AMap.get 0 gmap i)) { r := r1, sat := c0.sat, nan := c0.nan }
    ⟨u.r, 0, nrm.v, b.sat + u.sat, b.nan + u.nan⟩

/-! ## Step records (R188) -/

/-- The 64 bytes of a step record; GNORM is 0 in a SKIP_NAN or ABANDONED record. A quotient over no tokens or no sequences, which only an ABANDONED
record could hold, is 0 (DESIGN CHOICE, log entry 148). -/
def stepBytes (wax status : Nat) (b : Bank) (norm version : Nat) (o : StepOut) : List Byte :=
  let n := stepN b norm
  let mean := fun (x : F32) => if (b.lossTokens = 0 && norm = 0) || (b.sequences = 0 && norm ≠ 0) then (0 : F32) else (fdiv x n).v
  let frac : F32 := if b.lossTokens = 0 then 0 else (fdiv (f32OfNat b.clipped) (f32OfNat b.lossTokens)).v
  leBytes wax 6 ++ leBytes status 1 ++ leBytes (min 255 b.cohorts) 1 ++ leBytes version 4 ++ leBytes o.r.step.step 4 ++
  leBytes b.lossTokens 8 ++ leBytes b.sequences 4 ++ leBytes (mean b.lossSum).toNat 4 ++ leBytes frac.toNat 4 ++
  leBytes (mean b.klSum).toNat 4 ++ leBytes (if status = 0 || status = 3 then o.gnorm.toNat else 0) 4 ++ leBytes o.nan 8 ++ leBytes o.sat 8 ++ leBytes 0 4

/-- A step record written into its ring, with its events (R188, R190). -/
def State.putStep (s : State) (p : Nat) (r : List Byte) : State :=
  let s1 := (s.produce (seWho p) (ringStep p) r).raise (pgSE p) 7
  if field r 6 6 = 0 then s1 else s1.raise (pgSE p) 8

/-- Held step records written while the step ring has room (R188). -/
def State.drainSteps (s : State) (p : Nat) : List (List Byte) → State
  | [] => s.setSe p { s.seOf p with heldSteps := [] }
  | r :: rs =>
    if 0 < s.ringRoom (ringStep p) then (s.putStep p r).drainSteps p rs
    else s.setSe p { s.seOf p with heldSteps := r :: rs }

/-- A step record written or held (R188). -/
def State.stepRecord (s : State) (p : Nat) (b : List Byte) : State := s.drainSteps p ((s.seOf p).heldSteps ++ [b])

/-! ## Saves (R155) -/

/-- Bytes of the full record of a wax of a base: header, both halves, moments and block scales, rounded up to 64 KiB (R155). -/
def frameBytes (m : Manifest) : Nat :=
  let v := waxValues m + m.clipCapacity
  let b := (layerBlocks 0 m.layers).length + (m.clipCapacity + 255) / 256
  (131072 + 4 * v + 2 * v + 8 * b + 65535) / 65536 * 65536

/-- Frames of the local store for waxes, 64 spares taken off (R155), by the loaded base or else the installed one; none without a base (DEDUCED, log
entry 60). -/
def State.storeFrames (s : State) : Nat :=
  match (match s.lift.base with | some m => some m | none => s.lift.installed) with
  | some m => (if s.part.vault64 then 4 else 1) * 2 ^ 40 / frameBytes m - 64
  | none => 0

/-- Frames neither holding a wax nor reserved for one (R146, R156). -/
def State.framesFree (s : State) : Nat :=
  s.storeFrames - (((s.wx.store.map (·.1)) ++ s.wx.reservedFrames).dedup).length

/-- STORE_LOW (R165) when the free frames fall below 64. -/
def State.storeLow (s : State) (before : Nat) : State := if 64 ≤ before && s.framesFree < 64 then s.raise pgWX 2 else s

/-- Saves that may begin: one a wax, at most 64 spares (R155). -/
def startSaves (l : List Save) : List Save :=
  l.foldl (fun acc x =>
    let run := acc.filter (·.begun)
    if x.begun || 64 ≤ run.length || run.any (fun y => y.wax == x.wax) then acc ++ [x] else acc ++ [{ x with begun := true }]) []

/-- A committed version to be saved; an earlier save that has not begun is abandoned (R155). -/
def State.queueSave (s : State) (wax : Nat) (r : WaxRec) : State :=
  s.setWax { s.wx with saves := startSaves (s.wx.saves.filter (fun x => x.wax ≠ wax || x.begun) ++ [{ wax := wax, rcd := r, begun := false }]) }

/-! ## The inference form of a record (R59, R150) -/

/-- Descriptor, clip directory and high halves. -/
def infForm (r : WaxRec) : WaxRec := { desc := r.desc, clips := r.clips, hi := r.hi }

/-! ## Commits (R139, R142, R183) -/

/-- Is there a live sequence bound to an inference slot? -/
def State.boundSlot (s : State) (n : Nat) : Bool := s.slots.any (fun e => e.2.st ≠ .free && e.2.inf == some n)

/-- R183: the slot of the version before becomes the reserved one once the cohort forwarded under it has been swept, unless a live sequence
still binds it. -/
def State.settleReserved (s : State) (w : Nat) : State :=
  let x := s.wxOf w
  match x.old with
  | none => s
  | some o =>
    if x.reservedSlot.isNone && !s.boundSlot o then
      ((s.dropWaxLines o).setInf o { gen := (s.inf o).gen, st := .reserved, owner := x.owner }).setWx w { x with old := none, reservedSlot := some o }
    else s.setWx w { x with old := none }

/-- A new version written into the reserved slot, or a free or evictable one; none when there is no slot (R145, R183). -/
def State.commitSlot (s : State) (w : Nat) (r : WaxRec) : Option State :=
  let x := s.wxOf w
  let t := match x.reservedSlot with
    | some n => (some n, s)
    | none => s.takeInf x.owner
  match t.1 with
  | none => none
  | some n =>
    let before := s.newestSlot x.owner x.wax
    let s1 := t.2.setInf n { gen := (t.2.inf n).gen, st := .valid, owner := x.owner, wax := x.wax, version := r.desc.version, rcd := infForm r,
                              lastStride := (t.2.seOf x.owner).num }
    some (s1.setWx w { s1.wxOf w with reservedSlot := none, old := before, rcd := r, dirty := true })

/-- One step of a waxing slot on a bank: the update, the commit, the record (R139, R182 to R188). At the last version the commit is refused with 0x0243,
which its error record carries (R139; that the record is one of KIND 3: DEDUCED, log entry 149). -/
def State.takeStep (s : State) (p w : Nat) (b : Bank) : State :=
  let x := s.wxOf w
  let norm := (s.lossEnt x.cfg.lossEntry).norm
  let m := s.lift.base.getD {}
  let v := x.rcd.desc.version
  if 2 ^ 32 - 1 ≤ v then
    let g := if 0 < b.nan then (⟨0, {}⟩ : FR) else stepNorm (stepGrads m b norm x.rcd)
    (s.stepRecord p (stepBytes x.wax 3 b norm v ⟨x.rcd, 3, g.v, b.sat, b.nan⟩)).reportCtx p 3 1 0x0243 { wax := x.wax }
  else
    let o := updateWax m b x.cfg norm x.rcd
    if o.status = 0 then
      let r : WaxRec := { o.r with desc := { o.r.desc with version := v + 1, state := true }
                                   step := { o.r.step with version := v + 1, lossTokens := (o.r.step.lossTokens + b.lossTokens) % 2 ^ 64 } }
      match s.commitSlot w r with
      | some s1 => (s1.queueSave x.wax r).stepRecord p (stepBytes x.wax 0 b norm (v + 1) { o with r := r })
      | none => s.stepRecord p (stepBytes x.wax 2 b norm v { o with r := x.rcd })
    else s.stepRecord p (stepBytes x.wax o.status b norm v o)

end Sys2Proof.Machine
end

