-- ==== Sys2Proof/Machine/Holds.lean ====
section
/-!
DEFINITION. The reward hold queue, group baselines, leaving sequences and the cycle wrap (R107, R117, R167 to R172, R179, R182, R187).
-/

namespace Sys2Proof.Machine

/-! ## Leaving the hold queue (R170 to R172) -/

/-- An entry freed without training: counted, its event set (R170, R190). -/
def State.dropHold (s : State) (h : Nat) : State :=
  let p := (s.hold h).owner
  ((s.freeHold h).bump (pgSE p) 0x0D8 1).raise (pgSE p) 6

/-- A READY entry of more rows than COHORT_MAX becomes FREE, counted, with its error record (R170, R189). -/
def State.tooLong (s : State) (h : Nat) : State :=
  let x := s.hold h
  if x.st = .ready && decide ((s.seOf x.owner).cohortMax < x.rowsAll) then
    ((s.freeHold h).bump (pgSE x.owner) 0x0D8 1).reportCtx x.owner 3 1 0x024C { id := h, idGen := x.gen, wax := x.wax }
  else s

/-- An entry becomes READY with its advantage, and the promotion of its pages is called for; more rows than COHORT_MAX free it at once (R170, R177,
R197). -/
def State.makeReady (s : State) (h : Nat) (adv : F32) : State :=
  let x := s.hold h
  (((s.setHold h { x with st := .ready, adv := adv, order := s.holdSeq, left := none, expired := false }).setHoldSeq (s.holdSeq + 1)).wantPages x.pages
    x.tracePages).tooLong h

/-- The checks of a REWARD at its boundary (R168, R170): generation, partition, state, values. With DROP it may name a GROUPED entry too, as the table of
R170 has it. -/
def State.rewardCheck (s : State) (x : Started) : Option Nat :=
  let e := s.hold (field x.ops 16 17 % 2 ^ 14)
  if e.gen ≠ field x.ops 18 19 then some 0x0315
  else if e.st ≠ .free && x.page < 32 && e.owner ≠ x.page then some 0x0317
  else if e.st ≠ .held && !(e.st = .grouped && (field x.ops 28 28).testBit 0) then some 0x0316
  else if !f32IsFinite (BitVec.ofNat 32 (field x.ops 20 23)) || !f32IsFinite (BitVec.ofNat 32 (field x.ops 24 27)) then some 0x024D
  else none

/-- R172 on rewards and baselines in ascending hold order: the advantages, or none for SOLO. -/
def resolve (mode : Nat) (stdEps : F32) (rb : List (F32 × F32)) : Option (List F32) :=
  let n := rb.length
  let sum := (sumOrdered (rb.map (fun x => (⟨x.1, {}⟩ : FR)))).v
  let nf := f32OfNat n
  if mode = 0 then some (rb.map (fun x => (fsub x.1 x.2).v))
  else if n < 2 then none
  else
    let mean := (fdiv sum nf).v
    match mode with
    | 1 => some (rb.map (fun x => (fsub x.1 mean).v))
    | 2 => some (rb.map (fun x => (fsub x.1 (fdiv (fsub sum x.1).v (f32OfNat (n - 1))).v).v))
    | _ =>
      let sq := sumOrdered (rb.map (fun x => let d := (fsub x.1 mean).v; fmul d d))
      let sd := (fsqrt (fdiv sq.v nf).v).v
      let den := (fadd sd stdEps).v
      some (rb.map (fun x => if f32Key den = 0 then 0 else (fdiv (fsub x.1 mean).v den).v))

/-- The training configuration of a wax in a partition (R166). -/
def State.cfgOf (s : State) (p wax : Nat) : TrainCfg := match s.waxingIn p wax with | some w => (s.wxOf w).cfg | none => {}

/-- A closed instance none of whose members is HELD resolved (R171, R172). -/
def State.resolveGroup (s : State) (p : Nat) (g : GroupInst) : State :=
  let le := s.lossEnt (s.cfgOf p g.wax).lossEntry
  let ms := (g.members.filter (fun h => (s.hold h).st == .grouped)).mergeSort
  match resolve le.baseline le.stdEps (ms.map (fun h => ((s.hold h).reward, (s.hold h).baseline))) with
  | some advs => (ms.zip advs).foldl (fun s x => s.makeReady x.1 x.2) s
  | none => ms.foldl (fun s h => (s.freeHold h).bump (pgSE p) 0x0E8 1) s

/-- Step 4 of R170: every closed instance without a HELD member. -/
def State.resolveGroups (s : State) (p : Nat) : State :=
  (s.seOf p).groups.foldl (fun s g =>
    if g.isOpen || g.members.any (fun h => (s.hold h).st == .held) then s
    else
      let s1 := s.resolveGroup p g
      s1.setSe p { s1.seOf p with groups := (s1.seOf p).groups.filter (fun x => !(x.wax == g.wax && x.group == g.group && !x.isOpen &&
        x.members.all (fun h => g.members.contains h))) }) s

/-- Step 3 of R170: budgets that have expired. An instance whose oldest member expires closes (R171). -/
def State.expireHolds (s : State) (p : Nat) : State :=
  s.holds.foldl (fun s e =>
    let x := s.hold e.1
    if x.owner = p && x.expired && (x.st = .held || x.st = .grouped) then
      let se := s.seOf p
      let gs := se.groups.map (fun g => if g.isOpen && g.members.head? == some e.1 then { g with isOpen := false } else g)
      (s.setSe p { se with groups := gs }).dropHold e.1
    else if x.expired then s.setHold e.1 { x with expired := false } else s) s

/-! ## Sequences that leave (R107, R117, R169, R171) -/

/-- An instance that has reached its size closes (R171). -/
def closeFull (size : Nat) (g : GroupInst) : GroupInst := if g.isOpen && size ≤ g.members.length then { g with isOpen := false } else g

/-- Open instances on the module (R171). -/
def State.openGroups (s : State) : Nat := (s.se.map (fun e => (e.2.groups.filter (·.isOpen)).length)).sum

/-- A new HELD entry joins its group instance or opens one; false when a 4,097th would open (R171). -/
def State.joinGroup (s : State) (h : Nat) : State × Bool :=
  let x := s.hold h
  let p := x.owner
  let size := (s.cfgOf p x.wax).groupSize
  if x.group = 0 || size = 0 then (s, true)
  else
    let e := s.seOf p
    let hit := fun (g : GroupInst) => g.isOpen && g.wax == x.wax && g.group == x.group
    if e.groups.any hit then
      (s.setSe p { e with groups := e.groups.map (fun g => if hit g then closeFull size { g with members := g.members ++ [h] } else g) }, true)
    else if 4096 ≤ s.openGroups then (s, false)
    else (s.setSe p { e with groups := e.groups ++ [closeFull size { part := p, wax := x.wax, group := x.group, isOpen := true, members := [h] }] }, true)

/-- The LEFT record (R271). -/
def State.leftRec (s : State) (n status reason why : Nat) (held : Option (Nat × Nat)) : CRec :=
  let x := s.slot n
  s.slotRec x.owner 2 status reason x.jid
    (leBytes n 2 ++ leBytes x.gen 2 ++ leBytes why 1 ++ leBytes 0 3 ++ leBytes (match held with | some h => h.1 | none => 0) 2 ++
     leBytes (match held with | some h => h.2 | none => 0) 2 ++ leBytes x.made 4 ++ leBytes (s.seOf x.owner).num 4)

/-- A sequence leaves: its hold entry or its pages, then the slot, then its LEFT record. `why` is LEAVE_REASON. -/
def State.leaveSlot (s : State) (n why : Nat) : State :=
  let x := s.slot n
  let p := x.owner
  let back := fun (s : State) => s.returnPages p (ownPages x.pages ++ x.tracePages)
  match x.hold with
  | none => ((back s).complete p (s.leftRec n 0 0 why none)).freeSlot n
  | some h =>
    let training := (s.waxingIn p x.d.wax).isSome
    if !training then
      (((back (s.unreserve h)).bump (pgSE p) 0x0E0 1).complete p (s.leftRec n 11 0 why none)).freeSlot n
    else if x.st = .faulted then ((back (s.unreserve h)).complete p (s.leftRec n 0 0 why none)).freeSlot n
    else
      let hg := (s.hold h).gen
      let s1 := s.setHold h { gen := hg, st := .held, owner := p, wax := x.d.wax, temp := x.d.temp, group := x.d.group,
                              pfxTokens := if x.d.pfx then x.d.pfxTokens else 0, pfxDua := x.d.pfxDua, pages := x.pages, trace := x.trace,
                              tracePages := x.tracePages, since := s.nowUs }
      let r := s1.joinGroup h
      if r.2 then (r.1.complete p (s.leftRec n 0 0 why (some (h, hg)))).freeSlot n
      else ((s1.dropHold h).complete p (s.leftRec n 1 0x0504 why none)).freeSlot n

/-! ## The cycle wrap (R167, R179, R182, R183, R187) -/

/-- WAX_UNTRAIN takes effect (R167). -/
def State.untrainNow (s : State) (w : Nat) : State :=
  let x := s.wxOf w
  match x.untrain with
  | none => s
  | some k =>
    let hs := (s.holds.filter (fun e => e.2.owner == x.owner && e.2.wax == x.wax && e.2.st ≠ .free)).map (·.1)
    let s1 := hs.foldl (fun s h => s.freeHold h) s
    let e := s1.seOf x.owner
    let s2 := s1.setSe x.owner { e with groups := e.groups.filter (fun g => g.wax ≠ x.wax) }
    (s2.releaseWaxing w).endByKey k 0

/-- The gradients of the sweeping cohort close: cohort, sequence and statistic counts enter the banks, in cohort order (R175, R179, R182). -/
def State.closeCohort (s : State) (p : Nat) : State :=
  let e := s.seOf p
  (s.sweptWaxes p).foldl (fun s wax =>
    match s.waxingIn p wax with
    | none => s
    | some w =>
      let x := s.wxOf w
      let norm := (s.lossEnt x.cfg.lossEntry).norm
      let mine := e.sweeping.entries.filter (fun h => (s.hold h).wax == wax)
      let b0 : Bank := { x.bank with cohorts := x.bank.cohorts + 1, sequences := x.bank.sequences + mine.length }
      let b1 := mine.foldl (fun (b : Bank) h =>
        let cs := e.coefs.filter (fun c => c.hold == h && c.isLoss)
        let n := f32OfNat cs.length
        cs.foldl (fun (b : Bank) c =>
          let l := if norm = 0 then c.loss else (fdiv c.loss n).v
          let k := if norm = 0 then c.kl else (fdiv c.kl n).v
          { b with lossTokens := b.lossTokens + 1, clipped := b.clipped + (if c.clipped then 1 else 0),
                   lossSum := (fadd b.lossSum l).v, klSum := (fadd b.klSum k).v }) b) b0
      s.setWx w { x with bank := b1 }) s

/-- The outcome of a replicated step applied at the wrap (R187). -/
def State.applyOutcome (s : State) (p w : Nat) : State :=
  let x := s.wxOf w
  match x.flight, x.outcome with
  | some b, some commit =>
    let s1 := s.setWx w { x with flight := none, outcome := none, stepOpen := false }
    if commit then s1.takeStep p w b
    else
      s1.stepRecord p (stepBytes x.wax 2 b (s.lossEnt x.cfg.lossEntry).norm x.rcd.desc.version ⟨x.rcd, 2, 0, b.sat, b.nan⟩)
  | _, _ => s

/-- Is a step due, and does the bank hold its loss tokens (R182)? -/
def State.stepDue (s : State) (w : Nat) : Bool :=
  let x := s.wxOf w
  (if x.cfg.manual then x.stepAsked else decide (x.cfg.stepCohorts ≤ x.bank.cohorts)) && decide (max x.cfg.minTokens 1 ≤ x.bank.lossTokens)

/-- A due step taken: at once, or by swapping the banks of a replicated wax (R182). -/
def State.dueStep (s : State) (p w : Nat) : State :=
  if !s.stepDue w then s
  else
    let x := s.wxOf w
    if x.cfg.replicaGroup = 0 then (s.setWx w { x with bank := {}, stepAsked := false }).takeStep p w x.bank
    else if x.flight.isSome then s
    else s.setWx w { x with bank := {}, flight := some x.bank, outcome := none, stepAsked := false, stepOpen := true }

/-- Waxing slots of a partition in ascending WAX_ID (R188). -/
def State.waxingSlots (s : State) (p : Nat) : List Nat :=
  (((s.wxs.filter (fun e => e.2.used && e.2.owner == p)).map (fun e => (e.2.wax, e.1))).mergeSort (fun a b => decide (a.1 ≤ b.1))).map (·.2)

/-- The coefficients of the cohort that begins its sweep, divided by the loss tokens of their entry under SEQ_MEAN (R175), once the
entry's rows have all run. -/
def State.finalCoefs (s : State) (p : Nat) : List Coef :=
  let e := s.seOf p
  let cs := e.coefs.filter (fun c => e.collecting.entries.contains c.hold)
  cs.map (fun c =>
    if (s.lossEnt (s.cfgOf p (s.hold c.hold).wax).lossEntry).norm = 0 || !c.isLoss then c
    else { c with g := (fdiv c.g (f32OfNat (cs.filter (fun d => d.hold == c.hold && d.isLoss)).length)).v })

/-- The checkpoints of the cohort that begins its sweep, in cohort order, as the copy engine has moved them to the sequence-parallel mapping (R179). -/
def Se.sweepOrder (e : Se) : List Ckpt :=
  e.collecting.entries.flatMap (fun h => (e.ckpts.filter (fun c => !c.moved && c.rows.id == h)).map (fun c => { c with moved := true }))

/-- The bytes of BF16 inputs that a checkpoint holds. -/
def Ckpt.bytes (c : Ckpt) : Nat := 2 * (c.inputs.map (fun i => i.vals.length)).sum

/-- READY entries that a COHORT_MAX in force from this wrap no longer admits (R170). -/
def State.freeLong (s : State) (p : Nat) : State :=
  s.holds.foldl (fun s e => if (s.hold e.1).owner = p then s.tooLong e.1 else s) s

/-- The cycle wrap of R179. The copy engine moves the checkpoints and counts their bytes (R24, R420). -/
def State.cycleWrap (s : State) (p : Nat) : State :=
  let s1 := s.closeCohort p
  let s2 := (s1.seOf p).sweeping.entries.foldl (fun s h => s.freeHold h) s1
  let ws := s2.waxingSlots p
  let s3 := ws.foldl (fun s w => s.settleReserved w) s2
  let s4 := ws.foldl (fun s w => s.untrainNow w) s3
  let s5 := (s4.waxingSlots p).foldl (fun s w => (s.applyOutcome p w).dueStep p w) s4
  let e := s5.seOf p
  let s6 := e.collecting.entries.foldl (fun s h => s.setHold h { s.hold h with st := .sweep }) s5
  let s7 := s6.setSe p { e with sweeping := e.collecting, collecting := {}, phase := 0, coefs := s5.finalCoefs p, carry := [],
                                ckpts := e.sweepOrder, cohortMax := fld (s6.frc (pgSE p) 0x0FC) 16 0 }
  (s7.bump pgCP 0x020 ((e.sweepOrder.map Ckpt.bytes).sum)).freeLong p

/-- The phase of a boundary, and the wrap when it comes; with both cohorts empty no cycle runs and each boundary counts as a wrap
(DEDUCED, log entry 24). -/
def State.advancePhase (s : State) (p : Nat) : State :=
  let e := s.seOf p
  if e.collecting.entries.isEmpty && e.sweeping.entries.isEmpty then s.cycleWrap p
  else
    let s1 := s.setSe p { e with phase := e.phase + 1 }
    if s.segments ≤ e.phase + 1 then s1.cycleWrap p else s1

/-- Will the next boundary of a partition be a wrap? -/
def State.wrapNext (s : State) (p : Nat) : Bool :=
  let e := s.seOf p
  (e.collecting.entries.isEmpty && e.sweeping.entries.isEmpty) || decide (s.segments ≤ e.phase + 1)

end Sys2Proof.Machine
end

