-- ==== Sys2Proof/Machine/Boundary.lean ====
section
/-!
DEFINITION. The stride boundary and what takes effect there (R20, R24, R46, R48, R100, R101, R107, R108, R121, R142, R162, R170, R295, R297, R342,
R347, R358, R374, R375), stride hangs (R126, R281) and the pause (R100).
-/

namespace Sys2Proof.Machine

/-! ## Token records (R121) -/

/-- STOP and LIMIT of a token at a position of a slot (R109). -/
def isStop (x : Slot) (t : Word) : Bool := x.d.stops.contains t
def isLimit (x : Slot) (pos : Nat) : Bool := decide (x.d.maxNew ≤ x.made + 1) || decide (262144 ≤ pos + 1)

/-- The 32 bytes of a token record. -/
def tokenBytes (x : Slot) (m : Sample) (rerun : Bool) (stride : Nat) : List Byte :=
  let b := fun (c : Bool) (n : Nat) => if c then n else 0
  leBytes m.token.toNat 4 ++ leBytes (if x.d.noLogprob then 0 else m.logprob.toNat) 4 ++ leBytes m.pos 4 ++ leBytes m.slot 2 ++ leBytes m.gen 2 ++
  leBytes m.wax 6 ++
  leBytes (b m.detour 1 + b rerun 2 + b m.trunc 4 + b (isStop x m.token) 8 + b (isLimit x m.pos) 16 + b m.first 32 + b m.moved 64 +
    b m.nanLogit 128) 2 ++
  leBytes m.version 4 ++ leBytes stride 4

/-- The samples in ascending slot order. -/
def Se.samplesSorted (e : Se) : List Sample := e.samples.mergeSort (fun a b => decide (a.slot ≤ b.slot))

/-- Is a sample's slot still the sequence that made it, and running (R106, R118)? -/
def State.sampleLive (s : State) (m : Sample) : Bool :=
  let x := s.slot m.slot
  decide (x.gen = m.gen) && (decide (x.st = .joining) || decide (x.st = .decoding))

/-- Token records written; a result for an earlier generation is dropped and counted (R106). -/
def State.writeTokens (s : State) (p : Nat) : State :=
  let e := s.seOf p
  e.samplesSorted.foldl (fun s m =>
    if s.sampleLive m then
      (s.produce (seWho p) (ringTok p) (tokenBytes (s.slot m.slot) m (!e.reruns.isEmpty) e.num)).bump (pgSE p) 0x028 1
    else if (s.slot m.slot).gen ≠ m.gen then s.bump (pgSE p) 0x038 1
    else s) s

/-! ## Tensor scale records (R45, R46, R48) -/

/-- Steps 1 to 4 of R46 on the bytes of a record, from the stride's maximum. -/
def updateScale (r : List Byte) (amax : F32) : List Byte :=
  let head := field r 66 66 % 16
  let hist := (List.range 16).map (fun i => if i = head then amax else BitVec.ofNat 32 (field r (4 * i) (4 * i + 3)))
  let h := (hist.filter f32IsFinite).foldl (fun (b : F32) v => if flt b v then v else b) 0
  let fl := field r 67 67
  let scale := if fl.testBit 1 || f32Key h ≤ 0 then field r 64 64 else scaleOf h (field r 65 65 % 8) (fl.testBit 0)
  (hist.flatMap (fun v => leBytes v.toNat 4)) ++ leBytes scale 1 ++ leBytes (field r 65 65) 1 ++ leBytes ((head + 1) % 16) 1 ++ (r.drop 67)

/-- The stride's counts added, each staying at its maximum (R48). -/
def addCounts (r : List Byte) (c : RecCnt) : List Byte :=
  let up := fun lo n => leBytes (min (2 ^ 64 - 1) (field r lo (lo + 7) + n)) 8
  r.take 72 ++ up 72 c.sat ++ up 80 c.nan ++ up 88 c.clip ++ up 96 c.conv ++ r.drop 104

/-- Every record the stride used updated. -/
def State.updateScales (s : State) (p : Nat) : State :=
  (s.seOf p).cnts.foldl (fun s e =>
    match s.load (seWho p) e.1 128 with
    | .ok (r, s1) => s1.storeTry (seWho p) e.1 (addCounts (if e.2.input then updateScale r e.2.amax else r) e.2)
    | .error _ => s) s

/-! ## Sequences after their rows (R107, R169) -/

/-- Trace records appended, in memory as in the slot (R169). -/
def State.traceAdd (s : State) (n : Nat) (ts : List Trace) : State :=
  ts.foldl (fun s t =>
    let x := s.slot n
    let i := x.trace.length
    let s1 := s.storeTry (seWho x.owner) (x.tracePages.getD (i / max 1 s.traceCap) 0 + 16 * (i % max 1 s.traceCap)) t.bytes
    s1.setSlot n { s1.slot n with trace := (s1.slot n).trace ++ [t] }) s

/-- The prompt token at a position (R109). -/
def State.promptToken (s : State) (x : Slot) (pos : Nat) : Word :=
  match s.load (seWho x.owner) (x.d.promptDua + 4 * pos) 4 with | .ok (b, _) => BitVec.ofNat 32 (ofLe b) | .error _ => 0

/-- A slot after the rows of one entry have run: positions done, prompt trace, DECODING once its prompt is done. -/
def State.advanceRow (s : State) (p : Nat) (fr : Nat × Rows) : State :=
  let r := fr.2
  if r.kind = .train || !s.rowLive r then s
  else
    let x := s.slot r.id
    let s1 :=
      if r.kind = .prompt && x.d.train then
        s.traceAdd r.id ((List.range r.n).map (fun i =>
          { token := s.promptToken x (r.pos + i), logprob := 0, version := r.version, detour := (s.seOf p).rowDetoured (fr.1 + i), prompt := true }))
      else s
    let y := s1.slot r.id
    s1.setSlot r.id { y with done := r.pos + r.n,
                             st := if r.kind = .prompt && decide (r.pos + r.n = x.d.promptLen) then .decoding else y.st }

/-- A sampled token kept by its sequence. -/
def State.keepToken (s : State) (m : Sample) : State :=
  if !s.sampleLive m then s
  else
    let x := s.slot m.slot
    let s1 := if x.d.train then
        s.traceAdd m.slot [{ token := m.token, logprob := m.logprob, version := m.version, detour := m.detour, prompt := false }] else s
    s1.setSlot m.slot { s1.slot m.slot with made := x.made + 1, lastToken := m.token, lastVersion := m.version }

/-- Does a sample end its sequence, and how (R109, R271)? -/
def endsBy (x : Slot) (m : Sample) : Option Nat := if isStop x m.token then some 0 else if isLimit x m.pos then some 1 else none

/-- The sequences that a stop condition ends, with their LEAVE_REASON. -/
def State.stops (s : State) (p : Nat) : List (Nat × Nat) :=
  (s.seOf p).samplesSorted.filterMap (fun m => if s.sampleLive m then (endsBy (s.slot m.slot) m).map (fun w => (m.slot, w)) else none)

/-! ## Requests at the boundary (R101, R107, R108, R170, R171) -/

/-- A LEAVE, SUSPEND or RESUME on the slot it named; `gone` holds the slots freed at this boundary. A slot whose generation has moved on since is not
touched (R106). -/
def State.slotRequest (s : State) (r : BReq) (gone : List Nat) : State :=
  let n := r.target % 2 ^ 12
  let x := s.slot n
  if gone.contains n then s.endByKey r.cmd 8
  else if x.gen ≠ r.gen then s.endByKey r.cmd 1 { reason := 0x0311, id := n, idGen := r.gen, wax := x.d.wax }
  else
    match r.kind with
    | .leave =>
      if x.st = .free then s.endByKey r.cmd 8
      else (s.leaveSlot n (if x.st = .faulted then 3 else 2)).endByKey r.cmd 0
    | .suspend =>
      if x.st = .joining || x.st = .decoding then
        (s.setSlot n { x with st := .suspended, wasJoining := x.st = .joining, bank := false }).endByKey r.cmd 0
      else s.endByKey r.cmd 1 { reason := 0x0314, id := n, idGen := x.gen, wax := x.d.wax }
    | .resume =>
      if x.st = .suspended then
        (s.setSlot n { x with st := if x.wasJoining then .joining else .decoding, bank := false, resumeAt := false }).endByKey r.cmd 0
      else s.endByKey r.cmd 1 { reason := 0x0314, id := n, idGen := x.gen, wax := x.d.wax }
    | .reward .. => s
    | .groupClose .. => s

/-- The requests about slots, in the order received; the slots they free are remembered. -/
def State.slotRequests (s : State) (rs : List BReq) (gone : List Nat) : State :=
  (rs.foldl (fun (a : State × List Nat) r =>
    let isSlot := match r.kind with | .leave => true | .suspend => true | .resume => true | _ => false
    if isSlot then
      let s1 := a.1.slotRequest r a.2
      (s1, if r.kind = .leave && (a.1.slot (r.target % 2 ^ 12)).st ≠ .free && (a.1.slot (r.target % 2 ^ 12)).gen = r.gen then (r.target % 2 ^ 12) :: a.2 else a.2)
    else a) (s, gone)).1

/-- One REWARD or GROUP_CLOSE (R170 step 2). -/
def State.holdRequest (s : State) (p : Nat) (r : BReq) : State :=
  match r.kind with
  | .reward rew base drop =>
    let x := s.hold r.target
    let named := match s.findCmd r.cmd with | some c => field c.ops 18 19 | none => x.gen
    match (s.findCmd r.cmd).bind (fun c => s.rewardCheck c) with
    | some bad => s.endByKey r.cmd 1 { reason := bad, id := r.target, idGen := named, wax := x.wax }
    | none =>
    if drop then ((s.freeHold r.target).bump (pgSE p) 0x0D8 1).endByKey r.cmd 0
    else if x.group = 0 || (s.cfgOf p x.wax).groupSize = 0 then
      ((s.setHold r.target { x with reward := rew, baseline := base, expired := false }).makeReady r.target (fsub rew base).v).endByKey r.cmd 0
    else (s.setHold r.target { x with st := .grouped, reward := rew, baseline := base }).endByKey r.cmd 0
  | .groupClose wax group =>
    let e := s.seOf p
    (s.setSe p { e with groups := e.groups.map (fun g => if g.wax = wax && g.group = group then { g with isOpen := false } else g) }).endByKey r.cmd 0
  | _ => s

/-- Landed refreshes become versions of their partition (R142, R152). -/
def State.landRefreshes (s : State) (p : Nat) : State :=
  s.mapInfs (fun x => if x.owner = p && x.st = .landed then { x with st := .valid } else x)

/-- Requests received before the boundary, applied; later ones wait for the next (R101). -/
def State.applyRequests (s : State) (p : Nat) (gone : List Nat) : State :=
  let e := s.seOf p
  let now := e.reqs.filter (fun r => !r.late)
  let s1 := s.setSe p { e with reqs := (e.reqs.filter (·.late)).map (fun r => { r with late := false }) }
  let s2 := s1.slotRequests now gone
  now.foldl (fun s r => s.holdRequest p r) s2

/-! ## The report of the stride (R374, R375) -/

/-- The sum of the second entries of an account. -/
def sumOf (l : List (Nat × Nat)) (a : Nat) : Nat := ((l.filter (fun x => x.1 == a)).map (·.2)).sum

/-- The stride report: `tokens` lists the account of every token record written. -/
def State.strideReport (s : State) (p : Nat) (tokens : List Nat) : Report :=
  let e := s.seOf p
  let trained := e.rows.filterMap (fun r => if r.kind = .train then some (s.accountOf p r.wax r.inf, r.n) else none)
  let swept := e.sweeping.entries.map (fun h =>
    let w := (s.hold h).wax
    (s.accountOf p w (s.newestSlot p w), 2 * (s.hold h).rowsRun))
  let weights := e.weighted ++ swept
  let accounts := ((weights.map (·.1)) ++ tokens).dedup.mergeSort
  let g := s.tallySum p - e.cycles0
  let w := (weights.map (·.2)).sum
  let lines := accounts.map (fun a =>
    { account := a, tokens := (tokens.filter (· == a)).length, trained := sumOf trained a,
      cycles := if w = 0 then 0 else g * sumOf weights a / w : RepLine })
  { part := p, tokens := tokens.length, trained := (trained.map (·.2)).sum, lines := lines, rest := g - (lines.map (·.cycles)).sum }

/-- The accounts of the token records of a stride, one each. -/
def State.tokenAccounts (s : State) (p : Nat) : List Nat :=
  let e := s.seOf p
  e.samplesSorted.filterMap (fun m =>
    if s.sampleLive m then some (s.accountOf p m.wax ((e.rows.find? (fun r => r.kind ≠ .train && r.id = m.slot)).bind (·.inf))) else none)

/-! ## Partition changes at the boundary (R295 to R298, R342) -/

/-- What R98 clears of a hearth; its tally, fold registers and ownership stay. -/
def Hearth.cleared (h : Hearth) : Hearth :=
  { fold0 := h.fold0, fold1 := h.fold1, tally := h.tally, owner := h.owner, transit := h.transit, failed := h.failed, fails := h.fails }

/-- A front has latched band 15: the slot it read is free (R72). -/
def Hearth.endFront (y : Hearth) : Hearth :=
  match y.frontBand with
  | none => y
  | some _ => if y.nextSlot then { y with frontBand := none, stage0 := none } else { y with frontBand := none, stage1 := none }

def State.clearHearth (s : State) (n : Nat) : State := s.setHearth n (s.hearth n).cleared

/-- Hearths of the partition that have FAILED leave it as if removed by a resize (R342). -/
def State.dropFailed (s : State) (p : Nat) : State :=
  (s.pt p).cur.hearths.foldl (fun (s : State) l =>
    let h := s.physical l
    if (s.hearth h).failed then
      let s1 := s.clearHearth h
      let x := s1.pt p
      let s2 := s1.setHearth h { s1.hearth h with owner := none }
      (s2.setPt p { x with cur := { x.cur with hearths := x.cur.hearths.filter (fun m => m != l) } }).raise (pgPT p) 6
    else s) s

/-- Hearths the partition names that are free now and out of reset are taken (R295, R335). -/
def State.takeHearths (s : State) (p : Nat) : State :=
  (s.pt p).cur.hearths.foldl (fun (s : State) l =>
    let h := s.physical l
    let x := s.hearth h
    if x.owner.isNone && x.transit.isNone && !x.failed && !(s.hdr (pgHT h)).fenced then s.setHearth h { x with owner := some p } else s) s

/-- An accepted resize applied (R295, R296). -/
def State.applyResize (s : State) (p : Nat) : State :=
  let s0 := match (s.pt p).resize with
    | none => s
    | some a =>
      let gone := (s.hearthsOf p).filter (fun h => !(a.hearths.map (fun l => s.physical l)).contains h)
      let s1 := gone.foldl (fun (s : State) h => (s.clearHearth h).setHearth h { (s.clearHearth h).hearth h with owner := none, transit := some p }) s
      let x := s1.pt p
      let s2 := (s1.setPt p { x with cur := { a with pasids := a.pasids, accts := a.accts }, resize := none, shrinking := x.shrinking ++ gone }).bump (pgPT p) 0x020 1
      let s3 := (s2.applyVals (pgPT p) (s2.hdr (pgPT p)).apply).setHdr (pgPT p) { s2.hdr (pgPT p) with apply := [] }
      if gone.isEmpty then s3.raise (pgPT p) 0 else s3
  s0.takeHearths p

/-- The hold clocks of a partition stopped with the time left, or started again (R297, R347, R349). -/
def State.stopBudgets (s : State) (p : Nat) : State :=
  let b := (s.frc (pgSE p) 0x0F4).toNat * 1000
  let m := (s.frc pgWX 0x044).toNat
  (s.mapHolds (fun x =>
    if x.owner = p && (x.st = .held || x.st = .grouped) && x.left.isNone then { x with left := some (x.since + b - s.nowUs) } else x)).mapFetches
      (fun f => if f.part = p && f.st = .miss && f.left.isNone then { f with left := some (f.since + m - s.nowUs) } else f)

def State.startBudgets (s : State) (p : Nat) : State :=
  let b := (s.frc (pgSE p) 0x0F4).toNat * 1000
  let m := (s.frc pgWX 0x044).toNat
  (s.mapHolds (fun x =>
    match x.left with
    | some l => if x.owner = p then { x with since := s.nowUs + l - b, left := none } else x
    | none => x)).mapFetches (fun f =>
    match f.left with
    | some l => if f.part = p then { f with since := s.nowUs + l - m, left := none } else f
    | none => f)

/-- R297 conditions 1 and 3 at a boundary; condition 2 is met by ending what runs. -/
def State.mayFreeze (s : State) (p : Nat) : Bool :=
  !s.wxs.any (fun w => w.2.used && w.2.owner == p && w.2.flight.isSome) && !s.fab.commits.any (fun c => c.part == p) &&
  !s.wx.fetches.any (fun f => f.part == p && f.st == .transfer)

/-- The freeze taken (R297). -/
def State.takeFreeze (s : State) (p : Nat) : State :=
  let s1 := (s.started.filter (fun c => c.page == p)).foldl (fun (s : State) c => s.abortCmd c) s
  let fs := s1.wx.fetches.filter (fun f => f.part == p)
  let gone := fs.map (·.id)
  let s2 := (fs.foldl (fun (s : State) f => s.withdrawFetch f) s1).mapParks
    (fun k => match k.fetch with | some i => if gone.contains i then { k with fetch := none } else k | none => k)
  let s3 := s2.stopBudgets p
  (((s3.setPt p { s3.pt p with st := .frozen, freezeLeft := none }).bump (pgPT p) 0x028 1).raise (pgPT p) 1)

def State.freezeAtBoundary (s : State) (p : Nat) : State :=
  if (s.pt p).st = .freezing && s.mayFreeze p then s.takeFreeze p else s

/-- The freeze budget of a partition stopped with the time left, and started again (R298, R347). -/
def State.stopFreezeBudget (s : State) (p : Nat) : State :=
  let x := s.pt p
  if x.st = .freezing && x.freezeLeft.isNone then
    s.setPt p { x with freezeLeft := some (x.freezeAt + (s.frc (pgPT p) 0x090).toNat * 1000 - s.nowUs) }
  else s

def State.startFreezeBudget (s : State) (p : Nat) : State :=
  let x := s.pt p
  match x.freezeLeft with
  | some l => s.setPt p { x with freezeAt := s.nowUs + l - (s.frc (pgPT p) 0x090).toNat * 1000, freezeLeft := none }
  | none => s

/-- BANK_STRIDE_STOP (R347): live slots SUSPENDED with the BANK mark, budgets stopped. -/
def State.bankStop (s : State) (p : Nat) : State :=
  if s.mc.bank = .banking then
    let s1 := s.mapSlots (fun x =>
      if x.owner = p && (x.st = .joining || x.st = .decoding) then { x with st := .suspended, wasJoining := x.st = .joining, bank := true } else x)
    (s1.stopBudgets p).stopFreezeBudget p
  else s

/-- Slots that adoption resumes at the first boundary (R349). -/
def State.resumeBanked (s : State) (p : Nat) : State :=
  s.mapSlots (fun x =>
    if x.owner = p && x.st = .suspended && x.resumeAt then
      { x with st := if x.wasJoining then .joining else .decoding, bank := false, resumeAt := false } else x)

/-- ORDER_CFG taking effect (R358). Outside ordered mode no profile is in force (DEDUCED, log entry 59). -/
def State.applyOrder (s : State) (p : Nat) : State :=
  let w := s.rd (pgSE p) 0x120
  let e := s.seOf p
  let on := w.getLsbD 0
  let prof := fld w 31 16
  if on = e.ordered && (!on || prof = e.profile) then s
  else if s.mc.bundle.profiles.contains prof then s.setSe p { e with ordered := on, profile := if on then prof else 0 }
  else s.refuse (pgSE p) 0x0608

/-- The program set since, and the partition's overlay entries, in force from here (R162, R269). -/
def State.applyProgram (s : State) (p : Nat) : State :=
  let e := s.seOf p
  let s1 := match e.newProgram with | some t => s.setSe p { e with program := t.1, layout := t.2, newProgram := none } | none => s
  let keep := s1.wx.overlayForce.filter (fun o => o.2.part ≠ p)
  let mine := s1.wx.overlay.filter (fun o => o.2.part == p)
  s1.setWax { s1.wx with overlayForce := mine.foldl (fun m o => AMap.put {} m o.1 o.2) keep }

/-- Checked values of the SE page in force at the boundary (R410, R412); a lower hold quota can raise HOLD_LOW (R190). -/
def State.applySeVals (s : State) (p : Nat) : State :=
  let h := s.hdr (pgSE p)
  if h.apply.isEmpty then s
  else
    let s1 := (s.applyVals (pgSE p) h.apply).holdLow p (s.holdFree p)
    s1.setHdr (pgSE p) { s1.hdr (pgSE p) with apply := [] }

/-- A boundary of the owner ages its pages (R194): IDLE counts the boundaries without an access since the one before. -/
def State.agePages (s : State) (p : Nat) : State :=
  s.setMem { s.mem with pmap := AMap.mapAll {} (fun _ e =>
    if e.owner = p && e.valid then { e with accessed := false, idle := if e.accessed then 0 else min 255 (e.idle + 1) } else e) s.mem.pmap }

/-! ## STRIDE_BOUNDARY -/

/-- Does the token ring have room for the stride's records (R121)? -/
def State.ringsReady (s : State) (p : Nat) : Bool :=
  decide (((s.seOf p).samples.filter (fun m => s.sampleLive m)).length ≤ s.ringRoom (ringTok p))

/-- R362: the wrap after a bank closed waits for its outcome in ordered mode. -/
def State.outcomeWait (s : State) (p : Nat) : Bool :=
  (s.seOf p).ordered && s.wrapNext p && s.wxs.any (fun w => w.2.used && w.2.owner == p && w.2.flight.isSome && w.2.outcome.isNone)

/-- Is an ALL_TO_ALL a reshard: one of a partition that holds checkpoints of training rows (R253; DESIGN CHOICE, log entry 166)? -/
def State.reshards (s : State) (x : Started) : Bool := x.opcode == 0x54 && decide (x.page < 32) && !(s.seOf x.page).ckpts.isEmpty

/-- A reshard that is not complete holds the boundary where the mappings change, which is the wrap (R24, R179, R253). -/
def State.reshardWait (s : State) (p : Nat) : Bool := s.wrapNext p && s.started.any (fun x => x.page == p && s.reshards x)

/-- Everything that happens to the sequences, holds and waxes of the partition at the boundary, in the order of R142 and R170. -/
def State.boundaryWork (s : State) (p : Nat) : State :=
  let s0 := s.landRefreshes p
  let ends := s0.stops p
  let s1 := s0.writeTokens p
  let s2 := s1.updateScales p
  let s3 := (s2.seOf p).samplesSorted.foldl (fun s m => s.keepToken m)
    ((rowStarts (s2.seOf p).rows).foldl (fun s fr => s.advanceRow p fr) s2)
  let s4 := ends.foldl (fun s x => s.leaveSlot x.1 x.2) s3
  let s5 := (s4.resumeBanked p).applyRequests p (ends.map (·.1))
  let s6 := (s5.expireHolds p).resolveGroups p
  (s6.advancePhase p).sweepPoisoned

/-- The STRIDE record (R271). -/
def State.strideRec (s : State) (p : Nat) (e : Se) : CRec :=
  let rows := (e.rows.map (·.n)).sum
  let train := ((e.rows.filter (fun r => r.kind == .train)).map (·.n)).sum
  { kind := 4, status := 0, queue := 0x80, part := p, elapsed := s.nowUs - e.start,
    result := leBytes e.num 8 ++ leBytes rows 2 ++ leBytes train 2 ++ leBytes (s.nowUs - e.start) 4 ++
      leBytes ((if e.reruns.isEmpty then 0 else 1) + (if e.detours.isEmpty then 0 else 2) + (if e.pageWait then 4 else 0)) 1 }

/-- The stride leaves BOUNDARY (R100, R131, R194, R297, R347). A pause or a freeze asked for in BOUNDARY waits for the next one (R101). -/
def State.leaveBoundary (s : State) (p : Nat) : State :=
  let e := s.seOf p
  let s1 := ((s.bump (pgSE p) 0x020 1).wr (pgSE p) 0x080 (BitVec.ofNat 32 (s.nowUs - e.start))).raise (pgSE p) 0
  let s2 := (s1.agePages p).bankStop p
  let s3 := if e.freezeLate then s2 else s2.freezeAtBoundary p
  let s4 := s3.setSe p { (s3.seOf p).idled with st := .idle, reqs := (s3.seOf p).reqs.map (fun r => { r with late := false }) }
  if (s4.rd (pgSE p) 0x054).getLsbD 0 && !e.pauseLate then s4.setSe p { s4.seOf p with st := .paused }
  else if s4.strideMayStart p then s4.enterAssemble p
  else s4

/-- The stride waits in BOUNDARY; RING_FULL at the first wait for ring room (R121, R131). -/
def State.ringWaits (s : State) (p : Nat) : State :=
  let e := s.seOf p
  if e.ringWait then s else (s.setSe p { e with ringWait := true, meterWait := false }).raise (pgSE p) 2

/-- The stride leaves BOUNDARY once no completion record of its page is held (R274). -/
def State.tryLeave (s : State) (p : Nat) : State :=
  if (s.heldOf p).comp.isEmpty then s.leaveBoundary p else s.ringWaits p

/-- The stride's completion record, the last of the boundary's records: with at most 64 step records held (R188), program, modes and resize take
effect and it is written or held. A resize accepted in BOUNDARY waits for the next one (R101). -/
def State.boundaryEnd (s : State) (p : Nat) : State :=
  let e := s.seOf p
  if 64 < e.heldSteps.length then s.ringWaits p
  else
    let s1 := (((s.applyProgram p).applySeVals p).applyOrder p).dropFailed p
    let s2 := if e.resizeLate then s1 else s1.applyResize p
    let s3 := s2.complete p (s2.strideRec p e)
    (s3.setSe p { s3.seOf p with bStage := 2 }).tryLeave p

/-- STRIDE_BOUNDARY (R100, R121, R188, R253, R274, R362, R380): token records once the ring has room, the boundary's work and report, then the
completion record. -/
def execStrideBoundary (p : PartId) (s : State) : Host.Outcome State Fault Refusal :=
  .next (
    let e := s.seOf p.val
    if e.st ≠ .boundary then s
    else if e.bStage = 2 then s.tryLeave p.val
    else if e.bStage = 1 then (s.drainSteps p.val e.heldSteps).boundaryEnd p.val
    else if !s.ringsReady p.val then s.ringWaits p.val
    else if 4096 ≤ s.meter.held.length then
      (if e.meterWait then s else (s.setSe p.val { e with meterWait := true, ringWait := false }).raise pgMT 1)
    else if s.outcomeWait p.val || s.reshardWait p.val then s
    else
      let rep := s.strideReport p.val (s.tokenAccounts p.val)
      let s1 := s.boundaryWork p.val
      let s2 := s1.setMeter { s1.meter with held := s1.meter.held ++ [rep] }
      (s2.setSe p.val { s2.seOf p.val with bStage := 1, bankUndo := [], carryUndo := none }).boundaryEnd p.val)

/-! ## ASSEMBLE_DONE -/

/-- ASSEMBLE_DONE (R21, R102, R107, R111, R116, R208, R361). In ordered mode the commands of the cut are applied first, as if received at the
boundary before the stride (R360), and the stride stays in ASSEMBLE until R361 holds. -/
def execAssembleDone (p : PartId) (s : State) : Host.Outcome State Fault Refusal :=
  .next (
    let e := s.seOf p.val
    if e.st ≠ .assemble then s
    else if e.ordered then
      if !s.cutReady p.val then s
      else
        let s1 := ((s.landRefreshes p.val).applyRequests p.val []).resolveGroups p.val
        let s2 := s1.admitAll p.val s1.parks
        if s2.poolCovers p.val then s2.leaveAssemble p.val else s
    else (s.admitAll p.val s.parks).leaveAssemble p.val)

/-! ## STRIDE_HANG, STRIDE_CTRL_WRITE -/

/-- The stride context torn down (R126, R281): its training rows and its segment run again, live sequences keep their slots. Once the boundary's
work is done it stands. -/
def State.tearStride (s : State) (p : Nat) : State :=
  let e := s.seOf p
  let s1 := e.bankUndo.foldl (fun s u => s.setWx u.1 { s.wxOf u.1 with bank := u.2 }) s
  let tr := if e.bStage = 0 then e.rows.filter (fun r => r.kind == .train) else []
  let s2 := tr.foldl (fun s r =>
    let x := s.hold r.id
    if x.st = .forward then s.setHold r.id { x with rowsRun := x.rowsRun - r.n } else s) s1
  let f := s2.seOf p
  let s3 := s2.setSe p { f.idled with
    st := .idle
    reqs := f.reqs.map (fun r => { r with late := false })
    carry := f.carryUndo.getD f.carry
    ckpts := if e.bStage = 0 then f.ckpts.filter (fun c => c.moved || c.stride ≠ e.num) else f.ckpts
    coefs := f.coefs.filter (fun c => !tr.any (fun r => r.id == c.hold && decide (r.pos ≤ c.pos) && decide (c.pos < r.pos + r.n))) }
  (s3.hearthsOf p).foldl (fun (s : State) h => s.clearHearth h) s3.freeUnused

/-- The KIND HANG record of a stride context, counted with the teardowns of its page (R275, R281, R288); DETAIL is the budget, or the hearth
of R341. -/
def State.strideHangRec (s : State) (p detail : Nat) : State :=
  (((s.report p { kind := 1, status := 4, queue := 0x80, part := p, time := s.nowUs, detail := detail }).raise (pgSE p) 4).raise (pgQP p) 2).bump
    (pgQP p) 0x030 1

/-- STRIDE_HANG (R126, R281): the stride has exceeded its budget. -/
def execStrideHang (p : PartId) (s : State) : Host.Outcome State Fault Refusal :=
  .next (
    let e := s.seOf p.val
    let budget := (s.frc (pgSE p.val) 0x044).toNat
    if e.st ≠ .idle && e.st ≠ .paused && decide (e.start + budget < s.nowUs) then (s.tearStride p.val).strideHangRec p.val budget else s)

/-- A write of STRIDE_CTRL past its gate: clearing PAUSE leaves PAUSED for IDLE (R100); PAUSE set in BOUNDARY acts at the next one (R101). -/
def State.writeStrideCtrl (s : State) (p : Nat) (v : Word) : State :=
  let was := (s.rd (pgSE p) 0x054).getLsbD 0
  let s1 := s.wr (pgSE p) 0x054 (v &&& 1)
  let e := s1.seOf p
  if e.st = .paused && !v.getLsbD 0 then s1.setSe p { e with st := .idle }
  else if e.st = .boundary && v.getLsbD 0 && !was then s1.setSe p { e with pauseLate := true }
  else s1

/-- STRIDE_CTRL_WRITE (R100, R130). -/
def execStrideCtrlWrite (o : Origin) (p : PartId) (v : Word) (s : State) : Host.Outcome State Fault Refusal :=
  .next (s.withWrite o (pgSE p.val * 0x1000 + 0x054) (fun s _ => s.writeStrideCtrl p.val v))

end Sys2Proof.Machine
end

