-- ==== Sys2Proof/Machine/SeOps.lean ====
section
/-!
DEFINITION. The commands every engine accepts (NOP, FENCE, SEM_WAIT, SEM_SIGNAL: R267, R343 to R345) and those of the stride engine (JOIN to
PROGRAM_SET: R106, R108 to R111, R147, R168 to R171, R269, R314).
-/

namespace Sys2Proof.Machine

/-- A started command taken up by its row, or nothing happens (log entry 1). -/
def State.onTaken (s : State) (c : CmdRef) (opcode : Nat) (f : State → Started → State) : State :=
  match s.taken c opcode with
  | some x => f s x
  | none => s

/-! ## NOP, FENCE -/

/-- NOP (R267). -/
def execNop (c : CmdRef) (s : State) : Host.Outcome State Fault Refusal := .next (s.onTaken c 0x00 (fun s x => s.endCmd x 0))

/-- Is an earlier command of the same queue still open? -/
def State.earlierOpen (s : State) (x : Started) : Bool :=
  (s.started.takeWhile (fun y => y.key != x.key)).any (fun y => y.qnum == x.qnum)

/-- FENCE (R267): it completes when every earlier command of its queue has. -/
def execFence (c : CmdRef) (s : State) : Host.Outcome State Fault Refusal :=
  .next (s.onTaken c 0x01 (fun s x => if s.earlierOpen x then s.setCmd { x with phase := .waiting } else s.endCmd x 0))

/-! ## Rink semaphores (R343 to R345) -/

/-- The partition and domain a queue's requests carry (R343). -/
def semPart (x : Started) : Nat := partOfQp x.page
def semDom (x : Started) : Nat := if x.page < 32 then 0x48 + x.page else 0xFF

/-- Is a requester the holder recorded? -/
def Sem.heldBy (m : Sem) (part dom : Nat) (epoch : Word) : Bool :=
  decide (0 < m.held) && decide (m.hPart = part) && decide (m.hDom = dom) && decide (m.hEpoch = epoch)

/-- A wait that can succeed now, with the semaphore after it (R344). -/
def Sem.acquire (m : Sem) (count part dom : Nat) (epoch : Word) : Option Sem :=
  if m.value < count then none
  else if m.owned then
    if m.held = 0 then
      some { m with value := m.value - count, held := count, aband := false,
                    hPart := if count = 0 then 0 else part, hDom := if count = 0 then 0 else dom, hEpoch := if count = 0 then 0 else epoch }
    else if m.heldBy part dom epoch then some { m with value := m.value - count, held := m.held + count, aband := false }
    else none
  else some { m with value := m.value - count, aband := false, ledger := m.ledger - count }

/-- A signal: the semaphore after it, or the reason 0x025D when VALUE would pass 65,535 (R344). -/
def Sem.signal (m : Sem) (count part dom : Nat) (epoch : Word) : Option Sem :=
  let back := if m.owned && m.heldBy part dom epoch then min count m.held else 0
  let v := m.value + count
  let sum := m.ledger + (count - back : Nat)
  if 65535 < v then none
  else if m.held - back = 0 then some { m with value := v, held := 0, hPart := 0, hDom := 0, hEpoch := 0, ledger := sum }
  else some { m with value := v, held := m.held - back, ledger := sum }

/-- The semaphore after an operation, with its audit (R367). -/
def State.putSem (s : State) (n : Nat) (m : Sem) : State := (s.setSem n m).auditSem n

/-- A SEM_WAIT tried once: it completes, with the ABANDONED bit where R272 sets it, or waits on. -/
def State.trySemWait (s : State) (x : Started) : State :=
  let n := field x.ops 16 17
  let m := s.sem n
  match m.acquire (field x.ops 18 19) (semPart x) (semDom x) (s.epoch (semDom x)) with
  | some m' => (s.putSem n m').endCmd x 0 { result := if m.aband then [1] else [] }
  | none => s.setCmd { x with phase := .waiting }

/-- SEM_WAIT (R267, R272, R343, R344). A semaphore number past 16,383 is a selector out of range (0x0259; DESIGN CHOICE,
log entry 25). -/
def execSemWait (c : CmdRef) (s : State) : Host.Outcome State Fault Refusal :=
  .next (s.onTaken c 0x02 (fun s x =>
    let n := field x.ops 16 17
    if 16384 ≤ n then s.refuseCmd x 0x0259
    else if (s.sem n).part ≠ semPart x then s.refuseCmd x 0x0317
    else s.trySemWait x))

/-! ### Rink operations of other modules (R240, R343, R344) -/

/-- A wait of another module tried once: its holder record names domain 0xFE and that module's fabric epoch (R343). -/
def State.tryRinkWait (s : State) (w : RinkWait) : Option State :=
  let m := s.sem w.sem
  (m.acquire w.count w.part 0xFE w.epoch).map (fun m' => (s.putSem w.sem m').emit (.rink w.src 0 0 m.aband))

/-- The waits of other modules tried again in the order they came, after tokens came back. -/
def State.wakeRink (s : State) (n : Nat) : State :=
  (s.fab.rinkWaits.filter (fun w => w.sem == n)).foldl (fun (s : State) w =>
    match s.tryRinkWait w with
    | some t => t.setFab { t.fab with rinkWaits := t.fab.rinkWaits.erase w }
    | none => s) s

/-- A signal dropped under R344: its epoch is below the holder record's. -/
def State.dropSignal (s : State) : State := (s.bump pgRK 0x028 1).raise pgRK 1

/-- Is a module a barrier can still wait for: this one, or one with a peer-table entry (R236, R240)? -/
def State.peerHere (s : State) (f : Nat) : Bool := decide (f = fld (s.rd pgCL 0x040) 14 0) || decide (AMap.get 0 s.fab.peers f ≠ 0)

/-- A barrier's completion at members of its list: OK, or PEER_LOST (R240, R272). -/
def State.endBarrier (s : State) (n status : Nat) (at_ : List Nat) : State :=
  at_.foldl (fun (s : State) f => s.emit (.barrier n f status)) (s.setFab { s.fab with barriers := AMap.del s.fab.barriers n })

/-- A member arrives at a barrier: it completes once every member has, and with PEER_LOST at the others when a member is not in the fabric (R240). That
all members complete together is what a barrier is (PRESUMED, log entry 165). -/
def State.arriveBarrier (s : State) (n src : Nat) (members : List Nat) : State :=
  let b := (AMap.find s.fab.barriers n).getD { members := members }
  let arrived := if b.arrived.contains src then b.arrived else b.arrived ++ [src]
  if b.members.any (fun f => !s.peerHere f) then s.endBarrier n 12 (b.members.filter (fun f => s.peerHere f))
  else if b.members.all (fun f => arrived.contains f) then s.endBarrier n 0 b.members
  else s.setFab { s.fab with barriers := AMap.ins n { b with arrived := arrived } (AMap.del s.fab.barriers n) }

/-- A rink operation that another module of the fabric names here (R240, R343, R344). -/
def State.rinkDo (s : State) (src : Nat) (epoch : Word) (op : RinkOp) : State :=
  match op with
  | .wait n count part =>
    if 16384 ≤ n then s.emit (.rink src 1 0x0259 false)
    else if (s.sem n).part ≠ part then s.emit (.rink src 1 0x0317 false)
    else
      let w : RinkWait := ⟨src, epoch, n, count, part⟩
      match s.tryRinkWait w with
      | some t => t
      | none => s.setFab { s.fab with rinkWaits := s.fab.rinkWaits ++ [w] }
  | .signal n count part =>
    let m := s.sem n
    if 16384 ≤ n then s.emit (.rink src 1 0x0259 false)
    else if m.part ≠ part then s.emit (.rink src 1 0x0317 false)
    else if 0 < m.held && m.hDom = 0xFE && epoch.toNat < m.hEpoch.toNat then s.dropSignal.emit (.rink src 0 0 false)
    else
      match m.signal count part 0xFE epoch with
      | some m' => ((s.putSem n m').emit (.rink src 0 0 false)).wakeRink n
      | none => s.emit (.rink src 1 0x025D false)
  | .barrier n members => if 1024 ≤ n then s.emit (.rink src 1 0x0259 false) else s.arriveBarrier n src members

/-- SEM_SIGNAL (R267, R343, R344): a signal whose domain epoch is below the holder record's is dropped and counted. -/
def execSemSignal (c : CmdRef) (s : State) : Host.Outcome State Fault Refusal :=
  .next (s.onTaken c 0x03 (fun s x =>
    let n := field x.ops 16 17
    let m := s.sem n
    if 16384 ≤ n then s.refuseCmd x 0x0259
    else if m.part ≠ semPart x then s.refuseCmd x 0x0317
    else if 0 < m.held && m.hDom = semDom x && (s.epoch (semDom x)).toNat < m.hEpoch.toNat then s.dropSignal.endCmd x 0
    else
      match m.signal (field x.ops 18 19) (semPart x) (semDom x) (s.epoch (semDom x)) with
      | some m' => ((s.putSem n m').wakeRink n).endCmd x 0
      | none => s.refuseCmd x 0x025D))

/-! ## JOIN (R109 to R111, R147) -/

/-- The checks of R110 on a descriptor's own fields. -/
def joinCheck (d : JoinDesc) (stopCount : Nat) : Option Nat :=
  let t := bf16ToF32 d.temp
  let pp := bf16ToF32 d.topP
  if d.promptLen = 0 || d.maxNew = 0 || 262144 < d.promptLen + d.maxNew then some 0x0233
  else if d.pfxTokens % 64 ≠ 0 || d.promptLen ≤ d.pfxTokens then some 0x0234
  else if !(f32IsFinite t && fle 0 t) || !(flt 0 pp && fle pp f32One) || 1024 < d.topK || 8 < stopCount then some 0x0235
  else none

/-- Tokens within the base's vocabulary (R110). -/
def tokensOk (vocab : Nat) (l : List Word) : Bool := l.all (fun t => decide (t.toNat < vocab))

/-- The words of a byte list. -/
def wordsOf (b : List Byte) (n : Nat) : List Word := (List.range n).map (fun i => BitVec.ofNat 32 (field b (4 * i) (4 * i + 3)))

/-- A fetch opened for a wax of a partition (R147): it waits for a tag (R151). -/
def State.openFetch (s : State) (p wax version : Nat) (k : FetchKind) (cmd : Option (Nat × Nat × Nat × Nat)) : Nat × State :=
  let f : Fetch := { id := s.wx.nextId, part := p, wax := wax, version := version, kind := k, st := .waitTag, since := s.nowUs, cmd := cmd }
  (f.id, s.setWax { s.wx with fetches := s.wx.fetches ++ [f], nextId := s.wx.nextId + 1 })

/-- The fetch a park entry waits for: none when its wax is resident, a fetch that runs already, or a new one (R147). -/
def State.parkFetch (s : State) (p wax : Nat) : Option Nat × State :=
  if wax = 0 || (s.newestSlot p wax).isSome then (none, s)
  else
    match s.wx.fetches.find? (fun f => f.part == p && f.wax == wax) with
    | some f => (some f.id, s.bump pgWX 0x060 1)
    | none => let r := s.openFetch p wax 0 .first none; (some r.1, r.2)

/-- A checked JOIN takes a park-queue entry, or is BUSY (R111). -/
def State.parkJoin (s : State) (x : Started) (d : JoinDesc) : State :=
  if 65536 ≤ s.parks.length then
    ((s.bump (pgSE x.page) 0x068 1).raise pgWX 3).refuseCmd x 0x0502 { wax := d.wax }
  else
    let r := s.parkFetch x.page d.wax
    let k : Park := { part := x.page, d := d, jid := { queue := queueByte x.eng x.q false, seq := x.seq, tag := x.tag, cookie := x.cookie, dua := field x.ops 16 23 }, fetch := r.1 }
    (r.2.setParks (r.2.parks ++ [k])).auditFetch.endCmd x 0

/-- JOIN (R109 to R111, R147). A JOIN from QPM names no partition (DEDUCED, log entry 26). -/
def execJoin (c : CmdRef) (s : State) : Host.Outcome State Fault Refusal :=
  .next (s.onTaken c 0x10 (fun s x =>
    if 32 ≤ x.page then s.refuseCmd x 0x0259
    else
      let dua := field x.ops 16 23
      match s.load (seWho x.page) dua 128 with
      | .error e => s.failCmd x e dua
      | .ok (b, s1) =>
        let d := joinDescOf b
        match joinCheck d (joinStopCount b) with
        | some r => s1.refuseCmd x r { wax := d.wax }
        | none =>
          match s1.load (seWho x.page) d.promptDua (4 * d.promptLen) with
          | .error e => s1.failCmd x e d.promptDua
          | .ok (t, s2) =>
            let vocab := match s2.lift.base with | some m => m.vocab | none => 0
            if tokensOk vocab (wordsOf t d.promptLen ++ d.stops) then s2.parkJoin x d
            else s2.refuseCmd x 0x0237 { wax := d.wax }))

/-! ## LEAVE, SUSPEND, RESUME (R106 to R108) -/

/-- A request queued for the next boundary of a partition (R101). -/
def State.addRequest (s : State) (p : Nat) (x : Started) (k : ReqKind) (target gen : Nat) : State :=
  let e := s.seOf p
  (s.setSe p { e with reqs := e.reqs ++ [{ kind := k, target := target, gen := gen, cmd := x.key, late := decide (e.st = .boundary) }] }).setCmd
    { x with phase := .waiting }

/-- The slot command's checks: generation (R106), partition, state (R108). -/
def State.slotCheck (s : State) (x : Started) (ok : SlotSt → Bool) : Option Nat :=
  let sl := s.slot (field x.ops 16 17 % 2 ^ 12)
  if sl.gen ≠ field x.ops 18 19 then some 0x0311
  else if sl.st = .free then some 0x0314
  else if x.page < 32 && sl.owner ≠ x.page then some 0x0317
  else if !ok sl.st then some 0x0314
  else none

/-- A slot command accepted or refused. -/
def State.slotCmd (s : State) (x : Started) (k : ReqKind) (ok : SlotSt → Bool) : State :=
  let n := field x.ops 16 17 % 2 ^ 12
  match s.slotCheck x ok with
  | some r => s.refuseCmd x r { id := n, idGen := field x.ops 18 19 }
  | none => s.addRequest (s.slot n).owner x k n (field x.ops 18 19)

/-- LEAVE (R106 to R108). -/
def execLeave (c : CmdRef) (s : State) : Host.Outcome State Fault Refusal :=
  .next (s.onTaken c 0x11 (fun s x => s.slotCmd x .leave (fun _ => true)))

/-- SUSPEND (R106 to R108). -/
def execSuspend (c : CmdRef) (s : State) : Host.Outcome State Fault Refusal :=
  .next (s.onTaken c 0x12 (fun s x => s.slotCmd x .suspend (fun st => decide (st = .joining) || decide (st = .decoding))))

/-- RESUME (R106 to R108, R112): the promotion of the slot's pages is called for (R197). -/
def execResume (c : CmdRef) (s : State) : Host.Outcome State Fault Refusal :=
  .next (s.onTaken c 0x13 (fun s x =>
    let ok := fun (st : SlotSt) => decide (st = .suspended)
    let y := s.slot (field x.ops 16 17 % 2 ^ 12)
    let s1 := s.slotCmd x .resume ok
    if (s.slotCheck x ok).isNone then s1.wantPages y.pages y.tracePages else s1))

/-! ## REWARD, GROUP_CLOSE (R168, R170, R171) -/

/-- REWARD (R170): applied at the next boundary of its partition; one from QPM goes to the owner of an entry in use. -/
def execReward (c : CmdRef) (s : State) : Host.Outcome State Fault Refusal :=
  .next (s.onTaken c 0x14 (fun s x =>
    let h := field x.ops 16 17 % 2 ^ 14
    let e := s.hold h
    let k := ReqKind.reward (BitVec.ofNat 32 (field x.ops 20 23)) (BitVec.ofNat 32 (field x.ops 24 27)) ((field x.ops 28 28).testBit 0)
    if x.page < 32 then s.addRequest x.page x k h (field x.ops 18 19)
    else if e.st = .free then
      s.refuseCmd x (if e.gen ≠ field x.ops 18 19 then 0x0315 else 0x0316) { id := h, idGen := field x.ops 18 19, wax := e.wax }
    else s.addRequest e.owner x k h (field x.ops 18 19)))

/-- GROUP_CLOSE (R170, R171). -/
def execGroupClose (c : CmdRef) (s : State) : Host.Outcome State Fault Refusal :=
  .next (s.onTaken c 0x15 (fun s x =>
    if 32 ≤ x.page then s.refuseCmd x 0x0259
    else s.addRequest x.page x (.groupClose (field x.ops 16 21) (field x.ops 24 31)) 0 0))

/-! ## PROGRAM_SET (R76, R269, R314) -/

/-- The bytes a tile's weights take (R314): W4T blocks with their scale plane, E4M3 values, BF16 values. -/
def Tile.extent (t : Tile) : Nat :=
  let kn := 256 * t.k16 * t.n16
  if t.mode = 0 then kn / 32 * 17 else if t.mode = 1 then kn else 2 * kn

/-- R314: does a tile match a sealed entry? -/
def Tile.sealed (t : Tile) (e : SealedTile) : Bool :=
  decide (e.layer = t.layer) && decide (e.mode = t.mode) && (e.transposed == t.transposed) && decide (e.dua = t.weight) &&
  decide (e.extent = t.extent) && decide (e.input = t.input) && (e.site == if t.siteBit then some t.site else none)

/-- Does a range of memory space touch a BASE page? -/
def State.touchesBase (s : State) (dua len : Nat) : Bool :=
  (List.range ((dua + len - 1) / pageSize + 1 - dua / pageSize)).any (fun i =>
    let e := s.page (dua / pageSize + i)
    e.valid && decide (e.owner = 62))

/-- The check of one descriptor; a reserved bit, or a layer or site that the loaded base lacks, is out of range (DEDUCED, log entry 27). -/
def State.tileCheck (s : State) (r : List Byte) : Option Nat :=
  let t := tileOf r
  let bad := fun n => decide (n < 1) || decide (4096 < n)
  let layer := match s.lift.base with | some m => m.layers[t.layer]? | none => none
  if bad t.m16 || bad t.n16 || bad t.k16 then some 0x0230
  else if 2 < t.mode || 7 < field r 7 7 || layer.isNone ||
      (t.siteBit && (match layer with | some l => decide (l.sites.length ≤ t.site) | none => true)) ||
      (t.inScale = 0 && t.mode ≠ 2) || field r 12 15 ≠ 0 || !zeroFrom r 48 63 then some 0x0241
  else if s.touchesBase t.weight t.extent &&
      !(match s.lift.base with | some m => m.tiles.any (fun e => t.sealed e) | none => false) then some 0x0408
  else none

/-- PROGRAM_SET (R255, R269, R314): the first descriptor that fails refuses the whole, and so does a pipeline layout outside its bounds. That a layout
comes with the program is the model's (DESIGN CHOICE, log entry 164). -/
def execProgramSet (c : CmdRef) (s : State) (layout : Option Layout := none) : Host.Outcome State Fault Refusal :=
  .next (s.onTaken c 0x16 (fun s x =>
    if 32 ≤ x.page then s.refuseCmd x 0x0259
    else if (match layout with | some y => !layoutOk y s.segments | none => false) then s.refuseCmd x 0x0256
    else
      let dua := field x.ops 16 23
      let n := field x.ops 24 27
      match s.load (seWho x.page) dua (64 * n) with
      | .error e => s.failCmd x e dua
      | .ok (b, s1) =>
        let recs := (List.range n).map (fun i => (b.drop (64 * i)).take 64)
        match (List.range n).findSome? (fun i => (s1.tileCheck (recs.getD i [])).map (fun r => (i, r))) with
        | some (i, r) => s1.refuseCmd x r { detail := i }
        | none => (s1.setSe x.page { s1.seOf x.page with newProgram := some (recs.map tileOf, layout) }).endCmd x 0))

end Sys2Proof.Machine
end

