-- ==== Sys2Proof/Machine/Fetch.lean ====
section
/-!
DEFINITION. Wax fetches (R135, R136, R138, R147 to R153, R157 to R160, R319) and saves (R155).
-/

namespace Sys2Proof.Machine

/-! ## Tags and rotation (R148, R151) -/

def State.tagGen (s : State) (i : Nat) : Nat := AMap.get 1 s.wx.tagGen i

/-- A fetch's change in the list. -/
def State.setFetch (s : State) (f : Fetch) : State := s.mapFetches (fun x => if x.id = f.id then f else x)

/-- The partitions in rotation from `last` on. -/
def rotation (last : Nat) : List Nat := (List.range 32).map (fun i => (last + i) % 32)

/-- The fetch served next: partitions in rotation, first park entry first within each; `ok` says which can be served. -/
def State.nextFetch (s : State) (last : Nat) (ok : Fetch → Bool) : Option Fetch :=
  (rotation last).findSome? (fun p => s.wx.fetches.find? (fun f => f.part == p && ok f))

/-- Park entries that wait on a fetch. -/
def State.parkEntries (s : State) (f : Fetch) : Nat := (s.parks.filter (fun k => k.fetch == some f.id)).length

/-- The park entry of a JOIN whose fetch failed: its error record (R150). -/
def joinFail (now reason : Nat) (k : Park) : ERec :=
  { kind := 0, status := 1, reason := reason, opcode := 0x10, queue := k.jid.queue, seq := k.jid.seq, tag := k.jid.tag, part := k.part,
    cookie := k.jid.cookie, time := now, dua := k.jid.dua, wax := k.d.wax }

/-- Ends the commands that wait on a fetch: the one that opened it and the WAX_LOAD that answers it. -/
def State.endFetchCmds (s : State) (f : Fetch) (status : Nat) (i : EndInfo) : State :=
  let s1 := match f.cmd with | some k => s.endByKey k status i | none => s
  match f.load with | some k => s1.endByKey k status { i with result := [] } | none => s1

/-- A waxing slot that waited for a record that never came is released. -/
def State.cancelTrain (s : State) (f : Fetch) : State :=
  if f.kind == FetchKind.train then
    match s.waxingIn f.part f.wax with
    | some w => if (s.wxOf w).ready then s else s.releaseWaxing w
    | none => s
  else s

/-- A fetch fails with a reason (R149, R150). -/
def State.failFetch (s : State) (f : Fetch) (reason : Nat) : State :=
  let s1 := match f.slot with | some n => s.freeInf n | none => s
  let ks := s1.parks.filter (fun k => k.fetch == some f.id)
  let s2 := s1.setParks (s1.parks.filter (fun k => k.fetch ≠ some f.id))
  let s3 := ks.foldl (fun (s : State) k => s.report k.part (joinFail s.nowUs reason k)) s2
  (((s3.dropFetch f).cancelTrain f).raise pgWX 1).endFetchCmds f 1 { reason := reason, wax := f.wax }

/-! ## Looking up and missing (R149) -/

/-- A record of the local store that answers a fetch: any for version 0, the one asked for otherwise. -/
def State.storeHit (s : State) (f : Fetch) : Bool :=
  match AMap.find s.wx.store f.wax with
  | some r => decide (f.version = 0) || decide (r.desc.version = f.version)
  | none => false

/-- A MISS record written if the ring has room, else held with its budget not started (R149, R164). -/
def State.writeMiss (s : State) (f : Fetch) : State :=
  match f.tag with
  | none => s
  | some (i, g) =>
    if 0 < s.ringRoom ringEv && s.enabled pgWX then
      let s1 := (s.produce (byEngine (whoOf 63) 2) ringEv (missBytes f.wax f.part i g (s.parkEntries f) f.version)).raise pgWX 0
      s1.setFetch { f with st := .miss, since := s.nowUs }
    else s.setFetch { f with st := .missHeld }

/-- MISS records held, written in order while there is room. -/
def State.drainMisses (s : State) : State :=
  (s.wx.fetches.filter (fun f => f.st == .missHeld)).foldl (fun (s : State) f => s.writeMiss f) s

/-- The WAX_REFRESH and WAX_TRAIN result: slot, generation, version (R271). -/
def slotResult (n gen version : Nat) : List Byte := leBytes n 2 ++ leBytes gen 2 ++ leBytes version 4

/-- The version of the newest slot of a wax in a partition, 0 with none. -/
def State.newestVersion (s : State) (p wax : Nat) : Nat := match s.newestSlot p wax with | some n => (s.inf n).version | none => 0

/-- Does the local store hold nothing above the newest slot, for a refresh (R152)? -/
def State.isCurrent (s : State) (f : Fetch) : Bool :=
  f.kind == FetchKind.refresh &&
    (match AMap.find s.wx.store f.wax with | some r => decide (r.desc.version ≤ s.newestVersion f.part f.wax) | none => false)

/-- A refresh that brings nothing new ends CURRENT with the newest slot (R152, R271). -/
def State.endCurrent (s : State) (f : Fetch) : State :=
  let n := (s.newestSlot f.part f.wax).getD 0
  (s.dropFetch f).endFetchCmds f 9 { result := slotResult n (s.inf n).gen (s.newestVersion f.part f.wax) }

/-- The lookup of a fetch that has its tag. -/
def State.lookup (s : State) (f : Fetch) : State :=
  if s.storeHit f then (if s.isCurrent f then s.endCurrent f else s.setFetch { f with st := .waitStart })
  else if (s.frc pgWX 0x040).getLsbD 16 then s.writeMiss f
  else s.failFetch f 0x0116

/-- FETCH_TAG_ACQUIRED (R147, R149, R151): the next fetch in rotation takes a free tag index and looks its wax up. -/
def execFetchTagAcquired (s : State) : Host.Outcome State Fault Refusal :=
  .next (
    let s0 := s.drainMisses
    let used := s0.wx.fetches.filterMap (fun f => f.tag.map (·.1))
    if !s0.enabled pgWX || 512 ≤ used.length then s0
    else
      match s0.nextFetch s0.wx.rotTag (fun f => f.st == .waitTag) with
      | none => s0
      | some f =>
        let r := s0.pickFree 512 used
        let g := { f with tag := some (r.1, r.2.tagGen r.1) }
        ((r.2.setWax { r.2.wx with rotTag := (f.part + 1) % 32 }).setFetch g).lookup g)

/-- MISS_TIMEOUT (R149): a miss still unanswered when its budget has passed. -/
def execMissTimeout (tag : Fin 512) (s : State) : Host.Outcome State Fault Refusal :=
  .next (
    match s.wx.fetches.find? (fun f => f.tag.map (·.1) == some tag.val && f.st == .miss) with
    | some f => if f.left.isNone && f.since + (s.frc pgWX 0x044).toNat ≤ s.nowUs then s.failFetch f 0x0116 else s
    | none => s)

/-! ## Transfers (R148, R150 to R153) -/

/-- Is a slot there for a fetch: one free within the quota, or an evictable one (R148)? -/
def State.slotFor (s : State) (f : Fetch) : Bool :=
  decide ((s.infOf f.part).length < (s.pt f.part).cur.inf) || (s.infOf f.part).any (fun n => s.evictable n)

/-- Can a fetch start, as far as slots go? -/
def State.canStart (s : State) (f : Fetch) : Bool := f.st == .waitStart && s.slotFor f

/-- The read that a remote fetch sends over its port's WAX connection (R149, R400). -/
def State.askRemote (s : State) (f : Fetch) : State :=
  match f.remote with
  | some r => s.emit (.rdmaRead r.port r.raddr r.rkey r.bytes)
  | none => s

/-- FETCH_START (R148, R154): a credit and a slot, evicting if needed. -/
def execFetchStart (s : State) : Host.Outcome State Fault Refusal :=
  .next (
    if !s.enabled pgWX || fld (s.frc pgWX 0x040) 9 0 ≤ s.wx.inUse then s
    else
      match s.nextFetch s.wx.rotStart (fun f => s.canStart f) with
      | none => s
      | some f =>
        let s0 := s.setWax { s.wx with rotStart := (f.part + 1) % 32 }
        match s0.takeInf f.part with
        | (some n, s1) =>
          let s2 := (s1.setInf n { gen := (s1.inf n).gen, st := .filling, owner := f.part, wax := f.wax }).setFetch { f with st := .transfer, slot := some n }
          ((s2.setWax { s2.wx with inUse := s2.wx.inUse + 1 }).auditFetch).askRemote f
        | (none, s1) => s1)

/-! ## Checks on arrival (R135, R136, R138, R157 to R160, R319) -/

/-- The account key of an account in the firebox (R318, R319). -/
def State.accountKey (s : State) (account : Nat) : Option Nat :=
  (s.fbx.keys.find? (fun e => e.2.used && !e.2.outKey && e.2.account == account)).map (·.1)

/-- The directory of a record against its base: malformed bytes of the record header, more than 128 vectors, a vector of another size than its tensor, one
not behind the vector before it, or out of the clip area (R135, R136). -/
def clipsOk (m : Manifest) (r : WaxRec) : Bool :=
  !r.dirBad && decide ((waxVectors r).length ≤ 128) &&
  (waxVectors r).all (fun c =>
    (match m.layers[c.layer]? with
     | some l => (match l.clips[c.tensor]? with | some v => decide (v.length = 16 * c.count16) | none => false)
     | none => false) && decide (256 * c.start256 + 16 * c.count16 ≤ m.clipCapacity)) &&
  decide (((waxVectors r).map (fun c => (c.start256, c.count16))).Pairwise (fun a b => 256 * a.1 + 16 * a.2 ≤ 256 * b.1))

/-- A NaN among the carried clip values (R49). -/
def clipNan (m : Manifest) (r : WaxRec) : Bool :=
  (waxVectors r).any (fun c => (List.range (16 * c.count16)).any (fun i =>
    f32IsNaN (bf16ToF32 (AMap.get 0 r.hi (waxValues m + 256 * c.start256 + i)))))

/-- The checks of R138, R319, R135 and R49 on a record for a partition (32 on: the module, which has no account list). -/
def State.recCheck (s : State) (p : Nat) (r : WaxRec) : Option Nat :=
  match s.lift.base with
  | none => some 0x0321
  | some m =>
    if r.desc.wax = 0 || r.desc.account = 0 then some 0x0247
    else if r.desc.base ≠ m.baseId || r.desc.siteMap ≠ m.siteMap then some 0x0321
    else if r.desc.format ≠ 1 then some 0x0601
    else if p < 32 && !(s.pt p).cur.accts.contains r.desc.account then some 0x0325
    else if (s.accountKey r.desc.account).isNone then some 0x011C
    else if !clipsOk m r then some 0x0321
    else if clipNan m r then some 0x0224
    else none

/-! ### Record headers (R136, R137, R185) -/

/-- The descriptor that 64 bytes spell (R137). -/
def descOf (b : List Byte) : WaxDesc :=
  let f := field b 6 7
  { wax := field b 0 5, follow := f.testBit 0, clip := f.testBit 1, state := f.testBit 2, account := field b 8 11, version := field b 12 15,
    keyHandle := field b 16 17, format := field b 18 19, siteMap := field b 20 23, base := BitVec.ofNat 256 (field b 24 55) }

/-- The 8 bytes of an entry of the clip directory, by its number (R136). -/
def dirEntry (b : List Byte) (n : Nat) : List Byte := (b.drop (64 + 8 * n)).take 8

/-- Is an entry the end of the directory: all its bytes zero? -/
def dirEnd (b : List Byte) (n : Nat) : Bool := (dirEntry b n).all (· == 0)

/-- The number of used entries: those before the first that is all zero. -/
def dirUsed (b : List Byte) : Nat := ((List.range 128).find? (fun n => dirEnd b n)).getD 128

/-- The used entries of the clip directory. -/
def dirOf (b : List Byte) : List ClipEntry :=
  (List.range (dirUsed b)).map (fun n =>
    let e := dirEntry b n
    ⟨field e 0 1, field e 2 2, field e 4 5, field e 6 7⟩)

/-- The faults of R136: a non-zero entry after the end of the list, or a non-zero byte from offset 1,088 to 4,095. -/
def headerBad (b : List Byte) : Bool :=
  (List.range 128).any (fun n => decide (dirUsed b < n) && !dirEnd b n) || !zeroFrom b 1088 4095

/-- The step header that 24 bytes spell (R185). -/
def stepOf (b : List Byte) : StepHdr :=
  { step := field b 0 3, b1pow := BitVec.ofNat 32 (field b 4 7), b2pow := BitVec.ofNat 32 (field b 8 11), version := field b 12 15,
    lossTokens := field b 16 23 }

/-- A record with the contents of its record header, and no values yet: the step header only when FLAGS.STATE is set (R136). -/
def headerRec (b : List Byte) : WaxRec :=
  let d := descOf b
  { desc := d, clips := dirOf b, dirBad := headerBad b, step := if d.state then stepOf ((b.drop 4096).take 24) else { version := d.version } }

/-! ### Perquel records (R157 to R160) -/

def pqFormat (r : PqRec) : Nat := field r.header 0 1
def pqClass (r : PqRec) : Nat := field r.header 2 2
def pqComponent (r : PqRec) : Nat := field r.header 3 3
def pqWax (r : PqRec) : Nat := field r.header 4 9
def pqVersion (r : PqRec) : Nat := field r.header 16 19
def pqPayloadBytes (r : PqRec) : Nat := field r.header 28 31

/-- Where a record of a set stands: component, layer, site, first channel, count (R157). -/
structure PqPos where
  component : Nat
  layer : Nat
  site : Nat
  chOffset : Nat
  count : Nat
deriving DecidableEq, Repr

/-- The position a record's header names. -/
def pqPos (r : PqRec) : PqPos := ⟨pqComponent r, field r.header 10 11, field r.header 12 12, field r.header 20 23, field r.header 24 27⟩

/-- The digest of a record: over its header and plaintext payload (R158). -/
def pqDigest (header payload : List Byte) : BitVec 256 := Config.sha256 (header ++ payload)

/-- Does a record pass its tag and its digest (R150, R158)? -/
def pqGood (r : PqRec) : Bool := r.tagOk && r.digest == pqDigest r.header r.payload

/-- PAYLOAD_BYTES of a component with a count (R157). -/
def pqBytes (component count : Nat) : Nat :=
  match component % 8 with
  | 0 => 2 * count
  | 1 => 2 * count
  | 2 => count
  | 3 => count
  | 4 => 4 * ((count + 255) / 256)
  | 5 => 4 * ((count + 255) / 256)
  | _ => 24

/-- One site and component in records of at most 65,536 channels (R159). -/
def pqSplit (component layer site c : Nat) : List PqPos :=
  (List.range ((c + 65535) / 65536)).map (fun i => ⟨component, layer, site, 65536 * i, min 65536 (c - 65536 * i)⟩)

/-- The records of a set in value order: site records, the STEP record, clip records (R159, R160). `layers` are the selected ones, `sites` says which
sites, `parts` which parts in ascending number. The parts of one site and kind follow one another (DESIGN CHOICE, log entry 157). -/
def pqOrder (m : Manifest) (clips : List ClipEntry) (layers : List Nat) (sites : Nat → Bool) (parts : List Nat) (step : Bool) : List PqPos :=
  (layers.flatMap (fun l =>
    let cs := (m.layers.getD l {}).sites
    ((List.range cs.length).filter sites).flatMap (fun k =>
      [0, 1].flatMap (fun kind => parts.flatMap (fun part => pqSplit (8 * kind + part) l k (cs.getD k 0)))))) ++
  (if step then [⟨6, 0, 0, 0, 1⟩] else []) ++
  ((List.range clips.length).flatMap (fun n =>
    let c := clips.getD n ⟨0, 0, 0, 0⟩
    if layers.contains c.layer then parts.flatMap (fun part => pqSplit part c.layer (128 + n) (16 * c.count16)) else []))

/-- The parts a set carries, in ascending number. -/
def pqParts (set : List PqRec) : List Nat :=
  (List.range 6).filter (fun part => set.any (fun r => pqComponent r ≠ 0x0F && pqComponent r % 8 = part))

/-- The value index of the first channel of a record's position (R133, R135). -/
def pqIndex (m : Manifest) (r : WaxRec) (p : PqPos) : Nat :=
  if 128 ≤ p.site then waxValues m + 256 * ((waxVectors r).getD (p.site - 128) ⟨0, 0, 0, 0⟩).start256 + p.chOffset
  else waxIndex m p.layer p.site (p.component / 8) p.chOffset

/-- Values put into a list by index, from `i0` on. -/
def putFrom {w : Nat} (l : List (Nat × BitVec w)) (i0 : Nat) (vs : List (BitVec w)) : List (Nat × BitVec w) :=
  ((List.range vs.length).zip vs).foldl (fun l v => AMap.put 0 l (i0 + v.1) v.2) l

/-- Block scales put into a list by the value index of their block's first value. -/
def putScales (l : List (Nat × F32)) (i0 : Nat) (vs : List F32) : List (Nat × F32) :=
  ((List.range vs.length).zip vs).foldl (fun l v => AMap.put 0 l (i0 + 256 * v.1) v.2) l

/-- A record's payload put into the wax record it belongs to (R157, R160). -/
def pqTake (m : Manifest) (x : WaxRec) (r : PqRec) : WaxRec :=
  let i0 := pqIndex m x (pqPos r)
  let halves : List (BitVec 16) := (List.range (r.payload.length / 2)).map (fun i => BitVec.ofNat 16 (field r.payload (2 * i) (2 * i + 1)))
  let words : List F32 := (List.range (r.payload.length / 4)).map (fun i => BitVec.ofNat 32 (field r.payload (4 * i) (4 * i + 3)))
  if pqComponent r = 0x0F then x
  else
    match pqComponent r % 8 with
    | 0 => { x with hi := putFrom x.hi i0 halves }
    | 1 => { x with lo := putFrom x.lo i0 halves }
    | 2 => { x with m1 := putFrom x.m1 i0 r.payload }
    | 3 => { x with m2 := putFrom x.m2 i0 r.payload }
    | 4 => { x with m1s := putScales x.m1s i0 words }
    | 5 => { x with m2s := putScales x.m2s i0 words }
    | _ => { x with step := stepOf r.payload }

/-- The wax record a set stands for: its record header with the values of its records, the step header from its STEP record (R136, R160). -/
def setRec (m : Manifest) (header : List Byte) (set : List PqRec) : WaxRec := set.foldl (pqTake m) (headerRec header)

/-- R157, R160: a record set against the base and the record header it belongs to. A complete set holds the high halves alone, or every part with a STEP
record, as FLAGS.STATE of the header says (DEDUCED, log entry 158). -/
def setCheck (m : Manifest) (wax : Nat) (set : List PqRec) (header : List Byte) : Option Nat :=
  let d := descOf header
  let parts := pqParts set
  let step := set.any (fun r => pqComponent r = 6)
  let body := set.dropLast
  if set.any (fun r => pqClass r ≠ 0) then some 0x0322
  else if set.any (fun r => pqFormat r ≠ 1) then some 0x0601
  else if set.any (fun r => pqWax r ≠ wax || pqVersion r ≠ d.version) || d.wax ≠ wax then some 0x0323
  else if parts ≠ (if d.state then [0, 1, 2, 3, 4, 5] else [0]) || step ≠ d.state then some 0x0323
  else if set.any (fun r => pqPayloadBytes r ≠ r.payload.length) || body.any (fun r => r.payload.length ≠ pqBytes (pqComponent r) (pqPos r).count) then some 0x0323
  else if (set.getLast?).map (fun r => (pqComponent r, r.payload)) ≠ some (0x0F, body.flatMap (fun r => leBytes r.digest.toNat 32)) then some 0x0323
  else if body.map pqPos ≠ pqOrder m (waxVectors (headerRec header)) (List.range m.layers.length) (fun _ => true) parts step then some 0x0323
  else none

/-- The key handle of this module written into a record (R319). -/
def State.rekey (s : State) (r : WaxRec) : WaxRec :=
  match s.accountKey r.desc.account with
  | some i => { r with desc := { r.desc with keyHandle := i + 4096 * (AMap.get {} s.fbx.keys i).gen } }
  | none => r

/-- The training state of a record: what a record without STATE starts with (R185). -/
def trainForm (r : WaxRec) : WaxRec :=
  if r.desc.state then r else { r with lo := [], m1 := [], m2 := [], m1s := [], m2s := [], step := { version := r.desc.version } }

/-- The inference slot of a fetch whose record has landed (R142, R147, R152): it serves at once where the wax was not resident, waits for the boundary
where it brings a version above the newest, and is given back where it does not. -/
def State.landSlot (s : State) (f : Fetch) (n : Nat) (r : WaxRec) : State :=
  let newest := s.newestVersion f.part f.wax
  if r.desc.version ≤ newest then s.freeInf n
  else
    s.setInf n { gen := (s.inf n).gen, st := if f.kind == FetchKind.refresh || newest ≠ 0 then .landed else .valid, owner := f.part, wax := f.wax,
                 version := r.desc.version, rcd := infForm r, lastStride := (s.seOf f.part).num }

/-- A landed WAX_TRAIN fills its waxing slot. -/
def State.landTrain (s : State) (f : Fetch) (r : WaxRec) : State :=
  match s.waxingIn f.part f.wax with
  | some w =>
    let x := s.wxOf w
    let s1 := s.setWx w { x with ready := true, rcd := trainForm r }
    let n := x.reservedSlot.getD 0
    s1.endFetchCmds f 0 { result := slotResult n (s1.inf n).gen r.desc.version }
  | none => s.endFetchCmds f 0 {}

/-- A landed WAX_REFRESH: its new slot, or CURRENT with the newest (R152). -/
def State.landRefresh (s : State) (f : Fetch) (r : WaxRec) (newest : Nat) : State :=
  let n := f.slot.getD 0
  let old := (s.newestSlot f.part f.wax).getD 0
  if r.desc.version ≤ newest then s.endFetchCmds f 9 { result := slotResult old (s.inf old).gen newest }
  else s.endFetchCmds f 0 { result := slotResult n (s.inf n).gen r.desc.version }

/-- A checked record lands (R142, R147, R152, R185). A WAX_TRAIN record below the version that is resident is no training state of the newest version
(R143), and fails with 0x0323 (DESIGN CHOICE, log entry 160). -/
def State.landFetch (s : State) (f : Fetch) (r0 : WaxRec) : State :=
  let r := s.rekey r0
  let newest := s.newestVersion f.part f.wax
  if f.kind == FetchKind.train && decide (r.desc.version < newest) then s.failFetch f 0x0323
  else
    let s0 := if f.remote.isSome then s.bump pgWX 0x028 1 else s.bump pgWX 0x020 1
    let s1 := match f.slot with | some n => s0.landSlot f n r | none => s0
    let s2 := s1.mapParks (fun k => if k.fetch = some f.id then { k with fetch := none } else k)
    let s3 := s2.dropFetch f
    match f.kind with
    | .refresh => s3.landRefresh f r newest
    | .train => s3.landTrain f r
    | .first => s3.endFetchCmds f 0 {}

/-- A record that fails its digest or tag is read once more; the second time it is refused and counted (R150). -/
def State.digestRetry (s : State) (f : Fetch) : State :=
  if f.retried then (s.bump pgWX 0x058 1).failFetch f 0x0323 else (s.setFetch { f with retried := true }).askRemote f

/-- What arrives for a fetch. -/
def State.arrive (s : State) (f : Fetch) (a : Arrival) : State :=
  match a with
  | .connBroke => if f.remote.isSome then s.failFetch f 0x0113 else s
  | .digestFail => s.digestRetry f
  | .stored =>
    if f.remote.isSome then s
    else
      match AMap.find s.wx.store f.wax with
      | some r => (match s.recCheck f.part r with | some e => s.failFetch f e | none => s.landFetch f r)
      | none => s.digestRetry f
  | .remote set header =>
    let rcd := setRec (s.lift.base.getD {}) header set
    if f.remote.isNone then s
    else if set.any (fun r => !(pqGood r)) then s.digestRetry f
    else
      match setCheck (s.lift.base.getD {}) f.wax set header with
      | some e => s.failFetch f e
      | none =>
        if f.version ≠ 0 && rcd.desc.version ≠ f.version then s.failFetch f 0x0323
        else match s.recCheck f.part rcd with | some e => s.failFetch f e | none => s.landFetch f rcd

/-- FETCH_TRANSFER_DONE (R150 to R152, R160): a completion that names an earlier generation of its tag is dropped and counted. -/
def execFetchTransferDone (tag : Fin 512) (gen : Nat) (a : Arrival) (s : State) : Host.Outcome State Fault Refusal :=
  .next (
    match s.wx.fetches.find? (fun f => f.tag == some (tag.val, gen) && f.st == .transfer) with
    | some f => s.arrive f a
    | none => s.bump pgWX 0x038 1)

/-! ## Saves (R155) -/

/-- WAX_SAVE_DONE (R155, R165): the directory switches to the new frame, or the previous one is kept. -/
def execWaxSaveDone (wax : Nat) (ok : Bool) (s : State) : Host.Outcome State Fault Refusal :=
  .next (
    match s.wx.saves.find? (fun x => x.wax == wax && x.begun) with
    | none => s
    | some v =>
      let before := s.framesFree
      let rest := startSaves (s.wx.saves.filter (fun x => !(x.wax == wax && x.begun)))
      if ok then
        let s1 := s.setWax { s.wx with saves := rest, store := AMap.ins wax v.rcd (AMap.del s.wx.store wax),
                                       reservedFrames := s.wx.reservedFrames.filter (· ≠ wax) }
        (s1.mapWxs (fun x => if x.used && x.wax = wax && x.rcd.desc.version = v.rcd.desc.version then { x with dirty := false } else x)).storeLow before
      else (s.setWax { s.wx with saves := rest }).raise pgWX 4)

end Sys2Proof.Machine
end

