-- ==== Sys2Proof/Machine/WaxOps.lean ====
section
/-!
DEFINITION. The commands of the wax engine (R146, R149 to R161, R166, R167, R182, R319, R400, R401).
-/

namespace Sys2Proof.Machine

/-! ## WAX_TRAIN, WAX_UNTRAIN, WAX_STEP -/

/-- DRAM frames of a second gradient bank (R182). -/
def bankFrames (m : Manifest) : Nat := (4 * (waxValues m + m.clipCapacity) + pageSize - 1) / pageSize

/-- Frames a partition's second banks take. -/
def State.secondBanks (s : State) (p : Nat) : Nat :=
  (s.wxs.filter (fun e => e.2.used && e.2.owner == p && e.2.cfg.replicaGroup != 0)).length * bankFrames (s.lift.base.getD {})

/-- The refusals of WAX_TRAIN (R146, R166, R173, R182). A wax that trains in this partition already and a full waxing quota have no
reason of their own (log entry 28). -/
def State.trainCheck (s : State) (p : Nat) (c : TrainCfg) (b : List Byte) : Option Nat :=
  if !trainCfgOk c b then some 0x024A
  else if !(s.lossEnt c.lossEntry).usable then some 0x024B
  else if (s.waxingOf c.wax).isSome then some 0x0327
  else if (s.pt p).cur.wxs ≤ s.wxsUsed p || 1024 ≤ (s.wxs.filter (fun e => e.2.used)).length then some 0x050C
  else if c.replicaGroup ≠ 0 && (s.pt p).cur.frames < s.framesOf p + s.secondBanks p + bankFrames (s.lift.base.getD {}) then some 0x0506
  else if (AMap.find s.wx.store c.wax).isNone && s.framesFree = 0 then some 0x0505
  else none

/-- A waxing slot, the second inference slot and a frame taken for a wax (R146, R182). A wax that stands in the local store has its frame, and where no
slot can be had the commit takes one when it comes (log entry 161). -/
def State.takeWaxing (s : State) (p : Nat) (c : TrainCfg) : Nat × State :=
  let w := s.pickFree 1024 ((s.wxs.filter (fun e => e.2.used)).map (·.1))
  let before := w.2.framesFree
  let t := w.2.takeInf p
  let s1 := match t.1 with
    | some n => t.2.setInf n { gen := (t.2.inf n).gen, st := .reserved, owner := p, wax := c.wax }
    | none => t.2
  let s2 := s1.setWx w.1 { gen := (s1.wxOf w.1).gen, used := true, owner := p, wax := c.wax, cfg := c, reservedSlot := t.1 }
  (w.1, (if (AMap.find s2.wx.store c.wax).isSome then s2
         else s2.setWax { s2.wx with reservedFrames := s2.wx.reservedFrames ++ [c.wax] }).storeLow before)

/-- The full record of the newest version, when the local store holds it and that version is resident. -/
def State.trainRecord (s : State) (p wax : Nat) : Option WaxRec :=
  match s.newestSlot p wax, AMap.find s.wx.store wax with
  | some n, some r => if (s.inf n).version = r.desc.version then some r else none
  | _, _ => none

/-- WAX_TRAIN accepted: the training state comes from the local store, or a fetch brings the whole record (R146, R150). -/
def State.startTrain (s : State) (x : Started) (c : TrainCfg) : State :=
  let t := s.takeWaxing x.page c
  let s1 := t.2
  match s1.trainRecord x.page c.wax with
  | some r =>
    let y := s1.wxOf t.1
    let n := y.reservedSlot.getD 0
    (s1.setWx t.1 { y with ready := true, rcd := trainForm r }).endCmd x 0 { result := slotResult n (s1.inf n).gen r.desc.version }
  | none =>
    let f := s1.openFetch x.page c.wax 0 .train (some x.key)
    f.2.setCmd { x with phase := .waiting }

/-- WAX_TRAIN (R146, R166, R182). From QPM it names no partition (log entry 26). -/
def execWaxTrain (c : CmdRef) (s : State) : Host.Outcome State Fault Refusal :=
  .next (s.onTaken c 0x20 (fun s x =>
    if 32 ≤ x.page then s.refuseCmd x 0x0259
    else
      let dua := field x.ops 16 23
      match s.load x.who dua 64 with
      | .error e => s.failCmd x e dua
      | .ok (b, s1) =>
        let g := trainCfgOf b
        match s1.trainCheck x.page g b with
        | some r => s1.refuseCmd x r { wax := g.wax }
        | none => s1.startTrain x g))

/-- The waxing slot a command names by its WAX_ID: the partition's, or any for QPM. -/
def State.namedWaxing (s : State) (x : Started) : Option Nat :=
  if x.page < 32 then s.waxingIn x.page (field x.ops 16 21) else s.waxingOf (field x.ops 16 21)

/-- WAX_UNTRAIN (R167): it takes effect, and completes, at the next wrap; in ordered mode, where a cut waits for its WAX_UNTRAINs
(R360), it completes when it is accepted (DEDUCED, log entry 29). -/
def execWaxUntrain (c : CmdRef) (s : State) : Host.Outcome State Fault Refusal :=
  .next (s.onTaken c 0x21 (fun s x =>
    match s.namedWaxing x with
    | none => s.endCmd x 0
    | some w =>
      let y := s.wxOf w
      if y.untrain.isSome then s.endCmd x 0
      else
        let s1 := s.setWx w { y with untrain := some x.key }
        if (s.seOf y.owner).ordered then s1.endCmd x 0 else s1.setCmd { x with phase := .waiting }))

/-- WAX_STEP (R182). -/
def execWaxStep (c : CmdRef) (s : State) : Host.Outcome State Fault Refusal :=
  .next (s.onTaken c 0x22 (fun s x =>
    match s.namedWaxing x with
    | none => s.endCmd x 0
    | some w => (s.setWx w { s.wxOf w with stepAsked := true }).endCmd x 0))

/-! ## WAX_LOAD, WAX_REFRESH, WAX_EVICT -/

/-- The connection of a port and class: 0 WAX, 1 CKPT, 2 MGMT (R400, R406). -/
def State.conn (s : State) (port cls : Nat) : Conn := AMap.get {} s.host.conns (4 * port + cls)

def State.setConn (s : State) (port cls : Nat) (x : Conn) : State :=
  s.setHost { s.host with conns := AMap.put {} s.host.conns (4 * port + cls) x }

/-- WAX_LOAD (R149, R151, R400): it answers the miss of its tag; one that names an earlier generation is dropped and counted. -/
def execWaxLoad (c : CmdRef) (s : State) : Host.Outcome State Fault Refusal :=
  .next (s.onTaken c 0x23 (fun s x =>
    let tag := field x.ops 16 17
    let port := field x.ops 18 18
    match s.wx.fetches.find? (fun f => f.tag == some (tag % 512, tag / 512) && f.st == .miss && f.load.isNone) with
    | none => (s.bump pgWX 0x038 1).endCmd x 0
    | some f =>
      if x.page < 32 && f.part ≠ x.page then s.refuseCmd x 0x0317
      else if 1 < port then s.refuseCmd x 0x0259
      else if !(s.conn port 0).valid then s.refuseCmd x 0x0112
      else
        (s.setFetch { f with st := .waitStart, remote := some ⟨port, field x.ops 24 31, BitVec.ofNat 32 (field x.ops 20 23), field x.ops 32 35⟩, load := some x.key }).setCmd
          { x with phase := .waiting }))

/-- WAX_REFRESH (R152). A wax that is not resident is fetched as on first use (DESIGN CHOICE, log entry 30). -/
def execWaxRefresh (c : CmdRef) (s : State) : Host.Outcome State Fault Refusal :=
  .next (s.onTaken c 0x24 (fun s x =>
    let wax := field x.ops 16 21
    let ver := field x.ops 24 27
    if 32 ≤ x.page then s.refuseCmd x 0x0259
    else if (s.waxingOf wax).isSome then s.refuseCmd x 0x0327 { wax := wax }
    else
      match s.newestSlot x.page wax with
      | some n =>
        if ver ≠ 0 && ver ≤ (s.inf n).version then s.endCmd x 9 { result := slotResult n (s.inf n).gen (s.inf n).version }
        else (s.openFetch x.page wax ver .refresh (some x.key)).2.setCmd { x with phase := .waiting }
      | none => (s.openFetch x.page wax ver .refresh (some x.key)).2.setCmd { x with phase := .waiting }))

/-- WAX_EVICT (R141, R154, R277): the mark is kept; a referenced slot answers DEFERRED. -/
def execWaxEvict (c : CmdRef) (s : State) : Host.Outcome State Fault Refusal :=
  .next (s.onTaken c 0x25 (fun s x =>
    let n := field x.ops 16 17 % 8192
    let y := s.inf n
    if y.gen ≠ field x.ops 18 19 then s.refuseCmd x 0x0319 { id := n, idGen := field x.ops 18 19 }
    else if y.st = .free then s.endCmd x 0
    else if x.page < 32 && y.owner ≠ x.page then s.refuseCmd x 0x0317 { id := n, idGen := y.gen }
    else (s.setInf n { y with evictMark := true }).endCmd x (if s.referenced n then 10 else 0)))

/-! ## WAX_STORE, WAX_DELETE -/

/-- WAX_STORE (R135, R136, R138, R156, R160, R319): a store-class set read from memory space; `set` and `header` are what its bytes decrypt to. -/
def execWaxStore (c : CmdRef) (set : List PqRec) (header : List Byte) (s : State) : Host.Outcome State Fault Refusal :=
  .next (s.onTaken c 0x26 (fun s x =>
    let dua := field x.ops 16 23
    let rcd := setRec (s.lift.base.getD {}) header set
    match s.load x.who dua (field x.ops 24 27) with
    | .error e => s.failCmd x e dua
    | .ok (_, s1) =>
      if set.any (fun r => !pqGood r) then s1.refuseCmd x 0x0323 { wax := rcd.desc.wax }
      else
        match setCheck (s1.lift.base.getD {}) rcd.desc.wax set header with
        | some e => s1.refuseCmd x e { wax := rcd.desc.wax }
        | none =>
          match s1.recCheck x.page rcd with
          | some e => s1.refuseCmd x e { wax := rcd.desc.wax }
          | none =>
            if s1.framesFree = 0 then s1.refuseCmd x 0x0505 { wax := rcd.desc.wax }
            else
              let before := s1.framesFree
              ((s1.setWax { s1.wx with store := AMap.ins rcd.desc.wax (s1.rekey rcd) (AMap.del s1.wx.store rcd.desc.wax) }).storeLow before).endCmd x 0))

/-- WAX_DELETE (R156): resident slots stay in use. -/
def execWaxDelete (c : CmdRef) (s : State) : Host.Outcome State Fault Refusal :=
  .next (s.onTaken c 0x27 (fun s x =>
    let wax := field x.ops 16 21
    if (s.waxingOf wax).isSome then s.refuseCmd x 0x0327 { wax := wax }
    else (s.setWax { s.wx with store := AMap.del s.wx.store wax }).endCmd x 0))

/-! ## WAX_EXPORT (R157 to R159, R317, R319, R400, R401) -/

/-- The plaintext payload of a record (R157). -/
def pqPayload (m : Manifest) (r : WaxRec) (p : PqPos) : List Byte :=
  let i0 := pqIndex m r p
  let idx := (List.range p.count).map (· + i0)
  let blocks := (List.range ((p.count + 255) / 256)).map (fun k => i0 + 256 * k)
  match p.component % 8 with
  | 0 => idx.flatMap (fun i => leBytes (waxHiAt m r i).toNat 2)
  | 1 => idx.flatMap (fun i => leBytes (AMap.get (0 : BitVec 16) r.lo i).toNat 2)
  | 2 => idx.map (fun i => AMap.get (0 : Byte) r.m1 i)
  | 3 => idx.map (fun i => AMap.get (0 : Byte) r.m2 i)
  | 4 => blocks.flatMap (fun i => leBytes (AMap.get (0 : F32) r.m1s i).toNat 4)
  | 5 => blocks.flatMap (fun i => leBytes (AMap.get (0 : F32) r.m2s i).toNat 4)
  | _ => StepHdr.bytes r.step

/-- A 64-byte Perquel header (R157). -/
def pqHeader (cls wax version : Nat) (p : PqPos) (bytes : Nat) (nonce : BitVec 96) : List Byte :=
  leBytes 1 2 ++ leBytes cls 1 ++ leBytes p.component 1 ++ leBytes wax 6 ++ leBytes p.layer 2 ++ leBytes p.site 1 ++ leBytes 0 3 ++
  leBytes version 4 ++ leBytes p.chOffset 4 ++ leBytes p.count 4 ++ leBytes bytes 4 ++ leBytes nonce.toNat 12 ++ leBytes 0 20

/-- A Perquel record: header, ciphertext with its tag, digest (R157, R158). The header is authenticated data. -/
def pqRecord (key : BitVec 256) (nonce : BitVec 96) (header payload : List Byte) : List Byte :=
  header ++ padTo (payload.length + 16) (Config.gcmSeal key nonce (header ++ payload)) ++ leBytes (pqDigest header payload).toNat 32

/-- The record a wax is exported from: the waxing slot's, the local store's, or an inference slot's, of the version asked for; the flag says
whether it keeps every part. -/
def State.exportSource (s : State) (x : Started) (wax version : Nat) : Option (WaxRec × Bool) :=
  match s.wxs.find? (fun e => e.2.used && e.2.ready && e.2.wax == wax && e.2.rcd.desc.version == version && (decide (32 ≤ x.page) || e.2.owner == x.page)) with
  | some e => some (e.2.rcd, true)
  | none =>
    match (AMap.find s.wx.store wax).filter (fun r => r.desc.version == version) with
    | some r => some (trainForm r, true)
    | none =>
      (s.infs.find? (fun e => e.2.st == .valid && e.2.wax == wax && e.2.version == version && (decide (32 ≤ x.page) || e.2.owner == x.page))).map
        (fun e => (e.2.rcd, false))

/-- The highest version of a wax the command can name. -/
def State.exportNewest (s : State) (x : Started) (wax : Nat) : Nat :=
  let a := match AMap.find s.wx.store wax with | some r => r.desc.version | none => 0
  s.infs.foldl (fun b e =>
    if e.2.st = .valid && e.2.wax = wax && (decide (32 ≤ x.page) || e.2.owner == x.page) then max b e.2.version else b) a

/-- Selectors against the site map (R159). -/
def exportSelOk (m : Manifest) (first last sites comps : Nat) : Bool :=
  decide (first ≤ last) && decide (last < m.layers.length) && decide (comps < 128) &&
  decide (sites < 2 ^ (((m.layers.drop first).take (last + 1 - first)).map (fun l => l.sites.length)).foldl max 0)

/-- The placement entry that grants an export region: VALID, of the owner, wholly around the range (R159, R396). -/
def State.exportEntry (s : State) (owner dua len : Nat) : Bool :=
  s.host.place.any (fun e => e.2.valid && e.2.expt && decide (e.2.owner = owner) && decide (e.2.base ≤ dua) && decide (dua + len ≤ e.2.base + e.2.len))

/-- The account of a wax a command can name: that of a record the module holds of it. -/
def State.exportAccount (s : State) (x : Started) (wax : Nat) : Option Nat :=
  (s.exportSource x wax (s.exportNewest x wax)).map (·.1.desc.account)

/-- The nonce of record `i` of an export: a random part over the number of the draw, which never comes again (R157: never reused under one key; DESIGN
CHOICE, log entry 159). -/
def State.exportNonce (s : State) (i : Nat) : BitVec 96 :=
  BitVec.ofNat 96 ((Config.randomBits (s.freeCtr + i)).toNat % 2 ^ 48 * 2 ^ 48 + (s.freeCtr + i) % 2 ^ 48)

/-- The key of a class: the wax key, or the account's export key (R158, R318, R319). -/
def State.exportKey (s : State) (cls wax account : Nat) : Option (BitVec 256) :=
  if cls = 1 then (s.fbx.keys.find? (fun e => e.2.used && e.2.outKey && e.2.account == account)).map (·.2.key)
  else (s.fbx.keys.find? (fun e => e.2.used && !e.2.outKey && e.2.account == account)).map (fun e => Config.hkdf e.2.key wax)

/-- The records of an export in order, with the digests of all but the manifest record, and the state with its nonces drawn. The manifest record's header
has LAYER, SITE and CH_OFFSET 0 and COUNT 1, as a STEP record's has (DESIGN CHOICE, log entry 157). -/
def State.exportSet (s : State) (m : Manifest) (r : WaxRec) (key : BitVec 256) (cls version : Nat) (ps : List PqPos) : List (List Byte) × State :=
  let body := (List.range ps.length).map (fun i =>
    let p := ps.getD i ⟨0, 0, 0, 0, 0⟩
    let pay := pqPayload m r p
    let h := pqHeader cls r.desc.wax version p pay.length (s.exportNonce i)
    (pqRecord key (s.exportNonce i) h pay, leBytes (pqDigest h pay).toNat 32))
  let digests := body.flatMap (·.2)
  let h := pqHeader cls r.desc.wax version ⟨0x0F, 0, 0, 0, 1⟩ digests.length (s.exportNonce ps.length)
  (body.map (·.1) ++ [pqRecord key (s.exportNonce ps.length) h digests], (s.setFreeCtr (s.freeCtr + ps.length + 1)))

/-- The records kept until the command's end, if their destination may take them (R159, R396). -/
def State.exportStart (s : State) (x : Started) (recs : List (List Byte)) (wax : Nat) : State :=
  if field x.ops 36 36 ≠ 1 && !s.exportEntry (partOfQp x.page) (field x.ops 40 47) recs.flatten.length then s.refuseCmd x 0x0342 { wax := wax }
  else s.setCmd { x with phase := .running, data := recs }

/-- The end of an export (R159, R271, R400, R401): its records written to the region or over the port, and their number. -/
def State.exportEnd (s : State) (x : Started) : State :=
  let done := fun (s : State) => (s.bump pgWX 0x068 x.data.length).endCmd x 0 { result := leBytes x.data.length 4 }
  let dua := field x.ops 40 47
  if field x.ops 36 36 = 1 then done (s.emit (.rdmaWrite (field x.ops 37 37) dua (BitVec.ofNat 32 (field x.ops 48 51)) x.data.flatten))
  else
    match s.store x.who dua x.data.flatten with
    | .ok s1 => done s1
    | .error e => s.failCmd x e dua

/-- The refusals of WAX_EXPORT by its selectors, in the order of R159. A wax the module does not hold has no account in the list. -/
def State.exportCheck (s : State) (x : Started) : Option Nat :=
  let wax := field x.ops 16 21
  let comps := field x.ops 34 34
  match s.exportAccount x wax with
  | none => some 0x0325
  | some a =>
    if x.page < 32 && !(s.pt x.page).cur.accts.contains a then some 0x0325
    else if !exportSelOk (s.lift.base.getD {}) (field x.ops 28 29) (field x.ops 30 31) (field x.ops 32 33) comps || 1 < field x.ops 35 35 ||
        1 < field x.ops 36 36 then some 0x0241
    else if field x.ops 24 27 ≠ s.exportNewest x wax && comps ≠ 1 && comps ≠ 0 then some 0x0244
    else none

/-- WAX_EXPORT (R159). A version the module does not hold is a selector out of range, and the parts of a version of which it holds the high halves alone
are refused as those of an older one (DESIGN CHOICE, log entry 31). -/
def execWaxExport (c : CmdRef) (s : State) : Host.Outcome State Fault Refusal :=
  .next (s.onTaken c 0x28 (fun s x =>
    let wax := field x.ops 16 21
    let ver := field x.ops 24 27
    let first := field x.ops 28 29
    let last := field x.ops 30 31
    let sites := field x.ops 32 33
    let comps := field x.ops 34 34
    let cls := field x.ops 35 35
    let no := fun (s : State) (r : Nat) => s.refuseCmd x r { wax := wax }
    let m := s.lift.base.getD {}
    match s.exportCheck x with
    | some e => no s e
    | none =>
      match s.exportSource x wax ver with
      | none => no s 0x0241
      | some (r, full) =>
        if !full && comps ≠ 1 && comps ≠ 0 then no s 0x0244
        else
          match s.exportKey cls wax r.desc.account with
          | none => no s 0x011C
          | some key =>
            if field x.ops 36 36 = 1 && (decide (1 < field x.ops 37 37) || !(s.conn (field x.ops 37 37) 0).valid) then no s 0x0112
            else
              let parts := (List.range 6).filter (fun k => comps.testBit k)
              let layers := (List.range (last + 1 - first)).map (· + first)
              let t := s.exportSet m r key cls ver (pqOrder m (waxVectors r) layers (fun k => sites.testBit k) parts (comps.testBit 6))
              t.2.exportStart x t.1 wax))

/-! ## OVERLAY_SET (R161) -/

def overlayUnit : Nat := 65536

/-- Do two ranges meet? -/
def meets (a la b lb : Nat) : Bool := decide (a < b + lb) && decide (b < a + la)

/-- The partition an overlay entry written by a command names: the queue's, or for QPM the owner of the replacement pages (log entry 32). -/
def State.overlayPart (s : State) (x : Started) : Nat :=
  if x.page < 32 then x.page else (s.page (field x.ops 32 39 / pageSize)).owner

/-- The table is full: every entry is VALID, and the one named is no entry of the partition that the command would replace (R161; DEDUCED, log entry
162). -/
def State.overlayFull (s : State) (n p : Nat) : Bool :=
  decide (4096 ≤ (s.wx.overlay.filter (fun o => o.2.valid)).length) && (AMap.get {} s.wx.overlay n).part != p

/-- The checks of OVERLAY_SET on an entry made VALID. -/
def State.overlayCheck (s : State) (n p base units repl : Nat) : Option Nat :=
  let len := units * overlayUnit
  if units = 0 || 4096 < units then some 0x0250
  else if base % overlayUnit ≠ 0 || repl % overlayUnit ≠ 0 then some 0x023B
  else if 32 ≤ p || memTop < repl + len ||
      (List.range ((repl + len - 1) / pageSize + 1 - repl / pageSize)).any (fun i =>
        let e := s.page (repl / pageSize + i)
        !e.valid || e.owner ≠ p) then some 0x0317
  else if s.wx.overlay.any (fun o => o.1 ≠ n && o.2.valid && o.2.part == p && meets o.2.base (o.2.units * overlayUnit) base len) then some 0x0324
  else if s.lift.streamed && (s.lift.base.getD {}).shards.any (fun d => d.routed.isSome && meets (memTop + d.offset) d.length base len) then some 0x0326
  else if s.overlayFull n p then some 0x0505
  else none

/-- OVERLAY_SET (R161): the table changes; the hearths see it from the partition's next boundary on (R162). -/
def execOverlaySet (c : CmdRef) (s : State) : Host.Outcome State Fault Refusal :=
  .next (s.onTaken c 0x29 (fun s x =>
    let n := field x.ops 16 17
    let base := field x.ops 24 31
    let units := field x.ops 20 21
    let repl := field x.ops 32 39
    let old := AMap.get {} s.wx.overlay n
    let put := fun (s : State) (o : Overlay) => (s.setWax { s.wx with overlay := AMap.put {} s.wx.overlay n o }).endCmd x 0
    if 4096 ≤ n then s.refuseCmd x 0x0259
    else if x.page < 32 && old.valid && old.part ≠ x.page then s.refuseCmd x 0x0317
    else if !(field x.ops 18 18).testBit 0 then put s {}
    else
      let p := s.overlayPart x
      match s.overlayCheck n p base units repl with
      | some r => s.refuseCmd x r
      | none => put s { part := p, valid := true, base := base, units := units, repl := repl }))

end Sys2Proof.Machine
end

