-- ==== Sys2Proof/Machine/LfOps.lean ====
section
/-!
DEFINITION. The base and the lift (R19, R20, R40 to R51, R132, R134, R206 to R221, R223, R267, R436, R442, R444), installation transfers, the patrol, and hold
budgets (R170).
-/

namespace Sys2Proof.Machine

/-! ## The checks of a base (R444) -/

/-- A table entry that is a NaN code (R40). -/
def tableNan (t : List Nat) : Bool := t.any (fun c => fmtE4M3.decode c == .nan)

/-- The depth of the sealed tiles of a layer that read an input tensor, if one does. -/
def inputDepth (m : Manifest) (l input : Nat) : Option Nat :=
  (m.tiles.filter (fun t => t.layer == l && t.input == input)).foldl (fun (b : Option Nat) t =>
    some (match b with | some d => min d t.depth | none => t.depth)) none

/-- The outlier table of a layer (R51). -/
def outlierCheck (m : Manifest) (l : Nat) (os : List Nat) : Option Nat :=
  if 64 < os.length then some 0x0225
  else if os.any (fun o => decide (2 ^ 24 ≤ o) ||
      (match inputDepth m l (o / 2 ^ 16 % 256) with | some d => decide (d ≤ o % 2 ^ 16) | none => true)) then some 0x0227
  else if !decide (os.Pairwise (· < ·)) then some 0x0320
  else none

/-- The site map and clip capacity (R132, R134). -/
def siteMapOk (m : Manifest) : Bool :=
  m.layers.all (fun l => decide (1 ≤ l.sites.length) && decide (l.sites.length ≤ 16) &&
    l.sites.all (fun c => decide (16 ≤ c) && decide (c ≤ 65536) && decide (c % 16 = 0))) &&
  decide (2 * (waxValues m + m.clipCapacity) ≤ 8 * 2 ^ 20)

/-- The checks of a base in the order of R444; the first failure gives the reason. -/
def manifestCheck (m : Manifest) : Option Nat :=
  if 512 < m.layers.length then some 0x0222
  else if m.layers.any (fun l => tableNan l.codeTable) then some 0x0220
  else if m.layers.any (fun l => l.matrices.any (fun x => decide (x.1 % 32 ≠ 0))) then some 0x0221
  else if m.layers.any (fun l => tableNan l.kvTable) then some 0x0220
  else if m.layers.any (fun l => decide ((tableMax l.kvTable).1 = 0)) then some 0x0226
  else if m.layers.any (fun l => l.clips.any (fun v => v.any (fun c => f32IsNaN (bf16ToF32 c)))) then some 0x0224
  else
    match (List.range m.layers.length).findSome? (fun l => outlierCheck m l (m.layers.getD l {}).outliers) with
    | some r => some r
    | none => if siteMapOk m then none else some 0x0246

/-! ## Shards (R218 to R221) -/

def Manifest.shard (m : Manifest) (n : Nat) : Option Shard := m.shards.find? (fun d => d.number == n)

/-- A shard marked BAD in the status plane: counted, with its events (R219, R221). -/
def State.markBad (s : State) (m : Manifest) (n : Nat) : State :=
  if s.lift.bad.contains n then s
  else
    let s1 := (((s.setLift { s.lift with bad := s.lift.bad ++ [n] }).bump pgLF 0x030 1).raise pgLF 1)
    if (Manifest.shard m n).any (fun d => d.routed.isSome) then s1.raise pgLF 2 else s1

/-- A mismatch: the first is read once more, the second marks the shard BAD (R219); true when it is final. `key` tells readers apart. -/
def State.mismatch (s : State) (m : Manifest) (key n : Nat) : State × Bool :=
  if s.lift.retried.contains key then ((s.setLift { s.lift with retried := s.lift.retried.filter (· ≠ key) }).markBad m n, true)
  else (s.setLift { s.lift with retried := s.lift.retried ++ [key] }, false)

/-! ## BASE_LOAD, BASE_UNLOAD (R19, R20, R206, R219, R221, R267, R325, R436) -/

/-- Bytes of the routed experts of a layer, of all layers, and of the largest layer. -/
def layerExperts (m : Manifest) (l : Nat) : Nat := ((expertsOf m l).map (·.2)).sum
def allExperts (m : Manifest) : Nat := ((List.range m.layers.length).map (layerExperts m)).sum
def maxExperts (m : Manifest) : Nat := (List.range m.layers.length).foldl (fun b l => max b (layerExperts m l)) 0

/-- Does the base fit whole (resident), or its pinned part with the window (streamed)? The side-lane outliers count in both (R20, R206). -/
def fitsResident (m : Manifest) : Bool := decide (m.pinnedBytes + m.outlierBytes + allExperts m ≤ Config.baseShare)
def fitsStreamed (m : Manifest) (win : Nat) : Bool := decide (m.pinnedBytes + m.outlierBytes + win * maxExperts m ≤ Config.baseShare)

/-- The pages of a sealed tile's weights. -/
def tilePages (t : SealedTile) : List Nat := (List.range ((t.dua + t.extent + pageSize - 1) / pageSize - t.dua / pageSize)).map (· + t.dua / pageSize)

/-- Does a tile hold weights of a routed expert (R218)? -/
def routedTile (m : Manifest) (t : SealedTile) : Bool :=
  (m.shards.find? (fun d => d.number == Config.baseShardAt m.baseId t.dua)).any (fun d => d.routed.isSome)

/-- The pages of the lift window (R206). -/
def windowPages (m : Manifest) (win : Nat) : List Nat :=
  (List.range (win * ((maxExperts m + pageSize - 1) / pageSize))).map (· + Config.windowPage)

/-- The BASE pages in DRAM: of a resident base the pages of every tile, of a streamed one those of its pinned part and of the window (R20, R205, R206). -/
def basePages (m : Manifest) (streamed : Bool) (win : Nat) : List Nat :=
  if streamed then ((m.tiles.filter (fun t => !routedTile m t)).flatMap tilePages ++ windowPages m win).dedup
  else (m.tiles.flatMap tilePages).dedup

/-- The BASE pages of a streamed base that no DRAM frame backs: its routed experts' DUAs, which the window serves (R20). -/
def unbackedPages (m : Manifest) (streamed : Bool) (win : Nat) : List Nat :=
  if streamed then ((m.tiles.filter (fun t => routedTile m t)).flatMap tilePages).dedup.filter (fun n => !(basePages m streamed win).contains n) else []

/-- Can the base pages be placed: none holds another owner's page, and DRAM has the frames? -/
def State.basePlaceable (s : State) (m : Manifest) (streamed : Bool) (win : Nat) : Bool :=
  (basePages m streamed win ++ unbackedPages m streamed win).all (fun n => decide (n < 2 ^ 25) && (!(s.page n).valid || decide ((s.page n).owner = 62))) &&
  decide ((basePages m streamed win).length ≤ s.dramFree)

/-- The entry of a BASE page (R205, R311). -/
def baseEnt (tier frame : Nat) : PageEnt :=
  { frame := frame, tier := tier, owner := 62, valid := true, pinned := true, secure := true, readOnly := true, modulePinned := true }

/-- One BASE page placed in a free DRAM frame. -/
def State.placeBase (s : State) (n : Nat) : State :=
  let f := s.pickFrame 1
  f.2.setPage n (baseEnt 1 f.1)

/-- Why a BASE_LOAD is refused. A second load while a base is loaded is the lifecycle reason 0x0704 (DESIGN CHOICE, log entry 41). -/
def State.loadCheck (s : State) : Option Nat :=
  match s.lift.installed with
  | none => some 0x0118
  | some m =>
    if s.lift.base.isSome || s.lift.openInstall then some 0x0704
    else if s.fbx.baseKey.isNone then some 0x0119
    else
      match manifestCheck m with
      | some r => some r
      | none =>
        let win := fld (s.frc pgLF 0x040) 4 0
        if !(fitsResident m || fitsStreamed m win) || !s.basePlaceable m (!fitsResident m) win then some 0x0508
        else if m.shards.any (fun d => d.routed.isNone && s.lift.bad.contains d.number) then some 0x0118
        else none

/-- BASE_LOAD (R20, R206, R219, R221, R325, R444): `badShards` are the shards that fail their digest twice as they are read. The base counts as
loaded at the command's end. -/
def execBaseLoad (c : CmdRef) (badShards : List Nat) (s : State) : Host.Outcome State Fault Refusal :=
  .next (s.onTaken c 0x30 (fun s x =>
    match s.loadCheck with
    | some r => s.refuseCmd x r
    | none =>
      let m := s.lift.installed.getD {}
      let s1 := (badShards.filter (fun n => m.shards.any (fun d => d.number == n))).foldl (fun (s : State) n => s.markBad m n) s
      if m.shards.any (fun d => d.routed.isNone && s1.lift.bad.contains d.number) then s1.refuseCmd x 0x0118
      else s1.setCmd { x with phase := .running }))

/-- The base in place (R20, R206). -/
def State.loadBase (s : State) : State :=
  let m := s.lift.installed.getD {}
  let win := fld (s.frc pgLF 0x040) 4 0
  let streamed := !fitsResident m
  let s1 := (basePages m streamed win).foldl (fun (s : State) n => s.placeBase n) s
  let s2 := (unbackedPages m streamed win).foldl (fun (s : State) n => s.setPage n (baseEnt 0 0)) s1
  s2.setLift { s2.lift with base := some m, streamed := streamed, winLayers := win, bufs := [], blocked := false, dl := [], peerLanded := [] }

/-- Is any partition enabled? -/
def State.anyPartition (s : State) : Bool := s.pts.any (fun e => e.2.st != .disabled)

/-- BASE_UNLOAD (R267): the base share is released at the command's end. -/
def execBaseUnload (c : CmdRef) (s : State) : Host.Outcome State Fault Refusal :=
  .next (s.onTaken c 0x31 (fun s x => if s.anyPartition then s.refuseCmd x 0x0330 else s.setCmd { x with phase := .running }))

/-- The base share released: its pages are gone with their translations and cached lines. -/
def State.unloadBase (s : State) : State :=
  let gone := (s.mem.pmap.filter (fun e => e.2.owner == 62)).map (·.1)
  let s1 := s.setMem { s.mem with pmap := s.mem.pmap.filter (fun e => e.2.owner != 62), tlb := s.mem.tlb.filter (fun t => !gone.contains t.page),
                                  cache := s.mem.cache.filter (fun c => c.owner != 62) }
  s1.setLift { s1.lift with base := none, streamed := false, bufs := [], blocked := false, dl := [], peerLanded := [], rewriting := [] }

/-! ## The window (R206, R207, R209, R219, R221) -/

/-- A fill: what for (0 a forward sweep, 1 recompute, 2 gradient step), the layer, and the experts it reads (R207). -/
structure FillWant where
  use : Nat
  layer : Nat
  need : List Nat
deriving DecidableEq, Repr

/-- Every expert of a layer that the module's shard table holds, in ascending number. -/
def ownExperts (m : Manifest) (l : Nat) : List Nat := ((expertsOf m l).map (·.1)).mergeSort

/-- The fills in order: the forward sweeps of the strides that run, their segments for the recompute and then for the gradient step, each with its kept
experts only, and the forward layers of the next stride (R207). -/
def State.fillOrder (s : State) (m : Manifest) : List FillWant :=
  let ls := (List.range m.layers.length).filter (fun l => !(ownExperts m l).isEmpty)
  let fwd := (ls.filter (fun l => s.useOpen l 0)).map (fun l => (⟨0, l, ownExperts m l⟩ : FillWant))
  let seg := s.running.flatMap (fun p => (s.sweepOpen p).map (fun x =>
    (⟨x.1, x.2, (ownExperts m x.2).filter (fun e => (s.keptExperts p x.2).contains e)⟩ : FillWant)))
  fwd ++ seg.filter (fun w => !w.need.isEmpty) ++ ls.map (fun l => ⟨0, l, ownExperts m l⟩)

/-- Does a buffer hold a layer's experts that a fill asks for, landed or on their way? -/
def WinBuf.holds (b : WinBuf) (w : FillWant) : Bool := decide (b.layer = w.layer) && w.need.all (fun e => b.need.contains e)

/-- Is a fill provided for: a buffer is held for its use, or, for the segment, a layer still held in a buffer serves (R207)? -/
def State.filled (s : State) (w : FillWant) : Bool :=
  s.lift.bufs.any (fun b => b.holds w && (decide (b.claim = some w.use) || (decide (0 < w.use) && b.claim.isSome)))

/-- Is a buffer being filled: an expert of its fill has not landed and its shard is not BAD? -/
def State.filling (s : State) (b : WinBuf) : Bool :=
  match s.lift.base with
  | some m => b.claim.isSome && m.shards.any (fun d => match d.routed with
      | some (l, e) => l == b.layer && b.need.contains e && !b.landed.contains e && !s.lift.bad.contains d.number
      | none => false)
  | none => false

/-- A list with one member replaced. -/
def replaceFirst (f : WinBuf → Bool) (new : WinBuf) : List WinBuf → List WinBuf
  | [] => []
  | b :: bs => if f b then new :: bs else b :: replaceFirst f new bs

/-- The next fill begins: a free buffer that still holds the layer is held again without a read; else a buffer not in use, or one that is free, takes
it; which free one is the model's choice, the first (log entry 3). With none free the lift waits (R207, R209). -/
def State.startFill (s : State) (w : FillWant) : State :=
  let bs := s.lift.bufs
  let kept := fun (b : WinBuf) => b.claim.isNone && b.holds w
  let free := fun (b : WinBuf) => b.claim.isNone
  match bs.find? kept with
  | some b => s.setLift { s.lift with bufs := replaceFirst kept { b with claim := some w.use } bs }
  | none =>
    let new : WinBuf := { layer := w.layer, need := w.need, landed := [], claim := some w.use }
    if bs.length < s.lift.winLayers then s.setLift { s.lift with blocked := false, bufs := bs ++ [new] }
    else if bs.any free then s.setLift { s.lift with blocked := false, bufs := replaceFirst free new bs }
    else if s.lift.blocked then s
    else (s.setLift { s.lift with blocked := true }).raise pgLF 3

/-- LIFT_FILL_START (R206, R207, R209, R210): the next fill in order. Each fill starts as soon as a buffer is free, whatever else still fills. -/
def execLiftFillStart (s : State) : Host.Outcome State Fault Refusal :=
  .next (
    match s.lift.base with
    | none => s
    | some m =>
      if !s.lift.streamed || !s.enabled pgLF || (s.hdr pgLF).stopping then s
      else
        match (s.fillOrder m).find? (fun w => !s.filled w) with
        | none => s
        | some w => s.startFill w)

/-- Has a layer's deadline passed in a stride that still has to run it? -/
def State.deadlinePast (s : State) (l : Nat) : Bool :=
  let dl := AMap.get 0xFFFFFFFF s.lift.dl l
  decide (dl < 0xFFFFFFFF) && s.running.any (fun p =>
    (s.seOf p).st == .forward && decide ((s.seOf p).layer ≤ l) && decide ((s.seOf p).asmAt + dl < s.nowUs))

/-- Layers that waited only for what has landed go on (R125, R128). -/
def State.releaseWaits (s : State) (l : Nat) : State :=
  (s.setSes (AMap.mapAll {} (fun _ e =>
      { e with waitLayers := e.waitLayers.filter (fun w => w.layer != l || w.routes.any (fun r => !(s.missing l r).isEmpty)) }) s.se))

/-- The counts and event of a landing (R223, R224). -/
def State.countLanded (s : State) (l bytes : Nat) : State :=
  let s1 := s.bump pgLF 0x020 bytes
  if s.deadlinePast l then (s1.bump pgLF 0x028 1).raise pgLF 0 else s1

/-- A routed expert's shard in the window. -/
def routedShard (m : Manifest) (l e : Nat) : Option Shard := m.shards.find? (fun d => d.routed == some (l, e))

/-- The expert landed in every buffer of its layer. -/
def State.landExpert (s : State) (m : Manifest) (l e bytes : Nat) : State :=
  let s1 := s.countLanded l bytes
  let lands := fun (b : WinBuf) => decide (b.layer = l) && b.claim.isSome && b.need.contains e && !b.landed.contains e
  let s2 := s1.setLift { s1.lift with bufs := s1.lift.bufs.map (fun b => if lands b then { b with landed := b.landed ++ [e] } else b)
                                      retried := s1.lift.retried.filter (fun k => some k ≠ (routedShard m l e).map (·.number)) }
  s2.releaseWaits l

/-- EXPERT_LANDED (R125, R128, R207, R219, R221, R254): a shard arrives in the window and is checked, or a peer's contribution returns. -/
def execExpertLanded (layer expert : Nat) (digestOk : Bool) (s : State) : Host.Outcome State Fault Refusal :=
  .next (
    match s.lift.base with
    | none => s
    | some m =>
      match routedShard m layer expert with
      | some d =>
        if !s.lift.bufs.any (fun b => b.layer == layer && b.claim.isSome && b.need.contains expert && !b.landed.contains expert) ||
            s.lift.bad.contains d.number then s
        else if digestOk then s.landExpert m layer expert d.length
        else (s.mismatch m d.number d.number).1
      | none =>
        if s.lift.streamed && digestOk && decide (expert < (m.layers.getD layer {}).routed) && !s.landed layer expert then
          (s.setLift { s.lift with peerLanded := s.lift.peerLanded ++ [(layer, expert)] }).releaseWaits layer
        else s)

/-! ## The patrol (R220) -/

def dayUs : Nat := 86400000000

/-- PATROL_PASS_START (R220, R436): a pass falls due every 24 hours of mounted time; none runs while an installation is open. -/
def execPatrolPassStart (s : State) : Host.Outcome State Fault Refusal :=
  .next (
    if s.mc.vaultMounted && s.lift.installed.isSome && !s.lift.openInstall && !s.lift.patrolOn && decide (s.lift.patrolAt ≤ s.nowUs) then
      s.setLift { s.lift with patrolOn := true, patrolLate := false, patrolPos := 0, patrolAt := s.lift.patrolAt + dayUs }
    else s)

/-- The shards of a base in ascending number. -/
def shardOrder (m : Manifest) : List Nat := (m.shards.map (·.number)).mergeSort

/-- The patrol goes on to the next shard, or ends its pass. -/
def State.patrolNext (s : State) (m : Manifest) : State :=
  let s1 := (s.setLift { s.lift with patrolPos := s.lift.patrolPos + 1 }).bump pgMS 0x038 1
  if m.shards.length ≤ s1.lift.patrolPos then (s1.setLift { s1.lift with patrolOn := false }).raise pgMS 3 else s1

/-- PATROL_SHARD_CHECKED (R219 to R221). -/
def execPatrolShardChecked (digestOk : Bool) (s : State) : Host.Outcome State Fault Refusal :=
  .next (
    if !s.lift.patrolOn || !s.mc.vaultMounted then s
    else
      let m := s.lift.installed.getD {}
      match (shardOrder m)[s.lift.patrolPos]? with
      | none => (s.setLift { s.lift with patrolOn := false }).raise pgMS 3
      | some n =>
        if digestOk then (s.setLift { s.lift with retried := s.lift.retried.filter (· ≠ n + 2 ^ 32) }).patrolNext m
        else
          let r := s.mismatch m (n + 2 ^ 32) n
          if r.2 then r.1.patrolNext m else r.1)

/-! ## Installation transfers (R436, R438, R442, R444) -/

/-- The shards a transfer names that the manifest has, in shard order. -/
def transferShards (m : Manifest) (first count : Nat) : List Nat := (shardOrder m).filter (fun n => decide (first ≤ n) && decide (n < first + count))

/-- A GO past its gate. -/
def State.instGo (s : State) : State :=
  if s.lift.instBusy || !s.lift.openInstall then s.refuse pgLF 0x0704
  else if s.rd64 pgLF 0x060 % 64 ≠ 0 then s.refuse pgLF 0x023B
  else s.setLift { s.lift with instBusy := true, instLeft := transferShards (s.lift.installed.getD {}) (fld (s.rd pgLF 0x068) 23 0) (fld (s.rd pgLF 0x06C) 23 0) }

/-- INST_GO (R436, R438, R442). -/
def execInstGo (o : Origin) (s : State) : Host.Outcome State Fault Refusal := .next (s.withWrite o (pgLF * 0x1000 + 0x070) (fun s _ => s.instGo))

/-- A shard written to the vault in an open installation: it passes, or the earlier copy it replaces no longer does (R221, R436, R444). -/
def State.shardWritten (s : State) (n : Nat) (pass scaleFF : Bool) : State :=
  let l := s.lift
  let rest := l.passed.filter (· ≠ n)
  s.setLift { l with written := if l.written.contains n then l.written else l.written ++ [n]
                     passed := if pass then (if l.passed.contains n then l.passed else l.passed ++ [n]) else rest
                     bad := if pass then l.bad.filter (· ≠ n) else l.bad
                     scaleFF := if scaleFF then (if l.scaleFF.contains n then l.scaleFF else l.scaleFF ++ [n]) else l.scaleFF.filter (· ≠ n)
                     retried := l.retried.filter (· ≠ n + 3 * 2 ^ 32) }

/-- INST_SHARD_WRITTEN (R41, R219, R436, R444): the next shard of the transfer is written and checked. -/
def execInstShardWritten (shard : Nat) (digestOk scaleFF : Bool) (s : State) : Host.Outcome State Fault Refusal :=
  .next (
    match s.lift.instLeft with
    | [] => s
    | n :: rest =>
      if !s.lift.instBusy || n ≠ shard then s
      else if digestOk then
        let s1 := s.shardWritten n (!scaleFF) scaleFF
        s1.setLift { s1.lift with instLeft := rest }
      else
        let r := s.mismatch (s.lift.installed.getD {}) (n + 3 * 2 ^ 32) n
        if r.2 then
          let s1 := r.1.shardWritten n false false
          s1.setLift { s1.lift with instLeft := rest }
        else r.1)

/-- INST_DONE (R442): the transfer has no shard left. -/
def execInstDone (s : State) : Host.Outcome State Fault Refusal :=
  .next (
    if s.lift.instBusy && s.lift.instLeft.isEmpty then (s.setLift { s.lift with instBusy := false }).raise pgLF 4 else s)

/-! ## HOLD_BUDGET_EXPIRY (R170, R171, R297, R347, R361) -/

/-- HOLD_BUDGET_EXPIRY (R170): the budget of a HELD or GROUPED entry has run out; what follows takes effect at the partition's boundary. A stopped
clock does not run out, and ordered mode has none. -/
def execHoldBudgetExpiry (hold : Nat) (s : State) : Host.Outcome State Fault Refusal :=
  .next (
    let x := s.hold hold
    if (x.st = .held || x.st = .grouped) && x.left.isNone && !(s.seOf x.owner).ordered &&
        decide (x.since + (s.frc (pgSE x.owner) 0x0F4).toNat * 1000 ≤ s.nowUs) then
      s.setHold hold { x with expired := true }
    else s)

end Sys2Proof.Machine
end

