-- ==== Sys2Proof/Machine/Collectives.lean ====
section
/-!
DEFINITION. The collective engine: collectives, groups, the peer table and two-phase commit (R187, R235 to R240, R245 to R252, R258, R259), and the
chimney (R241 to R244).
-/

namespace Sys2Proof.Machine

/-! ## Groups and the peer table (R235, R236, R245) -/

def State.peer (s : State) (f : Nat) : Word := AMap.get 0 s.fab.peers f

/-- Is the fabric built of switched planes (R232)? A direct mesh has no tiers in its route table (DEDUCED, log entry 167). -/
def State.switched (s : State) : Bool := s.settings.routeTiers.any (fun t => decide (0 < t))

/-- Does a link serve a destination: in switched planes each link up does, in a mesh those that join the pair (R229 to R232)? -/
def State.serves (s : State) (k dst : Nat) : Bool :=
  decide ((s.link k).st = .up) && !(s.link k).k4 && (s.switched || decide ((s.link k).peer = dst))

/-- A destination that no link serves is unreachable (R230). -/
def State.reachable (s : State) (own dst : Nat) : Bool := decide (dst = own) || (List.range 16).any (fun k => s.serves k dst)

def State.ownId (s : State) : Nat := fld (s.rd pgCL 0x040) 14 0
def State.ownEpoch (s : State) : Word := s.rd pgCL 0x044

/-- The entry of a group identifier. -/
def State.groupOf (s : State) (id : Nat) : Option Group := (AMap.find s.fab.groups id)

/-- A collective's group, if it stands under the GEN the message carries. -/
def State.groupAt (s : State) (id gen : Nat) : Option Group := (s.groupOf id).filter (fun g => g.gen == gen)

/-- The fabric ID of a rank. -/
def Group.idOf (g : Group) (r : Nat) : Nat := g.members.getD r 0 % 2 ^ 15

/-- Is a rank in the fabric: this member, or one with a peer-table entry? -/
def State.rankAlive (s : State) (g : Group) (r : Nat) : Bool := decide (r = g.rank) || decide (s.peer (g.idOf r) ≠ 0)

/-- The coordinator: the lowest rank whose entry is not 0 (R249). -/
def State.coordinator (s : State) (g : Group) : Nat := ((List.range g.size).find? (fun r => s.rankAlive g r)).getD g.rank

/-! ## Reductions (R246, R247) -/

/-- The ranks a chunk's reduction runs through, in order: from the one after its own around to its own. -/
def ringRanks (n c : Nat) : List Nat := (List.range n).map (fun i => (c + 1 + i) % n)

/-- The chunk of an element of E over n members. -/
def chunkOf (e n i : Nat) : Nat := i / ((e + n - 1) / n)

/-- One element reduced over the members' values in the fixed order. -/
def reduceElem (e n i : Nat) (val : Nat → F32) : FR := sumOrdered ((ringRanks n (chunkOf e n i)).map (fun r => ⟨val r, {}⟩))

/-- Little-endian FP32 elements of a buffer, and back. -/
def f32sOf (b : List Byte) (n : Nat) : List F32 := (List.range n).map (fun i => BitVec.ofNat 32 (field b (4 * i) (4 * i + 3)))
def f32Bytes (l : List F32) : List Byte := l.flatMap (fun v => leBytes v.toNat 4)

/-- Every element of the members' buffers reduced. -/
def reduceAll (e n : Nat) (inputs : List (List F32)) : List F32 :=
  (List.range e).map (fun i => (reduceElem e n i (fun r => (inputs.getD r []).getD i 0)).v)

/-- The chunk of a rank. -/
def chunkSlice {α : Type} (e n r : Nat) (l : List α) : List α :=
  let c := (e + n - 1) / n
  (l.drop (c * r)).take c

/-! ## The collectives (R237, R246, R267) -/

/-- The first member of a group that no link serves. -/
def State.lostMember (s : State) (g : Group) : Option Nat := (g.members.map (· % 2 ^ 15)).find? (fun f => !s.reachable s.ownId f)

/-- The channel of a collective's messages: VC3 for a reshard, else VC1 (R226, R253). -/
def State.collVc (s : State) (x : Started) : Nat := if s.reshards x then 3 else 1

/-- A collective's result at this member, from its own source bytes; none when the peers' data is not of its shape. -/
abbrev CollFn := Group → Nat → List Byte → Option (List Byte)

/-- What a collective comes to: refused while quarantined, abandoned under another GEN, UNREACHABLE when a member is, else its result written; it ends
later (R230, R237, R246). -/
def State.collective (s : State) (c : CmdRef) (opcode : Nat) (srcLen : Group → Nat → Nat) (f : CollFn) : State :=
  s.onTaken c opcode (fun s x =>
    if s.fab.quarantined then s.refuseCmd x 0x032A
    else
      match s.groupAt (field x.ops 16 19) (field x.ops 20 21) with
      | none => s.endCmd x 7 { reason := 0x032B }
      | some g =>
        let n := field x.ops 40 47
        let src := field x.ops 24 31
        let dst := field x.ops 32 39
        if opcode = 0x53 && g.size ≤ field x.ops 22 23 then s.refuseCmd x 0x0259
        else
          match s.lostMember g with
          | some f => s.endCmd x 6 { fabric := f }
          | none =>
            match s.load x.who src (srcLen g n) with
            | .error e => s.failCmd x e src
            | .ok (b, s1) =>
              match f g n b with
              | none => s
              | some r =>
                match s1.store x.who dst r with
                | .error e => s1.failCmd x e dst
                | .ok s2 => (s2.emit (.collective opcode g.id (s.collVc x) b)).setCmd { x with phase := .running, aux := r.length })

/-- The members' buffers with this member's own in its place, if there are SIZE of them of the right length. -/
def ownIn {α : Type} (g : Group) (len : Nat) (inputs : List (List α)) (own : List α) : Option (List (List α)) :=
  let l := inputs.set g.rank own
  if inputs.length = g.size && l.all (fun b => decide (b.length = len)) then some l else none

/-- ALL_REDUCE (R246, R247). `inputs` holds the members' elements by rank; this member's own come from SRC. -/
def execAllReduce (c : CmdRef) (inputs : List (List F32)) (s : State) : Host.Outcome State Fault Refusal :=
  .next (s.collective c 0x50 (fun _ n => 4 * n) (fun g n b =>
    (ownIn g n inputs (f32sOf b n)).map (fun l => f32Bytes (reduceAll n g.size l))))

/-- REDUCE_SCATTER (R246, R247): each member keeps the chunk of its rank. -/
def execReduceScatter (c : CmdRef) (inputs : List (List F32)) (s : State) : Host.Outcome State Fault Refusal :=
  .next (s.collective c 0x51 (fun _ n => 4 * n) (fun g n b =>
    (ownIn g n inputs (f32sOf b n)).map (fun l => f32Bytes (chunkSlice n g.size g.rank (reduceAll n g.size l)))))

/-- ALL_GATHER (R246): COUNT bytes of every member, in rank order (log entry 42). -/
def execAllGather (c : CmdRef) (inputs : List (List Byte)) (s : State) : Host.Outcome State Fault Refusal :=
  .next (s.collective c 0x52 (fun _ n => n) (fun g n b => (ownIn g n inputs b).map (·.flatten)))

/-- BROADCAST (R246): the COUNT bytes of the ROOT rank, at every member. -/
def execBroadcast (c : CmdRef) (data : List Byte) (s : State) : Host.Outcome State Fault Refusal :=
  let root := match s.findCmd (refKey c) with | some x => field x.ops 22 23 | none => 0
  .next (s.collective c 0x53 (fun g n => if g.rank = root then n else 0) (fun g n b =>
    if g.rank = root then some b else if data.length = n then some data else none))

/-- ALL_TO_ALL (R246): COUNT bytes from each member to each; this member receives the block of its rank of every buffer (log entry 42). -/
def execAllToAll (c : CmdRef) (inputs : List (List Byte)) (s : State) : Host.Outcome State Fault Refusal :=
  .next (s.collective c 0x54 (fun g n => g.size * n) (fun g n b =>
    (ownIn g (g.size * n) inputs b).map (fun l => l.flatMap (fun d => (d.drop (n * g.rank)).take n))))

/-! ## Two-phase commit (R187, R249 to R252) -/

/-- The 64 bytes of a training configuration (R166). -/
def cfgBytes (c : TrainCfg) : List Byte :=
  let b := fun (x : Bool) (n : Nat) => if x then n else 0
  leBytes c.wax 6 ++ leBytes c.lossEntry 1 ++ leBytes (b c.keepDetour 1 + b c.clipTrain 2 + b c.manual 4) 1 ++ leBytes c.groupSize 2 ++
  leBytes c.stepCohorts 1 ++ leBytes c.maxLag 1 ++ leBytes c.lrScale.toNat 4 ++ leBytes c.lrOffset.toNat 4 ++ leBytes c.lrClip.toNat 4 ++
  leBytes c.beta1.toNat 4 ++ leBytes c.beta2.toNat 4 ++ leBytes c.eps.toNat 4 ++ leBytes c.decay.toNat 4 ++ leBytes c.maxGnorm.toNat 4 ++
  leBytes c.minTokens 4 ++ leBytes c.replicaGroup 4 ++ leBytes 0 12

/-- The COMMAND record of the internal collective context (R187, R268, R270). -/
def State.internalRec (s : State) (p status reason : Nat) : State :=
  s.complete p { kind := 0, status := status, reason := reason, opcode := 0x55, queue := queueByte 4 0 true, part := p }

/-- The 64 bytes of a group entry (R245). -/
def Group.bytes (g : Group) : List Byte :=
  leBytes g.id 4 ++ leBytes g.gen 2 ++ leBytes 0 2 ++ leBytes g.size 4 ++ leBytes g.rank 4 ++ leBytes g.dua 8 ++ leBytes g.digest.toNat 32 ++ leBytes 0 8

/-- A group entry put in place, in the group table as well (R245, R258). -/
def State.putGroup (s : State) (g : Group) : State :=
  (s.setFab { s.fab with groups := AMap.ins g.id g (AMap.del s.fab.groups g.id) }).storeTry (byEngine (secureOf 63) 4) (s.tableLoc 4 + 64 * g.slot) g.bytes

/-- The entry that a GROUP_SET makes of a group, with the next GEN. -/
def Group.become (g : Group) (x : GroupSpec) : Group :=
  { id := g.id, gen := genStep g.gen, size := x.size, rank := x.rank, members := x.members, digest := x.digest, dua := x.dua, slot := g.slot }

/-- A group's waiting entry takes effect once its step is over (R251). -/
def State.applyNext (s : State) (id : Nat) : State :=
  match s.groupOf id with
  | some g =>
    (match g.next with
     | some x => if s.fab.commits.any (fun c => c.group == id) then s else s.putGroup (g.become x)
     | none => s)
  | none => s

/-- The outcome of an open step reaches this member (R249): kept for the wrap (R187) and for later questions (R250), counted, reported. -/
def State.setOutcome (s : State) (c : Commit) (commit : Bool) : State :=
  let s1 := s.setFab { s.fab with commits := s.fab.commits.filter (fun x => !(x.group == c.group && x.step == c.step && x.part == c.part))
                                  outcomes := s.fab.outcomes ++ [(c.group, c.step, commit)] }
  let s2 := match s1.waxingIn c.part c.wax with
    | some w => if (s1.wxOf w).flight.isSome then s1.setWx w { s1.wxOf w with outcome := some commit } else s1
    | none => s1
  let s3 := if commit then s2.bump pgCL 0x028 1 else (s2.bump pgCL 0x030 1).raise pgCL 1
  (s3.internalRec c.part (if commit then 0 else 7) 0).applyNext c.group

/-- The coordinator decides: COMMIT once every member's digest is there and equal to its own, ABANDON once one differs (R249 step 3). -/
def State.decide_ (s : State) (c : Commit) : State :=
  match s.groupOf c.group with
  | none => s
  | some g =>
    if s.coordinator g ≠ g.rank then s
    else if c.prepared.any (fun p => decide (p.2 ≠ c.digest)) then (s.emit (.outcome c.group c.step false)).setOutcome c false
    else if (List.range g.size).all (fun r => c.prepared.any (fun p => p.1 == r)) then (s.emit (.outcome c.group c.step true)).setOutcome c true
    else s

/-- A commit's change in the list. -/
def State.setCommit (s : State) (c : Commit) : State :=
  s.setFab { s.fab with commits := s.fab.commits.map (fun x => if x.group == c.group && x.step == c.step && x.part == c.part then c else x) }

def State.findCommit (s : State) (group step : Nat) : Option Commit := s.fab.commits.find? (fun c => c.group == group && c.step == step)

/-- The bank a reduction receives of this member. -/
def bankIn (b : Bank) : BankIn :=
  { vals := b.vals, lossTokens := b.lossTokens, sequences := b.sequences, cohorts := b.cohorts, clipped := b.clipped, sat := b.sat, nan := b.nan,
    lossSum := b.lossSum, klSum := b.klSum }

/-- The members' banks reduced: values in the order of R247, counts added, the two loss sums in ring order from rank 1 (log entry 45). -/
def reduceBanks (e n : Nat) (ins : List BankIn) : Bank :=
  let keys := ((ins.flatMap (fun b => b.vals.map (·.1))).dedup).mergeSort
  let out := keys.map (fun i => (i, reduceElem e n i (fun r => AMap.get (0 : F32) ((ins[r]?).map (·.vals) |>.getD []) i)))
  let add := fun (f : BankIn → Nat) => (ins.map f).sum
  let sum := fun (f : BankIn → F32) => (reduceElem n n 0 (fun r => ((ins[r]?).map f).getD 0)).v
  { vals := out.foldl (fun m x => AMap.put 0 m x.1 x.2.v) [], lossTokens := add (·.lossTokens), sequences := add (·.sequences),
    cohorts := add (·.cohorts), clipped := add (·.clipped), lossSum := sum (·.lossSum), klSum := sum (·.klSum),
    sat := add (·.sat) + (out.map (·.2.cnt.sat)).sum, nan := add (·.nan) }

/-- The digest of a reduced bank: over the values of every index (R249). -/
def bankDigest (e : Nat) (b : Bank) : BitVec 256 := Config.sha256 ((List.range e).flatMap (fun i => leBytes (AMap.get (0 : F32) b.vals i).toNat 4))

/-- A CL_REDUCE that does not run: its record, and the step abandoned (R187, R249). -/
def State.reduceRefused (s : State) (p w status reason : Nat) : State :=
  (((s.internalRec p status reason).setWx w { s.wxOf w with outcome := some false }).bump pgCL 0x030 1).raise pgCL 1

/-- The reduction of a closed bank and PREPARED (R249 steps 1 and 2). -/
def State.prepareStep (s : State) (p w : Nat) (g : Group) (step : Nat) (b : Bank) (ins : List BankIn) : State :=
  let m := s.lift.base.getD {}
  let e := waxValues m + m.clipCapacity
  let r := reduceBanks e g.size (ins.set g.rank (bankIn b))
  let d := bankDigest e r
  let c : Commit := { group := g.id, gen := g.gen, wax := (s.wxOf w).wax, part := p, step := step, digest := d, since := s.nowUs, prepared := [(g.rank, d)] }
  let s1 := (s.setWx w { s.wxOf w with flight := some r }).bump pgCL 0x020 1
  let s2 := (s1.setFab { s1.fab with commits := s1.fab.commits ++ [c] }).emit (.prepared g.id step d)
  s2.decide_ c

/-- CL_REDUCE (R187, R237, R246, R249, R252): the internal command of a replicated wax whose bank has closed. -/
def execClReduce (p : PartId) (wax group gen step : Nat) (inputs : List BankIn) (s : State) : Host.Outcome State Fault Refusal :=
  .next (
    match s.waxingIn p.val wax with
    | none => s
    | some w =>
      let x := s.wxOf w
      match x.flight with
      | none => s
      | some b =>
        if !x.stepOpen || x.outcome.isSome || x.cfg.replicaGroup ≠ group || !s.enabled pgCL || s.fab.commits.any (fun c => c.part == p.val && c.wax == wax) then s
        else if s.fab.quarantined then s.reduceRefused p.val w 1 0x032A
        else if step ≠ x.rcd.step.step + 1 then s.internalRec p.val 1 0x0701
        else
          match s.groupAt group gen with
          | none => s.reduceRefused p.val w 7 0x032B
          | some g =>
            if g.digest ≠ Config.sha256 (cfgBytes x.cfg) then s.reduceRefused p.val w 1 0x024A
            else if (s.lostMember g).isSome then s.reduceRefused p.val w 6 0
            else if inputs.length ≠ g.size then s
            else s.prepareStep p.val w g step b inputs)

/-- PREPARED_RECEIVED (R236, R249, R251, R252). -/
def execPreparedReceived (group step rank : Nat) (digest : BitVec 256) (s : State) : Host.Outcome State Fault Refusal :=
  .next (
    match s.findCommit group step with
    | none => s.bump pgCL 0x038 1
    | some c =>
      match s.groupOf group with
      | none => s.bump pgCL 0x038 1
      | some g =>
        if g.size ≤ rank || rank = g.rank || !s.rankAlive g rank || c.prepared.any (fun p => p.1 == rank) then s
        else
          let c1 := { c with prepared := c.prepared ++ [(rank, digest)] }
          (s.setCommit c1).decide_ c1)

/-- OUTCOME_RECEIVED (R249, R250, R252): acknowledged; for a step that is not open it is dropped and counted. -/
def execOutcomeReceived (group step : Nat) (commit : Bool) (s : State) : Host.Outcome State Fault Refusal :=
  .next (
    match s.findCommit group step with
    | none => s.bump pgCL 0x038 1
    | some c => (s.emit (.outcomeAck group step)).setOutcome c commit)

/-- COMMIT_TIMEOUT (R249 to R251): COMMIT_US has passed. The coordinator abandons; a member asks the others, and once the coordinator is declared dead
and no answer named an outcome it abandons (DEDUCED, log entry 46). -/
def execCommitTimeout (group step : Nat) (s : State) : Host.Outcome State Fault Refusal :=
  .next (
    match s.findCommit group step, s.groupOf group with
    | some c, some g =>
      if s.nowUs < c.since + (s.frc pgCL 0x048).toNat then s
      else if s.coordinator g = g.rank && !c.coordDead then (s.emit (.outcome group step false)).setOutcome c false
      else if c.asked && c.coordDead then s.setOutcome c false
      else (s.setCommit { c with asked := true }).emit (.outcomeQuery group step)
    | _, _ => s)

/-- What this member answers about a step (R250): its outcome, none while it is prepared, ABANDON when it has not prepared the step. -/
def State.answerFor (s : State) (group step : Nat) : Option Bool :=
  match s.fab.outcomes.find? (fun o => o.1 == group && o.2.1 == step) with
  | some o => some o.2.2
  | none => if (s.findCommit group step).isSome then none else some false

/-- OUTCOME_QUERY_RECEIVED (R250, R348). -/
def execOutcomeQueryReceived (group step rank : Nat) (s : State) : Host.Outcome State Fault Refusal :=
  .next (s.emit (.outcomeAnswer rank group step (s.answerFor group step)))

/-! ## Abandonment (R237 to R239, R249, R345) -/

/-- Does a started collective run over a group that satisfies a test? -/
def State.collectivesOf (s : State) (f : Group → Bool) : List Started :=
  s.started.filter (fun x => x.eng == 4 && decide (0x50 ≤ x.opcode) && decide (x.opcode ≤ 0x54) &&
    (match s.groupOf (field x.ops 16 19) with | some g => f g | none => false))

/-- Is a fabric ID among a group's members? -/
def Group.has (g : Group) (f : Nat) : Bool := g.members.any (fun m => m % 2 ^ 15 == f)

/-- A commit abandoned by the rules of two-phase commit: the coordinator sends ABANDON, a prepared member asks (R249, R250). -/
def State.abandonCommit (s : State) (c : Commit) : State :=
  match s.groupOf c.group with
  | some g =>
    if s.coordinator g = g.rank && !c.coordDead then (s.emit (.outcome c.group c.step false)).setOutcome c false
    else (s.setCommit { c with asked := true }).emit (.outcomeQuery c.group c.step)
  | none => s.setOutcome c false

/-- The open commits of groups with a fabric ID. -/
def State.commitsOf (s : State) (f : Nat) : List Commit :=
  s.fab.commits.filter (fun c => match s.groupOf c.group with | some g => g.has f | none => false)

/-- SILENCE_TIMEOUT (R239): something is expected from the member and SILENCE_US has passed. -/
def execSilenceTimeout (fabric : Nat) (s : State) : Host.Outcome State Fault Refusal :=
  .next (
    let lim := (s.frc pgCL 0x04C).toNat
    let cs := (s.collectivesOf (fun g => g.has fabric)).filter (fun x => decide (x.start + lim ≤ s.nowUs))
    let ms := (s.commitsOf fabric).filter (fun c => decide (c.since + lim ≤ s.nowUs))
    if (cs.isEmpty && ms.isEmpty) || fabric = s.ownId then s
    else
      let s1 := (s.collectivesOf (fun g => g.has fabric)).foldl (fun (s : State) x => (s.undefineDst x).endCmd x 7) s
      let s2 := (s.commitsOf fabric).foldl (fun (s : State) c => s.abandonCommit c) s1
      (s2.wr pgCL 0x054 (BitVec.ofNat 32 (fabric % 2 ^ 15))).raise pgCL 0)

/-- A semaphore abandoned in a single step (R345). -/
def State.abandonSem (s : State) (n : Nat) : State :=
  let m := s.sem n
  (((s.putSem n { m with value := m.value + m.held, held := 0, hPart := 0, hDom := 0, hEpoch := 0, aband := true }).bump pgRK 0x020 1).raise pgRK 0).wakeRink n

/-- Every semaphore held by a holder that satisfies a test. -/
def State.abandonSems (s : State) (f : Sem → Bool) : State :=
  ((s.sems.filter (fun e => decide (0 < e.2.held) && f e.2)).map (·.1)).foldl (fun (s : State) n => s.abandonSem n) s

/-- QUARANTINE_RECEIVED (R237, R345): an epoch above the module's own. -/
def execQuarantineReceived (epoch : Word) (s : State) : Host.Outcome State Fault Refusal :=
  .next (
    if s.fab.quarantined || epoch.toNat ≤ s.ownEpoch.toNat then s
    else
      let s1 := (s.setFab { s.fab with quarantined := true }).raise pgCL 2
      let s2 := (s1.collectivesOf (fun _ => true)).foldl (fun (s : State) x => (s.undefineDst x).endCmd x 7) s1
      let s3 := s2.fab.commits.foldl (fun (s : State) c => s.setOutcome c false) s2
      s3.abandonSems (fun m => decide (m.hDom ≠ 0xFE)))

/-! ## GROUP_SET, PEER_SET -/

/-- The checks of a group entry (R245). A rank outside the members has no reason of its own (log entry 47). -/
def State.groupCheck (s : State) (id size rank : Nat) (members : List Nat) : Option Nat :=
  if id = 0 || size < 2 || 32768 < size || size ≤ rank then some 0x0253
  else if (s.groupOf id).isNone && 4096 ≤ s.fab.groups.length then some 0x0509
  else if dupNat members then some 0x032C
  else none

/-- A group entry written, or kept until the group's open step is over (R245, R251). A new group takes a free entry of the table. -/
def State.writeGroup (s : State) (id : Nat) (x : GroupSpec) : State :=
  match s.groupOf id with
  | some g =>
    if s.fab.commits.any (fun c => c.group == id) then s.setFab { s.fab with groups := AMap.ins id { g with next := some x } (AMap.del s.fab.groups id) }
    else s.putGroup (g.become x)
  | none =>
    let r := s.pickFree 4096 (s.fab.groups.map (·.2.slot))
    r.2.putGroup (Group.become { id := id, slot := r.1 } x)

/-- GROUP_SET (R237, R245, R251). -/
def execGroupSet (c : CmdRef) (s : State) : Host.Outcome State Fault Refusal :=
  .next (s.onTaken c 0x56 (fun s x =>
    let dua := field x.ops 16 23
    if s.fab.quarantined then s.refuseCmd x 0x032A
    else
      match s.load x.who dua 64 with
      | .error e => s.failCmd x e dua
      | .ok (b, s1) =>
        let id := field b 0 3
        let size := field b 8 11
        let mdua := field b 16 23
        if id = 0 || size < 2 || 32768 < size || size ≤ field b 12 15 then s1.refuseCmd x 0x0253
        else
          match s1.load x.who mdua (4 * size) with
          | .error e => s1.failCmd x e mdua
          | .ok (mb, s2) =>
            let ms := (List.range size).map (fun i => field mb (4 * i) (4 * i + 3) % 2 ^ 21)
            match s2.groupCheck id size (field b 12 15) ms with
            | some r => s2.refuseCmd x r
            | none => (s2.writeGroup id ⟨size, field b 12 15, mdua, ms, BitVec.ofNat 256 (field b 24 55)⟩).endCmd x 0))

/-- A member of the fabric lost: its waits go, and the barriers that name it complete with PEER_LOST at every other member (R240). -/
def State.loseMember (s : State) (f : Nat) : State :=
  let s1 := s.setFab { s.fab with rinkWaits := s.fab.rinkWaits.filter (fun w => w.src ≠ f) }
  (s1.fab.barriers.filter (fun b => b.2.members.contains f)).foldl (fun (s : State) b => s.endBarrier b.1 12 (b.2.members.filter (· ≠ f))) s1

/-- The peer-table entry of a fabric ID rewritten, in the table in memory as well: open steps with the member are abandoned, its semaphores too, its
barriers lose it (R236, R238, R240, R249, R251, R345). -/
def State.setPeer (s : State) (f : Nat) (e : Word) : State :=
  let old := s.peer f
  let dead := (s.commitsOf f).map (fun c =>
    match s.groupOf c.group with | some g => { c with coordDead := c.coordDead || decide (g.idOf (s.coordinator g) = f) } | none => c)
  let s1 := dead.foldl (fun (s : State) c => s.setCommit c) s
  let s2 := (s1.setFab { s1.fab with peers := AMap.put 0 s1.fab.peers f e }).storeTry (byEngine (secureOf 63) 4) (s1.tableLoc 3 + 4 * f) (leBytes e.toNat 4)
  if old = e then s2
  else
    let s3 := if old = 0 then s2 else dead.foldl (fun (s : State) c => s.abandonCommit c) s2
    let s4 := s3.abandonSems (fun m => decide (m.hDom = 0xFE) && decide (m.hEpoch = old))
    if old = 0 then s4 else s4.loseMember f

/-- PEER_SET (R237, R238). -/
def execPeerSet (c : CmdRef) (s : State) : Host.Outcome State Fault Refusal :=
  .next (s.onTaken c 0x57 (fun s x =>
    if s.fab.quarantined then s.refuseCmd x 0x032A
    else if 32768 ≤ field x.ops 16 17 then s.refuseCmd x 0x0257
    else (s.setPeer (field x.ops 16 17) (BitVec.ofNat 32 (field x.ops 20 23))).endCmd x 0))

/-! ## The chimney (R219, R221, R241 to R244) -/

/-- The rules of a chimney table: 1 to 4 children of each node that forwards, at most 32,768 nodes, no fabric ID twice (R241). -/
def chimneyOk (own : Nat) (t : List (Nat × List Nat)) : Bool :=
  let kids := t.flatMap (·.2)
  !t.isEmpty && t.all (fun n => decide (1 ≤ n.2.length) && decide (n.2.length ≤ 4)) && decide (kids.length + 1 ≤ 32768) && !dupNat (own :: kids) &&
  !dupNat (t.map (·.1)) && t.all (fun n => n.1 == own || kids.contains n.1)

/-- CHIMNEY_SEND (R237, R241): the shards leave for the root's children. A range past the shard table lies beyond the base region. -/
def execChimneySend (c : CmdRef) (s : State) : Host.Outcome State Fault Refusal :=
  .next (s.onTaken c 0x58 (fun s x =>
    let dua := field x.ops 16 23
    if s.fab.quarantined then s.refuseCmd x 0x032A
    else
      match s.load x.who dua 4096 with
      | .error e => s.failCmd x e dua
      | .ok (b, s1) =>
        let t := Config.chimneyTable b
        let first := field x.ops 24 27
        let n := field x.ops 28 31
        let m := s1.lift.installed.getD {}
        let kids := ((t.find? (fun e => e.1 == s1.ownId)).map (·.2)).getD []
        if !chimneyOk s1.ownId t then s1.refuseCmd x 0x0255
        else if (List.range n).any (fun i => (Manifest.shard m (first + i)).isNone) then s1.refuseCmd x 0x0250
        else
          match kids.find? (fun k => !s1.reachable s1.ownId k) with
          | some k => s1.endCmd x 6 { fabric := k }
          | none =>
          let s2 := (List.range n).foldl (fun (s : State) i => kids.foldl (fun (s : State) k => s.emit (.chunkForward k (first + i) false)) s) s1
          s2.setCmd { x with phase := .running }))

/-- A chimney shard that passed its check takes its place (R221, R243, R436). -/
def State.chimneyPass (s : State) (n : Nat) : State :=
  let m := s.lift.installed.getD {}
  if s.lift.openInstall then s.shardWritten n true false
  else
    let s1 := s.setLift { s.lift with bad := s.lift.bad.filter (· ≠ n), retried := s.lift.retried.filter (· ≠ n + 2 * 2 ^ 32) }
    match (Manifest.shard m n).bind (fun d => d.routed.map (fun r => (r, d.length))) with
    | some ((l, e), len) =>
      if s1.lift.streamed && s1.lift.bufs.any (fun b => b.layer == l && b.claim.isSome && b.need.contains e && !b.landed.contains e) then s1.landExpert m l e len else s1
    | none => s1

/-- A shard BAD at this node, and its BAD trailer to the node's children (R243). -/
def State.chimneyBad (s : State) (n : Nat) (children : List Nat) : State :=
  let m := s.lift.installed.getD {}
  let s1 := (s.markBad m n).raise pgCL 3
  let s2 := s1.setLift { s1.lift with retried := s1.lift.retried.filter (· ≠ n + 2 * 2 ^ 32) }
  children.foldl (fun (s : State) k => s.emit (.chunkForward k n true)) s2

/-- CHIMNEY_CHUNK_ARRIVED (R219, R221, R242 to R244, R325, R436): forwarded at once; with a shard's last chunk the shard is checked, asked for once
more, or marked BAD. A node without the base key refuses the send. `children` are the node's children in the tree. -/
def execChimneyChunkArrived (shard : Nat) (children : List Nat) (last digestOk bad : Bool) (s : State) : Host.Outcome State Fault Refusal :=
  .next (
    if s.fbx.baseKey.isNone then s.setReply (.refused 0x0119)
    else if s.fab.quarantined then s.setReply (.refused 0x032A)
    else if (Manifest.shard (s.lift.installed.getD {}) shard).isNone then s
    else
      let fwd := fun (s : State) => children.foldl (fun (s : State) k => s.emit (.chunkForward k shard false)) s
      let old := (s.lift.arriving.find? (fun a => a.shard == shard)).getD ⟨shard, 0, false⟩
      let rest := s.lift.arriving.filter (fun a => a.shard != shard)
      if !last then (fwd s).setLift { s.lift with arriving := rest ++ [{ old with chunks := old.chunks + 1 }] }
      else
        let s1 := s.setLift { s.lift with arriving := rest }
        if bad then s1.chimneyBad shard children
        else if digestOk then (fwd s1).chimneyPass shard
        else if s.lift.retried.contains (shard + 2 * 2 ^ 32) then s1.chimneyBad shard children
        else (s1.setLift { s1.lift with retried := s1.lift.retried ++ [shard + 2 * 2 ^ 32] }).emit (.chunkRequest shard))

end Sys2Proof.Machine
end

