-- ==== Sys2Proof/Machine/CopyOps.lean ====
section
/-!
DEFINITION. The copy engine (R267, R272).
-/

namespace Sys2Proof.Machine

/-- Do two ranges of one length overlap? -/
def overlaps (a b n : Nat) : Bool := decide (a < b + n) && decide (b < a + n)

/-- The data written and the command left running until its end; its bytes are counted. -/
def State.copyOut (s : State) (x : Started) (dst : Nat) (data : List Byte) : State :=
  match s.store x.who dst data with
  | .error e => s.failCmd x e dst
  | .ok s1 => (s1.bump pgCP 0x020 data.length).setCmd { x with phase := .running, aux := data.length }

/-- COPY (R267). The manual orders no byte before another: where source and destination overlap without being the same, the destination's
bytes are free (log entry 43). -/
def execCopy (c : CmdRef) (s : State) : Host.Outcome State Fault Refusal :=
  .next (s.onTaken c 0x40 (fun s x =>
    let src := field x.ops 16 23
    let dst := field x.ops 24 31
    let n := field x.ops 32 39
    match s.load x.who src n with
    | .error e => s.failCmd x e src
    | .ok (b, s1) =>
      if src ≠ dst && overlaps src dst n then
        (s1.setFreeCtr (s1.freeCtr + 1)).copyOut x dst ((List.range n).map (fun i => Config.abortedByte s1.freeCtr (dst + i)))
      else s1.copyOut x dst b))

/-- The bytes of a FILL: the 32-bit pattern over and over, cut at the length. -/
def fillBytes (pattern n : Nat) : List Byte := (List.range n).map (fun i => BitVec.ofNat 8 (pattern / 2 ^ (8 * (i % 4))))

/-- FILL (R267). BYTES is a multiple of 4; another length fills that many bytes (log entry 44). -/
def execFill (c : CmdRef) (s : State) : Host.Outcome State Fault Refusal :=
  .next (s.onTaken c 0x41 (fun s x => s.copyOut x (field x.ops 16 23) (fillBytes (field x.ops 32 35) (field x.ops 24 31))))

end Sys2Proof.Machine
end

