-- ==== Sys2Proof/Machine/EndOps.lean ====
section
/-!
DEFINITION. The end of a command that took time (R265, R272, R273).
-/

namespace Sys2Proof.Machine

/-- A command that waits in its engine is tried again: FENCE, SEM_WAIT. Others end with the event they wait for. -/
def State.retryCmd (s : State) (x : Started) : State :=
  if x.opcode = 0x01 then (if s.earlierOpen x then s else s.endCmd x 0)
  else if x.opcode = 0x02 then s.trySemWait x
  else s

/-- Is an opcode a collective of R246? -/
def isCollective (opcode : Nat) : Bool := decide (0x50 ≤ opcode) && decide (opcode ≤ 0x54)

/-- A running command ends OK: what it leaves in place at its end. -/
def State.endOk (s : State) (x : Started) : State :=
  if x.opcode = 0x30 then (if s.lift.base.isSome then s.refuseCmd x 0x0704 else s.loadBase.endCmd x 0)
  else if x.opcode = 0x31 then (if s.anyPartition then s.refuseCmd x 0x0330 else s.unloadBase.endCmd x 0)
  else if x.opcode = 0x28 then s.exportEnd x
  else if isCollective x.opcode then (s.endCmd x 0).bump pgCL 0x020 1
  else s.endCmd x 0

/-- A running command ends; what a COPY, FILL or collective that fails leaves in its destination is not in the manual, and free (log entry 56). -/
def State.endRunning (s : State) (x : Started) (how : EndHow) : State :=
  match how with
  | .ok => s.endOk x
  | .tagFail dua => (s.undefineDst x).endCmd x 5 { dua := some dua }
  | .unreachable fabric => (s.undefineDst x).endCmd x 6 { fabric := fabric }
  | .abandoned => (s.undefineDst x).endCmd x 7
  | .connBroke => if x.opcode = 0x28 && field x.ops 36 36 = 1 then s.refuseCmd x 0x0113 else s
  | .noKey fabric => if x.opcode = 0x58 then s.refuseCmd x 0x0119 { fabric := fabric } else s

/-- A response that comes after the fence that aborted its request: dropped, and counted in FENCE_ABORTS beside the abort (R336, R338 step 3;
DEDUCED, log entry 172). -/
def State.dropLate (s : State) (k : Nat × Nat × Nat × Nat) : State :=
  if s.mc.late.contains k then (s.setMc { s.mc with late := s.mc.late.filter (· ≠ k) }).bump pgMC 0x138 1 else s

/-- COMMAND_END (R244, R246, R265, R267, R272, R273, R338, R344, R400). -/
def execCommandEnd (c : CmdRef) (how : EndHow) (s : State) : Host.Outcome State Fault Refusal :=
  .next (match s.findCmd (refKey c) with
    | none => s.dropLate (refKey c)
    | some x =>
      match x.phase with
      | .taken => s
      | .waiting => s.retryCmd x
      | .running => s.endRunning x how)

end Sys2Proof.Machine
end

