-- ==== Sys2Proof/WellFormed.lean ====
section
/-!
DEFINITION. Which commands can be transactions of the module at all (R5, R6, R191, R225, R404). No meaning refuses a command that fails its
check: each has the effect the manual gives an access of its kind (an error response, a refusal with a reason, or none).
-/

namespace Sys2Proof

/-- A register access moves 1 to 64 bytes inside the 64 MiB window (R6, R408). -/
def wfAccess (off bytes : Nat) : Bool := decide (1 ≤ bytes) && decide (bytes ≤ 64) && decide (off < 0x4000000)

/-- A page index of the window: window offset ÷ 0x1000 (R408, R419). -/
def wfPage (page : Nat) : Bool := decide (page < 0x4000)

/-- A memory access names 52-bit DUAs and moves at least one byte (R191). -/
def wfRange (dua len : Nat) : Bool := decide (1 ≤ len) && decide (dua + len ≤ 2 ^ 52)

/-- A flit holds 256 bytes (R225). -/
def wfFlit (f : Flit) : Bool := decide (f.payload.length = 256) && decide (f.src < 32768) && decide (f.dst < 32768)

/-- A MGMT message is 64 bytes with a 32-byte data field (R404). -/
def wfMsg (m : MgmtMsg) : Bool := decide (m.data.length = 32) && decide (m.bytes < 65536) && decide (m.addr < 2 ^ 64)

/-- The command is a transaction the module can meet. -/
def Instr.wf (i : Instr) : Bool :=
  match i with
  | .registerWrite _ off bytes _ _ => wfAccess off bytes
  | .counterLowRead _ off bytes => wfAccess off bytes
  | .ctrlEnableSet _ page => wfPage page
  | .consistencyCheckEnd page => wfPage page
  | .ctrlEnableClear _ page => wfPage page
  | .blockQuiesced page => wfPage page
  | .eventStatusClear _ page _ _ => wfPage page
  | .eventEnableWrite _ page _ => wfPage page
  | .headerSemWrite _ page _ => wfPage page
  | .memoryRead _ dua len _ => wfRange dua len
  | .memoryWrite _ dua data _ => wfRange dua data.length
  | .bar2Access _ dua len w => wfRange dua len && (match w with | some d => decide (d.length = len) | none => true)
  | .flitSend _ f => wfFlit f
  | .flitReceived _ f => wfFlit f
  | .regRead m => wfMsg m
  | .regWrite m => wfMsg m
  | .duaRead m => wfMsg m
  | .duaWrite m => wfMsg m
  | .heartbeat m => wfMsg m
  | _ => true

end Sys2Proof
end

