-- ==== Sys2Proof/Machine/Flue.lean ====
section
/-!
DEFINITION. The flue links: credits, replay, epochs, flow order and training (R225 to R237, R256, R257, R259).
-/

namespace Sys2Proof.Machine

/-! ## Sending (R226 to R229, R256) -/

/-- A link that has trained: every credit held. -/
def freshChans : AMap Chan := [0, 1, 2, 3].map (fun v => (v, { held := vcTotal v }))

/-- A link that can carry a channel's traffic: K4 links carry VC0 and VC3 alone (R256). -/
def Link.carries (l : Link) (vc : Nat) : Bool := !l.k4 || decide (vc = 0) || decide (vc = 3)

/-- The sequence number a flow's next flit takes. -/
def State.txNext (s : State) (f : Flit) : BitVec 24 :=
  match s.fab.txFlows.find? (fun t => t.dst == f.dst && t.vc == f.vc.val && t.stream == f.stream) with | some t => t.next | none => 0

def State.stepTx (s : State) (f : Flit) : State :=
  let n := s.txNext f
  let rest := s.fab.txFlows.filter (fun t => !(t.dst == f.dst && t.vc == f.vc.val && t.stream == f.stream))
  s.setFab { s.fab with txFlows := rest ++ [{ dst := f.dst, vc := f.vc.val, stream := f.stream, next := n + 1 }] }

/-- VC0's cap of 10 GB/s: 39 whole flits of 256 bytes in a microsecond (R226). -/
def vc0Cap : Nat := 39

/-- Has a channel a flit waiting and a credit for it (R228)? A quarantined module sends VC0 alone (R237). -/
def Link.canSend (l : Link) (quarantined : Bool) (vc : Nat) : Bool :=
  l.queue.any (fun w => w.flit.vc.val == vc) && decide (0 < (l.chan vc).held) && (decide (vc = 0) || !quarantined)

/-- The channel served next, with the turn and the share it leaves (R227): VC0 within its cap, then VC1 to VC3 by deficit round robin; flits are of one
size, so a channel's weight is its flits a turn. A share not used passes on. -/
def Link.nextVc (l : Link) (quarantined : Bool) (w : Nat → Nat) (now : Nat) : Option (Nat × Nat × Nat) :=
  if l.canSend quarantined 0 && (decide (l.vc0At ≠ now) || decide (l.vc0Sent < vc0Cap)) then some (0, l.turn, l.share)
  else if l.canSend quarantined l.turn && decide (0 < l.share) then some (l.turn, l.turn, l.share - 1)
  else
    match ([1, 2, 3].map (fun i => (l.turn - 1 + i) % 3 + 1)).find? (fun v => l.canSend quarantined v) with
    | some v => some (v, v, w v - 1)
    | none => none

/-- The weight in force of a channel (R227, R257). -/
def State.vcWeight (s : State) (n vc : Nat) : Nat := fld (s.frc (pgFL n) 0x044) (4 * vc - 1) (4 * vc - 4)

/-- A flit leaves: a credit goes into flight, a copy into the replay buffer; its header carries the module's fabric ID and epoch and its flow's next
number (R228, R229, R235). -/
def State.leave (s : State) (n : Nat) (w : Waiting) : State :=
  let f := w.flit
  let g : Flit := if w.numbered then f else { f with src := s.ownId, epoch := s.ownEpoch, seq := s.txNext f, payload := padTo 256 f.payload }
  let s1 := if w.numbered then s else s.stepTx f
  let l := s1.link n
  let c := l.chan f.vc.val
  let x := (l.setChan f.vc.val { c with held := c.held - 1, flight := c.flight + 1 })
  let y := { x with replay := l.replay ++ [⟨g, s.nowUs⟩], queue := l.queue.erase w }
  let z := if f.vc.val = 0 then { y with vc0At := s.nowUs, vc0Sent := if l.vc0At = s.nowUs then l.vc0Sent + 1 else 1 } else y
  ((s1.setLink n z).emit (.flit n g)).bump (pgFL n) 0x020 1

/-- Flits leave a link while one may (R226 to R228). -/
def State.serveLink : Nat → State → Nat → State
  | 0, s, _ => s
  | k + 1, s, n =>
    let l := s.link n
    match l.nextVc s.fab.quarantined (s.vcWeight n) s.nowUs with
    | none => s
    | some (vc, turn, share) =>
      match l.queue.find? (fun w => w.flit.vc.val == vc) with
      | none => s
      | some w => State.serveLink k ((s.setLink n { l with turn := turn, share := share }).leave n w) n

/-- A link serves what waits on it, and its credits are audited (R367). -/
def State.pump (s : State) (n : Nat) : State := (State.serveLink (s.link n).queue.length s n).auditLink n

/-- A flit put behind those that wait on a link. -/
def State.enqueue (s : State) (n : Nat) (w : Waiting) : State := s.setLink n { s.link n with queue := (s.link n).queue ++ [w] }

/-- FLIT_SEND (R225 to R229, R234, R235, R237, R256, R413): the flit joins its channel's queue, and what may leave leaves. A port that is not ENABLED
takes no work. -/
def execFlitSend (link : LinkId) (f : Flit) (s : State) : Host.Outcome State Fault Refusal :=
  .next (
    let l := s.link link.val
    if l.st ≠ .up || !s.isUp (0x70 + link.val) || !s.enabled (pgFL link.val) || (s.hdr (pgFL link.val)).fenced then s
    else if !l.carries f.vc.val then s.setReply (.refused 0x0602)
    else if 32768 ≤ f.dst then s.setReply (.refused 0x0257)
    else (s.enqueue link.val { flit := f }).pump link.val)

/-! ## Receiving (R228, R229, R236, R240, R256) -/

/-- A flit forwarded or consumed: its credit goes back over the link it came by (R228). -/
def State.giveCredit (s : State) (n vc : Nat) : State := if n < 16 then s.emit (.credit n vc 1) else s

/-- Early flits of a flow delivered as far as they follow on, each with the link whose buffer held it. -/
def takeEarly : Nat → Flow → List (Nat × Flit) → Flow × List (Nat × Flit)
  | 0, w, out => (w, out)
  | n + 1, w, out =>
    match w.early.find? (fun e => e.2.seq == w.next) with
    | some e => takeEarly n { w with next := w.next + 1, early := w.early.filter (fun g => g.2.seq != e.2.seq) } (out ++ [e])
    | none => (w, out)

/-- A flit delivered: its credit returns, and a rink operation is carried out (R228, R229, R240). -/
def State.deliver (s : State) (e : Nat × Flit) : State :=
  let s1 := (s.setFab { s.fab with delivered := s.fab.delivered ++ [e.2] }).giveCredit e.1 e.2.vc.val
  match e.2.rink with
  | some op => if e.2.vc.val = 0 then s1.rinkDo e.2.src e.2.epoch op else s1
  | none => s1

/-- The channel's buffer of a link with `n` flits more, or less. -/
def State.fillBuf (s : State) (k vc : Nat) (f : Nat → Nat) : State :=
  let c := (s.link k).chan vc
  if k < 16 then s.setLink k ((s.link k).setChan vc { c with buf := f c.buf }) else s

/-- A flit accepted in flow order: delivered when it is next, held in the buffer of its channel when it is early, dropped when it was delivered or is
held already: a flit sent again takes no second credit. -/
def State.acceptFlit (s : State) (n : Nat) (f : Flit) : State :=
  let mine := fun (w : Flow) => w.src == f.src && w.vc == f.vc.val && w.stream == f.stream
  let w := (s.fab.flows.find? mine).getD { src := f.src, vc := f.vc.val, stream := f.stream, next := 0, early := [] }
  let put := fun (s : State) (w : Flow) => s.setFab { s.fab with flows := s.fab.flows.filter (fun v => !mine v) ++ [w] }
  if f.seq = w.next then
    let r := takeEarly w.early.length { w with next := w.next + 1 } []
    let s1 := r.2.foldl (fun (s : State) e => s.fillBuf e.1 f.vc.val (· - 1)) (put s r.1)
    ((n, f) :: r.2).foldl (fun (s : State) e => s.deliver e) s1
  else if (f.seq - w.next).toNat < 2 ^ 23 && !w.early.any (fun e => e.2.seq == f.seq) then
    (put s { w with early := w.early ++ [(n, f)] }).fillBuf n f.vc.val (· + 1)
  else s

/-- The epoch a flit's sender is expected to have: the peer-table entry, or the K4 peer's (R236, R256). -/
def State.expectedEpoch (s : State) (link : Nat) (f : Flit) : Word := if (s.link link).k4 then s.frc (pgFL link) 0x050 else s.peer f.src

/-- FLIT_RECEIVED (R228 to R230, R235, R236, R240, R256, R336). -/
def execFlitReceived (link : LinkId) (f : Flit) (s : State) : Host.Outcome State Fault Refusal :=
  .next (
    let l := s.link link.val
    let pg := pgFL link.val
    if l.st ≠ .up || !s.isUp (0x70 + link.val) then s
    else
      let s1 := (s.setLink link.val { l with lastRx := s.nowUs }).bump pg 0x028 1
      let e := s1.expectedEpoch link.val f
      if !l.carries f.vc.val then (s1.giveCredit link.val f.vc.val).setReply (.refused 0x0602)
      else if e ≠ 0 && f.epoch = e then (s1.acceptFlit link.val f).auditLink link.val
      else if f.epoch.toNat < e.toNat then ((s1.giveCredit link.val f.vc.val).bump pg 0x038 1).emit (.quarantine f.src e)
      else ((s1.giveCredit link.val f.vc.val).bump pg 0x038 1).raise pg 2)

/-- The first `n` flits of a channel taken off a replay buffer. -/
def dropAcked (vc : Nat) : Nat → List Sent → List Sent
  | 0, l => l
  | _ + 1, [] => []
  | n + 1, f :: l => if f.flit.vc.val = vc then dropAcked vc n l else f :: dropAcked vc (n + 1) l

/-- CREDIT_RETURN (R228, R367): credits come back for flits forwarded or consumed, which are thereby acknowledged (log entry 48); flits that waited for
them leave. A credit that no flit took breaks law 0, and the audit shows it. -/
def execCreditReturn (link : LinkId) (vc : Fin 4) (n : Nat) (s : State) : Host.Outcome State Fault Refusal :=
  .next (
    let l := s.link link.val
    let c := l.chan vc.val
    if l.st ≠ .up then s
    else
      let y := l.setChan vc.val { c with held := c.held + n, flight := c.flight - n }
      (s.setLink link.val { y with replay := dropAcked vc.val n l.replay }).pump link.val)

/-! ## Replay, loss and training (R229, R230, R235, R237, R240, R256) -/

/-- The flits of a lost link, unacknowledged ones first, wait on links that serve the same destinations; those of a destination that no link serves any
longer go with it (R230). -/
def State.moveFlit (s : State) (w : Waiting) : State :=
  match (List.range 16).find? (fun k => s.serves k w.flit.dst) with
  | some k => if w.numbered then (s.enqueue k w).bump (pgFL k) 0x030 1 else s.enqueue k w
  | none => s

/-- REPLAY_TIMEOUT (R229): the oldest flit not acknowledged within 2 µs is sent again. -/
def execReplayTimeout (link : LinkId) (s : State) : Host.Outcome State Fault Refusal :=
  .next (
    let l := s.link link.val
    match l.replay with
    | [] => s
    | x :: rest =>
      if l.st = .up && decide (x.at_ + 2 ≤ s.nowUs) then
        ((s.setLink link.val { l with replay := { x with at_ := s.nowUs } :: rest }).emit (.flit link.val x.flit)).bump (pgFL link.val) 0x030 1
      else s)

/-- A destination that no link serves any longer: the commands whose traffic goes there end UNREACHABLE (R230, R272), barriers that name it complete with
PEER_LOST (R240), with the event and a record of KIND 5 to QPM (R275). -/
def State.loseDest (s : State) (f : Nat) : State :=
  let s1 := (s.collectivesOf (fun g => g.has f)).foldl (fun (s : State) x => (s.undefineDst x).endCmd x 6 { fabric := f }) s
  let s2 := (s1.raise pgCL 4).loseMember f
  s2.report 32 { kind := 5, status := 6, part := 63, time := s2.nowUs, fabric := f }

/-- The destinations a link served in one state that none serves in another. -/
def State.lostDests (s t : State) (n : Nat) : List Nat :=
  let cand := if s.switched then s.fab.peers.map (·.1) else [(s.link n).peer]
  cand.filter (fun f => s.serves n f && !t.reachable t.ownId f)

/-- The early flits that came by a link that goes down stay with their flows; no link's buffer counts them from then on, and no credit returns for
them. -/
def Flow.unlink (n : Nat) (w : Flow) : Flow := { w with early := w.early.map (fun e => if e.1 = n then (16, e.2) else e) }

/-- A link goes down (R230): its flits are replayed over other links, in the order R229 restores. -/
def State.linkDown (s : State) (n : Nat) : State :=
  let l := s.link n
  let s0 := (s.setLink n { l with st := .down, chans := [], replay := [], queue := [], share := 0 }).raise (pgFL n) 0
  let s1 := s0.setFab { s0.fab with flows := s0.fab.flows.map (Flow.unlink n) }
  let ws := l.replay.map (fun x => { flit := x.flit, numbered := true : Waiting }) ++ l.queue
  let s2 := if l.k4 then s1 else ws.foldl (fun (s : State) w => s.moveFlit w) s1
  let s3 := (List.range 16).foldl (fun (s : State) k => if (s.link k).st = .up then s.pump k else s) s2
  (s.lostDests s3 n).foldl (fun (s : State) f => s.loseDest f) s3

/-- LINK_IDLE_TIMEOUT (R230): no flit for 10 µs. -/
def execLinkIdleTimeout (link : LinkId) (s : State) : Host.Outcome State Fault Refusal :=
  .next (
    let l := s.link link.val
    if l.st = .up && decide (l.lastRx + 10 ≤ s.nowUs) then s.linkDown link.val else s)

/-- LINK_TRAINED (R226, R230, R235, R256): eight lanes, or four and DEGRADED; a module with epoch 0 does not train its links. -/
def execLinkTrained (link : LinkId) (lanes : Nat) (peer : Nat) (s : State) : Host.Outcome State Fault Refusal :=
  .next (
    let l := s.link link.val
    let pg := pgFL link.val
    if l.st = .up || !s.isUp (0x70 + link.val) || s.ownEpoch = 0 || !(lanes = 8 || lanes = 4) || 32768 ≤ peer then s
    else
      let s1 := s.setLink link.val { st := .up, degraded := decide (lanes = 4), k4 := (s.rd pg 0x04C).getLsbD 0, peer := peer, chans := freshChans,
                                     lastRx := s.nowUs }
      if lanes = 4 then s1.raise pg 1 else s1)

end Sys2Proof.Machine
end

