-- ==== Sys2Proof/Machine/Reset.lean ====
section
/-!
DEFINITION. Reset domains and the damper (R11, R98, R304, R305, R335 to R342, R345, R346, R353, R366, R430): which domains there are and what each
holds, the fence, the reset of each domain, and its release.
-/

namespace Sys2Proof.Machine

/-! ## The domains (R335) -/

/-- Does a number name a domain on the grade (R337)? -/
def State.domainExists (s : State) (d : Nat) : Bool :=
  if d < 0x40 then s.physOf.contains d
  else if d < 0x48 then true
  else if d < 0x68 then decide (d - 0x48 < s.gradeParts)
  else decide (d ≤ 0x69) || (decide (0x70 ≤ d) && decide (d ≤ 0x86)) || decide (d = 0xFF)

/-- Does domain `a` contain domain `b`? -/
def State.domainHolds (s : State) (a b : Nat) : Bool :=
  if a = 0xFF then decide (b ≠ 0xFF) && decide (b ≠ 0x84) && decide (b ≠ 0x85) && decide (b ≠ 0x86)
  else if a = 0x68 || a = 0x69 then
    (decide (b < 0x40) && decide (b / 32 = a - 0x68)) || (decide (0x40 ≤ b) && decide (b < 0x48) && decide ((b - 0x40) / 4 = a - 0x68))
  else if 0x40 ≤ a && a < 0x48 then decide (b < 0x40) && decide (b / 8 = a - 0x40)
  else if 0x48 ≤ a && a < 0x68 then decide (b < 0x40) && (s.hearth b).owner == some (a - 0x48)
  else false

/-- The pages of the module domain: all but those of FB, MC and the meter card. -/
def modulePages : List Nat :=
  (List.range 0x150).filter (fun n => (kindOf n).isSome && !([pgFB, pgFQ, pgMC, pgMQ] : List Nat).contains n)

/-- The pages whose damper a domain's fence closes. -/
def domPages (d : Nat) : List Nat :=
  if d < 0x40 then [pgHT d]
  else if d < 0x48 then pgQD (d - 0x40) :: (List.range 8).map (fun i => pgHT (8 * (d - 0x40) + i))
  else if d < 0x68 then [pgSE (d - 0x48), pgQP (d - 0x48)]
  else if d ≤ 0x69 then
    pgDIE (d - 0x68) :: ((List.range 4).map (fun i => pgQD (4 * (d - 0x68) + i)) ++ (List.range 32).map (fun i => pgHT (32 * (d - 0x68) + i)))
  else if d < 0x80 then [pgFL (d - 0x70)]
  else if d = 0x80 then [pgHI]
  else if d = 0x81 || d = 0x82 then [pgNP (d - 0x81)]
  else if d = 0x83 then [pgLF]
  else if d = 0x84 then [pgFB, pgFQ]
  else if d = 0x85 then [pgMC]
  else if d = 0x86 then [pgMQ]
  else modulePages

/-- A page's registers and header at their Reset column, RWS bits too, as at a module reset (R8, R11). -/
def State.clearPage (s : State) (page : Nat) : State :=
  ({ s with regs := AMap.delRange s.regs (page * 0x400) 0x400, force := AMap.delRange s.force (page * 0x400) 0x400,
            latch := AMap.delRange s.latch (page * 0x400) 0x400 }).setHdr page { fenced := (s.hdr page).fenced }

/-- The RWS words of a page. -/
def stickyOf (page : Nat) : List Reg := match kindOf page with | some (k, _) => (regsOf k).filter (fun r => r.clr ≠ 0) | none => []

/-- A page's registers and header at their Reset column (R11); RWS bits survive, and the index field beside them (R8, R371). -/
def State.resetPage (s : State) (page : Nat) : State :=
  (stickyOf page).foldl (fun (t : State) r => t.wr page r.off (s.rd page r.off)) (s.clearPage page)

def State.setFence (s : State) (page : Nat) (v : Bool) : State := s.setHdr page { s.hdr page with fenced := v }

/-- Semaphores and header SEM registers whose holder's domain is reset (R345, R346). -/
def State.abandonDomain (s : State) (d : Nat) : State :=
  let s1 := s.abandonSems (fun m => decide (m.hDom = d))
  (s1.setPages (AMap.mapAll {} (fun _ h =>
      if h.semHeld && decide (h.semDom.toNat = d) then { h with semHeld := false, semPart := 0, semDom := 0, semAband := true } else h) s1.pages))

/-! ## What an idle partition does at once (R295, R297, R335, R342) -/

/-- A partition whose stride stands still is at a boundary: failed hearths leave, a resize is applied, free hearths it names join, a freeze is
taken. -/
def State.settleIdle (s : State) (p : Nat) : State :=
  let st := (s.seOf p).st
  if st = .idle || st = .paused then ((s.dropFailed p).applyResize p).freezeAtBoundary p else s

/-! ## The placement table (R396, R397) -/

def State.place (s : State) (n : Nat) : Place := AMap.get {} s.host.place n

/-- The 64 bytes of an entry (R396). -/
def Place.bytes (e : Place) : List Byte :=
  let bit := fun (b : Bool) (k : Nat) => if b then 2 ^ k else 0
  padTo 64 (leBytes e.base 8 ++ leBytes e.len 8 ++ leBytes e.rid 2 ++
    leBytes (bit e.valid 0 + bit e.rd 1 + bit e.wr 2 + bit e.expt 3 + bit e.anyRid 4 + bit e.pasidEn 5) 1 ++ leBytes e.owner 1 ++ leBytes e.pasid 4)

/-- An entry put in place, in the table's pinned MODULE page as well. -/
def State.setPlace (s : State) (n : Nat) (e : Place) : State :=
  (s.setHost { s.host with place := AMap.put {} s.host.place n e }).storeTry (secureOf 63) (s.tableLoc 6 + 64 * n) e.bytes

/-- Some entries cleared: at ash-out those of the partition, on entry into BANKED all (R397). -/
def State.clearPlaces (s : State) (f : Place → Bool) : State :=
  ((s.host.place.filter (fun e => f e.2)).map (·.1)).foldl (fun (s : State) n => s.setPlace n {}) s

/-! ## Connections (R400) -/

/-- A command refused because its connection broke. -/
def State.connFails (s : State) (port cls : Nat) : State :=
  if cls = 0 then
    let fs := s.wx.fetches.filter (fun f => f.st == .transfer && (match f.remote with | some r => r.port == port | none => false))
    let s1 := fs.foldl (fun (s : State) f => s.failFetch f 0x0113) s
    let xs := s1.started.filter (fun x => x.opcode == 0x28 && x.phase == .running && field x.ops 36 36 == 1 && field x.ops 37 37 == port)
    xs.foldl (fun (s : State) x => s.refuseCmd x 0x0113) s1
  else if cls = 1 then
    match AMap.get none s.host.pushes port with
    | some _ =>
      let s1 := s.setHost { s.host with pushes := AMap.put none s.host.pushes port none }
      (s1.wr (pgNP port) 0x0A4 (BitVec.ofNat 32 (4 + 0x0113 * 65536))).raise (pgNP port) 2
    | none => s
  else s

/-- A connection breaks: every transfer on it fails, and software writes VALID again (R400, R407). -/
def State.breakConn (s : State) (port cls : Nat) : State :=
  if (s.conn port cls).valid then
    ((s.setConn port cls { s.conn port cls with valid := false }).connFails port cls).raise (pgNP port) 1
  else s

/-! ## Banked state: entering (R347, R348) -/

/-- Queues stop and HI is fenced; partitions that stand still stop at once. -/
def State.enterBanking (s : State) (cause : Nat) : State :=
  if s.mc.bank ≠ .normal then s
  else
    let s1 := s.setMc { s.mc with bank := .banking, bankCause := cause }
    let s2 := (s1.setHost { s1.host with fenced := true }).setFence pgHI true
    (List.range 32).foldl (fun (s : State) p =>
      if (s.seOf p).st = .idle || (s.seOf p).st = .paused then s.bankStop p else s) s2

/-! ## The reset of each domain (R335, R340) -/

/-- A hearth reset: cleared, the stride of its partition torn down, out of the partition until a boundary after its release. -/
def State.resetHearth (s : State) (h : Nat) : State :=
  let s1 := match (s.hearth h).owner with
    | some p => if (s.seOf p).st == StrideSt.idle || (s.seOf p).st == StrideSt.paused then s else s.tearStride p
    | none => s
  let s2 := s1.clearHearth h
  (s2.setHearth h { s2.hearth h with owner := none, fold0 := 0, fold1 := 0 }).resetPage (pgHT h)

/-- The hearths of a list that the part has. -/
def State.resetHearths (s : State) (l : List Nat) : State :=
  (l.filter (fun h => s.physOf.contains h)).foldl (fun (s : State) h => s.resetHearth h) s

/-- A quadrant reset: its hearths, and every line of its slice. -/
def State.resetQuad (s : State) (q : Nat) : State :=
  let s1 := s.resetHearths ((List.range 8).map (fun i => 8 * q + i))
  (s1.setMem { s1.mem with cache := s1.mem.cache.filter (fun c => c.slice ≠ q) }).resetPage (pgQD q)

/-- The stride context of a reset partition: what strides made is gone, what software set stays. -/
def Se.afterReset (e : Se) : Se :=
  { num := e.num, cohortMax := e.cohortMax, program := e.program, newProgram := e.newProgram, layout := e.layout, ordered := e.ordered,
    profile := e.profile, heldSteps := e.heldSteps }

/-- The SE page of a reset partition at its Reset column (R11). The hold quota, as every quota, stays (R340), and so do the rings and the page pool, in
which records not yet taken stay and to which pages go back (R340; log entry 101). -/
def State.resetSePage (s : State) (p : Nat) : State :=
  let keep := [0x088, 0x08C, 0x090, 0x098, 0x09C, 0x0A0, 0x0F0, 0x108, 0x10C, 0x110]
  keep.foldl (fun (t : State) o => (t.wr (pgSE p) o (s.rd (pgSE p) o)).setForce (pgSE p) o (s.frc (pgSE p) o)) (s.resetPage (pgSE p))

/-- A queue of a reset partition: DISABLED, its generation stepped, its registers at their Reset column (R11, R279, R340). -/
def State.resetQueue (s : State) (p i : Nat) : State :=
  let q := s.queue (40 * p + i)
  (s.wr (pgQP p) (qOff (i / 8) (i % 8) + 8) 0).setQueue (40 * p + i) { gen := qGenStep q.gen, taken := q.taken, ended := q.ended }

/-- A partition reset (R340): its commands have ended. -/
def State.resetPartition (s : State) (p : Nat) : State :=
  let slots := (s.slots.filter (fun e => e.2.owner == p && e.2.st ≠ .free)).map (·.1)
  let s1 := slots.foldl (fun (s : State) n => (s.returnPages p (ownPages (s.slot n).pages ++ (s.slot n).tracePages)).freeSlot n) s
  let holds := (s1.holds.filter (fun e => e.2.owner == p && (e.2.st ≠ .free || e.2.reserved))).map (·.1)
  let s2 := holds.foldl (fun (s : State) h => if (s.hold h).st = .free then s.unreserve h else s.freeHold h) s1
  let s3 := s2.mapWxs (fun w => if w.used && w.owner = p then { w with bank := {}, flight := none, outcome := none, stepOpen := false, cohorts := 0 } else w)
  let s4 := (List.range 40).foldl (fun (s : State) i => s.resetQueue p i) s3
  let s5 := ((s4.setSe p (s4.seOf p).afterReset).resetSePage p).freeUnused
  (s5.hearthsOf p).foldl (fun (s : State) h => s.clearHearth h) s5

/-- The lift reset: buffers not landed are filled again. -/
def State.resetLift (s : State) : State :=
  (s.setLift { s.lift with bufs := s.lift.bufs.filter (fun b => !s.filling b), blocked := false, instBusy := false, instLeft := [], arriving := [] }).resetPage pgLF

/-- The key table as the vault's key block gives it back in the present debug state (R326, R329). -/
def Fbx.reloadKeys (f : Fbx) : AMap KeyEnt :=
  AMap.mapAll {} (fun i k => match AMap.find f.block i with
    | some b => if b.dbg = f.unlocked then b else { gen := k.gen }
    | none => { gen := k.gen }) f.keys

/-- The firebox reset: sessions end, the random source is OFF; wrapped keys come back, the shard decryptor keeps the base key. -/
def State.resetFb (s : State) : State :=
  let s1 := s.setFbx { s.fbx with trng := .off, bits := 0, readyUs := 0, attKey := none, sessions := [], imageKeys := [], unlockWaits := false,
                                      keys := s.fbx.reloadKeys }
  ((s1.setUp (s1.up.filter (fun d => decide (d ≠ 0x84)))).resetPage pgFB).resetPage pgFQ

/-- The management controller reset: it boots again once released; recovery ends once an image was written (R352). -/
def State.resetMc (s : State) : State :=
  let s1 := s.setMc { s.mc with running := false, booting := false, recovery := s.mc.recovery && !s.mc.recoveryDone, recoveryDone := false }
  (s1.setUp (s1.up.filter (fun d => decide (d ≠ 0x85)))).resetPage pgMC

/-- The host interface reset: the link is down and trains again, banked state is entered with cause LINK (R392). -/
def State.resetHi (s : State) : State :=
  let s1 := s.enterBanking 1
  let up := s1.host.linkUp
  let s2 := s1.setHost { s1.host with linkUp := false, training := true, mode := 0, width := 0, intmap := [], msix := [], pba := [] }
  let s3 := s2.resetPage pgHI
  if up then s3.raise pgHI 0 else s3

/-- A port reset: its transfers fail, its link trains again. -/
def State.resetPort (s : State) (n : Nat) : State :=
  let s1 := [0, 1, 2].foldl (fun (s : State) c => s.breakConn n c) s
  let s2 := s1.setHost { s1.host with netUp := AMap.put 0 s1.host.netUp n 3, conns := AMap.delRange s1.host.conns (4 * n) 4 }
  s2.resetPage (pgNP n)

/-- A flue port reset: its link goes down and trains again (R335, R341). -/
def State.resetFlue (s : State) (n : Nat) : State :=
  let s1 := if (s.link n).st = .up then s.linkDown n else s
  (s1.setLink n { s1.link n with st := .training }).resetPage (pgFL n)

/-- The meter card's reset: its page MQ is at its Reset column (R11, R335, R386); what the card holds is in its non-volatile memory. -/
def State.resetMeter (s : State) : State := s.resetPage pgMQ

/-- Everything except FB, MC and the meter card: all work is lost except the vault and the meter (R335, R430, R438). An open installation ends, and the
base key and a debug unlock with it (R325, R329). -/
def State.wipeModule (s : State) : State :=
  let l := s.lift
  let s1 := modulePages.foldl (fun (s : State) n => s.clearPage n) s
  { s1 with
    pages := s1.pages.filter (fun e => !modulePages.contains e.1), tbData := [], mem := {}, queues := [], started := [], held := [], evq := {},
    se := [], slots := [], parks := [], holds := [], infs := [], wxs := [], wx := { store := s.wx.store },
    hearths := AMap.mapAll {} (fun _ h => { tally := h.tally }) s.hearths, pts := [],
    lift := if l.openInstall then {} else { installed := l.installed, written := l.written, bad := l.bad },
    fab := {}, sems := [],
    fbx := { s.fbx with baseKey := none, unlocked := false, wrapped := if l.openInstall then none else s.fbx.wrapped,
                           keys := if s.fbx.unlocked then Fbx.reloadKeys { s.fbx with unlocked := false } else s.fbx.keys },
    mc := { s.mc with ready := false, stopped := false, failStep := 0, vaultMounted := false, bank := .normal, bankCause := 0, ticksAligned := false },
    up := s.up.filter (fun d => decide (d = 0x84) || decide (d = 0x85) || decide (d = 0x86)),
    resets := s.resets.filter (fun r => decide (r.dom = 0x84) || decide (r.dom = 0x85) || decide (r.dom = 0x86)),
    host := {} }

/-- A module reset: the sequence runs again from step 2 (R430), with the module domain in reset until step 5; a thermal trip holds the main rail off
(R434). -/
def State.resetModule (s : State) (cause : Nat) : State :=
  let s1 := s.wipeModule
  (s1.setMc { s1.mc with step := if s1.mc.mainOk && !s1.mc.tripHold then 2 else 0, mainOk := s1.mc.mainOk && !s1.mc.tripHold, railLost := false }) |> fun s2 => (s2.setResets (s2.resets ++ [⟨0xFF, cause, s2.nowUs, 2⟩]))

/-- What a domain's reset does, by its number. -/
def State.resetDomain (s : State) (d cause : Nat) : State :=
  if d < 0x40 then s.resetHearths [d]
  else if d < 0x48 then s.resetQuad (d - 0x40)
  else if d < 0x68 then s.resetPartition (d - 0x48)
  else if d ≤ 0x69 then ((List.range 4).foldl (fun (s : State) i => s.resetQuad (4 * (d - 0x68) + i)) s).resetPage (pgDIE (d - 0x68))
  else if d < 0x80 then s.resetFlue (d - 0x70)
  else if d = 0x80 then s.resetHi
  else if d = 0x81 || d = 0x82 then s.resetPort (d - 0x81)
  else if d = 0x83 then s.resetLift
  else if d = 0x84 then s.resetFb
  else if d = 0x85 then s.resetMc
  else if d = 0x86 then s.resetMeter
  else s.resetModule cause

/-! ## Ash-out: what the clearing adds to the reset (R297, R304, R305) -/

/-- A region's key generation steps; from 255 it starts again at 1 under a zero fill (R213, R304). -/
def Region.step (r : Region) : Region := if r.keygen = 255 then { r with keygen := 1, filling := true } else { r with keygen := r.keygen + 1 }

/-- 256 fresh bits of the random source. -/
def State.draw (s : State) : BitVec 256 × State :=
  (Config.randomBits s.freeCtr, (s.setFreeCtr (s.freeCtr + 1)).setFbx { s.fbx with draws := s.fbx.draws + 1 })

/-- A fresh data key pair and tag key (R316, R317). -/
def State.drawKeys (s : State) : (BitVec 512 × BitVec 256) × State :=
  let a := s.draw
  let b := a.2.draw
  let c := b.2.draw
  ((a.1 ++ b.1, c.1), c.2)

/-- The generation and the keys of every VALID region of a kind step together (R213). -/
def State.stepRegions (s : State) (f : Region → Bool) : State :=
  ((s.fbx.regions.map (·.1)).eraseDups.filter (fun i => (s.region i).valid && f (s.region i))).foldl (fun (s : State) i =>
    let k := s.drawKeys
    k.2.setRegion i { (s.region i).step with dataKey := k.1.1, tagKey := k.1.2 }) s

/-- The partition state of R304 cleared: park entries and fetches, wax slots, overlay entries, cache ways, the mailbox page. -/
def State.ashState (s : State) (p : Nat) : State :=
  let s1 := s.setParks (s.parks.filter (fun k => k.part ≠ p))
  let s2 := (s1.wx.fetches.filter (fun f => f.part == p)).foldl (fun (s : State) f => s.dropFetch f) s1
  let s3 := ((s2.infs.filter (fun e => e.2.owner == p && e.2.st ≠ .free)).map (·.1)).foldl (fun (s : State) n => s.freeInf n) s2
  let s4 := ((s3.wxs.filter (fun e => e.2.used && e.2.owner == p)).map (·.1)).foldl (fun (s : State) w => s.releaseWaxing w) s3
  let s5 := s4.setWax { s4.wx with overlay := s4.wx.overlay.filter (fun o => o.2.part ≠ p), overlayForce := s4.wx.overlayForce.filter (fun o => o.2.part ≠ p) }
  let s6 := s5.setMem { s5.mem with cache := s5.mem.cache.filter (fun c => c.owner ≠ p) }
  s6.resetPage (pgMB p)

/-! ## The fence (R338, R339, R368) -/

/-- The started commands a domain's reset cuts off. -/
def State.openOf (s : State) (d : Nat) : List Started :=
  if 0x48 ≤ d && d < 0x68 then s.started.filter (fun c => c.page == d - 0x48)
  else if d = 0x83 then s.started.filter (fun c => c.eng == 1)
  else if d = 0xFF then s.started
  else []

/-- The response of a request answered ABORTED, if it still comes, bears the old domain epoch (R338 step 3). -/
def State.owesResponse (s : State) (c : Started) : State := if c.phase = .taken then s else s.setMc { s.mc with late := c.key :: s.mc.late }

/-- RESET_STATUS.LAST and CAUSE (R354); PHASE is read from the resets in progress. -/
def State.noteReset (s : State) (d cause : Nat) : State := s.wr pgMC 0x104 (BitVec.ofNat 32 (d + cause * 4096))

/-- The token audits of a partition that fell while they were suspended (R368). -/
def State.auditTokens (s : State) (p : Nat) : State :=
  if s.meter.auditLate.contains p then (s.setMeter { s.meter with auditLate := s.meter.auditLate.filter (· ≠ p) }).tokenMismatch p else s

/-- Each audit of the resources a domain holds, checked once at the end of step 4 (R368). -/
def State.auditDomain (s : State) (d : Nat) : State :=
  let sems := fun (s : State) => (s.sems.map (·.1)).foldl (fun (s : State) n => s.checkSem n) s
  let queues := fun (s : State) (p : Nat) => (List.range 40).foldl (fun (s : State) i => s.checkQueue (40 * p + i)) s
  if 0x48 ≤ d && d < 0x68 then (sems (queues s (d - 0x48)).checkFetch).auditTokens (d - 0x48)
  else if 0x70 ≤ d && d < 0x80 then (sems s).checkLink (d - 0x70)
  else if d = 0xFF then
    let s1 := (List.range 33).foldl (fun (s : State) p => queues s p) s
    let s2 := (List.range 16).foldl (fun (s : State) n => s.checkLink n) s1
    (List.range 32).foldl (fun (s : State) p => s.auditTokens p) (sems s2.checkFetch).checkFrames
  else sems s

/-- Steps 3 and 4 of R338 and the reset itself: open requests ABORTED, holdings returned, the audits suspended until then checked (R368), the RESET
record of R341, the domain in reset until its release. -/
def State.carryOut (s : State) (d cause : Nat) : State :=
  let s1 := (s.openOf d).foldl (fun (s : State) c => ((s.abortCmd c).bump pgMC 0x138 1).owesResponse c) s
  let s2 := s1.abandonDomain d
  let inner := ((List.range 0x70).filter (fun b => s2.domainHolds d b)) 
  let s3 := (inner.foldl (fun (s : State) b => s.abandonDomain b) s2).auditDomain d
  let s4 := s3.report 32 { kind := 6, status := 0, part := 63, time := s3.nowUs, detail := d + cause * 256 }
  let s5 := s4.resetDomain d cause
  let s6 := if d = 0xFF then s5 else
    s5.setResets ((s5.resets.filter (fun r => r.dom ≠ d)) ++ [⟨d, cause, s5.nowUs, 2⟩])
  let s7 := s6.noteReset d cause
  if 0x48 ≤ d && d < 0x68 && (s7.pt (d - 0x48)).st = .ashing then
    let t := s7.ashState (d - 0x48)
    t.setPt (d - 0x48) { t.pt (d - 0x48) with ashFenced := true, ashAt := t.nowUs }
  else s7

/-- The fence of a domain closes (step 1): inner resets are taken over, and the audits of what it holds are suspended (R368); with nothing open the reset
follows at once, else the drain runs. -/
def State.startReset (s : State) (d cause : Nat) : State :=
  let s1 := s.setResets (s.resets.filter (fun r => !s.domainHolds d r.dom))
  let s2 := ((domPages d).foldl (fun (s : State) n => s.setFence n true) s1).noteReset d cause
  let s3 := s2.setResets (s2.resets ++ [⟨d, cause, s2.nowUs, 1⟩])
  if (s3.openOf d).isEmpty then s3.carryOut d cause else s3

/-- A reset requested (R337, R430): merged with one in progress of the domain or of one that holds it; a module reset in its own sequence starts it
again at step 2. -/
def State.requestReset (s : State) (d cause : Nat) : State :=
  if d = 0xFF && s.resets.any (fun r => r.dom == 0xFF && r.phase == 2) then
    (if s.mc.mainOk then s.setMc { s.mc with step := 2, stopped := false, failStep := 0, vaultMounted := false } else s)
  else if s.resets.any (fun r => r.dom == d || s.domainHolds r.dom d) then s
  else s.startReset d cause

/-- Has a reset's drain ended: nothing is open, or DAMPER_US has passed (R338 step 2)? -/
def State.drainOver (s : State) (r : Rst) : Bool :=
  r.phase == 1 && ((s.openOf r.dom).isEmpty || decide (r.at_ + fld (s.frc pgMC 0x10C) 15 0 < s.nowUs))

/-- Drains whose requests have all ended go on to their reset. -/
def State.settleDrains (s : State) : State :=
  s.resets.foldl (fun (s : State) r => if r.phase == 1 && (s.openOf r.dom).isEmpty then s.carryOut r.dom r.cause else s) s

/-! ## Release (R336, R353, R366) -/

/-- A domain epoch's step (R336). -/
def epochStep (e : Word) : Word := if e = 0xFFFFFFFF then 1 else e + 1

def State.stepEpoch (s : State) (d : Nat) : State := s.setEpochs (AMap.put 1 s.epochs d (epochStep (s.epoch d)))

/-- The epochs of a domain and of those it holds. -/
def State.stepEpochs (s : State) (d : Nat) : State :=
  ((List.range 0x100).filter (fun b => s.domainExists b && s.domainHolds d b)).foldl (fun (s : State) b => s.stepEpoch b) (s.stepEpoch d)

/-- The consistency check of a page begins (R411): the checked values as they stand now. -/
def State.startCheck (s : State) (page : Nat) : State :=
  let h := s.hdr page
  s.setHdr page { h with enableBit := true, fenceEnable := false, checking := some (s.snapOf page) }

/-- A fence lifts; an ENABLE held by it is checked now (R413). -/
def State.liftFence (s : State) (page : Nat) : State :=
  let s1 := s.setFence page false
  if (s1.hdr page).fenceEnable then s1.startCheck page else s1

/-- Tick alignment of a releasing domain (R366): whether its crossings align, and which fails first, is physical and free. -/
def State.alignTicks (s : State) : State :=
  let r := s.pick 2
  if r.1 = 0 then r.2
  else
    let f := r.2.pick 256
    (f.2.setMc { f.2.mc with ticksAligned := false, tickFailed := f.1 }).raise pgMC 1

/-- Domains with crossings of their own. -/
def hasCrossings (d : Nat) : Bool := decide (0x40 ≤ d) && !(decide (0x48 ≤ d) && decide (d < 0x68)) && decide (d ≠ 0x86)

/-- May a domain be released (R353)? -/
def State.releasable (s : State) (d : Nat) : Bool :=
  s.resets.any (fun r => r.dom == d && r.phase == 2) && !s.resets.any (fun r => s.domainHolds r.dom d) &&
  (decide (d = 0x84) || decide (d = 0x86) || (s.isUp 0x84 && (decide (d = 0x85) || (s.isUp 0x85 && s.isUp 0xFF))))

/-- A domain released: epochs step, fences lift, and what starts again of itself. -/
def State.releaseDomain (s : State) (d : Nat) : State :=
  let s0 := if d = 0x84 || d = 0x85 then (s.setUp (s.up ++ [d])) else s
  let s1 := s0.setResets (s0.resets.filter (fun r => r.dom ≠ d))
  let s2 := if hasCrossings d then (s1.stepEpochs d).alignTicks else s1.stepEpochs d
  let keep := fun (n : Nat) => decide (n = pgHI) && decide (s.mc.bank ≠ .normal)
  let s3 := ((domPages d).filter (fun n => !keep n)).foldl (fun (s : State) n => s.liftFence n) s2
  let s4 := if d = 0x85 then s3.setMc { s3.mc with booting := true, bootAt := s3.nowUs } else s3
  if d < 0x48 || d = 0x68 || d = 0x69 then (List.range 32).foldl (fun (s : State) p => s.settleIdle p) s4 else s4

end Sys2Proof.Machine
end

