-- ==== Sys2Proof/Machine/Firebox.lean ====
section
/-!
DEFINITION. The firebox (R315 to R334): the request ring and its eleven requests, sessions, keys, regions, floors, the random source, the debug unlock and
keys from a peer.
-/

namespace Sys2Proof.Machine

/-! ## The request ring (R321, R333, R334) -/

/-- A request record (R333). -/
structure FbReq where
  code : Nat
  handle : Nat
  session : Nat
  inDua : Nat
  inBytes : Nat
  outDua : Nat
  outBytes : Nat
  arg : Nat
deriving DecidableEq, Repr

def fbReqOf (r : List Byte) : FbReq :=
  { code := field r 0 0, handle := field r 4 5, session := field r 6 7, inDua := field r 8 15, inBytes := field r 16 19,
    outDua := field r 24 31, outBytes := field r 32 35, arg := field r 36 39 }

/-- A record of a ring at a pointer, as the module reads it; what it cannot read it takes as zeros (log entry 16). -/
def State.ringPeek (s : State) (r : Ring) : List Byte :=
  match s.load (whoOf 63) (s.ringAddr r (s.rd r.ptrPage r.cons)) r.entry with
  | .ok (b, _) => b
  | .error _ => List.replicate r.entry 0

/-- The head request, while the firebox runs and FQ is ENABLED. -/
def State.fbHead (s : State) : Option FbReq :=
  if s.isUp 0x84 && s.enabled pgFQ && decide (s.ringCount ringFQ ≠ 0) then some (fbReqOf (s.ringPeek ringFQ)) else none

/-- The requests that need random bits: ATTEST, ACCOUNT_KEY_CREATE, KEY_TRANSFER, REGION_SET (R321). -/
def needsRandom (code : Nat) : Bool := code = 1 || code = 6 || code = 8 || code = 9

/-- The head request ends: STATUS, REASON and a returned handle in its record, DONE advanced, RESPONSE (R333, R334). -/
def State.fbEnd (s : State) (reason : Nat) (handle : Option Nat := none) : State :=
  let a := s.ringAddr ringFQ (s.rd pgFQ 0x050)
  let s1 := s.storeTry (whoOf 63) (a + 1) (leBytes (if reason = 0 then 0 else 1) 1 ++ leBytes reason 2)
  let s2 := match handle with | some h => s1.storeTry (whoOf 63) (a + 4) (leBytes h 2) | none => s1
  let s3 := s2.wr pgFQ 0x050 (s2.rd pgFQ 0x050 + 1)
  let s4 := s3.setFbx { s3.fbx with posted := s3.fbx.posted.tail }
  (if reason = 0 then s4 else s4.bump pgFB 0x030 1).raise pgFQ 0

/-- The head request as request `code`: served by `f`, refused when its code is no request, left alone when it is another one's or
waits for random bits (R321, R333). -/
def State.fbServe (s : State) (code : Nat) (f : State → FbReq → State) : State :=
  match s.fbHead with
  | none => s
  | some r =>
    if r.code = 0 || 11 < r.code then s.fbEnd 0x0260
    else if r.code ≠ code then s
    else if needsRandom code && decide (s.fbx.trng = .failed) then s.fbEnd 0x011B
    else if needsRandom code && decide (s.fbx.trng ≠ .ready) then s
    else f s r

/-- The head requests that need random bits, all refused at once (R321). -/
def State.refuseRandom (s : State) : Nat → State
  | 0 => s
  | n + 1 =>
    match s.fbHead with
    | some r => if needsRandom r.code then (s.fbEnd 0x011B).refuseRandom n else s
    | none => s

/-- FB_REQUEST_TIMEOUT (R321). -/
def execFbRequestTimeout (s : State) : Host.Outcome State Fault Refusal :=
  .next (match s.fbHead with
    | some r =>
      if needsRandom r.code && decide (s.fbx.trng ≠ .ready) && decide ((s.fbx.posted.headD s.nowUs) + 100000 ≤ s.nowUs) then s.fbEnd 0x011B else s
    | none => s)

/-! ## Random bits and sessions (R320 to R322) -/

def State.session (s : State) (n : Nat) : Option Session := AMap.get none s.fbx.sessions n

def State.setSession (s : State) (n : Nat) (x : Option Session) : State :=
  s.setFbx { s.fbx with sessions := AMap.put none s.fbx.sessions n x }

/-- A request with a payload under a session key: without an open session no tag passes; the first request that uses a session ends it (R322,
R333). An input that cannot be read refuses with its reason, a poisoned one with 0x0323 (DEDUCED, log entry 183). -/
def State.withInput (s : State) (r : FbReq) (i : FbInput) (f : State → State) : State :=
  match s.load (whoOf 63) r.inDua r.inBytes with
  | .error (.inl e) => s.fbEnd e
  | .error (.inr _) => (s.setSession r.session none).fbEnd 0x0323
  | .ok _ =>
    let s1 := s.setSession r.session none
    if i.tagOk && (s.session r.session).isSome then f s1 else s1.fbEnd 0x0323

/-- HELD of BASE_KEY, with its event (R334). -/
def State.setBaseKey (s : State) (k : Option (BitVec 256)) : State :=
  let s1 := s.setFbx { s.fbx with baseKey := k }
  if s.fbx.baseKey.isSome = k.isSome then s1 else s1.raise pgFQ 3

/-- Keys created, installed, transferred or deleted (R332). -/
def State.keyOp (s : State) : State := s.bump pgFB 0x020 1

/-! ## Attestation (R322) -/

/-- The four SVNs and floors as bytes. -/
def svnBytes (l : List Nat) : List Byte := padTo 4 (l.map (fun n => BitVec.ofNat 8 n))

/-- Bytes 0 to 383 of a report. -/
def State.reportBody (s : State) (session : Nat) (nonce : List Byte) (pub : BitVec 776) : List Byte :=
  let flags := (if s.fbx.lockFuse && !s.fbx.unlocked then 1 else 0) + (if s.fbx.baseKey.isSome then 2 else 0) + (if s.lift.openInstall then 4 else 0)
  let base := if s.lift.openInstall then 0 else match s.lift.installed with | some m => m.baseId.toNat | none => 0
  padTo 384 (leBytes 1 2 ++ leBytes flags 1 ++ leBytes session 1 ++ leBytes 0x00B0 2 ++ leBytes s.gradeHearths 1 ++ leBytes 0 1 ++ padTo 32 nonce ++
    leBytes base 32 ++ svnBytes s.fbx.svns ++ svnBytes s.fbx.floors ++
    ([0, 1, 2, 3].flatMap (fun i => leBytes (Config.measure i).toNat 48)) ++ leBytes pub.toNat 97)

/-- The report and the certificate of the attestation key. -/
def State.attestOut (s : State) (session : Nat) (nonce : List Byte) (secret : BitVec 256) : List Byte :=
  let b := s.reportBody session nonce (Config.ecdhPublic secret)
  padTo 512 (b ++ leBytes (Config.ecdsaSign 0 b).toNat 96) ++ Config.certificate 0

/-- ATTEST at the head. The output buffer holds the report and the certificate after it (DEDUCED, log entry 183). -/
def State.attest (s : State) (r : FbReq) : State :=
  match s.load (whoOf 63) r.inDua (min r.inBytes 32) with
  | .error (.inl e) => s.fbEnd e
  | .error (.inr _) => s.fbEnd 0x0323
  | .ok (nonce, s1) =>
    match s1.pickOf ((List.range 16).filter (fun n => (s1.session n).isNone)) with
    | (none, _) => s.fbEnd 0x0510
    | (some n, s2) =>
      let d := s2.draw
      let out := d.2.attestOut n nonce d.1
      if r.outBytes < out.length then s.fbEnd 0x0511
      else
        match d.2.store (whoOf 63) r.outDua out with
        | .error (.inl e) => s.fbEnd e
        | .error (.inr _) => s.fbEnd 0x0323
        | .ok s3 => ((s3.setSession n (some { since := s3.nowUs, key := d.1 })).bump pgFB 0x028 1).fbEnd 0

/-- ATTEST (R321, R322, R333). -/
def execAttest (s : State) : Host.Outcome State Fault Refusal := .next (s.fbServe 1 (fun s r => s.attest r))

/-- SESSION_EXPIRY (R322). -/
def execSessionExpiry (session : Fin 16) (s : State) : Host.Outcome State Fault Refusal :=
  .next (match s.session session.val with
    | some x => if x.since + 600000000 ≤ s.nowUs then s.setSession session.val none else s
    | none => s)

/-! ## Installation and the base key (R323 to R325, R436, R438, R444) -/

/-- Does a key meet a manifest's KEY_CHECK (R323)? -/
def keyMatches (m : Manifest) (k : BitVec 256) : Bool := Config.keyCheck m.baseId k == m.keyCheck

/-- An installation opens: the previous base and its key are gone, the patrol stops. -/
def State.openBase (s : State) (m : Manifest) (k : BitVec 256) : State :=
  let s1 := s.setLift { s.lift with installed := some m, written := [], bad := [], retried := [], openInstall := true, passed := [], scaleFF := [],
                                    instBusy := false, instLeft := [], patrolOn := false, patrolPos := 0 }
  ((s1.setFbx { s1.fbx with wrapped := none }).setBaseKey (some k)).keyOp

/-- INSTALL_OPEN at the head, past its session: KEY_CHECK, then the tables (R444). -/
def State.installOpen (s : State) (i : FbInput) : State :=
  if !keyMatches i.manifest i.key then s.fbEnd 0x0340
  else
    match manifestCheck i.manifest with
    | some e => s.fbEnd e
    | none => (s.openBase i.manifest i.key).fbEnd 0

/-- INSTALL_OPEN (R324, R436, R444). -/
def execInstallOpen (input : FbInput) (s : State) : Host.Outcome State Fault Refusal :=
  .next (s.fbServe 2 (fun s r =>
    if s.lift.base.isSome || s.anyPartition || !s.mc.vaultMounted then s.fbEnd 0x0704
    else s.withInput r input (fun s => s.installOpen input)))

/-- INSTALL_CLOSE at the head: it waits for a transfer (R438). With no installation open nothing has passed (log entry 57). -/
def State.installClose (s : State) : State :=
  let l := s.lift
  let m := l.installed.getD {}
  if !l.openInstall then s.fbEnd 0x0118
  else if l.instBusy then s
  else if !l.scaleFF.isEmpty then s.fbEnd 0x0223
  else if !m.shards.all (fun d => l.passed.contains d.number) then s.fbEnd 0x0118
  else
    let s1 := s.setLift { l with openInstall := false }
    (s1.setFbx { s1.fbx with wrapped := s1.fbx.baseKey, wrappedDbg := s1.fbx.unlocked }).fbEnd 0

/-- INSTALL_CLOSE (R324, R436, R438). -/
def execInstallClose (s : State) : Host.Outcome State Fault Refusal := .next (s.fbServe 3 (fun s _ => s.installClose))

/-- Every running SVN is at least OWNER_FLOOR (R325). -/
def svnMeets (svns floor : List Nat) : Bool := (List.range 4).all (fun i => decide (floor.getD i 0 ≤ svns.getD i 0))

/-- The condition of R325 for an unwrapping at the vault mount: SVNs and debug locked. -/
def State.releaseOk (s : State) (m : Manifest) : Bool := svnMeets s.fbx.svns m.ownerFloor && s.fbx.lockFuse && !s.fbx.unlocked

/-- In hostless operation the MC issues BASE_LOAD from QPM once the base key is held, after the power-up sequence (R403). The MC is a sender of its own:
its record arrives as its own commands. -/
def State.mcIssues (s : State) : State :=
  if s.settings.hostless && s.mc.ready && s.fbx.baseKey.isSome && s.lift.base.isNone then s.emit .baseLoadIssued else s

/-- KEY_RELEASE at the head, past its session. -/
def State.keyRelease (s : State) (k : BitVec 256) : State :=
  match s.lift.installed with
  | none => s.fbEnd 0x0340
  | some m =>
    if !keyMatches m k then s.fbEnd 0x0340
    else if !svnMeets s.fbx.svns m.ownerFloor then s.fbEnd 0x0607
    else (((s.setBaseKey (some k)).keyOp).fbEnd 0).mcIssues

/-- KEY_RELEASE (R325, R403). An unmounted vault shows no manifest (log entry 57). -/
def execKeyRelease (input : FbInput) (s : State) : Host.Outcome State Fault Refusal :=
  .next (s.fbServe 4 (fun s r =>
    s.withInput r input (fun s => if s.mc.vaultMounted then s.keyRelease input.key else s.fbEnd 0x0115)))

/-- The base key unwrapped at a vault mount under LOCAL policy (R325, R329). -/
def State.unwrapBase (s : State) : State :=
  match s.lift.installed with
  | some m => if !m.online && s.releaseOk m && decide (s.fbx.wrappedDbg = s.fbx.unlocked) then s.setBaseKey s.fbx.wrapped else s
  | none => s

/-! ## The key table (R318, R326) -/

def State.keyEnt (s : State) (i : Nat) : KeyEnt := AMap.get {} s.fbx.keys i

def handleOf (i gen : Nat) : Nat := i + 4096 * gen

/-- The generation of a key handle's index steps from 15 to 1 (R318). -/
def keyGenStep (g : Nat) : Nat := if g = 15 then 1 else g + 1

/-- A key written at an index of the table and, wrapped, into the key block. -/
def State.setKey (s : State) (i : Nat) (k : KeyEnt) : State :=
  s.setFbx { s.fbx with keys := AMap.put {} s.fbx.keys i k,
                        block := if k.used then AMap.ins i k (AMap.del s.fbx.block i) else AMap.del s.fbx.block i }

/-- Where a key of an account goes: over the account's present one, else a free index. -/
def State.keyPlace (s : State) (out : Bool) (account : Nat) : Option Nat × State :=
  match s.fbx.keys.find? (fun e => e.2.used && e.2.outKey == out && e.2.account == account) with
  | some e => (some e.1, s)
  | none => s.pickOf ((List.range 4096).filter (fun i => !(s.keyEnt i).used && (AMap.find s.fbx.block i).isNone))

/-- An account or export key installed (log entry 57: account 0, a full table, a key in place of an earlier one). -/
def State.installKey (s : State) (out : Bool) (account : Nat) (k : BitVec 256) : Except Nat (Nat × State) :=
  if account = 0 then .error 0x0247
  else
    match s.keyPlace out account with
    | (none, _) => .error 0x0510
    | (some i, s1) =>
      let e := s1.keyEnt i
      let g := if e.used then keyGenStep e.gen else e.gen
      .ok (handleOf i g, (s1.setKey i { gen := g, used := true, outKey := out, account := account, key := k, dbg := s1.fbx.unlocked }).keyOp)

/-- A key request's end: its handle, or why not. -/
def State.keyEnd (s : State) (x : Except Nat (Nat × State)) : State :=
  match x with | .ok (h, s') => s'.fbEnd 0 (some h) | .error e => s.fbEnd e

/-- ACCOUNT_KEY_SET (R326). -/
def execAccountKeySet (input : FbInput) (s : State) : Host.Outcome State Fault Refusal :=
  .next (s.fbServe 5 (fun s r => s.withInput r input (fun s => s.keyEnd (s.installKey false r.arg input.key))))

/-- ACCOUNT_KEY_CREATE (R321, R326). -/
def execAccountKeyCreate (s : State) : Host.Outcome State Fault Refusal :=
  .next (s.fbServe 6 (fun s r => let d := s.draw; s.keyEnd (d.2.installKey false r.arg d.1)))

/-- EXPORT_KEY_SET (R326). -/
def execExportKeySet (input : FbInput) (s : State) : Host.Outcome State Fault Refusal :=
  .next (s.fbServe 7 (fun s r => s.withInput r input (fun s => s.keyEnd (s.installKey true r.arg input.key))))

/-- The key a handle names, if it is not stale (R318). -/
def State.keyByHandle (s : State) (h : Nat) : Option (Nat × KeyEnt) :=
  let e := s.keyEnt (h % 4096)
  if e.used && decide (e.gen = h / 4096) then some (h % 4096, e) else none

/-- KEY_DELETE at the head. -/
def State.keyDelete (s : State) (h : Nat) : State :=
  match s.keyByHandle h with
  | none => s.fbEnd 0x0339
  | some (i, e) => ((s.setKey i { gen := keyGenStep e.gen }).keyOp).fbEnd 0

/-- KEY_DELETE (R318, R326). -/
def execKeyDelete (s : State) : Host.Outcome State Fault Refusal := .next (s.fbServe 10 (fun s r => s.keyDelete r.handle))

/-! ## Keys to and from peers (R325) -/

/-- The key a KEY_TRANSFER names, with its kind: a key handle; with no handle the base key, or the image key whose KEY_WRAP_ID the input holds (log
entry 53). -/
def State.transferKey (s : State) (r : FbReq) : Except Nat (Nat × BitVec 256) :=
  if r.handle ≠ 0 then
    (match s.keyByHandle r.handle with | some (_, e) => .ok (1, e.key) | none => .error 0x0339)
  else if r.inBytes = 0 then
    (if !(s.lift.installed.getD {}).peerTransfer then .error 0x0341
     else match s.fbx.baseKey with | some k => .ok (0, k) | none => .error 0x0119)
  else
    match s.load (whoOf 63) r.inDua 32 with
    | .ok (b, _) =>
      let w := ofLe b
      if s.fbx.imageKeys.contains w || s.images.any (fun i => i.wrap == w && i.dbg == s.fbx.unlocked) then .ok (2, Config.hkdf 0 w) else .error 0x011C
    | .error (.inl e) => .error e
    | .error (.inr _) => .error 0x0323

/-- KEY_TRANSFER at the head: the target's report first. -/
def State.sendKey (s : State) (r : FbReq) (p : PeerReport) : State :=
  if !(p.debugLocked && decide (p.fabric = r.arg) && svnMeets p.svn (s.lift.installed.getD {}).ownerFloor) then s.fbEnd 0x0607
  else
    match s.transferKey r with
    | .error e => s.fbEnd e
    | .ok (kind, k) =>
      let d := s.draw
      ((d.2.emit (.keyTransfer r.arg kind (Config.gcmSeal d.1 0 (leBytes k.toNat 32)))).keyOp).fbEnd 0

/-- KEY_TRANSFER (R321, R325). -/
def execKeyTransfer (report : PeerReport) (s : State) : Host.Outcome State Fault Refusal := .next (s.fbServe 8 (fun s r => s.sendKey r report))

/-- PEER_KEY_RECEIVED (R325). -/
def execPeerKeyReceived (k : PeerKey) (s : State) : Host.Outcome State Fault Refusal :=
  .next (
    if !s.isUp 0x84 then s
    else if k.kind = 0 then (s.setBaseKey (some k.key)).keyOp
    else if k.kind = 1 then (match s.installKey false k.arg k.key with | .ok (_, s') => s' | .error _ => s)
    else (s.setFbx { s.fbx with imageKeys := if s.fbx.imageKeys.contains k.arg then s.fbx.imageKeys else s.fbx.imageKeys ++ [k.arg] }).keyOp)

/-! ## Regions (R315, R316) -/

/-- The pages of a region as first and past-the-last page. -/
def Region.first (r : Region) : Nat := r.base / pageSize
def Region.past (r : Region) : Nat := r.base / pageSize + r.pages

/-- Is a page in [a, b) VALID? -/
def State.validIn (s : State) (a b : Nat) : Bool := s.mem.pmap.any (fun e => decide (a ≤ e.1) && decide (e.1 < b) && e.2.valid)

/-- The region a request names: VALID, with its BASE, owner and world. -/
def State.regionNamed (s : State) (a : RegionArgs) : Option (Nat × Region) :=
  s.fbx.regions.find? (fun e => e.2.valid && e.2.base == a.base && e.2.owner == a.owner && e.2.secure == a.secure)

/-- Does the range asked for meet a VALID region other than the one named? -/
def State.regionClash (s : State) (a : RegionArgs) (own : Option Nat) : Bool :=
  s.fbx.regions.any (fun e => e.2.valid && decide (some e.1 ≠ own) && decide (e.2.first < a.base / pageSize + a.pages) && decide (a.base / pageSize < e.2.past))

/-- REGION_SET's checks and effect. PAGES 0 removes (DEDUCED, log entry 184); an OWNER that is none is out of range
(log entry 57). -/
def State.regionSet (s : State) (a : RegionArgs) : State :=
  let own := s.regionNamed a
  if a.base % pageSize ≠ 0 || memTop < a.base + a.pages * pageSize then s.fbEnd 0x0250
  else if !(decide (a.owner < 32) || decide (a.owner = 62) || decide (a.owner = 63)) then s.fbEnd 0x0259
  else if s.regionClash a (own.map (·.1)) then s.fbEnd 0x0333
  else
    match own with
    | none =>
      if a.pages = 0 then s.fbEnd 0
      else
        match s.pickOf ((List.range 1024).filter (fun i => !(s.region i).valid)) with
        | (none, _) => s.fbEnd 0x050F
        | (some i, s1) =>
          let k := s1.drawKeys
          (k.2.setRegion i { base := a.base, pages := a.pages, owner := a.owner, valid := true, secure := a.secure, keygen := 1, dataKey := k.1.1,
                             tagKey := k.1.2 }).fbEnd 0
    | some (i, r) =>
      if s.validIn (r.first + a.pages) r.past then s.fbEnd 0x0335
      else if a.pages = 0 then (s.setRegion i {}).fbEnd 0
      else (s.setRegion i { r with pages := a.pages }).fbEnd 0

/-- REGION_SET (R316, R321). -/
def execRegionSet (r : RegionArgs) (s : State) : Host.Outcome State Fault Refusal := .next (s.fbServe 9 (fun s _ => s.regionSet r))

/-! ## Floors (R331) -/

/-- FLOOR_COMMIT at the head: 0 FB, 1 MC, 2 microcode, 3 tables. -/
def State.floorCommit (s : State) (t : Nat) : State :=
  if 3 < t then s.fbEnd 0x0259
  else if !(if s.mc.slotB then s.mc.committedB else s.mc.committedA) then s.fbEnd 0x0705
  else
    let f := s.fbx
    (s.setFbx { f with floors := (List.range 4).map (fun i => if i = t then max (f.floors.getD i 0) (f.svns.getD i 0) else f.floors.getD i 0) }).fbEnd 0

/-- FLOOR_COMMIT (R331). -/
def execFloorCommit (s : State) : Host.Outcome State Fault Refusal := .next (s.fbServe 11 (fun s r => s.floorCommit r.arg))

/-! ## The random source (R320, R321) -/

/-- FAILED, with its event and count; requests that need bits are refused at once. -/
def State.trngFail (s : State) : State :=
  ((((s.setFbx { s.fbx with trng := .failed, unlockWaits := false }).bump pgFB 0x038 1).raise pgFQ 2).refuseRandom 1024)

/-- TRNG_START (R320). -/
def execTrngStart (s : State) : Host.Outcome State Fault Refusal :=
  .next (if s.isUp 0x84 && decide (s.fbx.trng = .off) then s.setFbx { s.fbx with trng := .health, startAt := s.nowUs } else s)

/-- TRNG_TESTS_DONE (R320). -/
def execTrngTestsDone (pass : Bool) (s : State) : Host.Outcome State Fault Refusal :=
  .next (if s.fbx.trng ≠ .health then s else if pass then s.setFbx { s.fbx with trng := .condition } else s.trngFail)

/-- Every key cleared, every KEYGEN stepped, debug open (R329). -/
def State.openDebug (s : State) : State :=
  let s1 := (s.setBaseKey none).stepRegions (fun _ => true)
  s1.setFbx { s1.fbx with keys := AMap.mapAll {} (fun _ k => if k.used then { gen := keyGenStep k.gen } else k) s1.fbx.keys,
                          sessions := [], imageKeys := [], unlocked := true, unlockWaits := false }

/-- TRNG_CONDITIONED (R320): READY; an unlock that waited for its crypto-erase takes effect (R321, R329). -/
def execTrngConditioned (s : State) : Host.Outcome State Fault Refusal :=
  .next (
    if s.fbx.trng ≠ .condition then s
    else
      let d := s.draw
      let s1 := (d.2.setFbx { d.2.fbx with trng := .ready, bits := 512, readyUs := min (s.nowUs - s.fbx.startAt) 65535, attKey := some d.1 }).raise pgFQ 1
      if s1.fbx.unlockWaits then s1.openDebug else s1)

/-- TRNG_CONTINUOUS_FAIL (R320). -/
def execTrngContinuousFail (s : State) : Host.Outcome State Fault Refusal := .next (if s.fbx.trng = .ready then s.trngFail else s)

/-! ## Debug unlock (R329) -/

/-- DEBUG_UNLOCK (R329): the step of every KEYGEN needs random bits, so the unlock waits for READY and has no effect in FAILED (R321). -/
def execDebugUnlock (tokenOk : Bool) (s : State) : Host.Outcome State Fault Refusal :=
  .next (
    if tokenOk && s.isUp 0x84 && s.fbx.lockFuse && !s.fbx.unlocked && decide (s.fbx.trng ≠ .failed) then
      (if s.fbx.trng = .ready then s.openDebug else s.setFbx { s.fbx with unlockWaits := true })
    else s)

end Sys2Proof.Machine
end

