-- ==== Sys2Proof/Machine/Memory.lean ====
section
/-!
DEFINITION. Demand reads and writes of memory space and the vault window with what a tag failure does (R192 to R204, R213 to R217), migration (R197 to
R200), and the end of a zero fill (R213). MEMORY_READ and MEMORY_WRITE themselves are with the register pages, which they also reach.
-/

namespace Sys2Proof.Machine

/-! ## Tag failures (R214, R217) -/

/-- Does a key/value or trace page at a DUA cover an address? -/
def State.kvCovers (s : State) (page a : Nat) : Bool := decide (page ≤ a) && decide (a < page + s.kvPageBytes)

/-- A page table or trace list that covers an address. -/
def State.pagesCover (s : State) (pages : AMap KvPage) (trace : List Nat) (a : Nat) : Bool :=
  pages.any (fun e => !e.2.shared && s.kvCovers e.2.dua a) || trace.any (fun d => s.kvCovers d a)

/-- The inference slot whose region holds an address, among those in use. -/
def State.infAt (s : State) (a : Nat) : Option Nat :=
  (s.infs.find? (fun e => e.2.st ≠ .free && decide (Config.slotPlace 0 e.1 ≤ a) && decide (a < Config.slotPlace 0 e.1 + 8 * 2 ^ 20))).map (·.1)

/-- The waxing slot whose region holds an address, among those in use. -/
def State.wxAt (s : State) (a : Nat) : Option Nat :=
  (s.wxs.find? (fun e => e.2.used && decide (Config.slotPlace 1 e.1 ≤ a) && decide (a < Config.slotPlace 1 e.1 + 17 * 2 ^ 20))).map (·.1)

/-- The slots whose own pages hold an address: each enters FAULTED with 0x0318. -/
def State.faultSlotsAt (s : State) (a : Nat) : State :=
  (s.slots.filter (fun e => e.2.st ≠ .free && s.pagesCover e.2.pages e.2.tracePages a)).foldl
    (fun (s : State) e => s.faultSlot e.1 0x0318 (some a)) s

/-- The hold entries whose pages hold an address: each becomes FREE. -/
def State.failHoldsAt (s : State) (a : Nat) : State :=
  (s.holds.filter (fun e => e.2.st ≠ .free && s.pagesCover e.2.pages e.2.tracePages a)).foldl (fun (s : State) e => s.failHold e.1 0x0318 a) s

/-- A poisoned line in an inference slot: its sequences enter FAULTED, and the slot is never bound again. -/
def State.poisonInf (s : State) (n a : Nat) : State :=
  let s1 := s.setInf n { s.inf n with poisoned := true }
  ((s1.slots.filter (fun e => e.2.st ≠ .free && e.2.inf == some n)).foldl (fun (s : State) e => s.faultSlot e.1 0x0318 (some a)) s1).sweepPoisoned

/-- TAG_FAIL_HANDLE (R217): what a poisoned line does to what it belongs to. A waxing slot is not ready until its reload ends. -/
def State.tagFailAt (s : State) (line : Nat) : State :=
  let a := 64 * line
  if (s.page (linePage line)).owner = 62 then s.rewriteShard a
  else
    match s.infAt a with
    | some n => s.poisonInf n a
    | none =>
      match s.wxAt a with
      | some w => s.setWx w { s.wxOf w with ready := false }
      | none => (s.faultSlotsAt a).failHoldsAt a

/-- The first current, unpoisoned line of a range: the one whose MAC a mismatch concerns. -/
def State.macLine (s : State) (dua len : Nat) : Option Nat :=
  (linesOf dua len).find? (fun l => s.lineCurrent l && !(s.lineMeta l).poison)

/-- The first current, unpoisoned line that a write covers only in part: the one whose MAC a mismatch concerns (R215). -/
def State.macPart (s : State) (dua len : Nat) : Option Nat :=
  (linesOf dua len).find? (fun l => s.lineCurrent l && !(s.lineMeta l).poison && partOf dua len l)

/-- A line poisoned by a MAC mismatch: marker, count, address, event (R214, R222, R224). -/
def State.poisonLine (s : State) (line : Nat) : State :=
  let x : LineMeta := { s.lineMeta line with gen := s.keygenAt (linePage line), poison := true }
  let s1 := s.setMem { s.mem with lines := AMap.put {} s.mem.lines line x }
  ((s1.bump pgMS 0x030 1).wr64 pgMS 0x058 (64 * line)).raise pgMS 0

/-- Is the region of any page of a range being zero-filled (R213)? -/
def State.rangeFilling (s : State) (dua len : Nat) : Bool :=
  (pagesOf dua len).any (fun n => s.fillingAt n)

/-- What the requester of a poisoned line receives: TAG_FAIL, or, for a line of the base, nothing until the lift has rewritten its shard (R214, R217). -/
def State.tagReply (s : State) (line : Nat) : Reply := if (s.page (linePage line)).owner = 62 then .none else .tagFail

/-! ## Reads and writes -/

/-- The bytes a permitted reader of the vault window receives: not in the manual, free (log entry 34). -/
def State.vaultRead (s : State) (dua len : Nat) : State :=
  (s.setFreeCtr (s.freeCtr + 1)).setReply (.data ((List.range len).map (fun i => Config.abortedByte s.freeCtr (dua + i))))

/-- A read that passed its checks; `macOk` says whether the stored bits of its lines still match their MACs. -/
def State.readMem (s : State) (who : MemWho) (dua len : Nat) (macOk : Bool) : State :=
  let s1 := s.demand who dua len true
  match s1.poisonIn dua len with
  | some l => (s1.tagFailAt l).setReply (s1.tagReply l)
  | none =>
    match (if macOk then none else s1.macLine dua len) with
    | some l => ((s1.poisonLine l).tagFailAt l).setReply (s1.tagReply l)
    | none => s1.setReply (.data (s1.peek dua len))

/-- A demand read: refused, not served while its region is filled (log entry 35), or done. -/
def State.memRead (s : State) (who : MemWho) (dua len : Nat) (macOk : Bool) : State :=
  match s.memCheck who false dua len with
  | some r => s.setReply (.refused r)
  | none =>
    if memTop ≤ dua then s.vaultRead dua len
    else if s.rangeFilling dua len then s.setReply .none
    else s.readMem who dua len macOk

/-- A write that passed its checks: a partial write of a line that is poisoned, or whose MAC fails as it is read, is refused with TAG_FAIL (R215). -/
def State.writeMem (s : State) (who : MemWho) (dua : Nat) (data : List Byte) (macOk : Bool) : State :=
  let s1 := (s.demand who dua data.length false).waitChunks dua data.length
  match s1.partialPoison dua data.length with
  | some l => (s1.tagFailAt l).setReply .tagFail
  | none =>
    match (if macOk then none else s1.macPart dua data.length) with
    | some l => ((s1.poisonLine l).tagFailAt l).setReply .tagFail
    | none => (s1.storeRaw dua data).setReply .ok

/-- A demand write. -/
def State.memWrite (s : State) (who : MemWho) (dua : Nat) (data : List Byte) (macOk : Bool) : State :=
  match s.memCheck who true dua data.length with
  | some r => s.setReply (.refused r)
  | none => if s.rangeFilling dua data.length then s.setReply .none else s.writeMem who dua data macOk

/-! ## Migration (R196 to R200) -/

/-- A migration started: the target frame reserved, MIGRATING set. -/
def State.startMigration (s : State) (page tier : Nat) : State :=
  let f := s.pickFrame tier
  let s1 := f.2.setPage page { f.2.page page with migrating := true }
  s1.setMem { s1.mem with migr := AMap.ins page { tier := tier, frame := f.1 } (AMap.del s1.mem.migr page),
                          wanted := s1.mem.wanted.filter (· ≠ page) }

/-- PAGE_DEMOTE (R197): VALID, in DRAM, not PINNED, idle long enough; COH_FULL when no coherent frame is free. -/
def execPageDemote (page : Nat) (s : State) : Host.Outcome State Fault Refusal :=
  .next (
    let e := s.page page
    let limit := fld (s.rd pgMS 0x040) 7 0
    if e.valid && e.tier = 1 && !e.pinned && !e.modulePinned && !e.migrating && limit ≠ 0 && limit ≤ e.idle then
      if s.cohFree = 0 then s.raise pgMS 1 else s.startMigration page 2
    else s)

/-- PAGE_PROMOTE (R197): of a page whose promotion is called for, by a demand access, a RESUME or an entry that became READY. It waits while fewer than FREE_RESERVE DRAM frames are free. -/
def execPagePromote (page : Nat) (s : State) : Host.Outcome State Fault Refusal :=
  .next (
    let e := s.page page
    if e.valid && e.tier = 2 && !e.migrating && s.mem.wanted.contains page && decide (fld (s.rd pgMS 0x040) 27 8 ≤ s.dramFree) && decide (0 < s.dramFree) then
      s.startMigration page 1
    else s)

/-- MIGRATION_SWITCH (R196, R198 to R200): the new frame and tier in one write; translations and cached lines of the source frame go. -/
def execMigrationSwitch (page : Nat) (s : State) : Host.Outcome State Fault Refusal :=
  .next (
    match AMap.find s.mem.migr page with
    | none => s
    | some m =>
      let e := s.page page
      let s1 := s.setPage page { e with frame := m.frame, tier := m.tier, migrating := false }
      let s2 := s1.setMem { s1.mem with migr := AMap.del s1.mem.migr page, tlb := s1.mem.tlb.filter (fun t => t.page ≠ page),
                                        cache := s1.mem.cache.filter (fun c => linePage c.line ≠ page) }
      if m.tier = 2 then s2.bump pgMS 0x020 1 else s2.bump pgMS 0x028 1)

/-- The lines of a region zero-filled: its bytes are zeros, and no line holds an older generation (R213). -/
def State.zeroRegion (s : State) (r : Region) : State :=
  let inside := fun (a : Nat) => decide (r.base ≤ a) && decide (a < r.base + r.pages * pageSize)
  s.setMem { s.mem with bytes := s.mem.bytes.filter (fun e => !inside e.1), lines := s.mem.lines.filter (fun e => !inside (64 * e.1)) }

/-- REGION_ZERO_FILL_DONE (R213). -/
def execRegionZeroFillDone (region : Nat) (s : State) : Host.Outcome State Fault Refusal :=
  .next (
    let r := s.region region
    if r.filling then (s.zeroRegion r).setRegion region { r with filling := false } else s)

/-- WAX_RELOAD_DONE (R185, R217): the last saved record is back in the waxing slot, or training ends as by WAX_UNTRAIN. -/
def execWaxReloadDone (slot : Nat) (ok : Bool) (s : State) : Host.Outcome State Fault Refusal :=
  .next (
    let w := s.wxOf slot
    if !w.used || w.ready || w.rcd.desc.wax = 0 then s
    else
      match (AMap.find s.wx.store w.wax).filter (fun _ => ok) with
      | some r => s.setWx slot { w with ready := true, rcd := trainForm r }
      | none => s.setWx slot { w with untrain := some (w.untrain.getD (33, 0, 0, 0)) })

/-- The poisoned lines of a shard hold good data again. -/
def State.renewShard (s : State) (n : Nat) : State :=
  let mine := fun (l : Nat) => (s.lineMeta l).poison && (s.shardAt (64 * l)).any (fun x => x.1 == n) && decide ((s.page (linePage l)).owner = 62)
  s.setMem { s.mem with lines := s.mem.lines.filter (fun e => !mine e.1) }

/-- BASE_SHARD_REWRITTEN (R217, R219, R221): the shard that holds the DUA has been read again and `ok` says whether it passed its digest. A pass clears
the poison of its lines, and a window expert has landed again; a mismatch is read once more, the second marks the shard BAD and ends the rewrite; the
rewrite of a shard that is BAD fails (log entry 36). -/
def execBaseShardRewritten (dua : Nat) (ok : Bool) (s : State) : Host.Outcome State Fault Refusal :=
  .next (
    match s.shardAt dua with
    | none => s
    | some (n, d) =>
      let m := s.lift.base.getD {}
      let s1 := s.setLift { s.lift with rewriting := s.lift.rewriting.filter (· ≠ n) }
      if !s.lift.rewriting.contains n then s
      else if s.lift.bad.contains n then s1
      else if ok then
        let s2 := (s1.setLift { s1.lift with retried := s1.lift.retried.filter (· ≠ n) }).renewShard n
        match d.routed with
        | some (l, e) => s2.landExpert m l e d.length
        | none => s2
      else if s.lift.retried.contains n then (s1.mismatch m n n).1
      else (s.mismatch m n n).1)

end Sys2Proof.Machine
end

