-- ==== Sys2Proof/Machine/Hearths.lean ====
section
/-!
DEFINITION. The hearths: staging, fronts, vectors, the side lane, the drain, the wax cache, scratch and the fold (R12, R16, R22, R23, R38 to R57, R64 to
R98, R162, R374, R375).
-/

namespace Sys2Proof.Machine

/-! ## Geometry (R64, R76, R77) -/

/-- Pass depth, pass width and reduction positions of a band, by mode (R64). -/
def passDepth (mode : Nat) : Nat := if mode = 0 then 512 else if mode = 1 then 256 else 128
def passWidth (mode : Nat) : Nat := if mode = 2 then 128 else 256
def bandDepth (mode : Nat) : Nat := if mode = 0 then 32 else if mode = 1 then 16 else 8

/-- K-chunks and N-chunks of a pass's tile (R77). -/
def PassHdr.kchunks (h : PassHdr) : Nat := (h.k + passDepth h.mode - 1) / passDepth h.mode
def PassHdr.nchunks (h : PassHdr) : Nat := (h.n + passWidth h.mode - 1) / passWidth h.mode

/-- The first reduction position and the first column of a pass. -/
def PassHdr.k0 (h : PassHdr) : Nat := h.kch * passDepth h.mode
def PassHdr.n0 (h : PassHdr) : Nat := h.nch * passWidth h.mode

/-- Its real reduction positions and columns; the rest is padding (R77). -/
def PassHdr.depth (h : PassHdr) : Nat := min (passDepth h.mode) (h.k - h.k0)
def PassHdr.width (h : PassHdr) : Nat := min (passWidth h.mode) (h.n - h.n0)

/-- The outlier channels that lie in a pass, as reduction positions, or as columns of a transposed pass (R52, R84). -/
def PassHdr.outliers (h : PassHdr) : List Nat :=
  if h.transposed then (h.outs.filter (fun o => decide (h.n0 ≤ o) && decide (o < h.n0 + h.width))).map (· - h.n0)
  else (h.outs.filter (fun o => decide (h.k0 ≤ o) && decide (o < h.k0 + h.depth))).map (· - h.k0)

/-- The conversions by kind of input: is it a forward activation, a recompute, a rerun? -/
def convForward (k : Nat) : Bool := !(decide (k = 1) || decide (k = 3))
def convCounts (k : Nat) : Bool := decide (k < 4)
def convRerun (k : Nat) : Bool := decide (k = 2) || decide (k = 3) || decide (k = 5)

/-- Is the input of a pass converted to BF16 (R38, R55, R269)? -/
def PassHdr.bf16 (h : PassHdr) : Bool := decide (h.mode = 2)

/-! ## Staged weights (R39, R41, R42, R55, R64, R72, R74, R75) -/

/-- The code table of the two resident ones that a pass of a layer uses (R67). -/
def Hearth.table (y : Hearth) (layer : Nat) : List Nat := if y.table0 = layer && !y.codes0.isEmpty then y.codes0 else y.codes1

/-- The value of one staged weight, and its power of two: table entry and block scale, E4M3 value, or BF16 value. In a rerun a W4T weight is decoded to
BF16 (R55), its conversion uncounted (DEDUCED, log entry 150). -/
def StageData.weight (d : StageData) (table : List Nat) (c r : Nat) : FVal × Int :=
  let code := (d.codes.getD c []).getD r 0
  match d.hdr.stored with
  | 0 =>
    let sc := (d.scales.getD c []).getD r 0
    let v := if sc = 0xFF then .nan else fmtE4M3.decode (table.getD code 0)
    if d.hdr.mode = 2 then (fmtBF16.decode (fmtBF16.convert (mulVals v (fmtE4M3.decode 0x38) ((sc : Int) - 127)).v).1, 0) else (v, (sc : Int) - 127)
  | 1 => (fmtE4M3.decode code, 0)
  | _ => (fmtBF16.decode code, 0)

/-- Where a partition's weight read at an address goes: the replacement of the overlay entry in force that holds it (R162). -/
def State.overlaid (s : State) (p a : Nat) : Nat :=
  match s.wx.overlayForce.find? (fun o => o.2.valid && decide (o.2.part = p) && decide (o.2.base ≤ a) && decide (a < o.2.base + 65536 * o.2.units)) with
  | some o => o.2.repl + (a - o.2.base)
  | none => a

/-- A range cut where a 64 KiB unit ends: an overlay entry covers whole units. -/
def cutUnits (a n : Nat) : List (Nat × Nat) :=
  let n1 := min n (65536 - a % 65536)
  if n1 = n then [(a, n)] else [(a, n1), (a + n1, n - n1)]

/-- Ranges of weights read for a partition, each through its overlay; only with `fromDram` is the read a demand access of memory, through the shared cache
and the load path's prefetchers (R23, R203, R204): weights already in scratch leave memory alone. -/
def State.readRanges (s : State) (who : MemWho) (p : Nat) (fromDram : Bool) : List (Nat × Nat) → Except (Nat ⊕ Nat) (List Byte × State)
  | [] => .ok ([], s)
  | x :: xs =>
    match s.load who (s.overlaid p x.1) x.2 with
    | .error e => .error e
    | .ok (b, s1) =>
      match (if fromDram then s1 else s).readRanges who p fromDram xs with
      | .error e => .error e
      | .ok (c, s2) => .ok (b ++ c, s2)

/-- Several ranges, each as bytes of its own. -/
def State.readLines (s : State) (who : MemWho) (p : Nat) (fromDram : Bool) : List (Nat × Nat) → Except (Nat ⊕ Nat) (List (List Byte) × State)
  | [] => .ok ([], s)
  | x :: xs =>
    match s.readRanges who p fromDram (cutUnits x.1 x.2) with
    | .error e => .error e
    | .ok (b, s1) =>
      match s1.readLines who p fromDram xs with
      | .error e => .error e
      | .ok (c, s2) => .ok (b :: c, s2)

/-- The stored matrix of a tile: its reduction length, its columns, and the blocks of 32 of a column (R39); the transposing port turns it (R74). -/
def PassHdr.storedK (h : PassHdr) : Nat := if h.transposed then h.n else h.k
def PassHdr.storedN (h : PassHdr) : Nat := if h.transposed then h.k else h.n
def PassHdr.storedBlocks (h : PassHdr) : Nat := (h.storedK + 31) / 32

/-- The stored columns that a pass reads, the positions of each it reads, and their first ones. -/
def PassHdr.lines (h : PassHdr) : Nat := if h.transposed then h.depth else h.width
def PassHdr.lineLen (h : PassHdr) : Nat := if h.transposed then h.width else h.depth
def PassHdr.line0 (h : PassHdr) : Nat := if h.transposed then h.k0 else h.n0
def PassHdr.pos0 (h : PassHdr) : Nat := if h.transposed then h.n0 else h.k0

/-- The bytes of codes or values that a pass reads, column by column of the stored matrix, reduction positions ascending; W4T code blocks come first and
the scale plane after them (R39; the place of the plane and the order of unblocked values: log entry 151). -/
def PassHdr.codeRanges (h : PassHdr) : List (Nat × Nat) :=
  (List.range h.lines).map (fun i =>
    let c := h.line0 + i
    match h.stored with
    | 0 => (h.weight + 16 * (c * h.storedBlocks) + h.pos0 / 2, (h.lineLen + 1) / 2)
    | 1 => (h.weight + c * h.storedK + h.pos0, h.lineLen)
    | _ => (h.weight + 2 * (c * h.storedK + h.pos0), 2 * h.lineLen))

/-- The scale bytes that a W4T pass reads. -/
def PassHdr.scaleRanges (h : PassHdr) : List (Nat × Nat) :=
  if h.stored = 0 then
    (List.range h.lines).map (fun i =>
      (h.weight + 16 * (h.storedN * h.storedBlocks) + (h.line0 + i) * h.storedBlocks + h.pos0 / 32, (h.pos0 + h.lineLen + 31) / 32 - h.pos0 / 32))
  else []

/-- The code of position `j` in a line of stored bytes. -/
def storedCode (stored : Nat) (b : List Byte) (j : Nat) : Nat :=
  match stored with
  | 0 => let x := (b.getD (j / 2) 0).toNat; if j % 2 = 0 then x % 16 else x / 16
  | 1 => (b.getD j 0).toNat
  | _ => field b (2 * j) (2 * j + 1)

/-- The staging slot of a pass from the bytes read, in the pass's layout: every weight with its own scale byte in either layout (R64, R75). -/
def stageOf (h : PassHdr) (side : List (List BF16)) (codes scales : List (List Byte)) : StageData :=
  let at_ := fun (f : Nat → Nat → Nat) => (List.range h.width).map (fun c => (List.range h.depth).map (fun r => if h.transposed then f r c else f c r))
  { hdr := h, side := side
    codes := at_ (fun l j => storedCode h.stored (codes.getD l []) j)
    scales := at_ (fun l j => if h.stored = 0 then ((scales.getD l []).getD ((h.pos0 + j) / 32 - h.pos0 / 32) 0).toNat else 127) }

/-- The side rows of a pass, one for each of its outlier channels: over its columns, or over the reduction positions of a transposed pass (R52, R81,
R84). -/
def sideRows (m : Manifest) (h : PassHdr) : List (List BF16) :=
  h.outliers.map (fun o =>
    if h.transposed then (List.range h.depth).map (fun r => Config.sideRow m.baseId h.layer h.weight (h.n0 + o) (h.k0 + r))
    else (List.range h.width).map (fun c => Config.sideRow m.baseId h.layer h.weight (h.k0 + o) (h.n0 + c)))

/-! ## Which pass a fill is for (R55, R57, R76 to R78, R269, R313) -/

/-- Rows of a stride's passes: those of the stride, or those of the sweeping cohort while the segment runs (R22). -/
def State.passRow (s : State) (p row : Nat) : Option Rows :=
  if (s.seOf p).st = .sweep then ((s.seOf p).sweepRow row).map (fun x => x.1.rows)
  else ((rowStarts (s.seOf p).rows).find? (fun e => decide (e.1 ≤ row) && decide (row < e.1 + e.2.n))).map (·.2)

/-- Is a layer's rerun decision of the stride in which the row first ran forward 'rerun' (R57)? -/
def State.keptRerun (s : State) (p layer row : Nat) : Bool := match (s.seOf p).sweepRow row with | some (c, _) => c.reruns.contains layer | none => false

/-- The conversion of a tile's input: by the stride's state, the layer's rerun, and in the segment by the direction and the kept decision. -/
def State.convOf (s : State) (p layer row : Nat) (transposed : Bool) : Nat :=
  let e := s.seOf p
  if e.st = .sweep then
    if transposed then (if e.gradReruns.contains layer then 3 else 1) else if s.keptRerun p layer row then 5 else 4
  else if e.rerunActive && decide (e.layer = layer) then 2 else 0

/-- The columns of a sealed tile from its extent (R313, R314). -/
def sealedCols (t : SealedTile) : Nat :=
  (if t.mode = 0 then t.extent * 32 / 17 else if t.mode = 1 then t.extent else t.extent / 2) / max 1 t.depth

/-- The outlier channels of an input tensor (R51). -/
def outlierChans (l : BaseLayer) (input : Nat) : List Nat := (l.outliers.filter (fun o => o / 2 ^ 16 == input)).map (· % 2 ^ 16)

/-- The pass a fill brings, from the layer program or, in the segment, from the sealed tile list. -/
def State.passOf (s : State) (f : FillReq) : Option PassHdr :=
  let p := f.part.val
  let m := s.lift.base.getD {}
  let rows := f.groups.getD f.grp []
  let mk := fun (layer mode : Nat) (tr : Bool) (k n weight input : Nat) (site : Option Nat) (inRec outRec outBuf : Nat) =>
    let conv := s.convOf p layer (rows.headD 0) tr
    ({ part := p, fromSealed := f.fromSealed, tile := f.tile, layer := layer, stored := mode, mode := if convRerun conv then 2 else mode, transposed := tr,
       k := k, n := n, kch := f.kch, nch := f.nch, grp := f.grp, rows := rows, weight := weight, input := input, site := site, inRec := inRec,
       outRec := outRec, outBuf := outBuf, conv := conv, outs := outlierChans (m.layers.getD layer {}) input } : PassHdr)
  if f.fromSealed then
    match m.tiles[f.tile]? with
    | some t => if (s.seOf p).st = .sweep then some (mk t.layer t.mode t.transposed t.depth (sealedCols t) t.dua t.input t.site f.inRec f.outRec 0) else none
    | none => none
  else
    match (s.seOf p).program[f.tile]? with
    | some t =>
      if (s.seOf p).st = .forward then
        some (mk t.layer t.mode t.transposed (16 * t.k16) (16 * t.n16) t.weight t.input (if t.siteBit then some t.site else none) t.inScale t.outScale t.outBuf)
      else none
    | none => none

/-- Rows of capacity of a tile (R76); a sealed tile names none. -/
def State.tileCap (s : State) (f : FillReq) : Nat :=
  if f.fromSealed then 65536 else match (s.seOf f.part.val).program[f.tile]? with | some t => 16 * t.m16 | none => 0

/-- May row groups of these sizes fold the rows of a tile (R77, R78)? -/
def foldOk (ordered : Bool) (cap : Nat) (gs : List Nat) : Bool :=
  let full := gs.dropLast
  let last := gs.getLastD 0
  decide (gs ≠ []) && decide (gs.length ≤ 4096) && decide (1 ≤ last) && decide (last ≤ 512) && decide (gs.sum ≤ cap) &&
  full.all (fun r => decide (r ≤ 512) && decide ((if ordered then 512 else 16) ≤ r))

/-- The run of a pass's tile in the stride. -/
def Run.is (r : Run) (h : PassHdr) : Bool := r.fromSealed == h.fromSealed && r.tile == h.tile && r.rerun == convRerun h.conv

/-- May a fill be for this pass: chunks in range, the tile's row groups as its first fill fixed them, every row one of the stride, in the segment all
of one kept decision, and in ordered mode its unit on the hearth R359 gives it? -/
def State.fillOk (s : State) (hn : Nat) (f : FillReq) (h : PassHdr) : Bool :=
  let e := s.seOf h.part
  decide (h.kch < h.kchunks) && decide (h.nch < h.nchunks) && decide (h.grp < f.groups.length) && decide (f.groups.flatten.Nodup) &&
  foldOk e.ordered (s.tileCap f) (f.groups.map List.length) &&
  f.groups.flatten.all (fun r => (s.passRow h.part r).isSome && decide (s.convOf h.part h.layer r h.transposed = h.conv)) &&
  (match e.runs.find? (fun r => Run.is r h) with | some r => decide (r.groups = f.groups) && !r.complete | none => true) &&
  (!e.ordered || decide ((s.hearthsOf h.part)[(h.nch * f.groups.length + h.grp) % max 1 (s.hearthsOf h.part).length]? = some hn))

/-- The read key of a pass's weights: of one pass they come from DRAM once in a stride (R23). -/
def readKey (h : PassHdr) : Nat × Nat × Nat := (2 * h.tile + (if h.fromSealed then 1 else 0), h.conv, 512 * h.nch + h.kch)

/-- Bytes of the stored matrix that a pass reads, codes and scales (R97 TPORT_BYTES). -/
def PassHdr.bytes (h : PassHdr) : Nat := ((h.codeRanges ++ h.scaleRanges).map (·.2)).sum

/-- A cycle counter of a hearth, and its meter tally where the cycles are issue or bubble cycles (R97, R375). -/
def State.hearthCycles (s : State) (h off n : Nat) (tally : Bool) : State :=
  let s1 := s.bump (pgHT h) off n
  if tally then s1.setHearth h { s1.hearth h with tally := (s1.hearth h).tally + n } else s1

/-- One more issue cycle of a front on its way (R65, R69, R70). -/
def Hearth.stepFront (y : Hearth) : Hearth :=
  match y.frontBand with
  | some b => if 15 ≤ b then y.endFront else { y with frontBand := some (b + 1) }
  | none => y

/-- The slot filled; a front that waited for it has lost its cycles (R71). -/
def State.stageSlot (s : State) (n : Nat) (slot : Fin 2) (f : FillReq) (d : StageData) : State :=
  let y := s.hearth n
  let e := s.seOf d.hdr.part
  let run : Run := { fromSealed := d.hdr.fromSealed, tile := d.hdr.tile, rerun := convRerun d.hdr.conv, groups := f.groups }
  let runs := if e.runs.any (fun r => r.is d.hdr) then e.runs else e.runs ++ [run]
  let wait := y.stageWait && (y.nextSlot == decide (slot.val = 1))
  let y1 := if slot.val = 0 then { y with stage0 := some d } else { y with stage1 := some d }
  let s1 := (s.setHearth n { y1 with stageWait := y1.stageWait && !wait }).setSe d.hdr.part
    { e with runs := runs, weightReads := if e.weightReads.contains (readKey d.hdr) then e.weightReads else readKey d.hdr :: e.weightReads }
  let s2 := if wait then s1.hearthCycles n 0x030 f.waited true else s1
  if d.hdr.transposed then s2.bump (pgHT n) 0x068 d.hdr.bytes else s2

/-- STAGING_FILL_DONE (R23, R71 to R78, R81, R162, R203, R217, R314): the last byte of a pass's weights has landed in a free slot. A read that the memory
system refuses, or that meets a poisoned line, fills nothing. The transposing port serves transposed passes and counts what it read. -/
def execStagingFillDone (h : HearthId) (slot : Fin 2) (f : FillReq) (s : State) : Host.Outcome State Fault Refusal :=
  .next (
    let y0 := s.hearth h.val
    let y := if y0.nextSlot == decide (slot.val = 0) then y0.endFront else y0
    match s.passOf f with
    | none => s
    | some d =>
      let busy := if slot.val = 0 then y.stage0.isSome else y.stage1.isSome
      if busy || y.owner ≠ some d.part || f.src = 0 || decide (f.src = 3) != d.transposed || !s.fillOk h.val f d then s
      else
        let m := s.lift.base.getD {}
        let tile := match (s.seOf d.part).program[f.tile]? with | some t => m.tiles.any (fun e => t.sealed e) | none => false
        let who : MemWho := { part := some f.part, secure := f.fromSealed || tile, hearth := some h }
        let dram := !(s.seOf d.part).weightReads.contains (readKey d)
        match (s.setHearth h.val y).readLines who d.part dram d.codeRanges with
        | .error (.inr a) => s.tagFailAt (a / 64)
        | .error (.inl _) => s
        | .ok (codes, s1) =>
          match s1.readLines who d.part dram d.scaleRanges with
          | .error (.inr a) => s.tagFailAt (a / 64)
          | .error (.inl _) => s
          | .ok (scales, s2) => s2.stageSlot h.val slot f (stageOf d (sideRows m d) codes scales))

/-! ## Rows and their wax (R21, R22, R88, R89, R91, R133) -/

/-- The inference slot and version bound to a row. -/
def State.rowWax (s : State) (p row : Nat) : Option (Nat × Nat) :=
  match s.passRow p row with
  | some r => if r.wax = 0 then none else r.inf.map (fun n => (n, r.version))
  | none => none

/-- The wax-cache line a row's result needs: 256 channels of one slot, version, layer and site (R88, R91). -/
def State.lineOf (s : State) (h : PassHdr) (row : Nat) : Option WaxLine :=
  match h.site, s.rowWax h.part row with
  | some k, some (n, v) => some { slot := n, version := v, layer := h.layer, site := k, group := h.n0 / 256 }
  | _, _ => none

def WaxLine.same (a b : WaxLine) : Bool :=
  decide (a.slot = b.slot) && decide (a.version = b.version) && decide (a.layer = b.layer) && decide (a.site = b.site) && decide (a.group = b.group)

/-- A line as its fill brings it from the slot: 256 scale and 256 offset high halves (R59, R88, R91). -/
def State.landLine (s : State) (l : WaxLine) : WaxLine :=
  let m := s.lift.base.getD {}
  let halves := fun kind => (List.range 256).map (fun i => waxHiAt m (s.inf l.slot).rcd (waxIndex m l.layer l.site kind (256 * l.group + i)))
  { l with landed := true, scales := halves 0, offsets := halves 1 }

/-- The clip vector of a row at an input tensor: the one its bound wax carries, else the base's (R49, R50); empty: unclipped. -/
def State.clipOf (s : State) (p layer input row : Nat) : List BF16 :=
  let m := s.lift.base.getD {}
  let base := (m.layers.getD layer {}).clips.getD input []
  match s.rowWax p row with
  | none => base
  | some (n, _) =>
    let r := (s.inf n).rcd
    match (waxVectors r).find? (fun c => c.layer == layer && c.tensor == input) with
    | some c => (List.range (16 * c.count16)).map (fun i => waxHiAt m r (waxValues m + 256 * c.start256 + i))
    | none => base

/-! ## Conversion of a vector (R38, R46, R49, R52, R55, R57) -/

/-- Clipping of one element to [-|c|, |c|]; an infinite c does not clip (R49). -/
def clipElem (c : BF16) (v : F32) : F32 × Bool :=
  let m := fabs (bf16ToF32 c)
  if flt m (fabs v) then ((if v.getLsbD 31 then fneg m else m), true) else (v, false)

/-- One element on its way into the grate: code and counts. An outlier channel's place takes a zero and its BF16 conversion (R52). -/
structure Fed where
  code : Nat
  side : Option Nat
  cnt : RecCnt
  fp8 : Bool
  clipped : Bool

def feedElem (h : PassHdr) (scale : Nat) (clip : Option BF16) (r : Nat) (v : F32) : Fed :=
  if !h.transposed && h.outliers.contains r then
    let c := fmtBF16.convert v
    ⟨0, some c.1, { sat := c.2.sat, nan := c.2.nan, conv := 1, input := true }, false, false⟩
  else
    let cl := match (if convForward h.conv then clip else none) with | some b => clipElem b v | none => (v, false)
    let amax := if f32IsFinite cl.1 then fabs cl.1 else 0
    let c := if h.bf16 then fmtBF16.convert cl.1
      else (if convForward h.conv then fmtE4M3 else fmtE5M2).convert (applyScale cl.1 scale).v
    ⟨c.1, none, { sat := c.2.sat, nan := c.2.nan, clip := if cl.2 then 1 else 0, conv := 1, amax := amax, input := true }, !h.bf16, cl.2⟩

/-- The counts of several elements in one. -/
def RecCnt.plus (a b : RecCnt) : RecCnt :=
  { sat := a.sat + b.sat, nan := a.nan + b.nan, clip := a.clip + b.clip, conv := a.conv + b.conv,
    amax := if flt a.amax b.amax then b.amax else a.amax, input := a.input || b.input }

def RecCnt.total (l : List RecCnt) : RecCnt := l.foldl RecCnt.plus {}

/-- A vector's elements converted, in order; `clip` is by channel of the input tensor. -/
def feedVec (h : PassHdr) (scale : Nat) (clip : List BF16) (x : VecIn) : List Fed :=
  (List.range h.depth).map (fun r => feedElem h scale clip[h.k0 + r]? r (x.elems.getD r 0))

/-- The gradient elements of a transposed pass as its side lane takes them, converted to BF16 where the pass has outlier columns (R38, R84). -/
def sideFeed (h : PassHdr) (x : VecIn) : List (Nat × Cnt) :=
  if h.transposed && !h.outliers.isEmpty then (List.range h.depth).map (fun r => fmtBF16.convert (x.elems.getD r 0)) else []

/-! ## Column sums and side sums (R41, R42, R53, R65, R66, R75, R77, R81, R83, R84) -/

/-- The value an activation code stands for in a pass. -/
def actVal (h : PassHdr) (code : Nat) : FVal :=
  if h.bf16 then fmtBF16.decode code else if convForward h.conv then fmtE4M3.decode code else fmtE5M2.decode code

/-- One column's sum: in each band the products of its real positions by the band's adder tree, whose shape is fixed but not in the manual (log entry
4), then the band sums from band 0 on (R66); padding adds nothing (R77). The NaN products of a block with scale 0xFF add no count here: they count where
the NaN of the column is converted (R34; DESIGN CHOICE, log entry 152). -/
def columnSum (d : StageData) (table : List Nat) (acts : List FVal) (c : Nat) : FR :=
  let prod := fun r => let w := d.weight table c r; mulVals w.1 (acts.getD r .nan) w.2
  sumOrdered ((blocks (bandDepth d.hdr.mode) (List.range d.hdr.depth)).map (fun rs => sumFree rs.length (rs.map prod)))

/-- The column sums of a vector; a discarded outlier column of a transposed pass adds no count (R84). -/
def columnSums (d : StageData) (table : List Nat) (acts : List FVal) : List FR :=
  (List.range d.hdr.width).map (fun c => if d.hdr.transposed && d.hdr.outliers.contains c then ⟨0, {}⟩ else columnSum d table acts c)

/-- A product of two BF16 codes in the side lane (R81). -/
def sideProd (a : Nat) (b : BF16) : FR := mulVals (fmtBF16.decode a) (fmtBF16.decode b.toNat) 0

/-- A side lane's sum in list order in ordered mode and by any tree otherwise (R53). -/
def sideSum (ordered : Bool) (xs : List FR) : FR := if ordered then sumOrdered xs else sumFree xs.length xs

/-- The side sums of a row after a pass (R52, R81, R83, R84). In the normal layout each column's sum goes on from the sums so far with the products of the
pass's outlier channels; a pass without any leaves them as they are, so that a sum starts from its first product. In a transposed pass the sum of each
outlier column over the pass's positions is formed first and then added to the sums so far. -/
def sideSums (ordered : Bool) (d : StageData) (fed : List Fed) (grads : List Nat) (old : List F32) : List FR :=
  let h := d.hdr
  let onto := fun (j : Nat) (xs : List FR) => match old[j]? with | some v => ⟨v, {}⟩ :: xs | none => xs
  if h.transposed then
    (List.range h.outliers.length).map (fun j =>
      sumOrdered (onto j [sideSum ordered ((List.range h.depth).map (fun r => sideProd (grads.getD r 0) ((d.side.getD j []).getD r 0)))]))
  else
    let sides := fed.filterMap (·.side)
    if sides.isEmpty then old.map (fun v => ⟨v, {}⟩)
    else
      (List.range h.width).map (fun c =>
        sideSum ordered (onto c ((List.range sides.length).map (fun j => sideProd (sides.getD j 0) ((d.side.getD j []).getD c 0)))))

def cntOf (l : List FR) : RecCnt := { sat := (l.map (·.cnt.sat)).sum, nan := (l.map (·.cnt.nan)).sum }

/-! ## The wax cache (R91 to R95) -/

/-- Lines needed by rows of a row group in flight (R94). -/
def Hearth.needed (x : Hearth) (l : WaxLine) : Bool := x.accs.any (fun a => a.lines.any (fun m => WaxLine.same m l))

/-- Fills outstanding. -/
def Hearth.fillsOut (x : Hearth) : Nat := (x.lines.filter (fun l => !l.landed)).length

/-- The lines without the one that a new line may replace: the least recently used that no row in flight needs (R94); none when every line is needed. -/
def dropLru (need : WaxLine → Bool) (ls : List WaxLine) : Option (List WaxLine) :=
  (ls.reverse.find? (fun l => !need l && l.landed)).map (fun l => (ls.reverse.erase l).reverse)

/-- A fill issued for a line that is not in the cache, while fewer than 64 are outstanding (R92) and 1,024 lines hold it (R91). The issue of a fill counts
as a use in the order of R94 (DESIGN CHOICE, log entry 153). -/
def Hearth.fill (x : Hearth) (l : WaxLine) : Hearth :=
  if x.lines.any (fun m => WaxLine.same m l) || 64 ≤ x.fillsOut then x
  else if x.lines.length < 1024 then { x with lines := l :: x.lines }
  else match dropLru x.needed x.lines with
    | some ls => { x with lines := l :: ls }
    | none => x

/-- Fills for every missing line that a row group in flight needs, where PREFETCH was set when it began (R92). -/
def Hearth.fillNeeded (x : Hearth) : Hearth :=
  x.accs.foldl (fun x a => if a.prefetch then a.lines.foldl (fun x l => x.fill l) x else x) x

/-! ## Accumulators (R77) -/

/-- The accumulator that serves a pass's N-chunk and row group. -/
def Accum.is (a : Accum) (h : PassHdr) : Bool :=
  a.fromSealed == h.fromSealed && a.tile == h.tile && a.conv == h.conv && a.nch == h.nch && a.grp == h.grp

def Hearth.accOf (y : Hearth) (h : PassHdr) : Option Accum := y.accs.find? (fun a => a.is h)

/-- A row's sums in its accumulator, and the accumulator with them changed. -/
def Hearth.sumsOf (y : Hearth) (h : PassHdr) (row : Nat) : RowSums := match y.accOf h with | some a => AMap.get {} a.sums row | none => {}
def Hearth.setSums (y : Hearth) (h : PassHdr) (row : Nat) (r : RowSums) : Hearth :=
  { y with accs := y.accs.map (fun a => if a.is h then { a with sums := AMap.put {} a.sums row r } else a) }

/-- A row written: it leaves its accumulator, which is free again after its last row. -/
def Hearth.rowDone (y : Hearth) (h : PassHdr) (row : Nat) : Hearth :=
  let accs := y.accs.map (fun a => if a.is h then { a with rows := a.rows.filter (· ≠ row), sums := AMap.del a.sums row } else a)
  { y with accs := accs.filter (fun a => !a.rows.isEmpty) }

/-- An accumulator taken for a row group before its first pass, with the fills of R92. -/
def State.openAcc (s : State) (n : Nat) (h : PassHdr) : State :=
  let y := s.hearth n
  let a : Accum := { fromSealed := h.fromSealed, tile := h.tile, conv := h.conv, nch := h.nch, grp := h.grp, rows := h.rows,
                     lines := (h.rows.filterMap (fun r => s.lineOf h r)).dedup, prefetch := (s.rd (pgHT n) 0x050).getLsbD 0 }
  if (y.accOf h).isSome then s else s.setHearth n (Hearth.fillNeeded { y with accs := y.accs ++ [a] })

/-! ## VECTOR_ISSUE -/

/-- Is a partition's stride at its passes? -/
def State.sweeping (s : State) (p : Nat) : Bool := decide ((s.seOf p).st = .forward) || decide ((s.seOf p).st = .sweep)

/-- The SCALE a row of a pass is converted and rescaled under: of the stride, or in a recompute of the stride in which the row first ran forward (R46,
R47, R57). -/
def State.rowScale (s : State) (h : PassHdr) (row : Nat) : Nat :=
  let now := AMap.get 127 (s.seOf h.part).scales h.inRec
  if h.conv = 4 then
    match (s.seOf h.part).sweepRow row with | some (c, _) => (AMap.find c.scales h.inRec).getD now | none => now
  else now

/-- A vector's elements not yet counted in the stride: each element of a tensor converts once, however many N-chunks or tiles read it (R54, R57
example; DEDUCED, log entry 154). `kind` is the conversion, or 6 for the side lane of a transposed pass. -/
def PassHdr.convKey (h : PassHdr) (kind row i : Nat) : ConvKey := ⟨kind, h.inRec, h.layer, h.input, row, (h.k0 + i) / 128⟩

def State.freshElems (s : State) (h : PassHdr) (kind row n : Nat) : List Nat :=
  (List.range n).filter (fun i => !(s.seOf h.part).convDone.contains (h.convKey kind row i))

def State.markElems (s : State) (h : PassHdr) (kind row : Nat) (is : List Nat) : State :=
  let e := s.seOf h.part
  s.setSe h.part { e with convDone := (is.map (h.convKey kind row)).dedup ++ e.convDone }

/-- The counts of a vector into its records, the layer's sums of R54 and the gradient sums of R56; a recompute's conversions add nothing (R57). -/
def State.countVec (s : State) (h : PassHdr) (row : Nat) (fed : List Fed) (grads : List (Nat × Cnt)) (sums : List FR) : State :=
  let p := h.part
  let s0 := s.addCnt p h.outRec (cntOf sums)
  if !convCounts h.conv then s0
  else
    let i1 := s0.freshElems h h.conv row fed.length
    let i2 := s0.freshElems h 6 row grads.length
    let fs := i1.filterMap (fun i => fed[i]?)
    let side := RecCnt.total ((i2.filterMap (fun i => grads[i]?)).map (fun g => { sat := g.2.sat, nan := g.2.nan, conv := 1, input := true }))
    let s1 := (((s0.markElems h h.conv row i1).markElems h 6 row i2).addCnt p h.inRec (RecCnt.total (fs.map (·.cnt)))).addCnt p h.inRec side
    let e := s1.seOf p
    let f8 := RecCnt.total ((fs.filter (·.fp8)).map (·.cnt))
    if h.conv = 0 then s1.setSe p { e with layerSat := e.layerSat + f8.sat, layerConv := e.layerConv + f8.conv }
    else if h.conv = 1 then
      let c := AMap.get (0, 0) e.gradCnt h.layer
      s1.setSe p { e with gradCnt := AMap.put (0, 0) e.gradCnt h.layer (c.1 + f8.sat, c.2 + f8.conv) }
    else s1

/-- Elements of a recompute that a clip vector changed, kept for the gradient step (R181). -/
def State.keepClipped (s : State) (h : PassHdr) (x : VecIn) (fed : List Fed) : State :=
  if h.conv < 4 then s
  else
    let e := s.seOf h.part
    let new := (List.range fed.length).filterMap (fun r =>
      if (fed.getD r ⟨0, none, {}, false, false⟩).clipped then some (⟨x.row, h.layer, h.input, h.k0 + r, x.elems.getD r 0⟩ : SweepElem) else none)
    s.setSe h.part { e with clipped := e.clipped ++ new.filter (fun c => !e.clipped.contains c) }

/-- A vector through the grate: its sums go to the drain's input, its side sums to the row's. -/
def State.issueVec (s : State) (n : Nat) (d : StageData) (x : VecIn) : State :=
  let h := d.hdr
  let s0 := if h.bf16 then s else s.fixScale h.part h.inRec
  let y := s0.hearth n
  let fed := feedVec h (if h.bf16 then 127 else s0.rowScale h x.row) (s0.clipOf h.part h.layer h.input x.row) x
  let grads := sideFeed h x
  let sums := columnSums d (y.table h.layer) (fed.map (fun f => actVal h f.code))
  let a := y.sumsOf h x.row
  let sd := sideSums (s0.seOf h.part).ordered d fed (grads.map (·.1)) a.side
  let y1 := (y.setSums h x.row { a with side := sd.map (·.v), issued := a.issued ++ [h.kch] }).stepFront
  let y2 : Hearth := { y1 with issued := y1.issued + 1, drainIn := y1.drainIn ++ [{ row := x.row, hdr := h, cols := sums.map (·.v) }] }
  (((s0.setHearth n y2).countVec h x.row fed grads (sums ++ sd)).keepClipped h x fed).hearthCycles n 0x028 1 true

/-- VECTOR_ISSUE (R65 to R68, R71, R76, R77, R81, R82): one vector of the pass in the grate, for a row of its row group that it has not issued. A front
that waits for its slot (R71), and a stalled drain whose input queue of 32 rows is full (R93), hold issue back. -/
def execVectorIssue (h : HearthId) (x : VecIn) (s : State) : Host.Outcome State Fault Refusal :=
  .next (
    let y := s.hearth h.val
    match y.pass with
    | none => s
    | some d =>
      if y.owner = some d.hdr.part && s.sweeping d.hdr.part && d.hdr.rows.contains x.row && (s.passRow d.hdr.part x.row).isSome &&
          decide (x.elems.length = d.hdr.depth) && !y.stageWait && !(y.stalled && decide (32 ≤ y.drainIn.length)) &&
          (y.accOf d.hdr).isSome && !(y.sumsOf d.hdr x.row).issued.contains d.hdr.kch then
        s.issueVec h.val d x
      else s)

/-! ## Fronts (R67 to R72, R79, R80) -/

/-- Side-lane cycles of a row (R81). -/
def sideCycles (o : Nat) : Nat := (o + 31) / 32

/-- The bubble and side cycles of a pass that ends: the rest of its 16 issue cycles, and after a row group's last K-chunk the excess of the side
lane (R68, R82). -/
def passLoss (h : PassHdr) (rows : Nat) : Nat × Nat :=
  let grate := h.kchunks * max rows 16
  let side := if h.kch + 1 = h.kchunks then sideCycles h.outs.length * rows - grate else 0
  (16 - rows, side)

/-- Grate efficiency in units of 1/1,024, rounded down (R80). -/
def efficiency (k n kch nch depth width side : Nat) (gs : List Nat) : Nat :=
  let den := (gs.map (fun r => max (kch * max r 16) (side * r))).sum
  1024 * (k * n * kch * gs.sum) / (max 1 (kch * depth * nch * width * den))

/-- The two fold words of a tile (R79, R80, R97), in the mode its passes ran in. -/
def foldWords (h : PassHdr) (gs : List Nat) : Word × Word :=
  let side := sideCycles h.outs.length
  (BitVec.ofNat 32 ((h.kchunks - 1) + 2 ^ 9 * (h.nchunks - 1) + 2 ^ 18 * (gs.length - 1) + 2 ^ 30 * h.mode),
   BitVec.ofNat 32 (gs.headD 0 + 2 ^ 16 * efficiency h.k h.n h.kchunks h.nchunks (passDepth h.mode) (passWidth h.mode) side gs + 2 ^ 27 * side +
     (if h.transposed then 2 ^ 31 else 0)))

/-- Is a pass of the same tile staged at a hearth? -/
def Hearth.staged (y : Hearth) (h : PassHdr) : Bool :=
  let same := fun (d : StageData) => d.hdr.fromSealed == h.fromSealed && d.hdr.tile == h.tile && d.hdr.conv == h.conv
  (if y.frontBand.isSome && y.nextSlot then false else y.stage0.any same) || (if y.frontBand.isSome && !y.nextSlot then false else y.stage1.any same)

/-- The pass in the grate ends: counted with the cycles it lost, marked in its tile's run. The fold stands in FOLD_LAST when no later pass of the tile is
staged at the hearth (R79; log entry 155). -/
def State.closePass (s : State) (n : Nat) : State :=
  let y := s.hearth n
  match y.pass with
  | none => s
  | some d =>
    let h := d.hdr
    let l := passLoss h y.issued
    let s1 := ((s.bump (pgHT n) 0x020 1).hearthCycles n 0x030 (l.1 + l.2) true).hearthCycles n 0x060 l.2 false
    let e := s1.seOf h.part
    let s2 := s1.setSe h.part { e with runs := e.runs.map (fun r =>
      if Run.is r h then { r with passes := r.passes ++ [(h.nch, h.grp, h.kch)], hearths := r.hearths.filter (· ≠ n) ++ [n] } else r) }
    let z := s2.hearth n
    let f := foldWords h ((match e.runs.find? (fun r => Run.is r h) with | some r => r.groups | none => [h.rows]).map List.length)
    if z.staged h then s2.setHearth n { z with pass := none, issued := 0 }
    else s2.setHearth n { z with pass := none, issued := 0, fold0 := f.1, fold1 := f.2 }

/-- The code tables after a pass of a layer comes in: a table that already holds it is used, else the one the old pass does not use (R67). -/
def Hearth.takeTable (y : Hearth) (layer : Nat) (codes : List Nat) : Hearth :=
  if (y.table0 = layer && !y.codes0.isEmpty) || (y.table1 = layer && !y.codes1.isEmpty) then y
  else if y.pass.any (fun d => d.hdr.layer == y.table0) && !y.codes0.isEmpty then { y with table1 := layer, codes1 := codes }
  else { y with table0 := layer, codes0 := codes }

/-- Does a pass belong to the layer at hand: the layer of the forward sweep, or one of the segment's? -/
def State.layerNow (s : State) (h : PassHdr) : Bool :=
  if (s.seOf h.part).st = .sweep then (s.segmentLayers h.part).contains h.layer else decide ((s.seOf h.part).layer = h.layer)

/-- May the pass follow: an accumulator is free or its own, and its K-chunk has not run; in ordered mode the K-chunks of a row group come ascending and
its predecessor's are over (R77, R78). -/
def State.passReady (s : State) (y : Hearth) (h : PassHdr) : Bool :=
  let ord := (s.seOf h.part).ordered
  match y.accOf h with
  | some a => a.rows.all (fun r => !(AMap.get {} a.sums r).issued.contains h.kch) &&
      (!ord || a.rows.all (fun r => decide ((AMap.get {} a.sums r).issued.length = h.kch)))
  | none => decide (y.accs.length < 2) && (!ord || (decide (h.kch = 0) &&
      (match y.pass with
       | some d => decide (d.hdr.kch + 1 = d.hdr.kchunks) && (decide (d.hdr.tile ≠ h.tile) || decide (d.hdr.conv ≠ h.conv) ||
           decide (d.hdr.nch < h.nch) || (decide (d.hdr.nch = h.nch) && decide (d.hdr.grp < h.grp)))
       | none => true)))

/-- FRONT_START (R16, R67, R69 to R72, R77, R78, R92): the last vector of the old pass has issued, and a full slot becomes the pass; its slot is free once
the front has latched band 15. While the slot is not full the hearth waits. -/
def execFrontStart (h : HearthId) (s : State) : Host.Outcome State Fault Refusal :=
  .next (
    let y := (s.hearth h.val).endFront
    if !s.enabled (pgHT h.val) || y.owner.isNone then s
    else
      match (if y.nextSlot then y.stage1 else y.stage0) with
      | none => s.setHearth h.val { y with stageWait := true }
      | some d =>
        let ended := match y.pass with | some o => decide (y.issued = o.hdr.rows.length) | none => true
        if y.owner = some d.hdr.part && s.sweeping d.hdr.part && s.layerNow d.hdr && ended && s.passReady y d.hdr then
          let codes := ((s.lift.base.getD {}).layers.getD d.hdr.layer {}).codeTable
          let s0 := s.setHearth h.val (if d.hdr.stored = 0 then y.takeTable d.hdr.layer codes else y)
          let s1 := s0.closePass h.val
          let z := s1.hearth h.val
          (s1.setHearth h.val { z with pass := some d, issued := 0, stageWait := false, nextSlot := !y.nextSlot, frontBand := some 1 }).openAcc
            h.val d.hdr
        else s)

/-! ## The drain (R85 to R90) -/

/-- D2 and D3 of one column: rescaled, the side sum added or put in its place (R47, R52, R84). -/
def drainMain (h : PassHdr) (scale : Nat) (side : List F32) (c : Nat) (v : F32) : FR :=
  let d2 : FR := if h.bf16 then ⟨v, {}⟩ else unscale v scale
  if h.transposed then (if h.outliers.contains c then (match side[h.outliers.idxOf c]? with | some w => ⟨w, {}⟩ | none => d2) else d2)
  else match side[c]? with | some w => frPlus d2 ⟨w, {}⟩ | none => d2

/-- D4 and D5 of one column: wax scale and offset, each rounded (R87). -/
def drainWax (x : FR) (w : F32 × F32) : FR :=
  let m := fmul x.v w.1
  let a := fadd m.v w.2
  ⟨a.v, (x.cnt.add m.cnt).add a.cnt⟩

/-- What D6 makes of a result: its bytes, its conversion counts, and the codes and scale bytes of the key/value form. -/
structure Drained where
  bytes : List Byte
  vals : List F32
  cnt : RecCnt := {}
  codes : List Nat := []
  scales : List Nat := []

/-- D6: FP32, BF16, or the four-bit key/value coding in blocks of 64 (R38, R43, R44). -/
def drainForm (form : Nat) (kvTable : List Nat) (vals : List F32) : Drained :=
  match form with
  | 0 => { bytes := vals.flatMap (fun v => leBytes v.toNat 4), vals := vals }
  | 1 =>
    let cs := vals.map (fun v => fmtBF16.convert v)
    { bytes := cs.flatMap (fun c => leBytes c.1 2), vals := cs.map (fun c => bf16ToF32 (BitVec.ofNat 16 c.1)),
      cnt := { sat := (cs.map (·.2.sat)).sum, nan := (cs.map (·.2.nan)).sum, conv := cs.length } }
  | _ =>
    let bs := (blocks 64 vals).map (fun b => kvEncode kvTable b)
    let codes := bs.flatMap (·.2.1)
    { bytes := (List.range ((codes.length + 1) / 2)).map (fun i => BitVec.ofNat 8 (codes.getD (2 * i) 0 + 16 * codes.getD (2 * i + 1) 0)) ++
        bs.map (fun b => BitVec.ofNat 8 b.1)
      vals := bs.flatMap (fun b => b.2.1.map (fun i => (mulVals (fmtE4M3.decode (kvTable.getD i 0)) (fmtE4M3.decode 0x38) ((b.1 : Int) - 127)).v))
      cnt := { sat := (bs.map (·.2.2.sat)).sum, nan := (bs.map (·.2.2.nan)).sum, conv := (bs.map (·.2.2.conv)).sum }
      codes := codes, scales := bs.map (·.1) }

/-- Bytes of a hearth's scratch (R12, R18). -/
def scratchBytes : Nat := 16 * 2 ^ 20

/-- The newest entries of a scratch that its 16 MiB hold. -/
def fitScratch : Nat → List ScratchEnt → List ScratchEnt
  | _, [] => []
  | room, e :: es => if e.data.length ≤ room then e :: fitScratch (room - e.data.length) es else []

/-- A result written to scratch; results beyond its 16 MiB take the place of the oldest (DESIGN CHOICE, log entry 156). -/
def Hearth.putScratch (y : Hearth) (e : ScratchEnt) : Hearth :=
  let rest := y.scratch.filter (fun x => !(x.layer == e.layer && x.buf == e.buf && x.row == e.row && x.col == e.col))
  { y with scratch := fitScratch scratchBytes (e :: rest) }

/-- D6's write (R85): scratch, the vector unit, or DRAM for the hearth's partition. -/
def State.putResult (s : State) (n : Nat) (q : PendSum) (dst : DrainDst) (r : Drained) : State :=
  let y := s.hearth n
  match dst with
  | .scratch => s.setHearth n (y.putScratch { layer := q.hdr.layer, buf := q.hdr.outBuf, row := q.row, col := q.hdr.n0, data := r.bytes })
  | .vector => s.setHearth n { y with vregs := r.vals }
  | .dram dua => s.storeTry { whoOf q.hdr.part with hearth := if h : n < 64 then some ⟨n, h⟩ else none } dua r.bytes

/-- The lookup of a row's line at D1 (R85, R93, R94): found and landed it moves to the front; else the drain stalls and the miss is counted. -/
def State.drainLookup (s : State) (n : Nat) (l : WaxLine) : State × Option WaxLine :=
  let y := s.hearth n
  match y.lines.find? (fun m => WaxLine.same m l && m.landed) with
  | some m => (s.setHearth n { y with lines := m :: y.lines.erase m }, some m)
  | none =>
    let s1 := if y.stalled then s else s.bump (pgHT n) 0x058 1
    (s1.setHearth n { (s1.hearth n).fill l with stalled := true }, none)

/-- What a recompute keeps of a site's result for the gradient step: x after D3 (R181). -/
def State.keepSite (s : State) (q : PendSum) (xs : List F32) : State :=
  let h := q.hdr
  let e := s.seOf h.part
  match h.site with
  | some k =>
    if h.conv < 4 then s
    else s.setSe h.part { e with siteX := (List.range xs.length).map (fun c => ⟨q.row, h.layer, k, h.n0 + c, xs.getD c 0⟩) ++ e.siteX }
  | none => s

/-- An element that R49 clipped passes no gradient on to the value it was clipped from (R181). -/
def State.cutClipped (s : State) (q : PendSum) (c : Nat) (x : FR) : FR :=
  let h := q.hdr
  if !convForward h.conv && (sweepVal (s.seOf h.part).clipped q.row h.layer h.input (h.n0 + c)).isSome then ⟨0, x.cnt⟩ else x

/-- The sum so far of a result that several passes make, taken out of its place (R86). -/
def State.takeCombine (s : State) (q : PendSum) : List F32 × State :=
  let e := s.seOf q.hdr.part
  let is := fun (c : Combine) => c.layer == q.hdr.layer && c.buf == q.hdr.outBuf && c.row == q.row && c.col == q.hdr.n0
  (match e.combine.find? is with | some c => c.vals | none => [], s.setSe q.hdr.part { e with combine := e.combine.filter (fun c => !is c) })

/-- What the key/value form leaves for the row's entry (R43, R44). -/
def State.keepKv (s : State) (q : PendSum) (r : Drained) : State :=
  if r.codes.isEmpty || q.hdr.conv ≠ 0 && q.hdr.conv ≠ 2 then s
  else
    let e := s.seOf q.hdr.part
    s.setSe q.hdr.part { e with kvParts := { layer := q.hdr.layer, row := q.row, at_ := q.hdr.n0, codes := r.codes, scales := r.scales } :: e.kvParts
                                kvRec := AMap.put 0 e.kvRec q.hdr.layer q.hdr.outRec }

/-- A row's result through D2 to D6 (R85 to R87): with `more` it is a term of a sum of several passes, which waits for the rest; else the whole sum takes
the wax once and is written. The conversions of a recompute add no count (R57). -/
def State.drainOut (s : State) (n : Nat) (q : PendSum) (form : Nat) (more : Bool) (dst : DrainDst) (line : Option WaxLine) (a : RowSums) (d1 : RecCnt) :
    State :=
  let h := q.hdr
  let scale := s.rowScale h q.row
  let r0 := s.takeCombine q
  let main := (List.range a.cols.length).map (fun c =>
    let x := s.cutClipped q c (drainMain h scale a.side c (a.cols.getD c 0))
    match r0.1[c]? with | some v => frPlus ⟨v, {}⟩ x | none => x)
  let y := r0.2.hearth n
  let s1 := r0.2.setHearth n { (y.rowDone h q.row) with drainIn := y.drainIn.drop 1, stalled := false }
  if more then
    let e := s1.seOf h.part
    (s1.setSe h.part { e with combine := { layer := h.layer, buf := h.outBuf, row := q.row, col := h.n0, vals := main.map (·.v) } :: e.combine }).addCnt
      h.part h.outRec (RecCnt.plus d1 (cntOf main))
  else
    let rs := (List.range main.length).map (fun c =>
      match line with
      | some l => drainWax (main.getD c ⟨0, {}⟩) (bf16ToF32 (l.scales.getD ((h.n0 + c) % 256) 0), bf16ToF32 (l.offsets.getD ((h.n0 + c) % 256) 0))
      | none => main.getD c ⟨0, {}⟩)
    let f := drainForm form (((s.lift.base.getD {}).layers.getD h.layer {}).kvTable) (rs.map (·.v))
    ((((s1.keepSite q (main.map (·.v))).keepKv q f).putResult n q dst f).addCnt h.part h.outRec
      (RecCnt.plus (RecCnt.plus d1 (cntOf rs)) (if convCounts h.conv then f.cnt else {})))

/-- The oldest row's sums through the drain: added to its accumulator, and after the last K-chunk through to its result (R77, R78, R85, R86). -/
def State.drainRow (s : State) (n : Nat) (q : PendSum) (form : Nat) (more : Bool) (dst : DrainDst) : State :=
  let h := q.hdr
  let y := s.hearth n
  let a := y.sumsOf h q.row
  let added := (List.range q.cols.length).map (fun c =>
    match a.cols[c]? with | some v => fadd v (q.cols.getD c 0) | none => (⟨q.cols.getD c 0, {}⟩ : FR))
  let d1 := cntOf added
  let b : RowSums := { a with cols := added.map (·.v), summed := a.summed ++ [h.kch] }
  if b.summed.length < h.kchunks then
    (s.setHearth n { (y.setSums h q.row b) with drainIn := y.drainIn.drop 1 }).addCnt h.part h.outRec d1
  else
    match (if more then none else s.lineOf h q.row) with
    | none => s.drainOut n q form more dst none b d1
    | some l =>
      let r := s.drainLookup n l
      match r.2 with
      | some m => r.1.drainOut n q form more dst (some m) b d1
      | none => r.1

/-- DRAIN_ROW (R22, R43, R44, R47, R52, R77, R83 to R90, R93): the rows leave in their issue order. In ordered mode K-chunks combine in ascending order
(R78). `form` is what the result is written as, `dst` where; `more` says that further passes add to it. -/
def execDrainRow (h : HearthId) (row : Nat) (form : Fin 3) (s : State) (more : Bool := false) (dst : DrainDst := .scratch) :
    Host.Outcome State Fault Refusal :=
  .next (
    let y := s.hearth h.val
    match y.drainIn with
    | [] => s
    | q :: _ =>
      let ord := (s.seOf q.hdr.part).ordered
      if q.row ≠ row || y.owner ≠ some q.hdr.part || (ord && decide ((y.sumsOf q.hdr row).summed.length ≠ q.hdr.kch)) then s
      else s.drainRow h.val q form.val more dst)

/-- WAX_LINE_LANDED (R91 to R94): a fill lands with its halves; a drain that waited on it goes on, and the cycles it lost, which the manual does not give,
are counted (free: log entry 39). -/
def execWaxLineLanded (h : HearthId) (index : Nat) (s : State) : Host.Outcome State Fault Refusal :=
  .next (
    let y := s.hearth h.val
    match y.lines[index]? with
    | none => s
    | some l =>
      if l.landed then s
      else
        let y1 := Hearth.fillNeeded { y with lines := y.lines.set index (s.landLine l) }
        let waits := y.stalled && (match y.drainIn.head? with
          | some q => (match s.lineOf q.hdr q.row with | some w => WaxLine.same w l | none => false)
          | none => false)
        if waits then
          let r := (s.setHearth h.val { y1 with stalled := false }).pick 320
          r.2.bump (pgHT h.val) 0x038 (r.1 + 1)
        else s.setHearth h.val y1)

/-! ## TILE_COMPLETE (R76 to R80) -/

/-- The passes of a tile's fold: every N-chunk, row group and K-chunk. -/
def allPasses (h : PassHdr) (groups : Nat) : List (Nat × Nat × Nat) :=
  (List.range h.nchunks).flatMap (fun j => (List.range groups).flatMap (fun g => (List.range h.kchunks).map (fun k => (j, g, k))))

/-- The TILE record (R271). -/
def State.tileRec (s : State) (p tile hearth : Nat) (f : Word × Word) : CRec :=
  { kind := 3, status := 0, queue := 0x80, part := p, elapsed := s.nowUs - (s.seOf p).start,
    result := leBytes f.1.toNat 4 ++ leBytes f.2.toNat 4 ++ leBytes tile 2 ++ leBytes (s.logicalOf hearth) 2 ++ leBytes (s.seOf p).num 4 }

/-- The last passes of a tile closed: those in the grates that have issued every row. -/
def State.closeTile (s : State) (p : Nat) (t : TileRun) : State :=
  (s.hearthsOf p).foldl (fun (s : State) h =>
    match (s.hearth h).pass with
    | some d => if d.hdr.fromSealed == t.fromSealed && d.hdr.tile == t.tile && decide ((s.hearth h).issued = d.hdr.rows.length) then s.closePass h else s
    | none => s) s

/-- TILE_COMPLETE (R77 to R80, R271): every pass of the tile has run. The fold stands in FOLD_LAST of every hearth that ran one; a TILE record if REPORT
is set names the hearth of the last. -/
def execTileComplete (t : TileRun) (s : State) : Host.Outcome State Fault Refusal :=
  .next (
    let p := t.part.val
    let s1 := s.closeTile p t
    let e := s1.seOf p
    let req : FillReq := { part := t.part, fromSealed := t.fromSealed, tile := t.tile, kch := 0, nch := 0, grp := 0, groups := [], inRec := 0, outRec := 0,
                           src := 2, waited := 0 }
    match e.runs.find? (fun r => r.fromSealed == t.fromSealed && r.tile == t.tile && !r.complete) with
    | none => s
    | some r =>
      match s1.passOf { req with groups := r.groups } with
      | none => s
      | some h =>
        if !(r.is h && (allPasses h r.groups.length).all (fun x => r.passes.contains x)) then s
        else
          let f := foldWords h (r.groups.map List.length)
          let s2 := s1.setSe p { e with runs := e.runs.map (fun x => if x.is h then { x with complete := true } else x) }
          let s3 := r.hearths.foldl (fun (s : State) n => if (s.hearth n).owner = some p then s.setHearth n { s.hearth n with fold0 := f.1, fold1 := f.2 } else s) s2
          let report := !t.fromSealed && (match e.program[t.tile]? with | some d => d.report | none => false)
          if report then s3.complete p (s3.tileRec p t.tile (r.hearths.getLastD 0) f) else s3)

end Sys2Proof.Machine
end

