-- ==== Sys2Proof/Machine/Partitions.lean ====
section
/-!
DEFINITION. Partitions and virtual instances (R289 to R309): CTRL words, resizing, freezing, images, ash-out, mapping and mailboxes.
-/

namespace Sys2Proof.Machine

/-! ## Ash-out (R294, R304, R305, R397) -/

/-- Ash-out begins: it wins over every other request (R294). A partition already reset and not yet released is cleared at once. -/
def State.beginAsh (s : State) (p : Nat) : State :=
  let x := s.pt p
  let s1 := s.setPt p { x with st := .ashing, resize := none, freezeLeft := none, map := none, ashFenced := false }
  let s2 := s1.setHdr (pgPT p) { s1.hdr (pgPT p) with freeze := false, apply := [] }
  if s2.resets.any (fun r => r.dom == 0x48 + p && r.phase == 2) then
    let t := s2.ashState p
    t.setPt p { t.pt p with ashFenced := true, ashAt := t.nowUs }
  else s2.requestReset (0x48 + p) 0

/-- An ash-out requested by CTRL.ASHOUT or by clearing ENABLE; a SAVE or RESTORE in progress ends ABORTED. -/
def State.startAshout (s : State) (p : Nat) : State :=
  let x := s.pt p
  if x.st = .disabled || x.st = .ashing then s
  else
    let s1 := if x.st = .saving || x.st = .restoring then s.wr (pgPT p) 0x08C 3 else s
    s1.beginAsh p

/-- Every page of a partition not VALID, its frames free, its translations gone. -/
def State.dropPages (s : State) (p : Nat) : State :=
  let gone := (s.mem.pmap.filter (fun e => e.2.owner == p && e.2.valid)).map (·.1)
  s.setMem { s.mem with pmap := s.mem.pmap.filter (fun e => !(e.2.owner == p && e.2.valid)), migr := s.mem.migr.filter (fun e => !gone.contains e.1),
                        tlb := s.mem.tlb.filter (fun t => !gone.contains t.page) }

/-- The optional zero fill: every owned frame zero-written under the new generation (R304). -/
def State.zeroFrames (s : State) (p : Nat) : State :=
  ((s.mem.pmap.filter (fun e => e.2.owner == p && e.2.valid)).map (·.1)).foldl (fun (s : State) n =>
    s.setMem { s.mem with bytes := AMap.delRange s.mem.bytes (n * pageSize) pageSize, lines := AMap.delRange s.mem.lines (n * 32768) 32768 }) s

/-- The crypto-erase: the key generation of every region of the partition steps (R213, R304). -/
def State.cryptoErase (s : State) (p : Nat) : State :=
  s.stepRegions (fun r => decide (r.owner = p))

/-- ASHOUT_DONE (R304, R305, R321): no crypto-erase completes before the random source is READY. -/
def execAshoutDone (p : PartId) (s : State) : Host.Outcome State Fault Refusal :=
  .next (
    let x := s.pt p.val
    if x.st ≠ .ashing || !x.ashFenced || s.fbx.trng ≠ .ready then s
    else
      let s0 := s.cryptoErase p.val
      let s1 := (if (s.rd (pgPT p.val) 0x07C).getLsbD 0 then s0.zeroFrames p.val else s0).dropPages p.val
      let s2 := (s1.hearthsOf p.val).foldl (fun (s : State) h => s.setHearth h { s.hearth h with owner := none }) s1
      let s3 := s2.clearPlaces (fun e => e.valid && decide (e.owner = p.val))
      let s4 := s3.setPt p.val { shrinking := x.shrinking }
      let pg := pgPT p.val
      let s5 := s4.setHdr pg { s4.hdr pg with enabled := false, enableBit := false, freeze := false, stopping := false }
      let s6 := (s5.wr pg 0x094 (BitVec.ofNat 32 (min 65535 (s.nowUs - x.ashAt)))).bump pg 0x030 1
      (s6.releaseDomain (0x48 + p.val)).raise pg 4)

/-! ## Freezing (R294, R297, R298) -/

/-- FREEZE set on an ENABLED partition; one that stands still may freeze at once. -/
def State.setFreeze (s : State) (p : Nat) : State :=
  if (s.pt p).st = .enabled then
    let s1 := (s.setPt p { s.pt p with st := .freezing, freezeAt := s.nowUs, freezeLeft := none }).setHdr (pgPT p) { s.hdr (pgPT p) with freeze := true }
    (s1.setSe p { s1.seOf p with freezeLate := decide ((s1.seOf p).st = .boundary) }).settleIdle p
  else s

/-- The fetches of a partition's park entries start again where their waxes are not resident (R302, R349). -/
def State.reopenFetches (s : State) (p : Nat) : State :=
  let s0 := s.setParks (s.parks.filter (fun k => !(k.part == p && k.fetch.isNone && k.d.wax ≠ 0 && (s.newestSlot p k.d.wax).isNone)))
  let again := s.parks.filter (fun k => k.part == p && k.fetch.isNone && k.d.wax ≠ 0 && (s.newestSlot p k.d.wax).isNone)
  let ids := again.foldl (fun (a : State × List Park) k =>
    let r := a.1.parkFetch p k.d.wax
    (r.2, a.2 ++ [{ k with fetch := r.1 }])) (s0, [])
  ids.1.setParks (s.parks.map (fun k => match again.idxOf? k with | some i => (ids.2.getD i k) | none => k))

/-- A thawed partition: budgets go on with the time they had left (R297). FREEZE cleared in another state changes nothing (log entry 51). -/
def State.clearFreeze (s : State) (p : Nat) : State :=
  if (s.pt p).st = .frozen then
    let s1 := (s.setPt p { s.pt p with st := .enabled }).setHdr (pgPT p) { s.hdr (pgPT p) with freeze := false }
    ((s1.startBudgets p).reopenFetches p)
  else s

/-- FREEZE_BUDGET_EXPIRY (R294, R298): later than the millisecond in which it expires, and no boundary has taken the freeze. -/
def execFreezeBudgetExpiry (p : PartId) (s : State) : Host.Outcome State Fault Refusal :=
  .next (
    let x := s.pt p.val
    let due := x.freezeAt + (s.frc (pgPT p.val) 0x090).toNat * 1000
    if x.st = .freezing && x.freezeLeft.isNone && decide (due / 1000 < s.nowUs / 1000) then
      let s1 := s.setPt p.val { x with st := .enabled }
      (s1.setHdr (pgPT p.val) { s1.hdr (pgPT p.val) with freeze := false }).raise (pgPT p.val) 2
    else s)

/-! ## CTRL words (R294, R410 to R413) -/

/-- The word CTRL reads. -/
def PageHdr.ctrl (h : PageHdr) (world : Bool) : Word :=
  BitVec.ofNat 32 ((if h.enableBit then 1 else 0) + (if h.freeze then 2 else 0) + (if world then 2 ^ 31 else 0))

/-- A 1 written to ENABLE: checked now, or held until the fence lifts (R411, R413). -/
def State.writeEnable (s : State) (page : Nat) : State :=
  if (s.hdr page).fenced then s.setHdr page { s.hdr page with fenceEnable := true } else s.startCheck page

/-- A 0 written to ENABLE of a page other than PT: no new work (R413). -/
def State.writeDisable (s : State) (page : Nat) : State :=
  let h := s.hdr page
  s.setHdr page { h with enableBit := false, fenceEnable := false, stopping := h.enabled }

/-- A CTRL word of a PT page. A restoring or ashing partition cannot be enabled: 0x0704. -/
def State.ptCtrl (s : State) (p : Nat) (v : Word) : State :=
  let x := s.pt p
  let pg := pgPT p
  if v.getLsbD 2 && x.st ≠ .disabled then s.startAshout p
  else if !v.getLsbD 0 then (if x.st = .disabled then s.setHdr pg { s.hdr pg with enableBit := false } else s.startAshout p)
  else if x.st = .restoring || x.st = .ashing then s.refuse pg 0x0704
  else
    let s1 := s.writeEnable pg
    if v.getLsbD 1 then s1.setFreeze p else s1.clearFreeze p

/-- A CTRL word in force. -/
def State.applyCtrl (s : State) (page : Nat) (v : Word) : State :=
  match kindOf page with
  | none => s
  | some (.pt, p) => s.ptCtrl p v
  | some _ => if v.getLsbD 0 then s.writeEnable page else s.writeDisable page

/-- A write of CTRL; while a check runs it is held (R413). -/
def State.writeCtrl (s : State) (page : Nat) (v : Word) : State :=
  let h := s.hdr page
  if h.checking.isSome then s.setHdr page { h with heldCtrl := h.heldCtrl ++ [v] } else s.applyCtrl page v

/-- A CTRL write of ENABLE, FREEZE and ASHOUT by an origin. -/
def State.ctrlBy (s : State) (o : Origin) (page : Nat) (f : PageHdr → Word) : State :=
  s.withWrite o (page * 0x1000 + 8) (fun s _ => s.writeCtrl page (f (s.hdr page)))

/-- CTRL bits as they stand, with some set and some cleared. -/
def ctrlWord (h : PageHdr) (set clear : Word) : Word := ((h.ctrl false) &&& ~~~clear) ||| set

/-- PT_FREEZE_SET (R294, R297, R411). -/
def execPtFreezeSet (o : Origin) (p : PartId) (s : State) : Host.Outcome State Fault Refusal := .next (s.ctrlBy o (pgPT p.val) (fun h => ctrlWord h 3 0))

/-- PT_FREEZE_CLEAR (R294, R297, R411). -/
def execPtFreezeClear (o : Origin) (p : PartId) (s : State) : Host.Outcome State Fault Refusal := .next (s.ctrlBy o (pgPT p.val) (fun h => ctrlWord h 1 2))

/-- PT_ASHOUT (R294, R304). -/
def execPtAshout (o : Origin) (p : PartId) (s : State) : Host.Outcome State Fault Refusal := .next (s.ctrlBy o (pgPT p.val) (fun h => ctrlWord h 4 0))

/-! ## Resizing (R293, R295, R296) -/

/-- A GO past its gate. -/
def State.resizeGo (s : State) (p : Nat) : State :=
  let pg := pgPT p
  let a := s.ptAsked p (fun off => s.rd pg off)
  match (match s.ptCheck p a (fld (s.rd pg 0x070) 6 0) with | some r => some r | none => s.ptResizeCheck p a) with
  | some r => s.refuse pg r
  | none =>
    let s1 := (s.setPt p { s.pt p with resize := some a }).setSe p { s.seOf p with resizeLate := decide ((s.seOf p).st = .boundary) }
    (s1.setHdr pg { s1.hdr pg with refused := false, reason := 0, apply := s1.snapOf pg }).settleIdle p

/-- PT_RESIZE_GO (R293, R295). -/
def execPtResizeGo (o : Origin) (p : PartId) (s : State) : Host.Outcome State Fault Refusal :=
  .next (s.withWrite o (pgPT p.val * 0x1000 + 0x078) (fun s _ => s.resizeGo p.val))

/-- HEARTH_TRANSIT_DONE (R295, R296): the hearth joins the free pool; with its last one the donor's RESIZED event is set. -/
def execHearthTransitDone (h : HearthId) (s : State) : Host.Outcome State Fault Refusal :=
  .next (
    match (s.hearth h.val).transit with
    | none => s
    | some p =>
      let s1 := s.setHearth h.val { s.hearth h.val with transit := none }
      let x := s1.pt p
      let rest := x.shrinking.filter (· ≠ h.val)
      let s2 := s1.setPt p { x with shrinking := rest }
      let s3 := if x.shrinking.contains h.val && rest.isEmpty then s2.raise (pgPT p) 0 else s2
      (List.range 32).foldl (fun (s : State) q => if (s.pt q).cur.hearths.contains (s.logicalOf h.val) then s.settleIdle q else s) s3)

/-! ## Images (R299 to R303) -/

/-- The pages whose registers an image carries, in the model's order. -/
def imagePages (p : Nat) : List Nat := [pgPT p, pgSE p, pgQP p, pgMB p]

/-- The register words of a partition, by place in its pages. -/
def State.imageRegs (s : State) (p : Nat) : AMap Word :=
  (List.range 4).flatMap (fun i =>
    let pg := (imagePages p).getD i 0
    (s.regs.filter (fun e => e.1 / 0x400 == pg)).map (fun e => (i * 0x400 + e.1 % 0x400, e.2)))

/-- The image of a partition as it stands. -/
def State.takeImage (s : State) (p : Nat) : Image :=
  let m := s.lift.base.getD {}
  let pages := s.mem.pmap.filter (fun e => e.2.valid && e.2.owner == p)
  { part := p, fwVersion := (if s.mc.slotB then s.mc.imgB else s.mc.imgA).version, base := m.baseId, siteMap := m.siteMap, pages := pages,
    bytes := s.mem.bytes.filter (fun e => pages.any (fun g => g.1 == e.1 / pageSize) && s.byteAt e.1 != 0), regs := s.imageRegs p,
    hdrs := (List.range 4).map (fun i => (i, s.hdr ((imagePages p).getD i 0))), se := s.seOf p,
    queues := (s.queues.filter (fun e => e.1 / 40 == p)).map (fun e => (e.1 % 40, e.2)),
    slots := s.slots.filter (fun e => e.2.owner == p && e.2.st != .free),
    holds := s.holds.filter (fun e => e.2.owner == p && (e.2.st != .free || e.2.reserved)),
    infs := s.infs.filter (fun e => e.2.owner == p && e.2.st != .free),
    wxs := s.wxs.filter (fun e => e.2.owner == p && e.2.used),
    parks := s.parks.filter (fun k => k.part == p), overlays := s.wx.overlay.filter (fun o => o.2.part == p) }

/-- Bytes of an image: header, encrypted chunks of 1 MiB, and a digest of each in the manifest (R299). -/
def imageBytes (state pages : Nat) : Nat :=
  let body := state + pages * pageSize
  256 + body + 32 * ((body + 2 ^ 20 - 1) / 2 ^ 20)

/-- The 256-byte header. -/
def imageHeader (i : Image) : List Byte :=
  padTo 256 (leBytes i.format 2 ++ leBytes 0 2 ++ leBytes i.fwVersion 4 ++ leBytes i.base.toNat 32 ++ leBytes i.siteMap 4 ++ leBytes i.pages.length 4 ++
    leBytes i.slots.length 2 ++ leBytes (i.infs.filter (fun e => e.2.st != .free)).length 2 ++ leBytes i.wxs.length 2 ++
    leBytes (i.holds.filter (fun e => e.2.st != .free)).length 2 ++ leBytes i.se.num 8 ++ leBytes i.manifest.toNat 32 ++ leBytes i.wrap 32)

def State.imageDua (s : State) (p : Nat) : Nat := s.rd64 (pgPT p) 0x080

/-- The VALID placement entry a region of `len` bytes lies in, if one does (R299, R396). -/
def State.placeAround (s : State) (dua len : Nat) : Option Place :=
  (s.host.place.find? (fun e => e.2.valid && decide (e.2.base ≤ dua) && decide (dua + len ≤ e.2.base + e.2.len))).map (·.2)

/-- The bytes the image of a frozen partition will take. -/
def State.saveBytes (s : State) (p : Nat) : Nat := imageBytes (Config.stateBlockBytes p) (s.framesOf p)

/-- A SAVE past its gate (R299, R308, R321, R401). -/
def State.saveGo (s : State) (p : Nat) : State :=
  let pg := pgPT p
  let dua := s.imageDua p
  if (s.pt p).st ≠ .frozen then s.refuse pg 0x0704
  else if dua % 64 ≠ 0 then s.refuse pg 0x023B
  else if s.fbx.trng = .failed then s.refuse pg 0x011B
  else
    match s.placeAround dua (s.saveBytes p) with
    | none => s.refuse pg 0x0512
    | some e => if e.expt then s.setPt p { s.pt p with st := .saving, imgAt := s.nowUs } else s.refuse pg 0x0342

/-- IMAGE_SAVE (R299, R308). -/
def execImageSave (o : Origin) (p : PartId) (s : State) : Host.Outcome State Fault Refusal :=
  .next (s.withWrite o (pgPT p.val * 0x1000 + 0x088) (fun s _ => s.saveGo p.val))

/-- The end of a SAVE or RESTORE in IMAGE_STATUS, with its event. -/
def State.imageEnd (s : State) (p result reason : Nat) : State :=
  (s.wr (pgPT p) 0x08C (BitVec.ofNat 32 (result + reason * 65536))).raise (pgPT p) 3

/-- The owner a region's accesses act for. -/
def placeWho (e : Option Place) : MemWho := whoOf (match e with | some x => x.owner | none => 63)

/-- The image of a partition at this moment; its manifest and wrapped key are random (R305). -/
def State.newImage (s : State) (p : Nat) : Image :=
  { s.takeImage p with manifest := Config.randomBits s.freeCtr, wrap := (Config.randomBits (s.freeCtr + 1)).toNat, dbg := s.fbx.unlocked }

/-- Its bytes: the header and the encrypted body. -/
def State.newImageBytes (s : State) (p : Nat) : List Byte :=
  imageHeader (s.newImage p) ++ (List.range (s.saveBytes p - 256)).map (fun j => Config.imageByte s.freeCtr j)

/-- The image written to its region as bytes. -/
def State.storeImage (s : State) (p : Nat) (bytes : List Byte) : Except Nat State :=
  match s.store (placeWho (s.placeAround (s.imageDua p) (s.saveBytes p))) (s.imageDua p) bytes with
  | .ok s1 => .ok (((s1.setFreeCtr (s.freeCtr + 2)).setImages (s.newImage p :: s1.images)).bump (pgPT p) 0x038 (s.saveBytes p))
  | .error (.inl r) => .error r
  | .error (.inr _) => .error 0x0323

/-- The image written to its region; its ciphertext bytes are free. -/
def State.writeImage (s : State) (p : Nat) : Except Nat State := s.storeImage p (s.newImageBytes p)

/-- IMAGE_SAVE_DONE (R294, R299, R300, R321): the partition stays FROZEN. A write that does not complete is a failure with reason 0x0323 (log
entry 52). -/
def execImageSaveDone (p : PartId) (ok : Bool) (s : State) : Host.Outcome State Fault Refusal :=
  .next (
    let x := s.pt p.val
    let back := s.setPt p.val { x with st := .frozen }
    if x.st ≠ .saving then s
    else if s.fbx.trng = .failed then back.imageEnd p.val 2 0x011B
    else if s.fbx.trng ≠ .ready then (if x.imgAt + 100000 ≤ s.nowUs then back.imageEnd p.val 2 0x011B else s)
    else if !ok then back.imageEnd p.val 2 0x0323
    else
      match back.writeImage p.val with
      | .ok s1 => s1.imageEnd p.val 1 0
      | .error r => back.imageEnd p.val 2 r)

/-- An image whose manifest digest its header names: one this module wrote, or one from elsewhere, whose content is the image's own (free: log entry
49). -/
opaque imageContent : List Byte → Option Image

def State.imageAt (s : State) (p : Nat) : Option Image :=
  let dua := s.imageDua p
  match s.load (placeWho (s.placeAround dua 256)) dua 256 with
  | .ok (b, _) =>
    match s.images.find? (fun i => imageHeader i == b) with
    | some i => some i
    | none => (imageContent b).map (fun i =>
        { i with format := field b 0 1, fwVersion := field b 4 7, base := BitVec.ofNat 256 (field b 8 39), siteMap := field b 40 43,
                 manifest := BitVec.ofNat 256 (field b 64 95), wrap := field b 96 127 })
  | .error _ => none

/-- Has the image key arrived: it was wrapped here in the same debug state, or a peer sent it (R301, R325, R329)? -/
def State.imageKeyHere (s : State) (i : Image) : Bool :=
  s.images.any (fun j => j.wrap == i.wrap && j.dbg == s.fbx.unlocked) || s.fbx.imageKeys.contains i.wrap

/-- A RESTORE past its gate (R301, R308, R325). -/
def State.restoreGo (s : State) (p : Nat) : State :=
  let pg := pgPT p
  if (s.pt p).st ≠ .disabled then s.refuse pg 0x0704
  else if s.imageDua p % 64 ≠ 0 then s.refuse pg 0x023B
  else
    match s.imageAt p with
    | none => s.refuse pg 0x0512
    | some i => if s.imageKeyHere i then s.setPt p { s.pt p with st := .restoring, imgAt := s.nowUs } else s.refuse pg 0x011C

/-- IMAGE_RESTORE (R301, R308). -/
def execImageRestore (o : Origin) (p : PartId) (s : State) : Host.Outcome State Fault Refusal :=
  .next (s.withWrite o (pgPT p.val * 0x1000 + 0x088) (fun s _ => s.restoreGo p.val))

/-- The words a restore leaves as software set them: hearths, quotas, PASIDs, the account list, and the hold quota; and IMAGE_STATUS. -/
def keptWord (k : Nat) : Bool :=
  (decide (0x040 / 4 ≤ k) && decide (k ≤ 0x070 / 4)) || decide (k = 0x08C / 4) || decide (k = 0x400 + 0x0F0 / 4)

/-- Every register of the partition from the state block, but for those. -/
def State.restoreRegs (s : State) (p : Nat) (i : Image) : State :=
  i.regs.foldl (fun (s : State) e => if keptWord e.1 then s else s.wr ((imagePages p).getD (e.1 / 0x400) 0) (e.1 % 0x400 * 4) e.2) s

/-- The checks of R301, in order. -/
def State.restoreCheck (s : State) (p : Nat) (i : Image) (chunksOk : Bool) : Option Nat :=
  let a := s.ptAsked p (fun off => s.rd (pgPT p) off)
  let m := s.lift.base
  let inUse := (i.holds.filter (fun e => e.2.st != .free)).length
  if i.format ≠ 1 then some 0x0601
  else if (if s.mc.slotB then s.mc.imgB else s.mc.imgA).version < i.fwVersion then some 0x0605
  else if !m.any (fun b => b.baseId == i.base && b.siteMap == i.siteMap) then some 0x0321
  else if (s.ptCheck p a (fld (s.rd (pgPT p) 0x070) 6 0)).isSome || decide (a.seq < i.slots.length) || decide (a.inf < i.infs.length) ||
      decide (a.wxs < i.wxs.length) || decide (a.frames < i.pages.length) || decide (fld (s.rd (pgSE p) 0x0F0) 14 0 < inUse) then some 0x050E
  else if i.pages.any (fun e => (s.page e.1).valid && (s.page e.1).owner != p) then some 0x0338
  else if i.pages.any (fun e => match s.regionAt e.1 with | some r => r.2.owner != p || r.2.secure | none => true) then some 0x0406
  else if s.framesFree < (i.wxs.filter (fun w => (AMap.find s.wx.store w.2.wax).isNone)).length ||
      decide (4096 < (s.wx.overlay.filter (fun o => o.2.valid)).length + i.overlays.length) then some 0x0505
  else if !chunksOk then some 0x0323
  else if (i.infs.map (·.2.rcd)).any (fun r => r.desc.wax ≠ 0 && (s.accountKey r.desc.account).isNone) ||
      (i.wxs.map (·.2.rcd)).any (fun r => r.desc.wax ≠ 0 && (s.accountKey r.desc.account).isNone) then some 0x011C
  else none

/-- Fresh numbers for the members of a collection (R302): for each old number a free one. -/
def State.freshNumbers (s : State) (total : Nat) (used olds : List Nat) : List (Nat × Nat) × State :=
  olds.foldl (fun (a : List (Nat × Nat) × State) o =>
    let r := a.2.pickFree total (used ++ a.1.map (·.2))
    (a.1 ++ [(o, r.1)], r.2)) ([], s)

/-- The new number of an old one. -/
def newOf (l : List (Nat × Nat)) (o : Nat) : Nat := match l.find? (fun x => x.1 == o) with | some x => x.2 | none => o

/-- An image page back at its DUA in a fresh DRAM frame, empty. -/
def State.restorePage (s : State) (p : Nat) (e : Nat × PageEnt) : State :=
  let f := s.pickFrame 1
  let s1 := f.2.setPage e.1 { frame := f.1, tier := 1, owner := p, valid := true, pinned := e.2.pinned, readOnly := e.2.readOnly }
  s1.setMem { s1.mem with bytes := AMap.delRange s1.mem.bytes (e.1 * pageSize) pageSize, lines := AMap.delRange s1.mem.lines (e.1 * 32768) 32768 }

/-- The generation byte of the entries of a page table brought from an old generation to a new one, so that R118 holds for the new slot (DEDUCED, log
entry 53). -/
def State.regenEntries (s : State) (p : Nat) (pages : AMap KvPage) (old new : Nat) : State :=
  (pages.filter (fun e => !e.2.shared)).foldl (fun (s : State) e =>
    (List.range (s.layers * 64)).foldl (fun (s : State) j =>
      let a := e.2.dua + j * 298 + 297
      if s.byteAt a = BitVec.ofNat 8 old then s.storeTry (whoOf p) a [BitVec.ofNat 8 new] else s) s) s

/-- The numbers a restore assigns. -/
structure Remap where
  slots : List (Nat × Nat)
  holds : List (Nat × Nat)
  infs : List (Nat × Nat)
  wxs : List (Nat × Nat)
deriving DecidableEq, Repr

/-- Fresh numbers of every kind (R302). -/
def State.remapOf (s : State) (i : Image) : Remap × State :=
  let a := s.freshNumbers 4096 ((s.slots.filter (fun e => e.2.st ≠ .free)).map (·.1)) (i.slots.map (·.1))
  let b := a.2.freshNumbers 16384 ((s.holds.filter (fun e => e.2.st ≠ .free || e.2.reserved)).map (·.1)) (i.holds.map (·.1))
  let c := b.2.freshNumbers 8192 ((s.infs.filter (fun e => e.2.st ≠ .free)).map (·.1)) (i.infs.map (·.1))
  let d := c.2.freshNumbers 1024 ((s.wxs.filter (fun e => e.2.used)).map (·.1)) (i.wxs.map (·.1))
  (⟨a.1, b.1, c.1, d.1⟩, d.2)

/-- A sequence slot restored: it draws under the generation it ran under (R122, R302). -/
def State.restoreSlot (s : State) (p : Nat) (m : Remap) (e : Nat × Slot) : State :=
  let n := newOf m.slots e.1
  let g := (s.slot n).gen
  let x := e.2
  let y : Slot := { x with gen := g, owner := p, inf := x.inf.map (newOf m.infs), hold := x.hold.map (newOf m.holds),
                           d := { x.d with keyGen := if x.d.keyGen = 0 then x.gen else x.d.keyGen } }
  ((s.setSlot n y).writeTable n (s.slot n).pages x.pages).regenEntries p x.pages x.gen g

/-- A hold entry restored. -/
def State.restoreHold (s : State) (p : Nat) (m : Remap) (e : Nat × Hold) : State :=
  let n := newOf m.holds e.1
  let g := (s.hold n).gen
  (s.setHold n { e.2 with gen := g, owner := p }).regenEntries p e.2.pages e.2.gen g

/-- An inference slot restored, with this module's key handle (R319). -/
def State.restoreInf (s : State) (p : Nat) (m : Remap) (e : Nat × InfSlot) : State :=
  let n := newOf m.infs e.1
  s.setInf n { e.2 with gen := (s.inf n).gen, owner := p, rcd := s.rekey e.2.rcd }

/-- A waxing slot restored; its wax takes a local-store frame and is saved at its next commit (R303). -/
def State.restoreWx (s : State) (p : Nat) (m : Remap) (e : Nat × WaxingSlot) : State :=
  let n := newOf m.wxs e.1
  let x := e.2
  let s1 := s.setWx n { x with gen := (s.wxOf n).gen, owner := p, rcd := s.rekey x.rcd, old := x.old.map (newOf m.infs),
                               reservedSlot := x.reservedSlot.map (newOf m.infs), dirty := true }
  if (AMap.find s1.wx.store x.wax).isSome then s1
  else (s1.setWax { s1.wx with reservedFrames := s1.wx.reservedFrames ++ [x.wax] }).storeLow s.framesFree

/-- The stride context with the numbers of the target. -/
def restoreSe (p : Nat) (m : Remap) (e : Se) : Se :=
  let co := fun (c : Cohort) => { c with entries := c.entries.map (newOf m.holds) }
  let rows := fun (r : Rows) => { r with id := newOf m.holds r.id, inf := r.inf.map (newOf m.infs) }
  { e with collecting := co e.collecting, sweeping := co e.sweeping, coefs := e.coefs.map (fun c => { c with hold := newOf m.holds c.hold }),
           ckpts := e.ckpts.map (fun c => { c with rows := rows c.rows }),
           groups := e.groups.map (fun g => { g with part := p, members := g.members.map (newOf m.holds) }),
           cuts := e.cuts.map (fun c => { c with tails := c.tails.map (fun t => (40 * p + t.1 % 40, t.2)) }) }

/-- The overlay entries of an image, each at a free number of the table (R163, R302). -/
def State.restoreOverlays (s : State) (p : Nat) (i : Image) : State :=
  i.overlays.foldl (fun (s : State) o =>
    let r := s.pickFree 4096 ((s.wx.overlay.filter (fun e => e.2.valid)).map (·.1))
    let put := fun (m : AMap Overlay) => AMap.put {} m r.1 { o.2 with part := p }
    r.2.setWax { r.2.wx with overlay := put r.2.wx.overlay, overlayForce := put r.2.wx.overlayForce }) s

/-- The remap list of a restore, after the image's manifest. -/
def State.remapList (s : State) (m : Remap) (i : Image) : List Byte :=
  let one := fun (k o og n ng : Nat) => leBytes (Config.remapEntry k o og n ng).toNat 16
  (i.slots.flatMap (fun e => one 0 e.1 e.2.gen (newOf m.slots e.1) (s.slot (newOf m.slots e.1)).gen)) ++
  (i.holds.flatMap (fun e => one 1 e.1 e.2.gen (newOf m.holds e.1) (s.hold (newOf m.holds e.1)).gen)) ++
  (i.infs.flatMap (fun e => one 2 e.1 e.2.gen (newOf m.infs e.1) (s.inf (newOf m.infs e.1)).gen)) ++
  (i.wxs.flatMap (fun e => one 3 e.1 e.2.gen (newOf m.wxs e.1) (s.wxOf (newOf m.wxs e.1)).gen))

/-- Everything R302 and R303 keep, put into the partition, which is FROZEN then. -/
def State.applyImage (s : State) (p : Nat) (i : Image) (dua : Nat) : State :=
  let a := s.ptAsked p (fun off => s.rd (pgPT p) off)
  let s1 := i.pages.foldl (fun (s : State) e => s.restorePage p e) s
  let s2 := i.bytes.foldl (fun (s : State) e => s.storeRaw e.1 [e.2]) s1
  let r := s2.remapOf i
  let m := r.1
  let s3 := i.slots.foldl (fun (s : State) e => s.restoreSlot p m e) r.2
  let s4 := i.holds.foldl (fun (s : State) e => s.restoreHold p m e) s3
  let s5 := i.infs.foldl (fun (s : State) e => s.restoreInf p m e) s4
  let s6 := i.wxs.foldl (fun (s : State) e => s.restoreWx p m e) s5
  let s7 := i.queues.foldl (fun (s : State) e => s.setQueue (40 * p + e.1) e.2) s6
  let t7 := s7.setSe p (restoreSe p m i.se)
  let s8 := t7.setParks (s7.parks ++ i.parks.map (fun (k : Park) => { k with part := p, fetch := none }))
  let s9 := (s8.restoreOverlays p i).enablePt p a
  let s10 := s9.setPt p { s9.pt p with st := .frozen, freezeLeft := none }
  let s11 := (List.range 4).foldl (fun (s : State) j =>
    let pg := (imagePages p).getD j 0
    let h := s.hdr pg
    let o := AMap.get {} i.hdrs j
    s.setHdr pg { h with enabled := o.enabled || j == 0, enableBit := o.enabled || j == 0, freeze := j == 0, evEn := o.evEn, evStat := o.evStat }) s10
  let n := imageBytes (Config.stateBlockBytes i.part) i.pages.length
  (s11.storeTry (placeWho (s11.placeAround dua n)) (dua + n) (s11.remapList m i)).bump (pgPT p) 0x038 n

/-- IMAGE_RESTORE_DONE (R294, R301 to R303): restored and FROZEN, or failed and ASHING. -/
def execImageRestoreDone (p : PartId) (chunksOk : Bool) (s : State) : Host.Outcome State Fault Refusal :=
  .next (
    if (s.pt p.val).st ≠ .restoring then s
    else
      let dua := s.imageDua p.val
      match s.imageAt p.val with
      | none => (s.imageEnd p.val 2 0x0323).beginAsh p.val
      | some i =>
        let s1 := s.restoreRegs p.val i
        match s1.restoreCheck p.val i chunksOk with
        | some r => (s1.imageEnd p.val 2 r).beginAsh p.val
        | none => (s1.applyImage p.val i dua).imageEnd p.val 1 0)

/-! ## Mapping pages (R306) -/

/-- MAP_STATUS.DONE and REASON; BUSY is read from the request. -/
def State.mapStatus (s : State) (p done reason : Nat) : State := s.wr (pgPT p) 0x0A4 (BitVec.ofNat 32 (done + reason % 4096 * 2 ^ 20))

/-- Why one page cannot be mapped or unmapped (R306, R316). -/
def State.mapCheck (s : State) (p : Nat) (r : MapReq) (page : Nat) : Option Nat :=
  let e := s.page page
  if 2 ^ 25 ≤ page then some 0x0250
  else if r.unmap then
    (if !e.valid then some 0x0250 else if e.owner ≠ p || e.modulePinned then some 0x0317 else none)
  else if e.valid then some 0x0338
  else if (s.pt p).cur.frames ≤ s.framesOf p then some 0x0506
  else if s.dramFree = 0 then some 0x0503
  else match s.regionAt page with | some g => if g.2.owner = p && !g.2.secure then none else some 0x0406 | none => some 0x0406

/-- One page mapped with zeros, or unmapped. -/
def State.mapOne (s : State) (p : Nat) (r : MapReq) (page : Nat) : State :=
  if r.unmap then
    let s1 := s.setPage page {}
    s1.setMem { s1.mem with tlb := s1.mem.tlb.filter (fun t => t.page ≠ page), cache := s1.mem.cache.filter (fun c => linePage c.line ≠ page) }
  else
    let s1 := s.restorePage p (page, { pinned := r.pinned, readOnly := r.readOnly })
    s1

/-- The pages of a request in order: its end with the pages done and the failing page's reason, or a wait for the switch of a MIGRATING page. -/
def State.mapRun (s : State) (p : Nat) (r : MapReq) : Nat → State
  | 0 => ((s.setPt p { s.pt p with map := none }).raise (pgPT p) 5)
  | n + 1 =>
    let page := r.page + (r.left - (n + 1))
    match s.mapCheck p r page with
    | some reason =>
      ((s.mapStatus p (fld (s.rd (pgPT p) 0x0A4) 15 0) reason).setPt p { s.pt p with map := none }).raise (pgPT p) 5
    | none =>
      if r.unmap && (s.page page).migrating then s.setPt p { s.pt p with map := some { r with page := page, left := n + 1 } }
      else ((s.mapOne p r page).mapStatus p (fld (s.rd (pgPT p) 0x0A4) 15 0 + 1) 0).mapRun p r n

/-- A MAP_CTRL word past its gate. -/
def State.writeMapCtrl (s : State) (p : Nat) (v : Word) : State :=
  let pg := pgPT p
  if v.getLsbD 31 && (s.pt p).map.isSome then s.refuse pg 0x0704
  else
    let s1 := s.wr pg 0x0A0 (v &&& 0x0031FFFF)
    if v.getLsbD 31 then
      (s1.setPt p { s1.pt p with map := some { page := s1.rd64 pg 0x098 / pageSize, left := fld v 15 0, unmap := v.getLsbD 16,
                                               pinned := v.getLsbD 20, readOnly := v.getLsbD 21 } }).mapStatus p 0 0
    else s1

/-- MAP_GO (R306, R308). -/
def execMapGo (o : Origin) (p : PartId) (v : Word) (s : State) : Host.Outcome State Fault Refusal :=
  .next (s.withWrite o (pgPT p.val * 0x1000 + 0x0A0) (fun s _ => s.writeMapCtrl p.val (v ||| 0x80000000)))

/-- MAP_DONE (R306). -/
def execMapDone (p : PartId) (s : State) : Host.Outcome State Fault Refusal :=
  .next (match (s.pt p.val).map with | some r => s.mapRun p.val r r.left | none => s)

/-! ## Mailboxes (R307) -/

/-- A mailbox word written by its side; the other side's write has no effect. -/
def State.writeMb (s : State) (p off : Nat) (r : Req) (v : Word) : State :=
  let tenant := r.part.isSome
  let mine := if off = 0x040 || off = 0x04C || (0x400 ≤ off && off < 0x800) then tenant
    else if off = 0x044 || off = 0x048 || (0x800 ≤ off && off < 0xC00) then !tenant else false
  if mine then
    let s1 := s.wr (pgMB p) off v
    if off = 0x040 then s1.raise (pgMB p) 0 else if off = 0x048 then s1.raise (pgMB p) 1 else s1
  else s

/-- MB_T2M_PROD_WRITE (R307). -/
def execMbT2mProdWrite (o : Origin) (p : PartId) (v : Word) (s : State) : Host.Outcome State Fault Refusal :=
  .next (s.withWrite o (pgMB p.val * 0x1000 + 0x040) (fun s r => s.writeMb p.val 0x040 r v))

/-- MB_M2T_PROD_WRITE (R307). -/
def execMbM2tProdWrite (o : Origin) (p : PartId) (v : Word) (s : State) : Host.Outcome State Fault Refusal :=
  .next (s.withWrite o (pgMB p.val * 0x1000 + 0x048) (fun s r => s.writeMb p.val 0x048 r v))

end Sys2Proof.Machine
end

