-- ==== Sys2Proof/Machine/Recovery.lean ====
section
/-!
DEFINITION. Faults, fencing and recovery (R335 to R356): resets and their release, containment of errors, banked state and adoption, firmware slots and
settings.
-/

namespace Sys2Proof.Machine

/-! ## Resets (R337, R338, R353) -/

/-- A RESET_CTRL word past its gate. -/
def State.writeResetCtrl (s : State) (v : Word) : State :=
  let s1 := s.wr pgMC 0x100 (v &&& 0xFF)
  if v.getLsbD 31 then
    (if s1.domainExists (fld v 7 0) then s1.requestReset (fld v 7 0) 0 else s1.refuse pgMC 0x0259)
  else s1

/-- RESET_REQUEST (R337): by a write of RESET_CTRL, or by hardware or firmware with a cause of its own. -/
def execResetRequest (o : Option Origin) (domain cause : Nat) (s : State) : Host.Outcome State Fault Refusal :=
  .next (match o with
    | some o => s.withWrite o (pgMC * 0x1000 + 0x100) (fun s _ => s.writeResetCtrl (BitVec.ofNat 32 (domain % 256 + 2 ^ 31)))
    | none => if s.domainExists domain && decide (cause < 5) then s.requestReset domain cause else s)

/-- DAMPER_DRAIN_TIMEOUT (R338): the drain of a domain has ended, at the latest with its budget. -/
def execDamperDrainTimeout (domain : Nat) (s : State) : Host.Outcome State Fault Refusal :=
  .next (match s.resets.find? (fun r => r.dom == domain) with
    | some r => if s.drainOver r then s.carryOut domain r.cause else s
    | none => s)

/-- DOMAIN_RELEASE (R336, R353, R366). A partition that ashes is released by its ash-out's end, the module by its start-up sequence. -/
def execDomainRelease (domain : Nat) (s : State) : Host.Outcome State Fault Refusal :=
  .next (
    let ashing := decide (0x48 ≤ domain) && decide (domain < 0x68) && decide ((s.pt (domain - 0x48)).st = .ashing)
    if domain ≠ 0xFF && !ashing && s.releasable domain then s.releaseDomain domain else s)

/-! ## Containment (R341, R342) -/

/-- The error ring of a page's owner: its partition's, else QPM's. -/
def ringOfOwner (owner : Nat) : Nat := if owner < 32 then owner else 32

/-- The host link is lost: banked state with cause LINK, and a RESET record (R341, R347, R407). -/
def State.loseHost (s : State) : State :=
  if !s.host.linkUp then s
  else
    let s1 := (s.setHost { s.host with linkUp := false, training := true, mode := 0, width := 0 }).raise pgHI 0
    (s1.enterBanking 1).report 32 { kind := 6, status := 0, part := 63, time := s1.nowUs, detail := 0x80 + 3 * 256 }

/-- UNCORRECTABLE_ERROR (R217, R219, R341). -/
def execUncorrectableError (e : ErrSite) (s : State) : Host.Outcome State Fault Refusal :=
  .next (match e with
    | .dramLine dua =>
      let line := dua / 64
      let pg := s.page (linePage line)
      if memTop ≤ dua || !pg.valid then s
      else
        ((s.poisonLine line).tagFailAt line).report (ringOfOwner pg.owner)
          { kind := 4, status := 5, part := partOfQp (ringOfOwner pg.owner), time := s.nowUs, dua := 64 * line }
    | .hearth h =>
      if !s.domainExists h.val then s
      else
        let s1 := match (s.hearth h.val).owner with
          | some p => s.strideHangRec p h.val
          | none => s.report 32 { kind := 1, status := 4, part := 63, time := s.nowUs, detail := h.val }
        s1.requestReset h.val 1
    | .cacheTags q => s.requestReset (0x40 + q.val) 1
    | .flueLost l =>
      let s1 := if (s.link l.val).st = .up && (s.setLink l.val { s.link l.val with st := .down }).reachable s.ownId (s.link l.val).peer then
          s.report 32 { kind := 5, status := 6, part := 63, time := s.nowUs, fabric := (s.link l.val).peer } else s
      s1.requestReset (0x70 + l.val) 1
    | .hostLost => s.loseHost
    | .vaultRead n =>
      if (Manifest.shard (s.lift.installed.getD {}) n).isNone then s
      else
        let s1 := (s.mismatch (s.lift.installed.getD {}) n n).1
        s1.report 32 { kind := 4, status := 5, part := 63, time := s.nowUs, detail := n })

/-- CORRECTABLE_ERROR (R341, R420): one of a cache slice counts on its quadrant's page too. -/
def execCorrectableError (s : State) (slice : Option (Fin 8) := none) : Host.Outcome State Fault Refusal :=
  .next (match slice with
    | some q => (s.bump pgMC 0x130 1).bump (pgQD q.val) 0x030 1
    | none => s.bump pgMC 0x130 1)

/-- TEARDOWN_WATCHDOG (R341). -/
def execTeardownWatchdog (eng : Fin 5) (p : PartId) (s : State) : Host.Outcome State Fault Refusal :=
  .next (
    if eng.val = 0 then (if s.domainExists (0x48 + p.val) then s.requestReset (0x48 + p.val) 2 else s)
    else if eng.val = 1 then s.requestReset 0x83 2
    else s.requestReset 0xFF 2)

/-- HEARTH_SELFTEST_FAIL (R342): the reset hearth is reset once more, or FAILED at its third failure within 24 hours. -/
def execHearthSelftestFail (h : HearthId) (s : State) : Host.Outcome State Fault Refusal :=
  .next (
    if !s.resets.any (fun r => r.phase == 2 && (r.dom == h.val || (s.domainHolds r.dom h.val && decide (r.dom ≠ 0xFF)))) || !s.domainExists h.val then s
    else
      let x := s.hearth h.val
      let fails := (x.fails.filter (fun t => decide (s.nowUs < t + dayUs))) ++ [s.nowUs]
      let s1 := s.setHearth h.val { x with fails := fails, failed := x.failed || decide (3 ≤ fails.length) }
      if 3 ≤ fails.length then (List.range 32).foldl (fun (s : State) p => s.settleIdle p) s1
      else s1.clearHearth h.val)

/-! ## Semaphore configuration (R355) -/

/-- A SEM_CFG word past its gate. -/
def State.writeSemCfg (s : State) (v : Word) : State :=
  let n := fld (s.rd pgRK 0x040) 13 0
  let m := s.sem n
  if m.held ≠ 0 then s.refuse pgRK 0x0335
  else (s.putSem n { m with part := fld v 5 0, owned := v.getLsbD 8, value := fld v 31 16, aband := false, ledger := fld v 31 16 }).wakeRink n

/-- SEM_CFG_WRITE (R343, R355). -/
def execSemCfgWrite (o : Origin) (v : Word) (s : State) : Host.Outcome State Fault Refusal :=
  .next (s.withWrite o (pgRK * 0x1000 + 0x044) (fun s _ => s.writeSemCfg v))

/-! ## Banked state (R347 to R349) -/

/-- HOST_LINK_DROP (R347). -/
def execHostLinkDrop (s : State) : Host.Outcome State Fault Refusal := .next s.loseHost

/-- A heartbeat (R347). -/
def State.heartbeat (s : State) : State := s.setMc { s.mc with lastHb := s.nowUs }

/-- HOST_HB_WRITE (R347). -/
def execHostHbWrite (o : Origin) (s : State) : Host.Outcome State Fault Refusal :=
  .next (s.withWrite o (pgMC * 0x1000 + 0x110) (fun s _ => s.heartbeat))

/-- HEARTBEAT_TIMEOUT (R335, R347): past the millisecond in which HB_MS passes; not watched while the MC is down. -/
def execHeartbeatTimeout (s : State) : Host.Outcome State Fault Refusal :=
  .next (
    let cfg := s.frc pgMC 0x114
    if s.mc.running && cfg.getLsbD 0 && decide ((s.mc.lastHb + fld cfg 31 16 * 1000) / 1000 < s.nowUs / 1000) then s.enterBanking 2 else s)

/-- Do all strides stand still? -/
def State.stridesStopped (s : State) : Bool := s.se.all (fun e => e.2.st == .idle || e.2.st == .paused)

/-- Saves of the waxing waxes whose newest version is unsaved. -/
def State.bankSaves (s : State) : List Save :=
  (s.wxs.filter (fun e => e.2.used && e.2.dirty && !s.wx.saves.any (fun v => v.wax == e.2.wax && v.rcd.desc.version == e.2.rcd.desc.version))).map
    (fun e => { wax := e.2.wax, rcd := e.2.rcd, begun := false })

/-- BANKING_COMPLETE (R347): strides stopped and commands ended, the saves that are due begin; with none left the module is BANKED. -/
def execBankingComplete (s : State) : Host.Outcome State Fault Refusal :=
  .next (
    if s.mc.bank ≠ .banking || !s.stridesStopped || !s.started.isEmpty then s
    else if !s.bankSaves.isEmpty then s.setWax { s.wx with saves := startSaves (s.wx.saves ++ s.bankSaves) }
    else if !s.wx.saves.isEmpty then s
    else
      ((s.setMc { s.mc with bank := .banked }).clearPlaces (fun _ => true)).raise pgQPM 6)

/-- The PASIDs a partition's registers hold now. -/
def State.pasidsNow (s : State) (p : Nat) : List Nat :=
  (([0x058, 0x05C, 0x060, 0x064].map (fun off => s.rd (pgPT p) off)).filter (fun w => w.getLsbD 31)).map (fun w => fld w 19 0)

def State.livePts (s : State) : List Nat := (List.range 32).filter (fun p => (s.pt p).st != .disabled)

/-- Check 8 of R293 over every partition kept (R349 step 2). -/
def State.pasidsOk (s : State) : Bool :=
  s.livePts.all (fun p => !(s.pasidsNow p).isEmpty) && !dupNat (s.livePts.flatMap (fun p => s.pasidsNow p))

/-- The PASIDs bound. -/
def State.bindPasids (s : State) : State :=
  s.livePts.foldl (fun (s : State) p =>
    let x := s.pt p
    let s1 := s.setPt p { x with cur := { x.cur with pasids := s.pasidsNow p } }
    [0x058, 0x05C, 0x060, 0x064].foldl (fun (s : State) off => s.setForce (pgPT p) off (s.rd (pgPT p) off)) s1) s

/-- Every coherent page gone; slots and hold entries that name one (R349 step 3). -/
def State.dropCoherent (s : State) : State :=
  let gone := (s.mem.pmap.filter (fun e => e.2.valid && e.2.tier == 2)).map (·.1)
  let b := max 1 s.kvPageBytes
  let hit := fun (pages : AMap KvPage) (trace : List Nat) =>
    gone.any (fun g => pages.any (fun e => onPage e.2.dua b g) || trace.any (fun d => onPage d b g))
  let slots := (s.slots.filter (fun e => e.2.st != .free && hit e.2.pages e.2.tracePages)).map (·.1)
  let holds := (s.holds.filter (fun e => e.2.st != .free && hit e.2.pages e.2.tracePages)).map (·.1)
  let s1 := s.setMem { s.mem with pmap := s.mem.pmap.filter (fun e => !gone.contains e.1), migr := s.mem.migr.filter (fun e => !gone.contains e.1),
                                  tlb := s.mem.tlb.filter (fun t => !gone.contains t.page) }
  let s2 := slots.foldl (fun (s : State) n => s.faultSlot n 0x011E) s1
  holds.foldl (fun (s : State) h => s.dropHold h) s2

/-- Every queue that is not DISABLED steps its generation and enters STOPPED (R349 step 4). -/
def State.stopQueues (s : State) : State :=
  let ns := (s.queues.filter (fun e => e.2.st != .disabled)).map (·.1)
  ns.foldl (fun (s : State) n =>
    let q := s.queue n
    (s.setQueue n { q with st := .stopped, gen := qGenStep q.gen, expSeq := none }).raise (pgQP (n / 40)) 5) s

/-- The bank policy of a partition (R349 step 5). -/
def State.bankPolicy (s : State) (p : Nat) : State :=
  match fld (s.frc (pgPT p) 0x0A8) 1 0 with
  | 1 => s.mapSlots (fun x => if x.owner = p && x.st = .suspended && x.bank then { x with resumeAt := true } else x)
  | 2 => s.startAshout p
  | _ => s

/-- Adoption (R349), in one step: a failing step 2 leaves the module BANKED. -/
def State.adopt (s : State) : State :=
  if !s.pasidsOk then s.refuse pgMC 0x0332
  else
    let s1 := (s.setHost { s.host with fenced := false }).liftFence pgHI
    let s2 := s1.bindPasids
    let s3 := if (s2.rd pgMC 0x11C).getLsbD 1 then s2 else s2.dropCoherent
    let s4 := s3.stopQueues
    let s5 := s4.livePts.foldl (fun (s : State) p => s.bankPolicy p) s4
    let s6 := s5.livePts.foldl (fun (s : State) p =>
      if (s.pt p).st = .enabled || (s.pt p).st = .freezing then (s.startBudgets p).startFreezeBudget p else s) s5
    s6.setMc { s6.mc with bank := .normal, bankCause := 0 }

/-- An ADOPT_CTRL word past its gate. -/
def State.writeAdopt (s : State) (v : Word) : State :=
  let s1 := s.wr pgMC 0x11C (v &&& 2)
  if v.getLsbD 0 then (if s.mc.bank = .banked then s1.adopt else s.refuse pgMC 0x0704) else s1

/-- ADOPT_GO (R348, R349). -/
def execAdoptGo (o : Origin) (v : Word) (s : State) : Host.Outcome State Fault Refusal :=
  .next (s.withWrite o (pgMC * 0x1000 + 0x11C) (fun s _ => s.writeAdopt (v ||| 1)))

/-! ## Firmware slots and settings (R330, R350 to R352) -/

def Mc.image (m : Mc) (slotB : Bool) : FwImage := if slotB then m.imgB else m.imgA
def Mc.committed (m : Mc) (slotB : Bool) : Bool := if slotB then m.committedB else m.committedA
def Mc.setImage (m : Mc) (slotB : Bool) (i : FwImage) : Mc :=
  if slotB then { m with imgB := i, committedB := false } else { m with imgA := i, committedA := false }

/-- The signature and SVN of a slot's four images, in SVN order: firebox, MC, microcode, tables (R322, R330). -/
def imageParts (i : FwImage) : List (Bool × Nat) :=
  [(i.fb.sigOk, i.fb.svn), (i.sigOk, i.svn), (i.ucode.sigOk, i.ucode.svn)] ++ (match i.bundle with | some b => [(b.sigOk, b.svn)] | none => [])

/-- Why the images of a slot are refused (R330): each in SVN order, its signature and then its floor. -/
def State.imageCheck (s : State) (i : FwImage) : Option Nat :=
  firstFail ((imageParts i).zipIdx.flatMap (fun e => [(!e.1.1, 0x011D), (decide (e.1.2 < s.fbx.floors.getD e.2 0), 0x0606)]))

/-- fall_back (R350): the other slot, or recovery mode. -/
def State.fallBack (s : State) (reason : Nat) : State :=
  let m := s.mc
  if (s.imageCheck (m.image (!m.active))).isSome then s.setMc { m with recovery := true, recoveryDone := false, booting := false, running := false }
  else s.setMc { m with active := !m.active, fallback := reason, bootAt := s.nowUs }

/-- Why the table bundle of a slot that passed R330 does not load: a detour entry's MODE (R127). -/
def bundleCheck (b : Bundle) : Option Nat := if b.detour.any (fun e => decide (2 < e.2.mode)) then some 0x0238 else none

/-- The table bundle of the running slot loads as a whole (R421, R423). A refused one leaves the tables as they were, and shows its reason on the TB page
(DESIGN CHOICE, log entry 169). -/
def State.loadBundle (s : State) : State :=
  match (s.mc.image s.mc.active).bundle with
  | none => s
  | some b =>
    match bundleCheck b with
    | some r => s.refuse pgTB r
    | none => (s.setMc { s.mc with bundle := b }).setFbx { s.fbx with svns := s.fbx.svns.set 3 b.svn }

/-- The MC's firmware runs: it holds the settings, the fuse map and the table bundle (R421, R428). -/
def State.mcUp (s : State) : State :=
  let m := s.mc
  let s1 := s.setMc { m with running := true, booting := false, slotB := m.active, tries := if m.committed m.active then 0 else m.tries, lastHb := s.nowUs,
                             loaded := true }
  let img := m.image m.active
  let s2 := (s1.setFbx { s1.fbx with svns := ((s1.fbx.svns.set 0 img.fb.svn).set 1 img.svn).set 2 img.ucode.svn }).loadBundle
  if s2.up.contains 0x85 then s2 else s2.setUp (s2.up ++ [0x85])

/-- One boot (R350); `up` says whether the firmware declares itself up in time. -/
def State.boot (s : State) (up : Bool) : State :=
  let m := s.mc
  let img := m.image m.active
  if !m.committed m.active && decide (3 ≤ m.tries) then s.fallBack 1
  else
    let s1 := if m.committed m.active then s else s.setMc { m with tries := m.tries + 1 }
    if (s1.imageCheck img).isSome then s1.fallBack 2
    else if !img.reads.contains s1.settings.format then s1.fallBack 3
    else if up then s1.mcUp else s1.setMc { s1.mc with bootAt := s1.nowUs }

/-- MC_BOOT (R350). -/
def execMcBoot (s : State) : Host.Outcome State Fault Refusal := .next (if s.mc.booting && s.isUp 0x84 then s.boot true else s)

/-- BOOT_TIMEOUT (R350): the boot failed, and the MC boots again. -/
def execBootTimeout (s : State) : Host.Outcome State Fault Refusal :=
  .next (if s.mc.booting && s.isUp 0x84 && decide (s.mc.bootAt + 60000000 ≤ s.nowUs) then s.boot false else s)

/-- FW_CTRL.COMMIT past its gate (R351). -/
def State.commitFw (s : State) : State :=
  let m := s.mc
  if m.committed m.slotB then s
  else
    let m1 := if m.slotB then { m with committedB := true } else { m with committedA := true }
    s.setMc { m1 with tries := 0, sa0 := { m.sa0 with uncommitted := false }, sa1 := { m.sa1 with uncommitted := false } }

/-- FW_CTRL.SWITCH past its gate (R351). -/
def State.switchFw (s : State) : State :=
  let m := s.mc
  if (m.image (!m.slotB)).svn < s.fbx.floors.getD 1 0 then s.refuse pgMC 0x0606 else s.setMc { m with active := !m.slotB }

/-- FW_COMMIT (R351). -/
def execFwCommit (o : Origin) (s : State) : Host.Outcome State Fault Refusal :=
  .next (s.withWrite o (pgMC * 0x1000 + 0x124) (fun s _ => s.commitFw))

/-- FW_SWITCH (R351). -/
def execFwSwitch (o : Origin) (s : State) : Host.Outcome State Fault Refusal :=
  .next (s.withWrite o (pgMC * 0x1000 + 0x124) (fun s _ => s.switchFw))

/-- RECOVERY_IMAGE_WRITE (R330, R352): recovery ends at the next MC reset. -/
def execRecoveryImageWrite (slotB : Bool) (img : FwImage) (s : State) : Host.Outcome State Fault Refusal :=
  .next (
    if !s.mc.recovery then s
    else
      match s.imageCheck img with
      | some r => s.setReply (.refused r)
      | none => (s.setMc { s.mc.setImage slotB img with recoveryDone := true }).setReply .ok)

/-- FIRMWARE_UPDATE (R330, R351, R403): the image of a slot, uncommitted. -/
def execFirmwareUpdate (slotB : Bool) (img : FwImage) (s : State) : Host.Outcome State Fault Refusal :=
  .next (
    if !s.mc.running then s
    else
      match s.imageCheck img with
      | some r => s.setReply (.refused r)
      | none => (s.setMc (s.mc.setImage slotB img)).setReply .ok)

/-- Does area SA1 hold the current settings (R350)? -/
def State.currentIsSa1 (s : State) : Bool :=
  let ok := fun (x : Settings) => x.digestOk && !x.uncommitted
  ok s.mc.sa1 && (!ok s.mc.sa0 || decide (s.mc.sa0.seq < s.mc.sa1.seq))

/-- SETTINGS_UPDATE (R350, R351): the area that does not hold the current settings, one SEQ higher, UNCOMMITTED while the firmware is. -/
def execSettingsUpdate (st : Settings) (s : State) : Host.Outcome State Fault Refusal :=
  .next (
    if !s.mc.running then s
    else
      let w : Settings := { st with seq := (s.settings.seq + 1) % 2 ^ 32, uncommitted := !s.mc.committed s.mc.slotB, digestOk := true }
      s.setMc (if s.currentIsSa1 then { s.mc with sa0 := w } else { s.mc with sa1 := w }))

end Sys2Proof.Machine
end

