-- ==== Sys2Proof/Machine/HostNet.lean ====
section
/-!
DEFINITION. The host link, direct placement and the Ethernet ports (R389 to R403, R405 to R407).
-/

namespace Sys2Proof.Machine

/-! ## The host link (R389, R392) -/

/-- HOST_LINK_TRAINED (R389, R392): mode 0, an unknown mode or a width below 8 leaves the link down; a link that was up has retrained on its own. -/
def execHostLinkTrained (mode width : Nat) (s : State) : Host.Outcome State Fault Refusal :=
  .next (
    if !s.isUp 0x80 || s.settings.hostless || !(s.host.training || s.host.linkUp) then s
    else if mode = 0 || 4 < mode || (width ≠ 8 && width ≠ 16) then
      (if s.host.linkUp then s else s.setHost { s.host with training := false, mode := 0, width := 0 })
    else
      let s1 := if s.host.linkUp then s.bump pgHI 0x038 1 else s
      let s2 := s1.setHost { s1.host with linkUp := true, training := false, mode := mode, width := width }
      (if width = 8 then s2.raise pgHI 1 else s2).flushPba)

/-- HOST_RESET (R392, R431). -/
def execHostReset (s : State) : Host.Outcome State Fault Refusal := .next (if s.isUp 0x80 then s.requestReset 0x80 3 else s)

/-! ## Direct placement (R394 to R398) -/

/-- Does an entry grant an access (R394, R395)? `part` is the partition a PASID is bound to, `driver` says the request acts for the module. -/
def Place.grants (e : Place) (pasid : Option (BitVec 20)) (rid : BitVec 16) (part : Option Nat) (driver : Bool) (dua len : Nat) (write : Bool) : Bool :=
  e.valid && decide (e.base ≤ dua) && decide (dua + len ≤ e.base + e.len) && (if write then e.wr else e.rd) &&
  (e.anyRid || decide (e.rid = rid.toNat)) &&
  (match pasid with | some x => e.pasidEn && decide (e.pasid = x.toNat) | none => !e.pasidEn) &&
  (driver || match part with | some p => decide (e.owner = p) | none => true)

/-- A BAR2 access refused: counted, with its event (R395, R407). -/
def State.placeRefused (s : State) : State := ((s.bump pgHI 0x028 1).raise pgHI 2).setReply (.refused 0x0409)

/-- A BAR2 access whose requester is known. -/
def State.bar2 (s : State) (pasid : Option (BitVec 20)) (rid : BitVec 16) (part : Option Nat) (driver : Bool) (dua len : Nat)
    (write : Option (List Byte)) : State :=
  match s.host.place.find? (fun e => e.2.grants pasid rid part driver dua len write.isSome) with
  | none => s.placeRefused
  | some e =>
    let s1 := match write with
      | some d => s.memWrite (whoOf e.2.owner) dua (padTo len d) true
      | none => s.memRead (whoOf e.2.owner) dua len true
    match s1.reply with
    | .ok => s1.bump pgHI 0x020 len
    | .data _ => s1.bump pgHI 0x020 len
    | _ => s1

/-- BAR2_ACCESS (R292, R349, R394, R395). A granted access acts for the entry's owner. -/
def execBar2Access (o : Origin) (dua len : Nat) (write : Option (List Byte)) (s : State) : Host.Outcome State Fault Refusal :=
    .next (match o with
      | .host pasid rid =>
        let driver := pasid.isNone && decide (rid = (s.rd pgHI 0x044).setWidth 16)
        if !s.host.linkUp then s
        else if s.host.fenced && !(decide (s.mc.bank = .banked) && driver) then s.setReply .fenced
        else
          match pasid with
          | some x =>
            (match s.pasidOwner x.toNat with
             | some p => s.bar2 pasid rid (some p) false dua len write
             | none => (s.bump pgHI 0x030 1).setReply (.refused 0x0405))
          | none =>
            if s.host.fenced && !s.host.place.any (fun e => e.2.grants none rid none driver dua len write.isSome) then s.setReply .fenced
            else s.bar2 none rid none driver dua len write
      | _ => s)

/-- A placement record (R396). -/
def placeOf (r : List Byte) : Place :=
  let f := field r 18 18
  { base := field r 0 7, len := field r 8 15, rid := field r 16 17, valid := f.testBit 0, rd := f.testBit 1, wr := f.testBit 2, expt := f.testBit 3,
    anyRid := f.testBit 4, pasidEn := f.testBit 5, owner := field r 19 19, pasid := field r 20 23 % 2 ^ 20 }

/-- The pages of a placement range. -/
def Place.pages (e : Place) : List Nat :=
  (List.range ((e.base + e.len + pageSize - 1) / pageSize - e.base / pageSize)).map (· + e.base / pageSize)

/-- R397's checks in their order, for entry `n`. -/
def State.placeCheck (s : State) (n : Nat) (e : Place) : Option Nat :=
  if e.base % 4096 ≠ 0 || e.len % 4096 ≠ 0 || e.len < 4096 || 2 ^ 44 < e.len || memTop < e.base + e.len then some 0x0250
  else if e.owner = 62 || !e.pages.all (fun p => (s.page p).valid && decide ((s.page p).owner = e.owner)) then some 0x0317
  else if e.pages.any (fun p => (s.page p).secure) then some 0x0407
  else if e.pasidEn && decide (s.pasidOwner e.pasid ≠ some e.owner) then some 0x0405
  else if e.valid && e.wr && s.host.place.any (fun x => decide (x.1 ≠ n) && x.2.valid && x.2.wr && decide (x.2.base < e.base + e.len) && decide (e.base < x.2.base + x.2.len)) then some 0x0333
  else none

/-- A refused GO: REASON in PLACE_STATUS and the page's refusal (R397, R414). -/
def State.placeFail (s : State) (r : Nat) : State := (s.wr pgHI 0x064 (BitVec.ofNat 32 (r * 65536))).refuse pgHI r

/-- A PLACE_CTRL word past its gate. Accesses of the model are atomic, so BUSY never lasts (log entry 182). -/
def State.writePlaceCtrl (s : State) (v : Word) : State :=
  let n := fld v 11 0
  let s1 := s.wr pgHI 0x060 (v &&& 0x00010FFF)
  if !v.getLsbD 31 then s1
  else if v.getLsbD 16 then s1.setPlace n {}
  else
    match s.load (whoOf 63) (s.rd64 pgHI 0x058) 64 with
    | .error (.inl r) => s.placeFail r
    | .error (.inr _) => s.placeFail 0x0323
    | .ok (b, _) =>
      match s.placeCheck n (placeOf b) with
      | some r => s.placeFail r
      | none => s1.setPlace n (placeOf b)

/-- PLACE_SET (R397). -/
def execPlaceSet (o : Origin) (index : BitVec 12) (s : State) : Host.Outcome State Fault Refusal :=
  .next (s.withWrite o (pgHI * 0x1000 + 0x060) (fun s _ => s.writePlaceCtrl (BitVec.ofNat 32 (index.toNat + 2 ^ 31))))

/-- PLACE_CLEAR (R397). -/
def execPlaceClear (o : Origin) (index : BitVec 12) (s : State) : Host.Outcome State Fault Refusal :=
  .next (s.withWrite o (pgHI * 0x1000 + 0x060) (fun s _ => s.writePlaceCtrl (BitVec.ofNat 32 (index.toNat + 2 ^ 16 + 2 ^ 31))))

/-! ## The Ethernet ports (R399, R400, R402, R406, R407) -/

/-- NETWORK_LINK_TRAINED (R399). -/
def execNetworkLinkTrained (port : PortId) (half : Bool) (s : State) : Host.Outcome State Fault Refusal :=
  .next (if s.isUp (0x81 + port.val) && !s.resets.any (fun r => r.dom == 0x81 + port.val) then s.setHost { s.host with netUp := AMap.put 0 s.host.netUp port.val (if half then 2 else 1) } else s)

/-- NETWORK_LINK_DOWN (R407). -/
def execNetworkLinkDown (port : PortId) (s : State) : Host.Outcome State Fault Refusal :=
  .next (if s.portUp port.val then (s.setHost { s.host with netUp := AMap.put 0 s.host.netUp port.val 3 }).raise (pgNP port.val) 0 else s)

/-- RDMA_INCOMING (R400). -/
def execRdmaIncoming (port : PortId) (s : State) : Host.Outcome State Fault Refusal :=
  .next (if s.portUp port.val then ((s.emit (.nak port.val)).bump (pgNP port.val) 0x030 1).raise (pgNP port.val) 3 else s)

/-- The class CONN_SEL shows. -/
def State.connSel (s : State) (port : Nat) : Nat := fld (s.rd (pgNP port) 0x060) 1 0

/-- A CONN_QPN word past its gate (R400, R406). A new MGMT connection starts its SEQ anew (log entry 54). -/
def State.writeConnQpn (s : State) (port : Nat) (v : Word) : State :=
  let c := s.connSel port
  let x := s.conn port c
  if x.valid then s.refuse (pgNP port) 0x0335
  else
    let s1 := s.setConn port c { x with qpn := fld v 23 0, valid := v.getLsbD 31 }
    if c = 2 && v.getLsbD 31 then s1.setHost { s1.host with mgmt := AMap.put {} s1.host.mgmt port {} } else s1

/-- CONN_CONNECT (R400, R406). -/
def execConnConnect (o : Origin) (port : PortId) (qpn : BitVec 24) (s : State) : Host.Outcome State Fault Refusal :=
  .next (s.withWrite o (pgNP port.val * 0x1000 + 0x074) (fun s _ => s.writeConnQpn port.val (BitVec.ofNat 32 (qpn.toNat + 2 ^ 31))))

/-- CONN_BROKEN (R400). -/
def execConnBroken (port : PortId) (cls : Fin 3) (s : State) : Host.Outcome State Fault Refusal := .next (s.breakConn port.val cls.val)

/-- A GO of PUSH_CTRL past its gate (R400, R402). -/
def State.pushStart (s : State) (port : Nat) : State :=
  let pg := pgNP port
  let e := s.place (fld (s.rd pg 0x08C) 11 0)
  let off := s.rd64 pg 0x090
  let n := s.rd64 pg 0x098
  if (AMap.get none s.host.pushes port).isSome then s.refuse pg 0x0704
  else if !(s.conn port 1).valid then s.refuse pg 0x0112
  else if !e.valid || !e.expt then s.refuse pg 0x0342
  else if e.len < off + n then s.refuse pg 0x0250
  else
    (s.setHost { s.host with pushes := AMap.put none s.host.pushes port (some (e.base + off, ⟨port, s.rd64 pg 0x080, s.rd pg 0x088, n⟩)) }).wr pg 0x0A4 1

/-- PUSH_GO (R402). -/
def execPushGo (o : Origin) (port : PortId) (s : State) : Host.Outcome State Fault Refusal :=
  .next (s.withWrite o (pgNP port.val * 0x1000 + 0x0A0) (fun s _ => s.pushStart port.val))

/-- A push's end in PUSH_STATUS, with its event. -/
def State.pushEnd (s : State) (port result reason : Nat) : State :=
  ((s.setHost { s.host with pushes := AMap.put none s.host.pushes port none }).wr (pgNP port) 0x0A4 (BitVec.ofNat 32 (2 * result + reason * 65536))).raise
    (pgNP port) 2

/-- PUSH_DONE (R400, R402, R407): data leaves as it lies in memory space. A transfer that fails breaks with its connection; a poisoned line fails it
with 0x0323 (log entry 54). -/
def execPushDone (port : PortId) (ok : Bool) (s : State) : Host.Outcome State Fault Refusal :=
  .next (match AMap.get none s.host.pushes port.val with
    | none => s
    | some (dua, x) =>
      if !ok then s.pushEnd port.val 2 0x0113
      else
        match s.load (whoOf (s.page (dua / pageSize)).owner) dua x.bytes with
        | .ok (b, s1) => ((s1.emit (.rdmaWrite x.port x.raddr x.rkey b)).bump (pgNP port.val) 0x020 x.bytes).pushEnd port.val 1 0
        | .error (.inl r) => s.pushEnd port.val 2 r
        | .error (.inr _) => s.pushEnd port.val 2 0x0323)

end Sys2Proof.Machine
end

