-- ==== Sys2Proof/Machine/Meter.lean ====
section
/-!
DEFINITION. Ordered mode's cuts (R360), and the meter card (R369, R372 to R388): stride reports, energy windows, snapshots, signed readings, the seal.
-/

namespace Sys2Proof.Machine

/-! ## Cuts (R360) -/

/-- The tails of every SE and WX queue of a partition's page as they stand. -/
def State.cutNow (s : State) (p : Nat) : Cut :=
  { tails := [0, 2].flatMap (fun e => (List.range 8).map (fun q => (qNum p e q, (s.queue (qNum p e q)).tail))) }

/-- An ORDER_STEP word past its gate. -/
def State.writeStep (s : State) (p : Nat) (v : Word) : State :=
  let e := s.seOf p
  if !v.getLsbD 0 then s
  else if 64 ≤ e.cuts.length then s.refuse (pgSE p) 0x0513
  else s.setSe p { e with cuts := e.cuts ++ [s.cutNow p] }

/-- ORDER_STEP_WRITE (R360). -/
def execOrderStepWrite (o : Origin) (p : PartId) (v : Word) (s : State) : Host.Outcome State Fault Refusal :=
  .next (s.withWrite o (pgSE p.val * 0x1000 + 0x128) (fun s _ => s.writeStep p.val v))

/-! ## Stride reports (R369, R373, R375, R380, R381) -/

def Acct.add (a b : Acct) : Acct :=
  { gen := a.gen + b.gen, trained := a.trained + b.trained, cycles := a.cycles + b.cycles, energy := a.energy + b.energy }

/-- Has an account an entry, or does it get one at this event (R373)? -/
def Meter.holds (m : Meter) (a : Nat) : Bool := decide (a ≠ 0) && (m.alloc.contains a || decide (m.alloc.length < 65536))

/-- What an event adds to an account's entry, allocated at its first event; to UNATTRIBUTED when there is no room. -/
def Meter.credit (m : Meter) (a : Nat) (x : Acct) : Meter :=
  if m.holds a then
    { m with alloc := if m.alloc.contains a then m.alloc else m.alloc ++ [a], accts := AMap.put {} m.accts a ((AMap.get {} m.accts a).add x) }
  else { m with unattr := m.unattr.add x }

/-- Grate-cycles credited in the open window (R376). -/
def Meter.windowAdd (m : Meter) (a n : Nat) : Meter :=
  if m.holds a then
    (if m.window.any (fun w => w.1 == a) then { m with window := m.window.map (fun w => if w.1 = a then (a, w.2 + n) else w) }
     else { m with window := m.window ++ [(a, n)] })
  else { m with windowRest := m.windowRest + n }

/-- One line of a report. -/
def Meter.line (m : Meter) (l : RepLine) : Meter :=
  (m.windowAdd l.account l.cycles).credit l.account { gen := l.tokens, trained := l.trained, cycles := l.cycles }

/-- A report in non-volatile memory: its lines, and what is left over to UNATTRIBUTED (R375). -/
def Meter.takeReport (m : Meter) (r : Report) : Meter :=
  (r.lines.foldl (fun (m : Meter) l => m.line l) m |>.windowAdd 0 r.rest).credit 0 { cycles := r.rest }

/-- Is the card's domain up and the card there? -/
def State.cardUp (s : State) : Bool := s.meter.present && !s.resets.any (fun r => r.dom == 0x86)

/-- REPORT_ACK (R367, R368, R373 to R376, R380, R381): the oldest held report. -/
def execReportAck (tokenSum trainSum : Nat) (s : State) : Host.Outcome State Fault Refusal :=
  .next (
    match s.meter.held with
    | [] => s
    | r :: rest =>
      if !s.cardUp then s
      else
        let s1 := (s.setMeter { (s.meter.takeReport r) with held := rest }).bump pgMT 0x020 1
        if tokenSum = r.tokens && trainSum = r.trained then s1
        else if s1.auditHeld (· == 0x48 + r.part) then s1.setMeter { s1.meter with auditLate := s1.meter.auditLate ++ [r.part] }
        else s1.tokenMismatch r.part)

/-! ## Energy (R376, R377, R382) -/

/-- A window's energy divided; `C` counts UNATTRIBUTED's cycles too. -/
def Meter.closeWindow (m : Meter) (mJ : Nat) (ooc : Bool) : Meter :=
  let c := (m.window.map (·.2)).sum + m.windowRest
  let shares := m.window.map (fun w => (w.1, if c = 0 then 0 else mJ * w.2 / c))
  let m1 := shares.foldl (fun (m : Meter) x => m.credit x.1 { energy := x.2 }) m
  let bad := ooc || m.lossWindow
  { m1 with unattr := m1.unattr.add { energy := mJ - (shares.map (·.2)).sum }, total := m1.total + mJ, window := [], windowRest := 0,
            outOfClass := bad, oocWindows := m1.oocWindows + (if bad then 1 else 0), lossWindow := false }

/-- ENERGY_WINDOW_CLOSE (R376, R377). -/
def execEnergyWindowClose (mJ : Nat) (outOfClass : Bool) (s : State) : Host.Outcome State Fault Refusal :=
  .next (if s.meter.present then s.setMeter (s.meter.closeWindow mJ outOfClass) else s)

/-! ## Counters and snapshots (R378, R379, R386) -/

/-- The account ACCT_SEL shows. -/
def State.acctShown (s : State) : Acct :=
  let a := (s.rd pgMQ 0x060).toNat
  if a = 0 then s.meter.unattr else AMap.get {} s.meter.accts a

/-- Counter `k` of MQ: GENERATED, TRAINED, CYCLES, ENERGY, TOTAL_ENERGY. -/
def State.meterCounter (s : State) (k : Nat) : Nat :=
  let a := s.acctShown
  if k = 0 then a.gen else if k = 1 then a.trained else if k = 2 then a.cycles else if k = 3 then a.energy else s.meter.total

/-- A read of a LO word past its gate. -/
def State.meterLo (s : State) (k : Nat) : State :=
  let n := s.meterCounter k
  (s.setMeter { s.meter with snap := AMap.put 0 s.meter.snap k n }).setReply (.data (leBytes n 4))

/-- METER_COUNTER_LO_READ (R379). -/
def execMeterCounterLoRead (o : Origin) (counter : Fin 5) (s : State) : Host.Outcome State Fault Refusal :=
  .next (s.withRead o (pgMQ * 0x1000 + 0x070 + 0x10 * counter.val) (fun s _ => s.meterLo counter.val))

/-! ## Signed readings (R381, R383) -/

/-- The head of the meter request ring, while MQ is ENABLED. -/
def State.mqHead (s : State) : Option (List Byte) :=
  if s.enabled pgMQ && decide (s.ringCount ringMQ ≠ 0) then some (s.ringPeek ringMQ) else none

/-- The head request ends (R383, R388). -/
def State.mqEnd (s : State) (reason : Nat) : State :=
  let a := s.ringAddr ringMQ (s.rd pgMQ 0x050)
  let s1 := s.storeTry (whoOf 63) (a + 1) (leBytes (if reason = 0 then 0 else 1) 1 ++ leBytes reason 2)
  (s1.wr pgMQ 0x050 (s1.rd pgMQ 0x050 + 1)).raise pgMQ 0

/-- The head request as request `code`. -/
def State.mqServe (s : State) (code : Nat) (f : State → List Byte → State) : State :=
  match s.mqHead with
  | none => s
  | some r =>
    if s.resets.any (fun x => x.dom == 0x86) then s
    else if !s.meter.present then s.mqEnd 0x0117
    else if field r 0 0 = 0 || 3 < field r 0 0 then s.mqEnd 0x0260
    else if field r 0 0 ≠ code then s
    else f s r

/-- A result in the request's output buffer. -/
def State.mqOut (s : State) (r out : List Byte) (need : Nat) (s' : State) : State :=
  if field r 16 19 < need then s.mqEnd 0x0511
  else
    match s'.store (whoOf 63) (field r 8 15) out with
    | .error (.inl e) => s.mqEnd e
    | .error (.inr _) => s.mqEnd 0x0323
    | .ok s1 => s1.mqEnd 0

/-- A counter field of a reading: 8 bytes of value, 4 whose low 16 bits are the carry. -/
def counterField (n : Nat) : List Byte := leBytes n 8 ++ leBytes (n / 2 ^ 64 % 65536) 4

/-- A reading's 256 bytes: `key` is the account, or 2^32 for READ_TOTAL. -/
def State.reading (s : State) (key : Nat) (nonce : List Byte) : List Byte :=
  let m := s.meter
  let total := decide (key = 2 ^ 32)
  let known := total || decide (key = 0) || m.alloc.contains key
  let a : Acct := if total then {} else if key = 0 then m.unattr else AMap.get {} m.accts key
  let flags := (if m.sealBroken then 1 else 0) + (if AMap.get 0 m.auditSeen key < m.auditFaults then 2 else 0) +
    (if AMap.get 0 m.oocSeen key < m.oocWindows then 4 else 0) + (if known then 0 else 8)
  let b := padTo 144 (leBytes 1 2 ++ leBytes (if total then 2 else 1) 1 ++ leBytes flags 1 ++ leBytes (if total then 0 else key) 4 ++
    leBytes (Config.identityWord 0) 8 ++ leBytes (m.readingSeq + 1) 8 ++ leBytes (Config.identityWord 1 + s.nowUs / 1000000) 8 ++ padTo 32 nonce ++
    counterField a.gen ++ counterField a.trained ++ counterField a.cycles ++ counterField a.energy ++ counterField m.total ++
    leBytes m.auditFaults 4 ++ leBytes m.tampers 4 ++ leBytes m.fwChanges 4 ++ leBytes m.fwVersion 4)
  padTo 256 (b ++ leBytes (Config.ecdsaSign 1 b).toNat 96)

/-- A signed reading made: the count and what the flags have shown. -/
def State.readingDone (s : State) (key : Nat) : State :=
  let m := s.meter
  s.setMeter { m with readingSeq := m.readingSeq + 1, auditSeen := AMap.put 0 m.auditSeen key m.auditFaults, oocSeen := AMap.put 0 m.oocSeen key m.oocWindows }

/-- A reading request served. -/
def State.serveReading (s : State) (r : List Byte) (key : Nat) : State :=
  let b := s.reading key ((r.drop 20).take 32)
  s.mqOut r b 256 ((s.readingDone key).emit (.reading b))

/-- READ_ACCOUNT (R383). -/
def execReadAccount (s : State) : Host.Outcome State Fault Refusal := .next (s.mqServe 1 (fun s r => s.serveReading r (field r 4 7)))

/-- READ_TOTAL (R383). -/
def execReadTotal (s : State) : Host.Outcome State Fault Refusal := .next (s.mqServe 2 (fun s r => s.serveReading r (2 ^ 32)))

/-- CERT (R383). -/
def execCert (s : State) : Host.Outcome State Fault Refusal :=
  .next (s.mqServe 3 (fun s r => s.mqOut r ((Config.certificate 1).take 4096) 4096 s))

/-! ## Seal, firmware, presence (R372, R384, R387, R388) -/

/-- TAMPER_EVENT (R384, R388); `removed` when the card leaves its connector. -/
def execTamperEvent (removed : Bool) (s : State) : Host.Outcome State Fault Refusal :=
  .next (
    if removed && s.meter.out then s
    else
      let here := s.meter.present
      let s1 := s.setMeter { s.meter with tampers := s.meter.tampers + 1, sealBroken := true }
      let s2 := if here then s1.raise pgMT 2 else s1
      if !removed then s2
      else
        let s3 := s2.setMeter { s2.meter with present := false, out := true }
        if here then s3.raise pgMT 0 else s3)

/-- METER_FW_CHANGE (R372). -/
def execMeterFwChange (version : Word) (s : State) : Host.Outcome State Fault Refusal :=
  .next (s.setMeter { s.meter with fwChanges := s.meter.fwChanges + 1, fwVersion := version.toNat })

/-- METER_CARD_PRESENT (R387): the card answers on its connector again. -/
def execMeterCardPresent (s : State) : Host.Outcome State Fault Refusal :=
  .next (if s.mc.sbOk then s.setMeter { s.meter with present := true, out := false } else s.setMeter { s.meter with out := false })

end Sys2Proof.Machine
end

