-- ==== Sys2Proof/Machine/Power.lean ====
section
/-!
DEFINITION. Rails, the power-up sequence, clock and thermal control (R424 to R435, R439).
-/

namespace Sys2Proof.Machine

/-! ## The steps (R428 to R430) -/

/-- Step 1 starts: the main converters turn on; BOOTS counts its runs (R441). -/
def State.beginStep1 (s : State) : State := (s.setMc { s.mc with step := 1 }).bump pgMC 0x030 1

/-- The pages of the slots' page tables, 4,096 of 32 KiB each (R115). -/
def State.tablePages (s : State) : List Nat := (List.range 65).map (fun i => s.tableLoc 5 / pageSize + i)

/-- One pinned MODULE page placed in a free DRAM frame, unless it holds a page already (R205, R311): those of the rerun and detour tables are non-secure
(R422), and so are those of the page tables, which software reads (R115). -/
def State.placeOwn (s : State) (n : Nat) : State :=
  if (s.page n).valid then s
  else
    let f := s.pickFrame 1
    let plain := decide (n = s.tableLoc 0 / pageSize) || decide (n = s.tableLoc 1 / pageSize) || s.tablePages.contains n
    f.2.setPage n { frame := f.1, tier := 1, owner := 63, valid := true, pinned := true, secure := !plain, modulePinned := true }

/-- The pages firmware places once DRAM is trained (R205; log entry 33). -/
def State.placeModule (s : State) : State :=
  (([0, 1, 2, 3, 4, 6].map (fun k => s.tableLoc k / pageSize)) ++ s.tablePages ++ Config.modulePages).foldl (fun (s : State) n => s.placeOwn n) s

/-- Step 2: generation 0 in every line; nothing is mapped (R213). -/
def State.dramTrained (s : State) : State := ((s.setMem {}).setMc { s.mc with step := 3 }).placeModule

/-- Step 3: the vault mounted, the LOCAL base key unwrapped, the first patrol pass a day later (log entry 55). -/
def State.mountVault (s : State) : State :=
  let s1 := s.setMc { s.mc with step := 4, vaultMounted := true }
  (s1.setLift { s1.lift with patrolAt := s1.nowUs + dayUs, patrolLate := false }).unwrapBase

/-- Step 4: tick alignment (R366, R371). Which crossing fails is physical and free. -/
def State.alignStep (s : State) (ok : Bool) : State :=
  if ok then s.setMc { s.mc with step := 5, ticksAligned := true, tickFailed := 0 }
  else
    let f := s.pick 256
    (f.2.setMc { f.2.mc with step := 5, ticksAligned := false, tickFailed := f.1 }).raise pgMC 1

/-- Every domain of the grade but HI in hostless operation (R403). -/
def State.allDomains (s : State) : List Nat := (List.range 0x100).filter (fun d => s.domainExists d && !(s.settings.hostless && decide (d = 0x80)))

/-- Step 5: every domain released, epochs stepped, fences lifted, the links' training begun (R336, R353). -/
def State.releaseAll (s : State) : State :=
  let ds := s.allDomains
  let s1 := (ds.filter (fun d => !([0x84, 0x85, 0x86] : List Nat).contains d)).foldl (fun (s : State) d => s.stepEpoch d) s
  let s2 := (s1.setUp ds).setResets (s1.resets.filter (fun r => ([0x84, 0x85, 0x86] : List Nat).contains r.dom))
  let s3 := modulePages.foldl (fun (s : State) n => if (s.hdr n).fenced then s.liftFence n else s) s2
  let s4 := s3.setHost { s3.host with training := !s3.settings.hostless, netUp := [(0, 3), (1, 3)] }
  let s5 := (List.range 16).foldl (fun (s : State) n => s.setLink n { s.link n with st := .training }) s4
  s5.setMc { s5.mc with step := 6 }

/-- The settings put in force: fabric ID and epoch, and in hostless operation each port's connections (R234, R235, R403). -/
def State.applySettings (s : State) : State :=
  let st := s.settings
  let s1 := (s.wr pgCL 0x040 (BitVec.ofNat 32 (st.fabricId % 32768))).wr pgCL 0x044 st.epoch
  if st.hostless then
    st.conns.foldl (fun (s : State) c =>
      let x : Conn := { ip := c.2.take 4, qpn := (c.2.getD 4 0).toNat % 2 ^ 24, valid := true }
      s.setHost { s.host with conns := AMap.put {} s.host.conns c.1 x }) s1
  else s1

/-- The end of the step in progress; `ok` says whether it succeeded. -/
def State.endStep (s : State) (ok mainPermit : Bool) : State :=
  let m := s.mc
  match m.step with
  | 0 => if ok && mainPermit && !m.mainOff && !m.tripHold then (s.setMc { m with mainPermit := true }).beginStep1 else s
  | 1 => if ok then s.setMc { m with step := 2, mainOk := true } else s
  | 2 => if ok then s.dramTrained else s.setMc { m with stopped := true, failStep := 2 }
  | 3 => if ok then s.mountVault else s.setMc { m with step := 4, vaultMounted := false }
  | 4 => s.alignStep ok
  | 5 => s.releaseAll.applySettings
  | 6 => ((s.setMc { m with step := 7, ready := true }).raise pgMC 5).mcIssues
  | _ => s

/-- POWER_STEP_DONE (R428, R429). Steps 4 to 7 go on whatever fails. The MC runs the sequence; recovery mode keeps the main rail off (R352). -/
def execPowerStepDone (ok mainPermit : Bool) (s : State) : Host.Outcome State Fault Refusal :=
  .next (if s.mc.sbOk && s.mc.running && !s.mc.stopped && !s.resets.any (fun r => r.dom == 0xFF && r.phase == 1) then s.endStep ok mainPermit else s)

/-! ## Rails (R425 to R427, R439) -/

/-- STANDBY_RAIL_UP (R428): kindling starts, with the firebox, the MC's boot and the card. -/
def execStandbyRailUp (s : State) : Host.Outcome State Fault Refusal :=
  .next (
    if s.mc.sbOk then s
    else
      let s1 := s.setMc { s.mc with sbOk := true, step := 0, booting := true, bootAt := s.nowUs }
      (s1.setMeter { s1.meter with present := !s1.meter.out }).setUp [0x84])

/-- The main converters off: what is on the main rail is lost (R426). -/
def State.loseMain (s : State) : State :=
  let bank := decide (s.mc.bank ≠ .normal)
  let s1 := s.wipeModule
  s1.setMc { s1.mc with step := 0, mainOk := false, mainOff := true, faultAt := s1.nowUs, railLost := s1.mc.railLost || bank }

/-- A main rail fault (R426). -/
def State.mainFault (s : State) : State :=
  if s.mc.sbOk && s.mc.mainOk then (s.loseMain.bump pgMC 0x020 1).raise pgMC 4 else s

/-- MAIN_RAIL_FAULT (R426). -/
def execMainRailFault (s : State) : Host.Outcome State Fault Refusal := .next s.mainFault

/-- MAIN_PERMIT_FALL (R439). -/
def execMainPermitFall (s : State) : Host.Outcome State Fault Refusal := .next (s.setMc { s.mc with mainPermit := false }).mainFault

/-- MAIN_RAIL_RETURN (R426, R439): in range for 100 ms, with MAIN_PERMIT. -/
def execMainRailReturn (mainPermit : Bool) (s : State) : Host.Outcome State Fault Refusal :=
  .next (
    let m := s.mc
    if m.mainOff && mainPermit && m.sbOk && m.running && decide (m.faultAt + 100000 ≤ s.nowUs) then
      (let s1 := s.setMc { m with mainOff := false, mainPermit := true }
       if m.tripHold then s1 else s1.beginStep1)
    else s)

/-- STANDBY_RAIL_LOSS (R382, R427): what is not in the vault, the flash, the fuses or the card is lost; the card completes its window. -/
def execStandbyRailLoss (s : State) : Host.Outcome State Fault Refusal :=
  .next (
    if !s.mc.sbOk then s
    else
      let s1 := if s.mc.mainOk then s.loseMain else s.wipeModule
      let m := s1.mc
      let mt := s1.meter
      let mt1 : Meter := if mt.present then { (mt.closeWindow (Config.windowMj s.nowUs) false) with lossWindow := true } else mt
      { s1 with
        regs := [], force := [], pages := [], latch := [], up := [], epochs := [], resets := [],
        fbx := { keys := s1.fbx.reloadKeys, block := s1.fbx.block, regions := [], wrapped := s1.fbx.wrapped, wrappedDbg := s1.fbx.wrappedDbg,
                 lockFuse := s1.fbx.lockFuse, floors := s1.fbx.floors, svns := s1.fbx.svns },
        mc := { slotB := m.slotB, active := m.active, committedA := m.committedA, committedB := m.committedB, tries := m.tries, fallback := m.fallback,
                imgA := m.imgA, imgB := m.imgB, sa0 := m.sa0, sa1 := m.sa1, bundle := m.bundle },
        meter := { mt1 with present := false, held := [], snap := [] } })

/-- MOD_RST (R430). -/
def execModRst (s : State) : Host.Outcome State Fault Refusal := .next (if s.mc.sbOk && s.mc.running then s.requestReset 0xFF 0 else s)

/-! ## The sideband outputs of J1 (R433, R434, R439) -/

/-- PRSNT# is tied low. -/
def prsntLow : Bool := true
/-- MAIN_PG: the main rail in regulation. -/
def State.mainPg (s : State) : Bool := s.mc.mainOk
/-- SB_PG: the standby rail in range at the module. -/
def State.sbPg (s : State) : Bool := s.mc.sbOk
/-- THERM_TRIP# is low from a trip until the hottest junction has fallen below 80 °C. -/
def State.thermTripLow (s : State) : Bool := s.mc.tripHold
/-- PWR_ALERT# is low while the clock is below entry 0. -/
def State.pwrAlertLow (s : State) : Bool := decide (s.mc.vfPoint ≠ 0)

/-! ## Clock and heat (R432 to R435) -/

def State.vfValid (s : State) (i : Nat) : Bool := (s.mc.bundle.vf.getD i {}).valid

/-- The next VALID entry below the current one in speed, and the next above. -/
def State.vfDown (s : State) : Option Nat := ((List.range 32).filter (fun i => decide (s.mc.vfPoint < i) && s.vfValid i)).head?
def State.vfUp (s : State) : Option Nat := ((List.range 32).filter (fun i => decide (i < s.mc.vfPoint) && s.vfValid i)).getLast?
def State.vfLast (s : State) : Nat := ((List.range 32).filter (fun i => s.vfValid i)).getLastD s.mc.vfPoint

/-- A step to an entry; THROTTLE at the first step down (R433, R442). -/
def State.vfGo (s : State) (i : Nat) : State :=
  let first := decide (s.vfUp = none) && decide (s.mc.vfPoint < i)
  let s1 := s.setMc { s.mc with vfPoint := i, coolMs := 0 }
  if first then s1.raise pgMC 2 else s1

/-- One check of the rules of R433 and of the 105 °C rule of R434. -/
def State.vfCheck (s : State) (watts tj : Nat) : State :=
  let cap := fld (s.frc pgMC 0x184) 11 0
  let here := s.mc.bundle.vf.getD s.mc.vfPoint {}
  if 105 < tj then (if s.vfLast = s.mc.vfPoint then s else s.vfGo s.vfLast)
  else if cap < watts || here.tjMax < tj then (match s.vfDown with | some i => s.vfGo i | none => s.setMc { s.mc with coolMs := 0 })
  else
    match s.vfUp with
    | none => s
    | some i =>
      if 100 * watts ≤ 95 * cap && tj + 5 ≤ (s.mc.bundle.vf.getD i {}).tjMax then
        (if 99 ≤ s.mc.coolMs then s.vfGo i else s.setMc { s.mc with coolMs := s.mc.coolMs + 1 })
      else s.setMc { s.mc with coolMs := 0 }

/-- DVFS_CHECK (R433, R434): one check a millisecond, with the 10 ms average power and the hottest junction. -/
def execDvfsCheck (watts tj : Nat) (s : State) : Host.Outcome State Fault Refusal :=
  .next (
    if !s.mc.running || !s.mc.mainOk then s
    else
      let s1 := s.setMc { s.mc with watts := watts, tj := tj }
      (if (s1.vfUp).isSome then s1.bump pgMC 0x028 1 else s1).vfCheck watts tj)

/-- THERMAL_TRIP (R434): a module reset with cause 1, and the main rail held off after it. -/
def execThermalTrip (s : State) : Host.Outcome State Fault Refusal :=
  .next (
    if !s.mc.running || !s.mc.mainOk || s.mc.tripHold then s
    else (((s.setMc { s.mc with tripHold := true }).bump pgMC 0x038 1).raise pgMC 3).requestReset 0xFF 1)

/-- THERMAL_TRIP_RELEASE (R434): the sequence starts again from step 1 where the rail was held off. -/
def execThermalTripRelease (s : State) : Host.Outcome State Fault Refusal :=
  .next (
    if !s.mc.tripHold then s
    else
      let s1 := s.setMc { s.mc with tripHold := false }
      if s.mc.mainOk || s.mc.mainOff then s1 else s1.beginStep1)

/-- COOLANT_OUT_OF_RANGE (R435): inlet in °C, flow in mL/min. -/
def execCoolantOutOfRange (inlet flow : Nat) (s : State) : Host.Outcome State Fault Refusal :=
  .next (
    if !s.mc.running then s
    else
      let s1 := s.setMc { s.mc with inlet := inlet, flow := flow }
      if 40 < inlet || flow < 2000 then s1.raise pgMC 6 else s1)

end Sys2Proof.Machine
end

