-- ==== Sys2Proof/Machine/RegPages.lean ====
section
/-!
DEFINITION. The register pages (R6 to R10, R97, R408 to R423): what each word reads as, what a write of it does, the consistency check, the header
semaphore, and the table page.
-/

namespace Sys2Proof.Machine

def w32 (n : Nat) : Word := BitVec.ofNat 32 n

def b2n (b : Bool) : Nat := if b then 1 else 0

/-! ## Counters (R97, R409) -/

/-- Is a word of a page half of a 64-bit counter? -/
def isCounter (k : Kind) (off : Nat) : Bool :=
  (headerCounters k).any (fun r => r.off == off) ||
  match k with
  | .se => (decide (0x058 ≤ off) && decide (off < 0x080)) || (decide (0x0C0 ≤ off) && decide (off < 0x0F0))
  | .ht => decide (0x058 ≤ off) && decide (off < 0x070)
  | .wx => decide (0x058 ≤ off) && decide (off < 0x070)
  | .mc => decide (0x130 ≤ off) && decide (off < 0x140)
  | _ => false

/-- Does a word carry SEC (R8)? -/
def isSec (k : Kind) (off : Nat) : Bool := match regAt k off with | some r => r.sec | none => false

/-! ## Tables (R421, R422) -/

/-- Entry bytes and entries of a table. -/
def tableShape (t : Nat) : Option (Nat × Nat) :=
  match t with
  | 1 => some (32, 16)
  | 2 => some (16, 512)
  | 3 => some (16, 512)
  | 4 => some (64, 512)
  | 5 => some (256, 512)
  | 6 => some (64, 8192)
  | 7 => some (32, 16)
  | 8 => some (16, 512)
  | 9 => some (8, 512)
  | 10 => some (16, 32)
  | 11 => some (64, 32768)
  | 12 => some (64, 1024)
  | 13 => some (64, 4096)
  | _ => none

/-- Is a table one of the base's? -/
def baseTable (t : Nat) : Bool := decide (2 ≤ t) && decide (t ≤ 6)

/-- Does a table hold content? The routes load with the links' training, at step 5 of R428 (R423). -/
def State.tableLoaded (s : State) (t : Nat) : Bool :=
  if baseTable t then s.lift.base.isSome else if t = 11 then decide (5 < s.mc.step) else (tableShape t).isSome && s.mc.loaded

/-- VERSION of a table; that of the routes is the SEQ of the settings (log entry 58). -/
def State.tableVersion (s : State) (t : Nat) : Nat :=
  if !s.tableLoaded t then 0
  else if baseTable t then (s.lift.base.getD {}).siteMap else if t = 11 then s.settings.seq else s.mc.bundle.version

/-- A byte list of codes. -/
def codeBytes (l : List Nat) : List Byte := l.map (BitVec.ofNat 8)

/-- A loss-table entry's bytes (R173). -/
def LossEnt.bytes (e : LossEnt) : List Byte :=
  codeBytes [e.kind, e.baseline, e.norm, e.klKind] ++
  ([e.epsLow, e.epsHigh, e.dualC, e.klCoef, e.stdEps, e.ratioMax].flatMap (fun (w : F32) => leBytes w.toNat 4))

/-- Free bytes of an entry whose layout the manual does not give (log entry 58). -/
def freeEntry (id : BitVec 256) (t i n : Nat) : List Byte := (List.range n).map (fun j => Config.tableByte id t i j)

/-- A base table's entry; a layer the base does not have reads as zeros. -/
def baseEntry (m : Manifest) (t i n : Nat) : List Byte :=
  let l := m.layers.getD i {}
  match t with
  | 2 => codeBytes l.codeTable
  | 3 => codeBytes l.kvTable
  | 5 => l.outliers.flatMap (fun o => leBytes o 4)
  | 4 => if i < m.layers.length then freeEntry m.baseId t i n else []
  | _ => if i < m.tiles.length then freeEntry m.baseId t i n else []

/-- A table's entry, `n` bytes. RERUN_COUNT stands in memory, where strides and software change it (R48, R56, R423). -/
def State.tableEntry (s : State) (t i n : Nat) : List Byte :=
  padTo n (
    if !s.tableLoaded t then []
    else if baseTable t then baseEntry (s.lift.base.getD {}) t i n
    else
      match t with
      | 1 => s.mc.bundle.slotRows.getD i []
      | 7 => (s.lossEnt i).bytes
      | 8 =>
        let e := s.rerunEnt i
        leBytes e.thresh 2 ++ leBytes (b2n e.enable + 2 * b2n e.grad) 6 ++ s.peek (s.tableLoc 0 + 16 * i + 8) 8
      | 9 =>
        let e := s.detourEnt i
        leBytes e.mode 4 ++ leBytes e.waitMax 4
      | 10 =>
        let e := s.mc.bundle.vf.getD i {}
        leBytes e.mhz 2 ++ leBytes e.mv 2 ++ leBytes e.tjMax 1 ++ leBytes (b2n e.valid) 1
      | 11 => freeEntry (BitVec.ofNat 256 s.settings.seq) t i n
      | 12 => s.mc.bundle.text.getD i []
      | _ => s.mc.bundle.profileRows.getD i [])

/-- A TB.ENTRY word past its gate (R422). -/
def State.writeTbEntry (s : State) (v : Word) : State :=
  let t := fld (s.rd pgTB 0x040) 7 0
  let i := fld v 15 0
  match tableShape t with
  | none => s.refuse pgTB 0x0259
  | some (n, total) =>
    if total ≤ i then s.refuse pgTB 0x0259
    else { s.wr pgTB 0x044 (v &&& 0xFFFF) with tbData := s.tableEntry t i n }

/-- TB_ENTRY_WRITE (R422, R423). -/
def execTbEntryWrite (o : Origin) (v : Word) (s : State) : Host.Outcome State Fault Refusal :=
  .next (s.withWrite o (pgTB * 0x1000 + 0x044) (fun s _ => s.writeTbEntry v))

/-! ## What the words read as -/

/-- Does a contained fault of the page's block await its reset (R341, R409)? -/
def State.faultOf (s : State) (page : Nat) : Bool := s.resets.any (fun r => r.cause == 1 && r.phase == 1 && (domPages r.dom).contains page)

/-- STATUS, whose STATE no chapter gives a code for. -/
def State.statusWord (s : State) (page : Nat) : Word :=
  let h := s.hdr page
  w32 (b2n h.enabled + 2 * b2n h.refused + 4 * b2n (s.faultOf page) + 8 * b2n h.fenced + 16 * b2n h.checking.isSome)

/-- The header words but for the counters (R409). -/
def State.headerWord (s : State) (k : Kind) (n page off : Nat) : Word :=
  let h := s.hdr page
  match off with
  | 0x000 => w32 (k.type + n * 65536)
  | 0x004 => w32 (Config.identityWord 2 % 256 + 0x0500 + 0xB00000)
  | 0x008 => h.ctrl (s.worldBit k)
  | 0x00C => s.statusWord page
  | 0x010 => h.reason.setWidth 32
  | 0x014 => h.evStat
  | 0x018 => h.evEn
  | 0x01C => w32 (h.semPart.toNat + h.semDom.toNat * 256 + b2n h.semHeld * 65536 + b2n h.semAband * 131072)
  | _ => 0

/-- Bit i: member i of a list of 32. -/
def bitsOf (f : Nat → Bool) : Word := w32 ((List.range 32).map (fun i => if f i then 2 ^ i else 0)).sum

/-- The laws of R367 found broken, law by law, in MC.AUDIT_SUMMARY (R371). -/
def State.auditSummary (s : State) : Word :=
  let law := fun (i : Nat) => match i with
    | 0 => (List.range 16).any (fun n => decide (s.rd (pgFL n) 0x048 ≠ 0))
    | 1 => decide (s.rd pgQPM 0x040 ≠ 0) || (List.range 32).any (fun p => decide (s.rd (pgQP p) 0x040 ≠ 0))
    | 2 => decide (s.rd pgWX 0x080 ≠ 0)
    | 3 => decide (s.rd pgRK 0x054 ≠ 0)
    | 4 => (s.rd pgMS 0x04C).getLsbD 0
    | 5 => (s.rd pgMT 0x040).getLsbD 0
    | _ => false
  bitsOf law

def BankSt.code (b : BankSt) : Nat := match b with | .normal => 0 | .banking => 1 | .banked => 2 | .adopting => 3

/-- MC (R354, R366, R371, R418, R441). -/
def State.mcWord (s : State) (off : Nat) : Word :=
  let m := s.mc
  let f := fun (i : Nat) => s.part.fused.getD i 0 * 2 ^ (8 * i)
  match off with
  | 0x040 => w32 (s.gradeHearths + 0xB000 + b2n s.part.vault64 * 65536)
  | 0x044 => if s.part.grade60 then w32 (f 0 + f 1 + f 2 + f 3 + 2 ^ 31) else 0
  | 0x048 => w32 s.part.serial.toNat
  | 0x04C => w32 (s.part.serial.toNat / 2 ^ 32)
  | 0x104 => s.rd pgMC 0x104 + w32 ((match s.resets.getLast? with | some r => r.phase | none => 0) * 256)
  | 0x108 => s.epoch (fld (s.rd pgMC 0x100) 7 0)
  | 0x110 => 0
  | 0x118 => w32 (m.bank.code + m.bankCause * 16 + b2n m.railLost * 64)
  | 0x120 => w32 (b2n m.slotB + 2 * b2n (m.committed m.slotB) + m.tries % 4 * 4 + m.fallback % 8 * 16 + s.settings.format % 65536 * 65536)
  | 0x124 => 0
  | 0x128 => bitsOf (fun i => (s.hearth i).failed)
  | 0x12C => bitsOf (fun i => (s.hearth (32 + i)).failed)
  | 0x140 => s.auditSummary
  | 0x144 => w32 (b2n m.ticksAligned + m.tickFailed % 256 * 256)
  | 0x180 =>
    w32 (m.step + m.failStep * 16 + b2n m.stopped * 128 + b2n m.sbOk * 256 + b2n m.mainOk * 512 + b2n m.vaultMounted * 1024 + s.part.slotId.toNat * 65536)
  | 0x188 => w32 (m.vfPoint % 32 + (if m.mainOk then (m.bundle.vf.getD m.vfPoint {}).mhz % 2048 else 0) * 65536)
  | 0x18C => w32 (m.watts % 4096 + (if m.mainOk then Config.inputDv s.nowUs % 4096 else 0) * 65536)
  | 0x190 => w32 (m.tj % 256 + m.inlet % 256 * 256 + m.flow % 4096 * 65536)
  | _ => s.rd pgMC off

def TrngSt.code (t : TrngSt) : Nat := match t with | .off => 0 | .health => 1 | .condition => 2 | .ready => 3 | .failed => 4

/-- Four bytes of a list of numbers. -/
def word4 (l : List Nat) : Word := w32 ((List.range 4).map (fun i => l.getD i 0 % 256 * 2 ^ (8 * i))).sum

/-- FB (R332). -/
def State.fbWord (s : State) (off : Nat) : Word :=
  let f := s.fbx
  match off with
  | 0x040 => w32 (f.trng.code + f.bits % 1024 * 16 + min 65535 f.readyUs * 65536)
  | 0x044 => w32 (b2n f.lockFuse + 2 * b2n f.unlocked)
  | 0x048 => word4 f.floors
  | 0x04C => word4 f.svns
  | 0x050 => w32 ((f.keys.filter (fun e => e.2.used)).length + (f.sessions.filter (fun e => e.2.isSome)).length * 65536)
  | 0x054 => w32 (b2n f.baseKey.isSome + 2 * b2n (match s.lift.installed with | some m => m.online | none => false) + 4 * b2n s.lift.openInstall)
  | 0x058 => w32 (f.regions.filter (fun e => e.2.valid)).length
  | _ => s.rd pgFB off

/-- MQ (R386). -/
def State.mqWord (s : State) (off : Nat) : Word :=
  let m := s.meter
  let a := (s.rd pgMQ 0x060).toNat
  let k := (off - 0x070) / 0x10
  if off = 0x064 then w32 (b2n (decide (a = 0) || m.alloc.contains a))
  else if 0x070 ≤ off && off < 0x0C0 then
    (match off % 16 with
     | 0 => w32 (s.meterCounter k)
     | 4 => w32 (AMap.get 0 m.snap k / 2 ^ 32)
     | 8 => w32 (AMap.get 0 m.snap k / 2 ^ 64 % 65536)
     | _ => 0)
  else if off = 0x0C0 then w32 (b2n m.sealBroken + 2 * b2n m.outOfClass + min 65536 m.alloc.length * 16)
  else if off = 0x0C4 then w32 m.auditFaults
  else if off = 0x0C8 then w32 m.tampers
  else if off = 0x0CC then w32 m.fwChanges
  else s.rd pgMQ off

/-- HI (R405, R419). -/
def State.hiWord (s : State) (off : Nat) : Word :=
  let h := s.host
  match off with
  | 0x040 => w32 ((if h.linkUp then 2 else if h.training then 1 else 0) + h.mode % 8 * 4 + h.width % 32 * 32 + b2n (decide (h.width = 8)) * 1024)
  | 0x068 => w32 (s.tableLoc 6)
  | 0x06C => w32 (s.tableLoc 6 / 2 ^ 32)
  | 0x084 => AMap.get 0 h.intmap (fld (s.rd pgHI 0x080) 13 0)
  | _ => s.rd pgHI off

/-- NP (R406). -/
def State.npWord (s : State) (n off : Nat) : Word :=
  let c := s.conn n (s.connSel n)
  let up := AMap.get 0 s.host.netUp n
  match off with
  | 0x040 => w32 ((if s.portUp n then 2 else if up = 3 then 1 else 0) + 4 * b2n (decide (up = 2)))
  | 0x044 => w32 (Config.identityWord (10 + n))
  | 0x048 => w32 (Config.identityWord (10 + n) / 2 ^ 32 % 65536)
  | 0x064 => c.ip.getD 0 0
  | 0x068 => c.ip.getD 1 0
  | 0x06C => c.ip.getD 2 0
  | 0x070 => c.ip.getD 3 0
  | 0x074 => w32 (c.qpn % 2 ^ 24 + b2n c.valid * 2 ^ 31)
  | 0x078 => w32 (Config.identityWord (16 + 4 * n + s.connSel n) % 2 ^ 24)
  | 0x07C => w32 (c.pmtu + c.prio * 256)
  | _ => s.rd (pgNP n) off

/-- MS (R222). -/
def State.msWord (s : State) (off : Nat) : Word :=
  let l := s.lift
  let total := (l.installed.getD {}).shards.length
  match off with
  | 0x044 => w32 s.dramFree
  | 0x048 => w32 s.cohFree
  | 0x04C => s.rd pgMS 0x04C + w32 (min 65535 s.mem.migr.length * 16)
  | 0x050 => w32 ((if total = 0 then 0 else 100 * l.patrolPos / total) % 128 + b2n l.patrolOn * 128 + min 65535 l.bad.length * 256)
  | _ => s.rd pgMS off

/-- LF (R223, R442). -/
def State.lfWord (s : State) (off : Nat) : Word :=
  let l := s.lift
  match off with
  | 0x048 =>
    w32 ((l.bufs.filter (fun b => b.claim.isSome && !b.landed.isEmpty)).length + (match l.bufs.find? s.filling with | some b => b.layer | none => 0) * 32 +
      b2n l.blocked * 2 ^ 14 + b2n l.streamed * 2 ^ 15)
  | 0x050 => w32 (s.tableLoc 2)
  | 0x054 => w32 (s.tableLoc 2 / 2 ^ 32)
  | 0x074 => w32 (b2n l.instBusy + 2 * b2n l.openInstall + l.passed.length % 2 ^ 24 * 256)
  | _ => s.rd pgLF off

/-- WX (R164). -/
def State.wxWord (s : State) (off : Nat) : Word :=
  match off with
  | 0x048 =>
    w32 (s.transfers + min 1023 (s.wx.fetches.filter (fun f => f.st == .waitStart && !s.slotFor f)).length * 65536)
  | 0x04C => w32 s.parks.length
  | 0x050 => w32 ((s.infs.filter (fun e => e.2.st == .landed || e.2.st == .valid || e.2.st == .filling)).length +
      (s.wxs.filter (fun e => e.2.used)).length * 65536)
  | 0x054 => w32 (min 0xFFFFF s.framesFree + (s.wx.saves.filter (·.begun)).length * 2 ^ 20)
  | _ => s.rd pgWX off

/-- CL (R258). -/
def State.clWord (s : State) (off : Nat) : Word :=
  match off with
  | 0x050 => w32 (b2n s.fab.quarantined + min 4095 s.fab.commits.length * 2)
  | 0x058 => w32 (s.tableLoc 3)
  | 0x05C => w32 (s.tableLoc 3 / 2 ^ 32)
  | 0x060 => w32 (s.tableLoc 4)
  | 0x064 => w32 (s.tableLoc 4 / 2 ^ 32)
  | _ => s.rd pgCL off

/-- RK (R355). -/
def State.rkWord (s : State) (off : Nat) : Word :=
  let m := s.sem (fld (s.rd pgRK 0x040) 13 0)
  match off with
  | 0x044 => w32 (m.part + b2n m.owned * 256)
  | 0x048 => w32 (m.value + m.held * 65536)
  | 0x04C => w32 (m.hPart + m.hDom * 256 + b2n m.aband * 65536)
  | 0x050 => m.hEpoch
  | _ => s.rd pgRK off

/-- TB (R422). -/
def State.tbWord (s : State) (off : Nat) : Word :=
  let t := fld (s.rd pgTB 0x040) 7 0
  let loc := if t = 8 then s.tableLoc 0 else if t = 9 then s.tableLoc 1 else 0
  if off = 0x048 then
    (match tableShape t with | some (n, total) => w32 (total + n / 8 * 65536 + b2n (s.tableLoaded t) * 2 ^ 31) | none => 0)
  else if off = 0x04C then w32 (s.tableVersion t)
  else if off = 0x050 then w32 loc
  else if off = 0x054 then w32 (loc / 2 ^ 32)
  else if 0x100 ≤ off && off < 0x200 then w32 (field s.tbData (off - 0x100) (off - 0x100 + 3))
  else s.rd pgTB off

/-- FL (R257); PLANE reads 0, its reset value, until the link trains (DEDUCED, log entry 168). -/
def State.flWord (s : State) (n off : Nat) : Word :=
  let l := s.link n
  match off with
  | 0x040 =>
    w32 ((match l.st with | .down => 0 | .training => 1 | .up => 2) + 4 * b2n l.degraded + 8 * b2n l.k4 + l.peer % 32768 * 16 +
      (if l.st = .down then 0 else n) * 2 ^ 20)
  | _ => s.rd (pgFL n) off

/-- DIE and QD (R420). -/
def State.dieWord (s : State) (n off : Nat) : Word :=
  match off with
  | 0x040 => w32 (if s.isUp (0x68 + n) then 2 else 0)
  | 0x044 => w32 (if 2 < s.mc.step then 0x3F else 0)
  | _ => s.rd (pgDIE n) off

def State.qdWord (s : State) (n off : Nat) : Word :=
  match off with
  | 0x040 => w32 ((List.range 8).map (fun i => if s.physOf.contains (8 * n + i) && !(s.hearth (8 * n + i)).failed then 2 ^ i else 0)).sum
  | _ => s.rd (pgQD n) off

/-- HT (R97, R98). The source of a fill in progress is free while a slot could be filling and none otherwise (log entry 95). -/
def State.htWord (s : State) (n off : Nat) : Word :=
  let y := s.hearth n
  match off with
  | 0x040 =>
    w32 ((match y.pass with | some d => d.hdr.mode | none => 0) + 4 * b2n (y.pass.isSome || !y.drainIn.isEmpty) + 8 * b2n y.frontBand.isSome +
      256 * (y.frontBand.getD 0 % 16) + 16 * b2n (y.pass.any (fun d => d.hdr.transposed)) + 32 * b2n y.stageWait + 64 * b2n y.stalled)
  | 0x044 => y.fold0
  | 0x048 => y.fold1
  | 0x04C => w32 (b2n y.stage0.isSome + 2 * b2n y.stage1.isSome + 4 * b2n y.nextSlot +
      16 * (if y.owner.isSome && !(y.stage0.isSome && y.stage1.isSome) then Config.fillSource n s.nowUs % 4 else 0))
  | 0x054 => w32 ((y.lines.filter (·.landed)).length + y.fillsOut * 65536)
  | 0x070 => w32 (y.table0 % 512 + y.table1 % 512 * 65536)
  | _ => s.rd (pgHT n) off

def StrideSt.code (x : StrideSt) : Nat :=
  match x with | .idle => 0 | .assemble => 1 | .forward => 2 | .sweep => 3 | .sample => 4 | .boundary => 5 | .paused => 6

/-- Slots and hold entries of a partition in given states. -/
def State.slotCount (s : State) (p : Nat) (f : SlotSt → Bool) : Nat := (s.slots.filter (fun e => e.2.owner == p && f e.2.st)).length
def State.holdCount (s : State) (p : Nat) (f : HoldSt → Bool) : Nat := (s.holds.filter (fun e => e.2.owner == p && f e.2.st)).length

/-- SE (R130, R189, R358, R360). -/
def State.seWord (s : State) (p off : Nat) : Word :=
  let e := s.seOf p
  let mine := s.parks.filter (fun k => k.part == p)
  match off with
  | 0x048 => w32 (s.slotCount p (fun x => x == .joining || x == .decoding) + s.slotCount p (fun x => x == .suspended || x == .faulted) * 65536)
  | 0x04C => w32 (mine.length + min 4095 (mine.filter (fun k => s.parkReady k)).length * 2 ^ 17)
  | 0x050 => w32 (e.st.code + b2n s.lift.streamed * 256 + b2n e.rerunActive * 512)
  | 0x0F8 => w32 (s.holdCount p (fun x => x == .held || x == .grouped) + s.holdCount p (fun x => x == .ready || x == .forward || x == .sweep) * 65536)
  | 0x100 => w32 (e.phase + s.segments * 256 + b2n (!e.sweeping.entries.isEmpty) * 65536)
  | 0x104 => w32 (e.collecting.rows / 16 + e.sweeping.rows / 16 * 65536)
  | 0x124 => w32 (b2n e.ordered + e.cuts.length * 256 + e.profile * 65536)
  | 0x128 => 0
  | _ => s.rd (pgSE p) off

def InstSt.code (x : InstSt) : Nat :=
  match x with | .disabled => 0 | .enabled => 1 | .freezing => 2 | .frozen => 3 | .saving => 4 | .restoring => 5 | .ashing => 6

/-- PT (R308, R354). -/
def State.ptWord (s : State) (p off : Nat) : Word :=
  let x := s.pt p
  match off with
  | 0x074 => w32 (x.st.code + (s.hearthsOf p).length * 256 + b2n x.resize.isSome * 2 ^ 15)
  | 0x0A4 => s.rd (pgPT p) 0x0A4 + w32 (b2n x.map.isSome * 65536)
  | _ => s.rd (pgPT p) off

def QSt.code (x : QSt) : Nat := match x with | .disabled => 0 | .running => 1 | .stopped => 2

/-- The queue an offset of a queue page belongs to, with its register (R261). -/
def queueOff (off : Nat) : Option (Nat × Nat × Nat) :=
  if 0x100 ≤ off && off < 0x600 then
    let i := (off - 0x100) / 0x20
    some (i / 8, i % 8, (off - 0x100) % 0x20)
  else none

/-- QP and QPM (R287). -/
def State.qpWord (s : State) (qp off : Nat) : Word :=
  match queueOff off with
  | some (e, q, r) =>
    let n := qNum qp e q
    let x := s.queue n
    (match r with
     | 0x08 => s.qcfg qp e q + w32 (b2n (decide (x.st ≠ .disabled) && !x.closing) * 65536)
     | 0x0C => x.tail
     | 0x10 => x.head
     | 0x14 => w32 (x.st.code + x.gen * 256 + (s.started.filter (fun c => c.qnum == n)).length % 65536 * 65536)
     | 0x18 => 0
     | 0x1C => 0
     | _ => s.rd (pgQP qp) off)
  | none => s.rd (pgQP qp) off

/-- CP (R420). -/
def State.cpWord (s : State) (off : Nat) : Word :=
  match off with
  | 0x040 => w32 (min 1023 (s.started.filter (fun c => c.eng == 3 && (c.opcode == 0x40 || c.opcode == 0x41) && c.phase == .running)).length)
  | _ => s.rd pgCP off

/-- A word of a page, counters and SEC apart. -/
def State.plainWord (s : State) (k : Kind) (n page off : Nat) : Word :=
  if off < 0x020 then s.headerWord k n page off
  else
    match k with
    | .mc => s.mcWord off
    | .fb => s.fbWord off
    | .fq => s.rd page off
    | .mt => if off = 0x044 then w32 (b2n s.meter.present + s.meter.held.length % 8192 * 65536) else s.rd page off
    | .mq => s.mqWord off
    | .hi => s.hiWord off
    | .np => s.npWord n off
    | .ms => s.msWord off
    | .lf => s.lfWord off
    | .wx => s.wxWord off
    | .cl => s.clWord off
    | .cp => s.cpWord off
    | .rk => s.rkWord off
    | .tb => s.tbWord off
    | .fl => s.flWord n off
    | .qd => s.qdWord n off
    | .die => s.dieWord n off
    | .ht => s.htWord n off
    | .se => s.seWord n off
    | .pt => s.ptWord n off
    | .qpm => s.qpWord 32 off
    | .qp => s.qpWord n off
    | .mb => s.rd page off

/-- A word of the MSI-X table or the pending-bit array (R419, PCIe; log entry 13). -/
def msixKey (off : Nat) : Nat := (off - 0x3000000) / 4
def msixRst (key : Nat) : Word := if key % 4 = 3 then 1 else 0

def State.msixWord (s : State) (off : Nat) : Word :=
  if off < 0x3008000 then AMap.get (msixRst (msixKey off)) s.host.msix (msixKey off)
  else if off < 0x3008100 then bitsOf (fun i => AMap.get false s.host.pba ((off - 0x3008000) / 4 * 32 + i))
  else 0

/-- An aligned word of the window as a requester reads it, and the state after the read (R8, R97, R379). -/
def State.readWord (s : State) (off : Nat) (r : Req) : Word × State :=
  let page := off / 0x1000
  let po := off % 0x1000
  match kindOf page with
  | none => (s.msixWord off, s)
  | some (k, n) =>
    if isSec k po && !r.secure then (0, s)
    else if isCounter k po then (if po % 8 = 0 then (s.rd page po, s.snapshot page po) else (s.latchOf page (po - 4), s))
    else if k = .mq && 0x070 ≤ po && po < 0x0C0 && po % 16 = 0 then (s.mqWord po, s.meterLo ((po - 0x070) / 0x10))
    else (s.plainWord k n page po, s)

/-! ## What a write of a word does -/

/-- A register without behaviour of its own (R7 to R10, R410): the field set, held pending where it is checked, bits cleared by 1, and on top what
hardware does in the same cycle: it sets bits of a register whose bits a 1 clears, or increments a counter. -/
def State.writeGeneric (s : State) (k : Kind) (page off : Nat) (v : Word) (hwInc : Nat) : State :=
  match regAt k off with
  | none => s
  | some g =>
    let new := (((s.rd page off &&& ~~~g.rw) ||| (v &&& g.rw)) &&& ~~~(v &&& g.clr)) ||| (w32 hwInc &&& g.clr)
    let h := s.hdr page
    let s1 := if g.chk ≠ 0 && (h.enabled || h.checking.isSome) then s.wrPending page off g.chk new else s.wr page off new
    if isCounter k off then s1.bump page (off - off % 8) hwInc else s1

/-- A W1C write of EVENT_STATUS with the events hardware sets in its cycle (R9, R415); a mailbox's sides clear their own incoming bit (R307). -/
def State.clearEvents (s : State) (k : Kind) (page : Nat) (r : Req) (mask hw : Word) : State :=
  let m := if k = .mb then (if r.part.isSome then mask &&& 2 else mask &&& 1) else mask
  let h := s.hdr page
  (s.setHdr page { h with evStat := (h.evStat &&& ~~~m) ||| hw }).resend page

/-- A write of EVENT_ENABLE (R415). -/
def State.enableEvents (s : State) (page : Nat) (v : Word) : State := (s.setHdr page { s.hdr page with evEn := v }).resend page

/-- A write of the header SEM (R346). -/
def State.writeHeaderSem (s : State) (page : Nat) (r : Req) (v : Word) : State :=
  let h := s.hdr page
  let part := BitVec.ofNat 6 r.partNo
  let dom := BitVec.ofNat 8 r.dom
  if v.getLsbD 16 then
    (if h.semHeld then s else s.setHdr page { h with semHeld := true, semPart := part, semDom := dom, semEpoch := s.epoch r.dom })
  else if h.semHeld && decide (h.semPart = part) && decide (h.semDom = dom) then
    s.setHdr page { h with semHeld := false, semPart := 0, semDom := 0, semEpoch := 0, semAband := false }
  else s

/-- A queue page's queue registers (R261, R264, R282, R287). -/
def State.writeQueueReg (s : State) (qp e q r : Nat) (v : Word) : State :=
  let x := s.queue (qNum qp e q)
  let pg := pgQP qp
  let off := qOff e q + r
  match r with
  | 0x00 => if x.st ≠ .disabled && s.rd pg off ≠ v then s.refuse pg 0x0704 else s.wr pg off v
  | 0x04 => if x.st ≠ .disabled && s.rd pg off ≠ v then s.refuse pg 0x0704 else s.wr pg off v
  | 0x08 =>
    let s1 := s.writeQcfg qp e q v
    if v.getLsbD 17 && decide (x.st = .stopped) && decide (s.qcfg qp e q &&& 0x7F = v &&& 0x7F) then s1.restartQueue qp e q else s1
  | 0x0C => s.writeTail qp e q v false
  | _ => s

/-- FQ.REQ_PROD (R321, R333): each new request is posted now; a failed random source refuses those that need it. -/
def State.writeReqProd (s : State) (v : Word) : State :=
  let old := s.rd pgFQ 0x04C
  let s1 := s.wr pgFQ 0x04C v
  let n := min (s1.ringCount ringFQ) (s1.ringSize ringFQ)
  let more := List.replicate (min (v - old).toNat (s1.ringSize ringFQ)) s1.nowUs
  let s2 := s1.setFbx { s1.fbx with posted := (s1.fbx.posted ++ more).take n }
  if s2.fbx.trng = .failed then s2.refuseRandom 1024 else s2

/-- NP's CONN registers of the selected connection (R400, R406). -/
def State.writeConn (s : State) (n off : Nat) (v : Word) : State :=
  let c := s.connSel n
  let x := s.conn n c
  if x.valid then s.refuse (pgNP n) 0x0335
  else if off = 0x07C then
    (if fld v 2 0 = 0 || 5 < fld v 2 0 then s.refuse (pgNP n) 0x0259 else s.setConn n c { x with pmtu := fld v 2 0, prio := fld v 11 8 })
  else s.setConn n c { x with ip := x.ip.set ((off - 0x064) / 4) v }

/-- MC's registers with a behaviour of their own (R337, R347 to R351, R441). -/
def State.writeMc (s : State) (off : Nat) (v : Word) (hwInc : Nat) : State :=
  match off with
  | 0x100 => s.writeResetCtrl v
  | 0x110 => s.heartbeat
  | 0x114 =>
    let s1 := s.writeGeneric .mc pgMC 0x114 v 0
    if v.getLsbD 0 && !(s.rd pgMC 0x114).getLsbD 0 then s1.heartbeat else s1
  | 0x118 => s.setMc { s.mc with railLost := (s.mc.railLost && !v.getLsbD 6) || (w32 hwInc).getLsbD 6 }
  | 0x11C => s.writeAdopt v
  | 0x124 =>
    let s1 := if v.getLsbD 0 then s.commitFw else s
    if v.getLsbD 1 then s1.switchFw else s1
  | 0x184 => if fld v 11 0 < 1000 || 2400 < fld v 11 0 then s.refuse pgMC 0x0259 else s.wr pgMC 0x184 (v &&& 0xFFF)
  | _ => s.writeGeneric .mc pgMC off v hwInc

/-- HI's (R391, R397, R419). -/
def State.writeHi (s : State) (off : Nat) (v : Word) (hwInc : Nat) : State :=
  match off with
  | 0x050 =>
    if v &&& 0x7FFFFF ≠ s.frc pgHI 0x050 && decide (s.framesUsed 2 ≠ 0) then s.refuse pgHI 0x0335 else s.writeGeneric .hi pgHI 0x050 v 0
  | 0x060 => s.writePlaceCtrl v
  | 0x084 => s.setHost { s.host with intmap := AMap.put 0 s.host.intmap (fld (s.rd pgHI 0x080) 13 0) (v &&& 0x800007FF) }
  | _ => s.writeGeneric .hi pgHI off v hwInc

/-- NP's (R400, R402, R406). -/
def State.writeNp (s : State) (n off : Nat) (v : Word) (hwInc : Nat) : State :=
  if off = 0x060 then (if fld v 1 0 = 3 then s.refuse (pgNP n) 0x0259 else s.wr (pgNP n) 0x060 (v &&& 3))
  else if off = 0x074 then s.writeConnQpn n v
  else if off = 0x07C || (0x064 ≤ off && off ≤ 0x070) then s.writeConn n off v
  else if off = 0x0A0 then (if v.getLsbD 0 then s.pushStart n else s)
  else s.writeGeneric .np (pgNP n) off v hwInc

/-- Is any flue link up? -/
def State.anyLinkUp (s : State) : Bool := s.fab.links.any (fun e => e.2.st == .up)

/-- PT's (R293, R299, R301, R306). -/
def State.writePt (s : State) (p off : Nat) (v : Word) (hwInc : Nat) : State :=
  match off with
  | 0x078 => if v.getLsbD 0 then s.resizeGo p else s
  | 0x088 =>
    let s1 := if v.getLsbD 0 then s.saveGo p else s
    if v.getLsbD 1 then s1.restoreGo p else s1
  | 0x0A0 => s.writeMapCtrl p v
  | _ => s.writeGeneric .pt (pgPT p) off v hwInc

/-- A word of a page beyond the header. -/
def State.writeBody (s : State) (k : Kind) (n page off : Nat) (r : Req) (v : Word) (hwInc : Nat) : State :=
  match k with
  | .mc => s.writeMc off v hwInc
  | .hi => s.writeHi off v hwInc
  | .np => s.writeNp n off v hwInc
  | .pt => s.writePt n off v hwInc
  | .lf => if off = 0x070 then (if v.getLsbD 0 then s.instGo else s) else s.writeGeneric k page off v hwInc
  | .cl => if off = 0x044 && s.anyLinkUp then s.refuse pgCL 0x0703 else s.writeGeneric k page off v hwInc
  | .rk => if off = 0x044 then s.writeSemCfg v else s.writeGeneric k page off v hwInc
  | .tb => if off = 0x044 then s.writeTbEntry v else s.writeGeneric k page off v hwInc
  | .fq => if off = 0x04C then s.writeReqProd v else s.writeGeneric k page off v hwInc
  | .se =>
    if off = 0x054 then s.writeStrideCtrl n v
    else if off = 0x128 then s.writeStep n v
    else s.writeGeneric k page off v hwInc
  | .qp => (match queueOff off with | some (e, q, g) => s.writeQueueReg n e q g v | none => s.writeGeneric k page off v hwInc)
  | .qpm => (match queueOff off with | some (e, q, g) => s.writeQueueReg 32 e q g v | none => s.writeGeneric k page off v hwInc)
  | .mb => if off < 0x040 then s.writeGeneric k page off v hwInc else s.writeMb n off r v
  | _ => s.writeGeneric k page off v hwInc

/-- A word of the MSI-X table (R415, R419); the pending-bit array ignores writes. -/
def State.writeMsix (s : State) (off : Nat) (v : Word) : State :=
  if off < 0x3008000 then
    let k := msixKey off
    (s.setHost { s.host with msix := AMap.put (msixRst k) s.host.msix k (if k % 4 = 3 then v &&& 1 else v) }).flushPba
  else s

/-- An aligned word of the window written by a requester. -/
def State.writeWord (s : State) (off : Nat) (r : Req) (v : Word) (hwInc : Nat) : State :=
  let page := off / 0x1000
  let po := off % 0x1000
  match kindOf page with
  | none => s.writeMsix off v
  | some (k, n) =>
    if isSec k po && !r.secure then s
    else
      match po with
      | 0x000 => s
      | 0x004 => s
      | 0x008 => s.writeCtrl page v
      | 0x00C => s
      | 0x010 => s
      | 0x014 => s.clearEvents k page r v (w32 hwInc)
      | 0x018 => s.enableEvents page v
      | 0x01C => s.writeHeaderSem page r v
      | _ => s.writeBody k n page po r v hwInc

/-! ## The commands -/

/-- Do 8 bytes at an offset form a low/high counter pair (R6)? -/
def pairAt (off : Nat) : Bool :=
  decide (off % 8 = 0) &&
  match kindOf (off / 0x1000) with
  | some (k, _) => isCounter k (off % 0x1000) || (decide (k = .mq) && decide (0x070 ≤ off % 0x1000) && decide (off % 0x1000 < 0x0C0) && decide (off % 16 = 0))
  | none => false

/-- A requester's read of the window (R6, R97): an aligned word, or the low half and then the high half of an aligned counter pair; anything else gets the
error response. -/
def State.windowRead (s : State) (r : Req) (off bytes : Nat) : State :=
  if bytes = 4 && off % 4 = 0 then
    (s.gate r off false).serve s (fun s r =>
      let x := s.readWord off r
      x.2.setReply (.data (leBytes x.1.toNat 4)))
  else if bytes = 8 && pairAt off then
    (s.gate r off false).serve s (fun s r =>
      let x := s.readWord off r
      let y := x.2.readWord (off + 4) r
      y.2.setReply (.data (leBytes x.1.toNat 4 ++ leBytes y.1.toNat 4)))
  else s.setReply (errorReply false)

/-- A requester's write of the window (R6): an aligned word; anything else is discarded with the error response. -/
def State.windowWrite (s : State) (r : Req) (off bytes : Nat) (v : Word) (hwInc : Nat) : State :=
  if bytes = 4 && off % 4 = 0 then (s.gate r off true).serve s (fun s r => (s.setReply .ok).writeWord off r v hwInc)
  else s.setReply (errorReply true)

/-- REGISTER_WRITE (R6 to R10, R410, and the rule of the register written). -/
def execRegisterWrite (o : Origin) (off bytes : Nat) (v : BitVec 64) (hwInc : Nat) (s : State) : Host.Outcome State Fault Refusal :=
  .next ((s.requester o true).serve s (fun s r => s.windowWrite r off bytes (v.setWidth 32) hwInc))

/-- COUNTER_LOW_READ (R6, R97): a read of the window. -/
def execCounterLowRead (o : Origin) (off bytes : Nat) (s : State) : Host.Outcome State Fault Refusal :=
  .next ((s.requester o false).serve s (fun s r => s.windowRead r off bytes))

/-- Is an access of the memory map one of the register window (R191)? -/
def inWindow (dua len : Nat) : Bool := decide (regBase ≤ dua) && decide (dua + len ≤ regTop)

/-- A read anywhere in the address map (R191): the register pages as R408 lays down, else memory. -/
def State.duaRead (s : State) (who : MemWho) (r : Req) (dua len : Nat) (macOk : Bool) : State :=
  if inWindow dua len then s.windowRead r (dua - regBase) len else s.memRead who dua len macOk

/-- A write anywhere in the address map. -/
def State.duaWrite (s : State) (who : MemWho) (r : Req) (dua : Nat) (data : List Byte) (macOk : Bool) : State :=
  if inWindow dua data.length then s.windowWrite r (dua - regBase) data.length (w32 (field data 0 3)) 0 else s.memWrite who dua data macOk

/-- MEMORY_READ (R191 to R195, R199, R201, R203, R204, R213, R214, R217, R311, R408). -/
def execMemoryRead (who : MemWho) (dua len : Nat) (macOk : Bool) (s : State) : Host.Outcome State Fault Refusal := .next (s.duaRead who (reqOf who) dua len macOk)

/-- MEMORY_WRITE (R191 to R195, R198, R199, R215 to R217, R311, R408). -/
def execMemoryWrite (who : MemWho) (dua : Nat) (data : List Byte) (s : State) (macOk : Bool := true) : Host.Outcome State Fault Refusal :=
  .next (s.duaWrite who (reqOf who) dua data macOk)

/-- CTRL_ENABLE_SET (R411). -/
def execCtrlEnableSet (o : Origin) (page : Nat) (s : State) : Host.Outcome State Fault Refusal :=
  .next (s.ctrlBy o page (fun h => ctrlWord h 1 0))

/-- CTRL_ENABLE_CLEAR (R294, R413). -/
def execCtrlEnableClear (o : Origin) (page : Nat) (s : State) : Host.Outcome State Fault Refusal :=
  .next (s.ctrlBy o page (fun h => ctrlWord h 0 1))

/-- CONSISTENCY_CHECK_END (R412, R413): the outcome, then the CTRL words that were held. -/
def execConsistencyCheckEnd (page : Nat) (s : State) : Host.Outcome State Fault Refusal :=
  match (s.hdr page).checking with
  | none => .next s
  | some snap =>
    let h := s.hdr page
    let s1 := (s.setHdr page { h with checking := none, heldCtrl := [] }).checkOutcome page snap
    let s2 := match kindOf page with | some (.pt, p) => s1.settleIdle p | _ => s1
    .next (h.heldCtrl.foldl (fun (s : State) v => s.writeCtrl page v) s2)

/-- Has the work that a stopping block started ended (R413)? -/
def State.quiescent (s : State) (k : Kind) (n : Nat) : Bool :=
  let open_ := fun (f : Started → Bool) => s.started.any f
  match k with
  | .se => ((s.seOf n).st == .idle || (s.seOf n).st == .paused) && !open_ (fun c => c.page == n && c.eng == 0)
  | .wx => s.wx.fetches.isEmpty && s.wx.saves.isEmpty && !open_ (fun c => c.eng == 2)
  | .lf => !open_ (fun c => c.eng == 1) && !s.lift.instBusy && !s.lift.bufs.any s.filling
  | .cp => !open_ (fun c => c.eng == 3)
  | .cl => !open_ (fun c => c.eng == 4) && s.fab.commits.isEmpty
  | .qp => !open_ (fun c => c.page == n)
  | .qpm => !open_ (fun c => c.page == 32)
  | .fl => (s.link n).replay.isEmpty
  | .np => (AMap.get none s.host.pushes n).isNone
  | .ht => (s.hearth n).pass.isNone
  | _ => true

/-- BLOCK_QUIESCED (R413). -/
def execBlockQuiesced (page : Nat) (s : State) : Host.Outcome State Fault Refusal :=
  match kindOf page with
  | none => .next s
  | some (k, n) =>
    let h := s.hdr page
    .next (if h.stopping && h.checking.isNone && s.quiescent k n then s.setHdr page { h with enabled := false, stopping := false } else s)

/-- EVENT_STATUS_CLEAR (R9, R307, R415). -/
def execEventStatusClear (o : Origin) (page : Nat) (mask hw : Word) (s : State) : Host.Outcome State Fault Refusal :=
  .next (s.withWrite o (page * 0x1000 + 0x014) (fun s r =>
    match kindOf page with | some (k, _) => s.clearEvents k page r mask hw | none => s.writeMsix (page * 0x1000 + 0x014) mask))

/-- EVENT_ENABLE_WRITE (R415). -/
def execEventEnableWrite (o : Origin) (page : Nat) (v : Word) (s : State) : Host.Outcome State Fault Refusal :=
  .next (s.withWrite o (page * 0x1000 + 0x018) (fun s _ =>
    match kindOf page with | some _ => s.enableEvents page v | none => s.writeMsix (page * 0x1000 + 0x018) v))

/-- HEADER_SEM_WRITE (R345, R346). -/
def execHeaderSemWrite (o : Origin) (page : Nat) (v : Word) (s : State) : Host.Outcome State Fault Refusal :=
  .next (s.withWrite o (page * 0x1000 + 0x01C) (fun s r =>
    match kindOf page with | some _ => s.writeHeaderSem page r v | none => s.writeMsix (page * 0x1000 + 0x01C) v))

end Sys2Proof.Machine
end

