-- ==== Sys2Proof/Machine/Mgmt.lean ====
section
/-!
DEFINITION. The messages of a port's MGMT connection (R400, R404).
-/

namespace Sys2Proof.Machine

def State.mgmtOf (s : State) (port : Nat) : MgmtSt := AMap.get {} s.host.mgmt port

def State.setMgmt (s : State) (port : Nat) (x : MgmtSt) : State := s.setHost { s.host with mgmt := AMap.put {} s.host.mgmt port x }

/-- What a message comes to: STATUS, REASON and the data read. -/
structure MgmtEnd where
  status : Nat := 0
  reason : Nat := 0
  data : List Byte := []
deriving DecidableEq, Repr

/-- The answer's 64 bytes. -/
def answerBytes (op : Nat) (m : MgmtMsg) (e : MgmtEnd) : List Byte :=
  padTo 32 (leBytes op 1 ++ leBytes e.status 1 ++ leBytes e.reason 2 ++ leBytes m.seq.toNat 4 ++ leBytes m.addr 8 ++ leBytes m.bytes 2) ++ padTo 32 e.data

/-- An access's answer as a message's end (R272; log entry 54). -/
def Reply.mgmtEnd (r : Reply) : MgmtEnd :=
  match r with
  | .none => { status := 1, reason := 0x0250 }
  | .ok => {}
  | .data b => { data := b }
  | .errorResponse b => { status := 1, reason := 0x0250, data := b }
  | .fenced => { status := 3 }
  | .refused n => { status := 1, reason := n }
  | .tagFail => { status := 5 }
  | .nak => { status := 1, reason := 0x0250 }

/-- An answer sent. -/
def State.sendAnswer (s : State) (port : Nat) (b : List Byte) : State := (s.emit (.answer port b)).bump (pgNP port) 0x020 64

/-- A message received: repeated, out of order, or served with `f`, whose access leaves its outcome in the reply. -/
def State.serveMsg (s : State) (op : Nat) (m : MgmtMsg) (badLen : Bool) (f : State → State) : State :=
  let port := m.port.val
  if !s.portUp port || !(s.conn port 2).valid then s
  else
    let s1 := s.bump (pgNP port) 0x028 64
    let x := s1.mgmtOf port
    let next := match x.seq with | none => true | some n => decide (m.seq = n + 1)
    if x.seq = some m.seq then s1.sendAnswer port x.answer
    else if !next then s1.sendAnswer port (answerBytes op m { status := 1, reason := 0x0702 })
    else
      let s2 := if badLen then s1.setReply (.refused 0x0261) else f (s1.setReply .none)
      let a := answerBytes op m s2.reply.mgmtEnd
      (s2.setMgmt port { seq := some m.seq, answer := a }).sendAnswer port a

/-- May a message's ADDR and BYTES name memory? -/
def duaLenBad (m : MgmtMsg) : Bool := decide (m.bytes < 4) || decide (32 < m.bytes) || decide (m.bytes % 4 ≠ 0)

/-- Is ADDR no aligned word of the window? -/
def addrBad (m : MgmtMsg) : Bool := decide (m.addr % 4 ≠ 0) || decide (0x4000000 ≤ m.addr)

/-- REG_READ (R404). -/
def execRegRead (m : MgmtMsg) (s : State) : Host.Outcome State Fault Refusal :=
  .next (s.serveMsg 1 m (decide (m.bytes ≠ 4)) (fun s =>
    if addrBad m then s.setReply (errorReply false)
    else s.withRead (.mgmt m.port) m.addr (fun s r =>
      let x := s.readWord m.addr r
      x.2.setReply (.data (leBytes x.1.toNat 4)))))

/-- REG_WRITE (R404). -/
def execRegWrite (m : MgmtMsg) (s : State) : Host.Outcome State Fault Refusal :=
  .next (s.serveMsg 2 m (decide (m.bytes ≠ 4)) (fun s =>
    if addrBad m then s.setReply (errorReply true)
    else s.withWrite (.mgmt m.port) m.addr (fun s r => s.writeWord m.addr r (w32 (field m.data 0 3)) 0)))

/-- DUA_READ (R404). -/
def execDuaRead (m : MgmtMsg) (s : State) : Host.Outcome State Fault Refusal :=
  .next (s.serveMsg 3 m (duaLenBad m) (fun s => s.duaRead (whoOf 63) ⟨none, false, 0x81 + m.port.val, false⟩ m.addr m.bytes true))

/-- DUA_WRITE (R404). -/
def execDuaWrite (m : MgmtMsg) (s : State) : Host.Outcome State Fault Refusal :=
  .next (s.serveMsg 4 m (duaLenBad m) (fun s => s.duaWrite (whoOf 63) ⟨none, false, 0x81 + m.port.val, false⟩ m.addr (padTo m.bytes m.data) true))

/-- HEARTBEAT (R347, R404). -/
def execHeartbeat (m : MgmtMsg) (s : State) : Host.Outcome State Fault Refusal :=
  .next (s.serveMsg 5 m false (fun s => s.withWrite (.mgmt m.port) (pgMC * 0x1000 + 0x110) (fun s _ => s.heartbeat)))

end Sys2Proof.Machine
end

