-- ==== Sys2Proof/Machine/QueueCmds.lean ====
section
/-!
DEFINITION. The queue registers as commands (R261, R264, R282, R287).
-/

namespace Sys2Proof.Machine

/-- The window offset of a register of a queue. -/
def qReg (page eng q off : Nat) : Nat := pgQP page * 0x1000 + qOff eng q + off

/-- QTAIL_DOORBELL (R264, R283, R284). -/
def execQtailDoorbell (o : Origin) (page : QPage) (eng : Fin 5) (q : Fin 8) (v : Word) (popNow : Bool) (s : State) : Host.Outcome State Fault Refusal :=
  .next (s.withWrite o (qReg page.val eng.val q.val 0x0C) (fun s _ => s.writeTail page.val eng.val q.val v popNow))

/-- QCFG_ENABLE (R261, R279, R287). -/
def execQcfgEnable (o : Origin) (page : QPage) (eng : Fin 5) (q : Fin 8) (v : Word) (s : State) : Host.Outcome State Fault Refusal :=
  .next (s.withWrite o (qReg page.val eng.val q.val 0x08) (fun s _ => s.writeQcfg page.val eng.val q.val (v ||| 0x10000)))

/-- QCFG_DISABLE (R261, R287). -/
def execQcfgDisable (o : Origin) (page : QPage) (eng : Fin 5) (q : Fin 8) (v : Word) (s : State) : Host.Outcome State Fault Refusal :=
  .next (s.withWrite o (qReg page.val eng.val q.val 0x08) (fun s _ => s.writeQcfg page.val eng.val q.val (v &&& ~~~(0x10000 : Word))))

/-- QCFG_START (R282). -/
def execQcfgStart (o : Origin) (page : QPage) (eng : Fin 5) (q : Fin 8) (s : State) : Host.Outcome State Fault Refusal :=
  .next (s.withWrite o (qReg page.val eng.val q.val 0x08) (fun s _ => s.restartQueue page.val eng.val q.val))

/-- HELD_RECORDS_WRITTEN (R149, R188, R274, R276): completion and error records of the page, step records of its partition, and MISS records
of QPM, as room appears. -/
def execHeldRecordsWritten (page : QPage) (s : State) : Host.Outcome State Fault Refusal :=
  .next (
    let p := page.val
    let s1 := if s.enabled (pgQP p) then (s.drainComp p (s.heldOf p).comp).drainErr p (s.heldOf p).err else s
    if 32 ≤ p then s1.drainMisses
    else if s1.enabled (pgSE p) then s1.drainSteps p (s1.seOf p).heldSteps
    else s1)

end Sys2Proof.Machine
end

