-- ==== Sys2Proof/Machine/Dispatch.lean ====
section
/-!
DEFINITION. The dispatch of the commands to their meanings: one arm per command of spec/opcode_table.json.
-/

namespace Sys2Proof.Machine

/-- What a command does to everything but the queue of waiting commands. -/
def exec (i : Instr) (s : State) : Host.Outcome State Fault Refusal :=
  match i with
  | .registerWrite o off bytes v hwInc => Sys2Proof.Machine.execRegisterWrite o off bytes v hwInc s
  | .counterLowRead o off bytes => Sys2Proof.Machine.execCounterLowRead o off bytes s
  | .ctrlEnableSet o page => Sys2Proof.Machine.execCtrlEnableSet o page s
  | .consistencyCheckEnd page => Sys2Proof.Machine.execConsistencyCheckEnd page s
  | .ctrlEnableClear o page => Sys2Proof.Machine.execCtrlEnableClear o page s
  | .blockQuiesced page => Sys2Proof.Machine.execBlockQuiesced page s
  | .eventStatusClear o page mask hw => Sys2Proof.Machine.execEventStatusClear o page mask hw s
  | .eventEnableWrite o page v => Sys2Proof.Machine.execEventEnableWrite o page v s
  | .headerSemWrite o page v => Sys2Proof.Machine.execHeaderSemWrite o page v s
  | .tbEntryWrite o v => Sys2Proof.Machine.execTbEntryWrite o v s
  | .strideStart p => Sys2Proof.Machine.execStrideStart p s
  | .assembleDone p => Sys2Proof.Machine.execAssembleDone p s
  | .forwardSweepDone p => Sys2Proof.Machine.execForwardSweepDone p s
  | .layerDone p layer routes inputs => Sys2Proof.Machine.execLayerDone p layer s routes inputs
  | .deadlineExpiry p layer routes => Sys2Proof.Machine.execDeadlineExpiry p layer routes s
  | .detourWaitExpiry p layer => Sys2Proof.Machine.execDetourWaitExpiry p layer s
  | .segmentDone p site clip logits carry => Sys2Proof.Machine.execSegmentDone p site clip logits s carry
  | .sampleDone p rows train => Sys2Proof.Machine.execSampleDone p rows train s
  | .strideBoundary p => Sys2Proof.Machine.execStrideBoundary p s
  | .strideHang p => Sys2Proof.Machine.execStrideHang p s
  | .strideCtrlWrite o p v => Sys2Proof.Machine.execStrideCtrlWrite o p v s
  | .vectorIssue h x => Sys2Proof.Machine.execVectorIssue h x s
  | .frontStart h => Sys2Proof.Machine.execFrontStart h s
  | .stagingFillDone h slot f => Sys2Proof.Machine.execStagingFillDone h slot f s
  | .drainRow h row form more dst => Sys2Proof.Machine.execDrainRow h row form s more dst
  | .waxLineLanded h index => Sys2Proof.Machine.execWaxLineLanded h index s
  | .tileComplete t => Sys2Proof.Machine.execTileComplete t s
  | .commandStart eng => Sys2Proof.Machine.execCommandStart eng s
  | .qtailDoorbell o page eng q v popNow => Sys2Proof.Machine.execQtailDoorbell o page eng q v popNow s
  | .qcfgEnable o page eng q v => Sys2Proof.Machine.execQcfgEnable o page eng q v s
  | .qcfgDisable o page eng q v => Sys2Proof.Machine.execQcfgDisable o page eng q v s
  | .qcfgStart o page eng q => Sys2Proof.Machine.execQcfgStart o page eng q s
  | .commandHang c => Sys2Proof.Machine.execCommandHang c s
  | .heldRecordsWritten page => Sys2Proof.Machine.execHeldRecordsWritten page s
  | .nop c => Sys2Proof.Machine.execNop c s
  | .fence c => Sys2Proof.Machine.execFence c s
  | .semWait c => Sys2Proof.Machine.execSemWait c s
  | .semSignal c => Sys2Proof.Machine.execSemSignal c s
  | .join c => Sys2Proof.Machine.execJoin c s
  | .leave c => Sys2Proof.Machine.execLeave c s
  | .suspend c => Sys2Proof.Machine.execSuspend c s
  | .resume c => Sys2Proof.Machine.execResume c s
  | .reward c => Sys2Proof.Machine.execReward c s
  | .groupClose c => Sys2Proof.Machine.execGroupClose c s
  | .programSet c layout => Sys2Proof.Machine.execProgramSet c s layout
  | .waxTrain c => Sys2Proof.Machine.execWaxTrain c s
  | .waxUntrain c => Sys2Proof.Machine.execWaxUntrain c s
  | .waxStep c => Sys2Proof.Machine.execWaxStep c s
  | .waxLoad c => Sys2Proof.Machine.execWaxLoad c s
  | .waxRefresh c => Sys2Proof.Machine.execWaxRefresh c s
  | .waxEvict c => Sys2Proof.Machine.execWaxEvict c s
  | .waxStore c set header => Sys2Proof.Machine.execWaxStore c set header s
  | .waxDelete c => Sys2Proof.Machine.execWaxDelete c s
  | .waxExport c => Sys2Proof.Machine.execWaxExport c s
  | .overlaySet c => Sys2Proof.Machine.execOverlaySet c s
  | .baseLoad c badShards => Sys2Proof.Machine.execBaseLoad c badShards s
  | .baseUnload c => Sys2Proof.Machine.execBaseUnload c s
  | .copy c => Sys2Proof.Machine.execCopy c s
  | .fill c => Sys2Proof.Machine.execFill c s
  | .allReduce c inputs => Sys2Proof.Machine.execAllReduce c inputs s
  | .reduceScatter c inputs => Sys2Proof.Machine.execReduceScatter c inputs s
  | .allGather c inputs => Sys2Proof.Machine.execAllGather c inputs s
  | .broadcast c data => Sys2Proof.Machine.execBroadcast c data s
  | .allToAll c inputs => Sys2Proof.Machine.execAllToAll c inputs s
  | .clReduce p wax group gen step inputs => Sys2Proof.Machine.execClReduce p wax group gen step inputs s
  | .groupSet c => Sys2Proof.Machine.execGroupSet c s
  | .peerSet c => Sys2Proof.Machine.execPeerSet c s
  | .chimneySend c => Sys2Proof.Machine.execChimneySend c s
  | .fetchTagAcquired => Sys2Proof.Machine.execFetchTagAcquired s
  | .missTimeout tag => Sys2Proof.Machine.execMissTimeout tag s
  | .fetchStart => Sys2Proof.Machine.execFetchStart s
  | .fetchTransferDone tag gen a => Sys2Proof.Machine.execFetchTransferDone tag gen a s
  | .waxSaveDone wax ok => Sys2Proof.Machine.execWaxSaveDone wax ok s
  | .holdBudgetExpiry hold => Sys2Proof.Machine.execHoldBudgetExpiry hold s
  | .memoryRead who dua len macOk => Sys2Proof.Machine.execMemoryRead who dua len macOk s
  | .memoryWrite who dua data macOk => Sys2Proof.Machine.execMemoryWrite who dua data s macOk
  | .pageDemote page => Sys2Proof.Machine.execPageDemote page s
  | .pagePromote page => Sys2Proof.Machine.execPagePromote page s
  | .migrationSwitch page => Sys2Proof.Machine.execMigrationSwitch page s
  | .regionZeroFillDone region => Sys2Proof.Machine.execRegionZeroFillDone region s
  | .liftFillStart => Sys2Proof.Machine.execLiftFillStart s
  | .expertLanded layer expert digestOk => Sys2Proof.Machine.execExpertLanded layer expert digestOk s
  | .patrolPassStart => Sys2Proof.Machine.execPatrolPassStart s
  | .patrolShardChecked digestOk => Sys2Proof.Machine.execPatrolShardChecked digestOk s
  | .flitSend link f => Sys2Proof.Machine.execFlitSend link f s
  | .flitReceived link f => Sys2Proof.Machine.execFlitReceived link f s
  | .creditReturn link vc n => Sys2Proof.Machine.execCreditReturn link vc n s
  | .replayTimeout link => Sys2Proof.Machine.execReplayTimeout link s
  | .linkIdleTimeout link => Sys2Proof.Machine.execLinkIdleTimeout link s
  | .linkTrained link lanes peer => Sys2Proof.Machine.execLinkTrained link lanes peer s
  | .quarantineReceived epoch => Sys2Proof.Machine.execQuarantineReceived epoch s
  | .silenceTimeout fabric => Sys2Proof.Machine.execSilenceTimeout fabric s
  | .chimneyChunkArrived shard children last digestOk bad => Sys2Proof.Machine.execChimneyChunkArrived shard children last digestOk bad s
  | .preparedReceived group step rank digest => Sys2Proof.Machine.execPreparedReceived group step rank digest s
  | .outcomeReceived group step commit => Sys2Proof.Machine.execOutcomeReceived group step commit s
  | .commitTimeout group step => Sys2Proof.Machine.execCommitTimeout group step s
  | .outcomeQueryReceived group step rank => Sys2Proof.Machine.execOutcomeQueryReceived group step rank s
  | .ptResizeGo o p => Sys2Proof.Machine.execPtResizeGo o p s
  | .hearthTransitDone h => Sys2Proof.Machine.execHearthTransitDone h s
  | .ptFreezeSet o p => Sys2Proof.Machine.execPtFreezeSet o p s
  | .freezeBudgetExpiry p => Sys2Proof.Machine.execFreezeBudgetExpiry p s
  | .ptFreezeClear o p => Sys2Proof.Machine.execPtFreezeClear o p s
  | .imageSave o p => Sys2Proof.Machine.execImageSave o p s
  | .imageSaveDone p ok => Sys2Proof.Machine.execImageSaveDone p ok s
  | .imageRestore o p => Sys2Proof.Machine.execImageRestore o p s
  | .imageRestoreDone p chunksOk => Sys2Proof.Machine.execImageRestoreDone p chunksOk s
  | .ptAshout o p => Sys2Proof.Machine.execPtAshout o p s
  | .ashoutDone p => Sys2Proof.Machine.execAshoutDone p s
  | .mapGo o p v => Sys2Proof.Machine.execMapGo o p v s
  | .mapDone p => Sys2Proof.Machine.execMapDone p s
  | .mbT2mProdWrite o p v => Sys2Proof.Machine.execMbT2mProdWrite o p v s
  | .mbM2tProdWrite o p v => Sys2Proof.Machine.execMbM2tProdWrite o p v s
  | .attest => Sys2Proof.Machine.execAttest s
  | .installOpen input => Sys2Proof.Machine.execInstallOpen input s
  | .installClose => Sys2Proof.Machine.execInstallClose s
  | .keyRelease input => Sys2Proof.Machine.execKeyRelease input s
  | .accountKeySet input => Sys2Proof.Machine.execAccountKeySet input s
  | .accountKeyCreate => Sys2Proof.Machine.execAccountKeyCreate s
  | .exportKeySet input => Sys2Proof.Machine.execExportKeySet input s
  | .keyTransfer report => Sys2Proof.Machine.execKeyTransfer report s
  | .regionSet r => Sys2Proof.Machine.execRegionSet r s
  | .keyDelete => Sys2Proof.Machine.execKeyDelete s
  | .floorCommit => Sys2Proof.Machine.execFloorCommit s
  | .fbRequestTimeout => Sys2Proof.Machine.execFbRequestTimeout s
  | .sessionExpiry session => Sys2Proof.Machine.execSessionExpiry session s
  | .trngStart => Sys2Proof.Machine.execTrngStart s
  | .trngTestsDone pass => Sys2Proof.Machine.execTrngTestsDone pass s
  | .trngConditioned => Sys2Proof.Machine.execTrngConditioned s
  | .trngContinuousFail => Sys2Proof.Machine.execTrngContinuousFail s
  | .debugUnlock tokenOk => Sys2Proof.Machine.execDebugUnlock tokenOk s
  | .resetRequest o domain cause => Sys2Proof.Machine.execResetRequest o domain cause s
  | .damperDrainTimeout domain => Sys2Proof.Machine.execDamperDrainTimeout domain s
  | .domainRelease domain => Sys2Proof.Machine.execDomainRelease domain s
  | .uncorrectableError e => Sys2Proof.Machine.execUncorrectableError e s
  | .correctableError slice => Sys2Proof.Machine.execCorrectableError s slice
  | .teardownWatchdog eng p => Sys2Proof.Machine.execTeardownWatchdog eng p s
  | .hearthSelftestFail h => Sys2Proof.Machine.execHearthSelftestFail h s
  | .semCfgWrite o v => Sys2Proof.Machine.execSemCfgWrite o v s
  | .hostLinkDrop => Sys2Proof.Machine.execHostLinkDrop s
  | .heartbeatTimeout => Sys2Proof.Machine.execHeartbeatTimeout s
  | .hostHbWrite o => Sys2Proof.Machine.execHostHbWrite o s
  | .bankingComplete => Sys2Proof.Machine.execBankingComplete s
  | .adoptGo o v => Sys2Proof.Machine.execAdoptGo o v s
  | .mcBoot => Sys2Proof.Machine.execMcBoot s
  | .bootTimeout => Sys2Proof.Machine.execBootTimeout s
  | .fwCommit o => Sys2Proof.Machine.execFwCommit o s
  | .fwSwitch o => Sys2Proof.Machine.execFwSwitch o s
  | .recoveryImageWrite slotB img => Sys2Proof.Machine.execRecoveryImageWrite slotB img s
  | .orderStepWrite o p v => Sys2Proof.Machine.execOrderStepWrite o p v s
  | .reportAck tokenSum trainSum => Sys2Proof.Machine.execReportAck tokenSum trainSum s
  | .energyWindowClose mJ outOfClass => Sys2Proof.Machine.execEnergyWindowClose mJ outOfClass s
  | .meterCounterLoRead o counter => Sys2Proof.Machine.execMeterCounterLoRead o counter s
  | .readAccount => Sys2Proof.Machine.execReadAccount s
  | .readTotal => Sys2Proof.Machine.execReadTotal s
  | .cert => Sys2Proof.Machine.execCert s
  | .tamperEvent removed => Sys2Proof.Machine.execTamperEvent removed s
  | .meterFwChange version => Sys2Proof.Machine.execMeterFwChange version s
  | .hostLinkTrained mode width => Sys2Proof.Machine.execHostLinkTrained mode width s
  | .hostReset => Sys2Proof.Machine.execHostReset s
  | .bar2Access o dua len write => Sys2Proof.Machine.execBar2Access o dua len write s
  | .placeSet o index => Sys2Proof.Machine.execPlaceSet o index s
  | .placeClear o index => Sys2Proof.Machine.execPlaceClear o index s
  | .rdmaIncoming port => Sys2Proof.Machine.execRdmaIncoming port s
  | .connConnect o port qpn => Sys2Proof.Machine.execConnConnect o port qpn s
  | .connBroken port cls => Sys2Proof.Machine.execConnBroken port cls s
  | .pushGo o port => Sys2Proof.Machine.execPushGo o port s
  | .pushDone port ok => Sys2Proof.Machine.execPushDone port ok s
  | .regRead m => Sys2Proof.Machine.execRegRead m s
  | .regWrite m => Sys2Proof.Machine.execRegWrite m s
  | .duaRead m => Sys2Proof.Machine.execDuaRead m s
  | .duaWrite m => Sys2Proof.Machine.execDuaWrite m s
  | .heartbeat m => Sys2Proof.Machine.execHeartbeat m s
  | .standbyRailUp => Sys2Proof.Machine.execStandbyRailUp s
  | .powerStepDone ok mainPermit => Sys2Proof.Machine.execPowerStepDone ok mainPermit s
  | .mainRailFault => Sys2Proof.Machine.execMainRailFault s
  | .mainPermitFall => Sys2Proof.Machine.execMainPermitFall s
  | .standbyRailLoss => Sys2Proof.Machine.execStandbyRailLoss s
  | .modRst => Sys2Proof.Machine.execModRst s
  | .dvfsCheck watts tj => Sys2Proof.Machine.execDvfsCheck watts tj s
  | .thermalTrip => Sys2Proof.Machine.execThermalTrip s
  | .coolantOutOfRange inlet flow => Sys2Proof.Machine.execCoolantOutOfRange inlet flow s
  | .instGo o => Sys2Proof.Machine.execInstGo o s
  | .instShardWritten shard digestOk scaleFF => Sys2Proof.Machine.execInstShardWritten shard digestOk scaleFF s
  | .instDone => Sys2Proof.Machine.execInstDone s
  | .mainRailReturn mainPermit => Sys2Proof.Machine.execMainRailReturn mainPermit s
  | .thermalTripRelease => Sys2Proof.Machine.execThermalTripRelease s
  | .networkLinkTrained port half => Sys2Proof.Machine.execNetworkLinkTrained port half s
  | .networkLinkDown port => Sys2Proof.Machine.execNetworkLinkDown port s
  | .peerKeyReceived k => Sys2Proof.Machine.execPeerKeyReceived k s
  | .baseShardRewritten dua ok => Sys2Proof.Machine.execBaseShardRewritten dua ok s
  | .waxReloadDone slot ok => Sys2Proof.Machine.execWaxReloadDone slot ok s
  | .commandEnd c how => Sys2Proof.Machine.execCommandEnd c how s
  | .firmwareUpdate slotB img => Sys2Proof.Machine.execFirmwareUpdate slotB img s
  | .settingsUpdate st => Sys2Proof.Machine.execSettingsUpdate st s
  | .meterCardPresent => Sys2Proof.Machine.execMeterCardPresent s

end Sys2Proof.Machine
end

