-- ==== Sys2Proof/Machine/Tick.lean ====
section
/-!
DEFINITION. What passes while no command waits: one microsecond of the module microsecond clock (DESIGN CHOICE, log entry 2).
-/

namespace Sys2Proof.Machine

/-- The microsecond counters of one partition: ring waits (R121) and meter waits (R380). -/
def State.tickPart (s : State) (p : Nat) : State :=
  let e := s.seOf p
  let s1 := if e.ringWait then s.bump (pgSE p) 0x078 1 else s
  if e.meterWait then s1.bump pgMT 0x028 1 else s1

/-- Has every expert of a layer landed (R207)? -/
def State.layerLanded (s : State) (m : Manifest) (l : Nat) : Bool :=
  (List.range (m.layers.getD l {}).routed).all (fun x => s.landed l x)

/-- DL_SHIFT and the deadlines of the stride not yet landed, while every window buffer is full and the lift waits (R209); the table follows. -/
def State.tickLift (s : State) : State :=
  let m := s.lift.base.getD {}
  let full := decide (s.lift.winLayers ≤ s.lift.bufs.length) && s.lift.bufs.all (fun b => b.claim.isSome && !s.filling b)
  if s.lift.blocked && full then
    let late := fun (l : Nat) => !s.layerLanded m l && s.running.any (fun p => s.forwardOpen p l)
    (((s.setLift { s.lift with dl := AMap.mapAll 0xFFFFFFFF (fun l d => if d < 0xFFFFFFFF && late l then min (d + 1) 0xFFFFFFFE else d) s.lift.dl }).storeDeadlines
      m).bump pgLF 0x038 1)
  else s

/-- PATROL_LATE, when the next pass falls due while one runs (R220). -/
def State.tickPatrol (s : State) : State :=
  if s.lift.patrolOn && !s.lift.patrolLate && decide (s.lift.patrolAt ≤ s.nowUs) then
    (s.setLift { s.lift with patrolLate := true }).raise pgMS 4
  else s

/-- One more chunk of every migration in progress is copied; the manual gives no rate (R198; log entry 2). -/
def State.tickCopies (s : State) : State :=
  s.setMem { s.mem with migr := s.mem.migr.map (fun e => (e.1, { e.2 with copied := min 32 (e.2.copied + 1) })) }

/-- The audits of every cycle (R228, R367): the links' credits, and the frames of R200. -/
def State.auditCycle (s : State) : State :=
  (List.range 16).foldl (fun (s : State) n => s.auditLink n) (if s.auditHeld (fun _ => false) then s else s.checkFrames)

/-- One microsecond; a front on its way has crossed its grate by then (R70). -/
def State.tick (s : State) : State :=
  let s0 := s.setHearths (AMap.mapAll {} (fun _ y => y.endFront) s.hearths)
  let s1 := (s.se.map (·.1)).foldl (fun (s : State) p => s.tickPart p) (s0.setNowUs (s.nowUs + 1))
  s1.tickLift.tickPatrol.tickCopies.auditCycle

end Sys2Proof.Machine
end

