-- ==== Sys2Proof/Machine/Idle.lean ====
section
/-!
DEFINITION. What the block does when no command waits (DESIGN CHOICE, log entry 2).
-/

namespace Sys2Proof.Machine

/-- A microsecond passes, and a fence whose open requests have ended goes on to its reset (R338 step 2). -/
def State.idle (s : State) : State := s.tick.settleDrains

end Sys2Proof.Machine
end

