-- ==== Sys2Proof/Safety.lean ====
section
/-!
DEFINITION. Safe states and runs.
-/

namespace Sys2Proof.Machine

/-- A step that neither faults nor refuses. -/
def Goes (s : State) : Prop := ∃ t, step s = .next t

end Sys2Proof.Machine
end

