-- ==== Sys2Proof/Certificates/Slice0/Obligations.lean ====
section
/-!
DEFINITION. The statements, family by family, from the numbered rules of the manual. Each names the state it is about and says what a
command's next state holds; fields of the state that a statement does not name are unchanged where it says `t = { s with … }`.
-/

open Sys2Proof Sys2Proof.Machine

/-! ## The machine as a whole -/

/-- One step runs the command at the front of the queue on the queue's rest. -/
def Obligations.StepRunsFront : Prop :=
  ∀ (s : State) (c : Instr) (rest : List Instr), s.pending = c :: rest → step s = exec c { s with pending := rest }

/-- An idle step lets one microsecond pass (DESIGN CHOICE, log entry 2). With no reset in progress it changes only counters and their values in force,
fronts that have crossed, the lift's deadlines and patrol lateness, memory's copies and tables, and event flags with their messages and audit records. -/
def Obligations.IdleStep : Prop :=
  ∀ s : State, s.pending = [] → s.resets = [] →
    ∃ t, step s = .next t ∧ t.nowUs = s.nowUs + 1 ∧
      t = { s with nowUs := t.nowUs, regs := t.regs, force := t.force, hearths := t.hearths, lift := t.lift, mem := t.mem, freeCtr := t.freeCtr,
                   held := t.held, pages := t.pages, host := t.host, out := t.out }

/-- After reset every register word and its value in force hold the Reset column, memory lists nothing, no command is started or waiting, and every
numbered context is unused. -/
def Obligations.ResetState : Prop :=
  (∀ page off, State.reset.rd page off = rstAt page off ∧ State.reset.frc page off = rstAt page off) ∧
  (∀ page, State.reset.hdr page = {}) ∧ (∀ a, State.reset.byteAt a = 0) ∧ (∀ n, (State.reset.page n).valid = false) ∧
  State.reset.started = [] ∧ State.reset.pending = [] ∧ State.reset.parks = [] ∧ State.reset.out = [] ∧
  (∀ p, (State.reset.seOf p).st = .idle ∧ (State.reset.pt p).st = .disabled) ∧
  (∀ n, (State.reset.slot n).st = .free ∧ (State.reset.hold n).st = .free ∧ (State.reset.inf n).st = .free ∧ (State.reset.wxOf n).used = false) ∧
  (∀ n, (State.reset.queue n).st = .disabled ∧ (State.reset.link n).st = .down ∧ (State.reset.region n).valid = false) ∧
  State.reset.lift.base = none ∧ State.reset.fbx.baseKey = none ∧ State.reset.mc.running = false ∧ State.reset.mc.ready = false

/-- Every command answers a next state in every state: none faults and none is refused as a command. -/
def Obligations.CommandsAnswer : Prop := ∀ (i : Instr) (s : State), ∃ t, exec i s = .next t

/-- The generations of the 16-bit identifiers step from 0xFFFF to 0x0001 and 0 is never assigned: not at reset and not when a sequence slot, a hold entry
or an inference slot is freed. -/
def Obligations.GenerationsStep : Prop :=
  (genStep 0xFFFF = 1 ∧ (∀ g, g < 0xFFFF → genStep g = g + 1) ∧ ∀ g, genStep g ≠ 0) ∧
  (∀ n, (State.reset.slot n).gen = 1 ∧ (State.reset.hold n).gen = 1 ∧ (State.reset.inf n).gen = 1 ∧ (State.reset.wxOf n).gen = 1) ∧
  (∀ (s : State) (n : Nat), ((s.freeSlot n).slot n).gen = genStep (s.slot n).gen ∧ ((s.freeHold n).hold n).gen = genStep (s.hold n).gen ∧
    ((s.freeInf n).inf n).gen = genStep (s.inf n).gen ∧ ((s.releaseWaxing n).wxOf n).gen = genStep (s.wxOf n).gen)

/-- Memory is in its canonical form after reset. -/
def Obligations.MemoryCanonicalAtReset : Prop := State.reset.mem.wf

/-- Every step keeps memory in its canonical form: bytes, line metadata and page map list their keys in rising order and no entry equal to what an
unlisted one reads as. -/
def Obligations.MemoryCanonicalKept : Prop :=
  ∀ s t : State, s.mem.wf → step s = .next t → t.mem.wf

/-- A step takes one command from the queue and puts none in; the part (order code, fuses, serial number) never changes. -/
def Obligations.StepTakesOne : Prop :=
  ∀ s t : State, step s = .next t → t.pending = s.pending.drop 1 ∧ t.part = s.part

/-- Bytes stored in memory space read back under the current key generation, except in BASE pages; every other byte reads as before, also in a line
that was stale (R213, R215); nothing but memory changes, and of memory neither the page map nor the translations. -/
def Obligations.StoredBytesReadBack : Prop :=
  ∀ (s : State) (dua : Nat) (data : List Byte),
    (∀ i, i < data.length → (s.page ((dua + i) / pageSize)).owner ≠ 62 → (s.storeRaw dua data).byteAt (dua + i) = data.getD i 0) ∧
    (∀ a, a < dua ∨ dua + data.length ≤ a → (s.storeRaw dua data).byteAt a = s.byteAt a) ∧
    s.storeRaw dua data = { s with mem := { s.mem with bytes := (s.storeRaw dua data).mem.bytes, lines := (s.storeRaw dua data).mem.lines } }

/-- An access to a reserved DUA, beyond the base region in the vault window, or to a page that is not VALID is refused with 0x0250 and changes nothing. -/
def Obligations.AbsentAddressRefused : Prop :=
  ∀ (s : State) (who : MemWho) (dua len : Nat) (macOk : Bool), 0 < len →
    (regTop ≤ dua ∨ (memTop ≤ dua ∧ dua + len ≤ vaultTop ∧ memTop + s.baseRegion < dua + len) ∨
      (dua + len ≤ memTop ∧ (s.page (dua / pageSize)).valid = false)) →
    exec (.memoryRead who dua len macOk) s = .next (s.setReply (.refused 0x0250)) ∧
    (∀ data, data.length = len → exec (.memoryWrite who dua data macOk) s = .next (s.setReply (.refused 0x0250)))

/-- Who may reach which page: owner and BASE rules, the secure world, read-only pages; each with its reason, and a refused access changes nothing.
The order in which the reasons are tried is the model's (DESIGN CHOICE, log entry 15). -/
def Obligations.PageRules : Prop :=
  ∀ (s : State) (who : MemWho) (dua len : Nat) (write : Bool), 0 < len → dua + len ≤ memTop →
    dua / pageSize = (dua + len - 1) / pageSize → (s.page (dua / pageSize)).valid = true →
    let e := s.page (dua / pageSize)
    let owned := match who.part with | some p => e.owner = p.val ∨ (e.owner = 62 ∧ write = false) | none => e.owner = 63
    (¬ owned → s.memCheck who write dua len = some 0x0317) ∧
    (owned → e.secure = true → who.secure = false → s.memCheck who write dua len = some 0x0407) ∧
    (owned → (e.secure = true → who.secure = true) → write = true → e.readOnly = true → s.memCheck who write dua len = some 0x0402) ∧
    (owned → (e.secure = true → who.secure = true) → (write = true → e.readOnly = false) → s.memCheck who write dua len = none)

/-- MEMORY_READ and MEMORY_WRITE of a served access of memory space: what a read answers, and what a write leaves. A write of no partly poisoned line
stores its bytes, and every other byte reads as before; a read leaves every byte. -/
def Obligations.MemoryReadAndWrite : Prop :=
  (∀ (s : State) (who : MemWho) (dua len : Nat), 0 < len → dua + len ≤ memTop → s.memCheck who false dua len = none →
    s.rangeFilling dua len = false → s.poisonIn dua len = none →
    ∃ t, exec (.memoryRead who dua len true) s = .next t ∧ t.reply = .data (s.peek dua len) ∧ (∀ a, t.byteAt a = s.byteAt a) ∧
      t = { s with mem := t.mem, regs := t.regs, force := t.force, freeCtr := t.freeCtr, reply := t.reply }) ∧
  (∀ (s : State) (who : MemWho) (dua : Nat) (data : List Byte), data ≠ [] → dua + data.length ≤ memTop →
    s.memCheck who true dua data.length = none → s.rangeFilling dua data.length = false → s.partialPoison dua data.length = none →
    ∃ t, exec (.memoryWrite who dua data true) s = .next t ∧ t.reply = .ok ∧
      (∀ i, i < data.length → t.byteAt (dua + i) = data.getD i 0) ∧
      (∀ a, a < dua ∨ dua + data.length ≤ a → t.byteAt a = s.byteAt a) ∧
      t = { s with mem := t.mem, regs := t.regs, force := t.force, freeCtr := t.freeCtr, reply := t.reply })

/-! ## Register pages -/

/-- A 32-bit write of a register without behaviour of its own: its writable bits take the value, bits that a 1 clears are cleared unless hardware sets them
in the same cycle, the other bits stay; a checked register of an enabled block keeps the value in force of its checked bits; a counter takes a
coincident hardware increment on top; no other word changes. An access of another width or alignment answers the error response and changes nothing, as
does one of a page that the requester may not reach. -/
def Obligations.RegisterWrite : Prop :=
  (∀ (s : State) (o : Origin) (off hwInc n : Nat) (v : BitVec 64) (k : Kind) (g : Reg) (r : Req),
    off % 4 = 0 → 0x020 ≤ off % 0x1000 → kindOf (off / 0x1000) = some (k, n) → regAt k (off % 0x1000) = some g → (g.sec = true → r.secure = true) →
    s.access o off true = .pass s r →
    let page := off / 0x1000
    let po := off % 0x1000
    (k ∈ [Kind.wx, .ms, .fl, .ht, .qd, .die, .cp, .fb, .mt, .mq] ∨ (k = .lf ∧ po ≠ 0x070) ∨ (k = .cl ∧ po ≠ 0x044) ∨ (k = .rk ∧ po ≠ 0x044) ∨
      (k = .tb ∧ po ≠ 0x044) ∨ (k = .fq ∧ po ≠ 0x04C) ∨ (k = .se ∧ po ≠ 0x054 ∧ po ≠ 0x128) ∨ ((k = .qp ∨ k = .qpm) ∧ queueOff po = none)) →
    let new := (((s.rd page po &&& ~~~g.rw) ||| (v.setWidth 32 &&& g.rw)) &&& ~~~(v.setWidth 32 &&& g.clr)) ||| (BitVec.ofNat 32 hwInc &&& g.clr)
    ∃ t, exec (.registerWrite o off 4 v hwInc) s = .next t ∧ t.reply = .ok ∧
      t = { s with regs := t.regs, force := t.force, reply := t.reply } ∧
      (isCounter k po = false → t.rd page po = new ∧
        t.frc page po = (if g.chk ≠ 0 ∧ ((s.hdr page).enabled = true ∨ (s.hdr page).checking.isSome = true)
          then (s.frc page po &&& g.chk) ||| (new &&& ~~~g.chk) else new) ∧
        ∀ page' off', regKey page' off' ≠ regKey page po → t.rd page' off' = s.rd page' off' ∧ t.frc page' off' = s.frc page' off') ∧
      (isCounter k po = true → t.rd64 page (po - po % 8) = ((s.wr page po new).rd64 page (po - po % 8) + hwInc) % 2 ^ 64)) ∧
  (∀ (s : State) (o : Origin) (off hwInc : Nat) (v : BitVec 64) (r : Req), off % 4 = 0 → s.access o off true = .pass s r →
    exec (.registerWrite o off 4 v hwInc) s = .next ((s.setReply .ok).writeWord off r (v.setWidth 32) hwInc)) ∧
  (∀ (s : State) (o : Origin) (off bytes hwInc : Nat) (v : BitVec 64) (r : Req), s.requester o true = .pass s r →
    (¬ (bytes = 4 ∧ off % 4 = 0) → exec (.registerWrite o off bytes v hwInc) s = .next (s.setReply (.errorResponse []))) ∧
    (∀ k n, off / 0x1000 < 0x3000 → kindOf (off / 0x1000) = some (k, n) → mayReach r k n = false →
      exec (.registerWrite o off bytes v hwInc) s = .next (s.setReply (.errorResponse []))))

/-- A read of a counter's low word answers it and copies the high word into the counter's latch; a read of the high word answers the latch; the
aligned 64-bit read answers both halves and takes the copy; a misaligned or otherwise wide read answers ones in every bit; nothing else changes. -/
def Obligations.CounterSnapshot : Prop :=
  (∀ (s : State) (o : Origin) (off n : Nat) (k : Kind) (r : Req), off % 4 = 0 → kindOf (off / 0x1000) = some (k, n) →
    isCounter k (off % 0x1000) = true → (isSec k (off % 0x1000) = true → r.secure = true) → s.access o off false = .pass s r →
    let page := off / 0x1000
    let po := off % 0x1000
    (off % 8 = 0 →
      (∃ t, exec (.counterLowRead o off 4) s = .next t ∧ t.reply = .data (leBytes (s.rd page po).toNat 4) ∧
        t.latchOf page po = s.rd page (po + 4) ∧ (∀ page' off', regKey page' off' ≠ regKey page po → t.latchOf page' off' = s.latchOf page' off') ∧
        t = { s with latch := t.latch, reply := t.reply }) ∧
      ((isSec k (po + 4) = true → r.secure = true) → isCounter k (po + 4) = true →
        ∃ t, exec (.counterLowRead o off 8) s = .next t ∧
          t.reply = .data (leBytes (s.rd page po).toNat 4 ++ leBytes (s.rd page (po + 4)).toNat 4) ∧
          t = { s with latch := t.latch, reply := t.reply })) ∧
    (off % 8 = 4 → exec (.counterLowRead o off 4) s = .next (s.setReply (.data (leBytes (s.latchOf page (po - 4)).toNat 4))))) ∧
  (∀ (s : State) (o : Origin) (off bytes : Nat) (r : Req), s.requester o false = .pass s r → ¬ (bytes = 4 ∧ off % 4 = 0) →
    ¬ (bytes = 8 ∧ off % 8 = 0) → exec (.counterLowRead o off bytes) s = .next (s.setReply (.errorResponse [0xFF, 0xFF, 0xFF, 0xFF])))

/-- Setting CTRL.ENABLE starts a consistency check of the registers as they stand (or, while the page is fenced, waits for its release); clearing it stops
the block from taking new work, and of an enabled partition starts ash-out. While a check runs, a write of CTRL is held and comes after the check. -/
def Obligations.EnableAndDisable : Prop :=
  ∀ (s : State) (o : Origin) (page n : Nat) (k : Kind) (r : Req), kindOf page = some (k, n) → s.access o (page * 0x1000 + 8) true = .pass s r →
    ((s.hdr page).checking = none →
      ((k = .pt → (s.pt n).st = .disabled) →
        ∃ t, exec (.ctrlEnableSet o page) s = .next t ∧ t = { s with pages := t.pages, reply := .ok } ∧ (∀ j, j ≠ page → t.hdr j = s.hdr j) ∧
          ((s.hdr page).fenced = true → t.hdr page = { s.hdr page with fenceEnable := true }) ∧
          ((s.hdr page).fenced = false →
            t.hdr page = { s.hdr page with enableBit := true, fenceEnable := false, checking := some (s.snapOf page) })) ∧
      (k ≠ .pt →
        ∃ t, exec (.ctrlEnableClear o page) s = .next t ∧ t = { s with pages := t.pages, reply := .ok } ∧ (∀ j, j ≠ page → t.hdr j = s.hdr j) ∧
          t.hdr page = { s.hdr page with enableBit := false, fenceEnable := false, stopping := (s.hdr page).enabled }) ∧
      (k = .pt → (s.pt n).st = .enabled → page = pgPT n → exec (.ctrlEnableClear o page) s = .next ((s.setReply .ok).beginAsh n))) ∧
    ((s.hdr page).checking.isSome = true →
      exec (.ctrlEnableSet o page) s =
        .next ((s.setReply .ok).setHdr page { s.hdr page with heldCtrl := (s.hdr page).heldCtrl ++ [ctrlWord (s.hdr page) 1 0] }) ∧
      exec (.ctrlEnableClear o page) s =
        .next ((s.setReply .ok).setHdr page { s.hdr page with heldCtrl := (s.hdr page).heldCtrl ++ [ctrlWord (s.hdr page) 0 1] }))

/-- A consistency check that finds a field out of its range leaves the block as it was and records REFUSED with the check's reason; one that passes
clears REFUSED and, for a block that was not enabled, sets ENABLED. A stopped block's ENABLED falls once its work has ended. -/
def Obligations.CheckOutcome : Prop :=
  (∀ (s : State) (page n : Nat) (k : Kind) (snap : List (Nat × Word)), kindOf page = some (k, n) → k ≠ .pt →
    (s.hdr page).checking = some snap → (s.hdr page).heldCtrl = [] → (s.hdr page).enabled = false →
    let s1 := s.setHdr page { s.hdr page with checking := none, heldCtrl := [] }
    (∀ reason, s1.enableCheck page snap = some reason →
      ∃ t, exec (.consistencyCheckEnd page) s = .next t ∧ t = { s with pages := t.pages } ∧ (∀ j, j ≠ page → t.hdr j = s.hdr j) ∧
        t.hdr page = { s.hdr page with checking := none, heldCtrl := [], enableBit := false, refused := true, reason := BitVec.ofNat 16 reason }) ∧
    (s1.enableCheck page snap = none → k ∉ [Kind.se, .qp, .qpm] →
      ∃ t, exec (.consistencyCheckEnd page) s = .next t ∧ t = { s with pages := t.pages, force := t.force } ∧ (∀ j, j ≠ page → t.hdr j = s.hdr j) ∧
        t.hdr page = { s.hdr page with checking := none, heldCtrl := [], enabled := true, enableBit := true, refused := false, reason := 0,
                                       stopping := false })) ∧
  (∀ (s : State) (page n : Nat) (k : Kind), kindOf page = some (k, n) → (s.hdr page).stopping = true →
    (s.hdr page).checking = none → s.quiescent k n = true →
    exec (.blockQuiesced page) s = .next (s.setHdr page { s.hdr page with enabled := false, stopping := false }))

/-- EVENT_STATUS is cleared where a 1 is written (a mailbox's side clears its own incoming bit only), events that hardware sets in the same cycle stay set;
EVENT_ENABLE takes the value written; a write that leaves the condition zero sends no message. A page's header SEM is taken by a write of 1 to bit 16
while free and given back by its holder's write of 0. -/
def Obligations.EventAndSemRegisters : Prop :=
  ∀ (s : State) (o : Origin) (page n : Nat) (k : Kind) (r : Req), kindOf page = some (k, n) →
    (∀ mask hw, s.access o (page * 0x1000 + 0x014) true = .pass s r →
      let m := if k = .mb then (if r.part.isSome = true then mask &&& 2 else mask &&& 1) else mask
      ∃ t, exec (.eventStatusClear o page mask hw) s = .next t ∧
        t = { s with pages := t.pages, reply := .ok, host := t.host, out := t.out } ∧ (∀ j, j ≠ page → t.hdr j = s.hdr j) ∧
        t.hdr page = { s.hdr page with evStat := ((s.hdr page).evStat &&& ~~~m) ||| hw } ∧
        ((((s.hdr page).evStat &&& ~~~m) ||| hw) &&& (s.hdr page).evEn = 0 → t.out = s.out ∧ t.host = s.host)) ∧
    (∀ v, s.access o (page * 0x1000 + 0x018) true = .pass s r →
      ∃ t, exec (.eventEnableWrite o page v) s = .next t ∧
        t = { s with pages := t.pages, reply := .ok, host := t.host, out := t.out } ∧ (∀ j, j ≠ page → t.hdr j = s.hdr j) ∧
        t.hdr page = { s.hdr page with evEn := v } ∧ ((s.hdr page).evStat &&& v = 0 → t.out = s.out ∧ t.host = s.host)) ∧
    (∀ v : Word, s.access o (page * 0x1000 + 0x01C) true = .pass s r →
      let h := s.hdr page
      ∃ t, exec (.headerSemWrite o page v) s = .next t ∧ t = { s with pages := t.pages, reply := .ok } ∧ (∀ j, j ≠ page → t.hdr j = s.hdr j) ∧
        (v.getLsbD 16 = true → h.semHeld = false →
          t.hdr page = { h with semHeld := true, semPart := BitVec.ofNat 6 r.partNo, semDom := BitVec.ofNat 8 r.dom, semEpoch := s.epoch r.dom }) ∧
        (v.getLsbD 16 = true → h.semHeld = true → t.hdr page = h) ∧
        (v.getLsbD 16 = false → h.semHeld = true → h.semPart = BitVec.ofNat 6 r.partNo → h.semDom = BitVec.ofNat 8 r.dom →
          t.hdr page = { h with semHeld := false, semPart := 0, semDom := 0, semEpoch := 0, semAband := false }) ∧
        (v.getLsbD 16 = false → ¬ (h.semHeld = true ∧ h.semPart = BitVec.ofNat 6 r.partNo ∧ h.semDom = BitVec.ofNat 8 r.dom) → t.hdr page = h))

/-- A write of TB.ENTRY copies the entry that TB.SEL and it name into DATA; an entry at or beyond ENTRIES, or an unknown table, sets REFUSED with
0x0259 and leaves DATA. A base table while no base is loaded reads as zeros. -/
def Obligations.TableWindow : Prop :=
  ∀ (s : State) (o : Origin) (v : Word) (r : Req), s.access o (pgTB * 0x1000 + 0x044) true = .pass s r →
    let id := fld (s.rd pgTB 0x040) 7 0
    let i := fld v 15 0
    (∀ n total, tableShape id = some (n, total) → i < total →
      ∃ t, exec (.tbEntryWrite o v) s = .next t ∧ t.tbData = s.tableEntry id i n ∧ t.rd pgTB 0x044 = v &&& 0xFFFF ∧
        t = { s with regs := t.regs, force := t.force, tbData := t.tbData, reply := .ok } ∧
        (baseTable id = true → s.lift.base = none → t.tbData = List.replicate n 0)) ∧
    ((tableShape id = none ∨ ∃ n total, tableShape id = some (n, total) ∧ total ≤ i) →
      ∃ t, exec (.tbEntryWrite o v) s = .next t ∧ t = { s with pages := t.pages, reply := .ok } ∧
        t.hdr pgTB = { s.hdr pgTB with refused := true, reason := 0x0259 } ∧ (∀ j, j ≠ pgTB → t.hdr j = s.hdr j))

/-! ## Strides -/

/-- A stride starts only from IDLE, when the stride engine may start one; it enters ASSEMBLE with the next stride number and nothing of the stride
before it; other partitions are untouched. -/
def Obligations.StrideStart : Prop :=
  ∀ (s : State) (p : PartId),
    ((s.seOf p.val).st = .idle → s.strideMayStart p.val = true →
      ∃ t, exec (.strideStart p) s = .next t ∧ t = { s with se := t.se } ∧ (t.seOf p.val).st = .assemble ∧
        (t.seOf p.val).num = (s.seOf p.val).num + 1 ∧ (t.seOf p.val).start = s.nowUs ∧ (t.seOf p.val).rows = [] ∧ (t.seOf p.val).samples = [] ∧
        (t.seOf p.val).reqs = (s.seOf p.val).reqs ∧ (t.seOf p.val).layer = 0 ∧ ∀ q, q ≠ p.val → t.seOf q = s.seOf q) ∧
    ((s.seOf p.val).st ≠ .idle → exec (.strideStart p) s = .next s)

/-- The end of ASSEMBLE outside ordered mode: waiting joins are admitted, the rows are built, and the stride is in FORWARD at layer 0 with the
deadlines counted from now. The end of the last layer's forward work leads to SWEEP, with the checkpoints of the stride's training forward rows kept,
each with the stride's scales, rerun decisions and expert sets. -/
def Obligations.StrideForward : Prop :=
  (∀ (s : State) (p : PartId), (s.seOf p.val).st = .assemble → (s.seOf p.val).ordered = false →
    ∃ t, exec (.assembleDone p) s = .next t ∧ t = (s.admitAll p.val s.parks).leaveAssemble p.val ∧
      (t.seOf p.val).st = .forward ∧ (t.seOf p.val).asmAt = ((s.admitAll p.val s.parks).buildRows p.val).nowUs) ∧
  (∀ (s : State) (p : PartId) (m : Manifest), (s.seOf p.val).st = .forward → s.lift.base = some m → (s.seOf p.val).layer = m.layers.length →
    ∃ t, exec (.forwardSweepDone p) s = .next t ∧ t = { s with se := t.se } ∧ (∀ q, q ≠ p.val → t.seOf q = s.seOf q) ∧
      t.seOf p.val = { s.seOf p.val with st := .sweep, ckpts := (s.seOf p.val).ckpts ++ (s.seOf p.val).newCkpts } ∧
      (∀ c ∈ (s.seOf p.val).newCkpts, c.rows.kind = .train ∧ c.stride = (s.seOf p.val).num ∧ c.scales = (s.seOf p.val).scales ∧
        c.reruns = (s.seOf p.val).reruns))

/-- The end of a layer: where its saturations ask for a rerun, the layer runs again in BF16 with its first results gone; else its key/value entries are
written row by row and the next layer begins; while only this partition's stride runs, no window buffer is held for the layer's forward sweep any longer.
A layer that waits for an expert or a detour does not end. In the counter-sweep the segment goes on to its next step. -/
def Obligations.LayerEnd : Prop :=
  ∀ (s : State) (p : PartId) (layer : Nat) (routes : List RowRoute) (inputs : List RowInput),
    let e := s.seOf p.val
    (e.st = .forward → e.layer = layer → layer < s.layers →
      ((∀ w ∈ e.waitLayers, w.layer ≠ layer) → s.expertsOpen p.val layer routes = false →
        (s.rerunNow p.val layer = true →
          ∃ t, exec (.layerDone p layer routes inputs) s = .next t ∧ (t.seOf p.val).layer = layer ∧ (t.seOf p.val).rerunActive = true ∧
            (t.seOf p.val).reruns = e.reruns ++ [layer] ∧ (t.seOf p.val).layerSat = 0 ∧ (t.seOf p.val).layerConv = 0 ∧
            (∀ h, (s.hearth h).owner = some p.val → (t.hearth h).accs = [] ∧ (t.hearth h).drainIn = [] ∧ (t.hearth h).lines = (s.hearth h).lines) ∧
            (∀ h, (s.hearth h).owner ≠ some p.val → t.hearth h = s.hearth h)) ∧
        (s.rerunNow p.val layer = false →
          ∃ t, exec (.layerDone p layer routes inputs) s = .next t ∧ (t.seOf p.val).layer = layer + 1 ∧ (t.seOf p.val).rerunActive = false ∧
            (t.seOf p.val).layerSat = 0 ∧ (t.seOf p.val).layerConv = 0 ∧
            (s.running = [p.val] → ∀ b ∈ t.lift.bufs, b.layer = layer → b.claim ≠ some 0) ∧
            t.mem = ((rowStarts e.rows).foldl (fun s fr => s.kvRow p.val layer fr.1 fr.2) s).mem)) ∧
      ((∃ w ∈ e.waitLayers, w.layer = layer) ∨ s.expertsOpen p.val layer routes = true → exec (.layerDone p layer routes inputs) s = .next s)) ∧
    (e.st = .sweep → (s.segmentLayers p.val)[e.sweepStep]? = some layer → e.sweepCkpts ≠ [] → s.keptOpen p.val layer = false →
      ∃ t, exec (.layerDone p layer routes inputs) s = .next t ∧ (t.seOf p.val).sweepStep = e.sweepStep + 1 ∧ (t.seOf p.val).st = .sweep)

/-- A deadline that falls while routed experts of the layer are missing is met by the layer's detour mode: 0 substitutes the next ranked experts,
1 drops them, 2 waits; ordered mode always waits. A wait ends in substitution when WAIT_MAX is over. -/
def Obligations.Detours : Prop :=
  (∀ (s : State) (p : PartId) (layer : Nat) (routes : List RowRoute), s.deadlineFell p.val layer = true →
    let late := routes.filter (fun r => !(s.missing layer r).isEmpty)
    let e := s.seOf p.val
    late ≠ [] →
    (e.ordered = true ∨ (s.detourEnt layer).mode = 2 →
      ∃ t, exec (.deadlineExpiry p layer routes) s = .next t ∧ t = { s with se := t.se } ∧ (∀ q, q ≠ p.val → t.seOf q = s.seOf q) ∧
        t.seOf p.val = { e with waitLayers := e.waitLayers ++
          [{ layer := layer, since := e.asmAt + AMap.get 0xFFFFFFFF s.lift.dl layer, routes := late }] }) ∧
    (e.ordered = false → (s.detourEnt layer).mode = 1 → exec (.deadlineExpiry p layer routes) s = .next (s.dropAll p.val layer late)) ∧
    (e.ordered = false → (s.detourEnt layer).mode = 0 → exec (.deadlineExpiry p layer routes) s = .next (s.substituteAll p.val layer late))) ∧
  (∀ (s : State) (p : PartId) (layer : Nat) (w : WaitLayer), (s.seOf p.val).waitLayers.find? (fun w => w.layer == layer) = some w →
    (s.seOf p.val).st = .forward → (s.seOf p.val).ordered = false → w.since + (s.detourEnt layer).waitMax ≤ s.nowUs →
    ∃ t, exec (.detourWaitExpiry p layer) s = .next t ∧
      t = (s.setSe p.val { s.seOf p.val with waitLayers := (s.seOf p.val).waitLayers.filter (fun w => w.layer != layer) }).substituteAll p.val layer
        (w.routes.filter (fun r => !(s.missing layer r).isEmpty))) ∧
  (∀ (s : State) (p : Nat) (ds : List Detour),
    let t := s.detour p ds
    (t.seOf p) = { s.seOf p with detours := (s.seOf p).detours ++ ds } ∧ (∀ q, q ≠ p → t.seOf q = s.seOf q) ∧
      t = { s with se := t.se, regs := t.regs, force := t.force, pages := t.pages, host := t.host, out := t.out })

/-- SWEEP ends in SAMPLE: at once where no cohort is being swept; else, once every kept expert has landed and no gradient step reruns, with the segment's
gradients in the banks of the swept waxes and the gradient for the segment before it kept. SAMPLE ends in BOUNDARY once every sampled row and training
position has its logits. -/
def Obligations.SweepAndSample : Prop :=
  (∀ (s : State) (p : PartId) (site : List SiteGrad) (clip : List ClipGrad) (logits carry : List SweepVec), (s.seOf p.val).st = .sweep →
    let e := s.seOf p.val
    (e.sweeping.entries = [] → exec (.segmentDone p site clip logits carry) s = .next (s.setSe p.val { e with st := .sample })) ∧
    (e.sweeping.entries ≠ [] → e.owns (s.segments - 1 - e.phase) = true →
      (∀ l ∈ s.segmentLayers p.val, s.keptOpen p.val l = false ∧ s.gradFires p.val l = false) →
      ∃ t, exec (.segmentDone p site clip logits carry) s = .next t ∧ (t.seOf p.val).st = .sample ∧ (t.seOf p.val).carry = carry ∧
        t.wxs = ((s.keepBanks p.val).accumulate p.val site clip).wxs ∧ (∀ q, q ≠ p.val → t.seOf q = s.seOf q))) ∧
  (∀ (s : State) (p : PartId) (rows : List RowLogits) (train : List TrainLogits), (s.seOf p.val).st = .sample →
    (s.logitsGiven p.val rows train = true →
      ∃ t, exec (.sampleDone p rows train) s = .next t ∧ (t.seOf p.val).st = .boundary ∧ (t.seOf p.val).bStage = 0 ∧
        (t.seOf p.val).samples = (((s.drawAll p.val rows).coefAll p.val train).seOf p.val).samples ∧
        (t.seOf p.val).coefs = (((s.drawAll p.val rows).coefAll p.val train).seOf p.val).coefs) ∧
    (s.logitsGiven p.val rows train = false → exec (.sampleDone p rows train) s = .next s))

/-- BOUNDARY: without room in the token ring the stride waits there with RING_FULL raised once; with room it does the boundary's work once and leaves
when its completion records are out; a pause asked for before leads to PAUSED. A stride past its budget is torn down: the partition is IDLE without a
step of any wax. SE.STRIDE_CTRL written with PAUSE 0 ends a pause. The hang's counter and queue event are the model's reading (DEDUCED, log entry 61). -/
def Obligations.BoundaryAndHang : Prop :=
  (∀ (s : State) (p : PartId), (s.seOf p.val).st = .boundary → (s.seOf p.val).bStage = 0 →
    (s.ringsReady p.val = false → exec (.strideBoundary p) s = .next (s.ringWaits p.val)) ∧
    (s.ringsReady p.val = true → s.meter.held.length < 4096 → s.outcomeWait p.val = false → s.reshardWait p.val = false →
      ∃ t, exec (.strideBoundary p) s = .next t ∧
        t = (let s1 := s.boundaryWork p.val
             let s2 := s1.setMeter { s1.meter with held := s1.meter.held ++ [s.strideReport p.val (s.tokenAccounts p.val)] }
             (s2.setSe p.val { s2.seOf p.val with bStage := 1, bankUndo := [], carryUndo := none }).boundaryEnd p.val)) ∧
    (s.ringsReady p.val = true → s.meter.held.length < 4096 → s.outcomeWait p.val = false → s.reshardWait p.val = true →
      exec (.strideBoundary p) s = .next s)) ∧
  (∀ (s : State) (p : PartId), (s.seOf p.val).st = .boundary → (s.seOf p.val).bStage = 2 → (s.heldOf p.val).comp = [] →
    exec (.strideBoundary p) s = .next (s.leaveBoundary p.val)) ∧
  (∀ (s : State) (p : PartId), (s.seOf p.val).st ≠ .idle → (s.seOf p.val).st ≠ .paused →
    (s.seOf p.val).start + (s.frc (pgSE p.val) 0x044).toNat < s.nowUs →
    ∃ t, exec (.strideHang p) s = .next t ∧ (t.seOf p.val).st = .idle ∧ (t.seOf p.val).rows = [] ∧ (t.seOf p.val).num = (s.seOf p.val).num ∧
      ((t.hdr (pgSE p.val)).evStat.getLsbD 4 = true) ∧
      t.slots = s.slots ∧ t.parks = s.parks ∧ t.infs = s.infs) ∧
  (∀ (s : State) (o : Origin) (p : PartId) (v : Word) (r : Req), s.access o (pgSE p.val * 0x1000 + 0x054) true = .pass s r →
    ∃ t, exec (.strideCtrlWrite o p v) s = .next t ∧ t.rd (pgSE p.val) 0x054 = v &&& 1 ∧
      t = { s with regs := t.regs, force := t.force, se := t.se, reply := .ok } ∧
      ((s.seOf p.val).st = .paused → v.getLsbD 0 = false → (t.seOf p.val).st = .idle) ∧
      ((s.seOf p.val).st ≠ .paused → (t.seOf p.val).st = (s.seOf p.val).st) ∧ (∀ q, q ≠ p.val → t.seOf q = s.seOf q))

/-! ## Hearths -/

/-- A vector issued to a hearth with a pass of a sweeping stride, for a row of the pass that it has not issued: its column sums wait for the drain, in
order of issue, as the sums over the reduction positions that the grate computes; one issue cycle is counted; other hearths are untouched. While a front
waits for its slot nothing issues. -/
def Obligations.VectorIssue : Prop :=
  ∀ (s : State) (h : HearthId) (x : VecIn) (d : StageData), (s.hearth h.val).pass = some d →
    let y := s.hearth h.val
    (y.owner = some d.hdr.part → s.sweeping d.hdr.part = true → x.row ∈ d.hdr.rows → (s.passRow d.hdr.part x.row).isSome = true →
      x.elems.length = d.hdr.depth → y.stageWait = false → (y.stalled = false ∨ y.drainIn.length < 32) → (y.accOf d.hdr).isSome = true →
      d.hdr.kch ∉ (y.sumsOf d.hdr x.row).issued →
      let s0 := if d.hdr.bf16 then s else s.fixScale d.hdr.part d.hdr.inRec
      let acts := (feedVec d.hdr (if d.hdr.bf16 then 127 else s0.rowScale d.hdr x.row)
        (s0.clipOf d.hdr.part d.hdr.layer d.hdr.input x.row) x).map (fun f => actVal d.hdr f.code)
      ∃ t, exec (.vectorIssue h x) s = .next t ∧ (t.hearth h.val).issued = y.issued + 1 ∧
        (t.hearth h.val).drainIn = y.drainIn ++ [{ row := x.row, hdr := d.hdr, cols := (columnSums d (y.table d.hdr.layer) acts).map (·.v) }] ∧
        (t.hearth h.val).pass = some d ∧ (t.hearth h.val).tally = y.tally + 1 ∧ (t.hearth h.val).lines = y.lines ∧ (t.hearth h.val).scratch = y.scratch ∧
        (∀ j, j ≠ h.val → t.hearth j = s.hearth j) ∧ t = { s with hearths := t.hearths, se := t.se, regs := t.regs, force := t.force }) ∧
    (y.stageWait = true → exec (.vectorIssue h x) s = .next s)

/-- A front starts from the staging slot whose turn it is, when that slot is full and the pass before it has issued every row: the slot's pass becomes the
hearth's pass with nothing issued, and the other slot is next. With the slot empty, an owned and enabled hearth waits and issues nothing. -/
def Obligations.FrontStart : Prop :=
  ∀ (s : State) (h : HearthId), s.enabled (pgHT h.val) = true →
    let y := (s.hearth h.val).endFront
    (∀ d, (if y.nextSlot then y.stage1 else y.stage0) = some d → y.owner = some d.hdr.part → s.sweeping d.hdr.part = true → s.layerNow d.hdr = true →
      (∀ o, y.pass = some o → y.issued = o.hdr.rows.length) → s.passReady y d.hdr = true →
      ∃ t, exec (.frontStart h) s = .next t ∧ (t.hearth h.val).pass = some d ∧ (t.hearth h.val).issued = 0 ∧ (t.hearth h.val).stageWait = false ∧
        (t.hearth h.val).nextSlot = !y.nextSlot ∧ (t.hearth h.val).frontBand = some 1 ∧ (t.hearth h.val).drainIn = y.drainIn ∧
        ((t.hearth h.val).accOf d.hdr).isSome = true ∧ (∀ j, j ≠ h.val → t.hearth j = s.hearth j) ∧
        t = { s with hearths := t.hearths, se := t.se, regs := t.regs, force := t.force }) ∧
    ((if y.nextSlot then y.stage1 else y.stage0) = none → y.owner.isSome = true →
      exec (.frontStart h) s = .next (s.setHearth h.val { y with stageWait := true }))

/-- A fill completes in a free staging slot of an owned hearth with the weights read; a row's column sums enter its accumulator, and before the last
K-chunk nothing leaves the drain; after the last one the row's result leaves, or the drain stalls for a wax line that has not landed; a wax line lands with
its halves in its place of the hearth's wax cache. -/
def Obligations.StagingAndDrain : Prop :=
  (∀ (s s1 s2 : State) (h : HearthId) (slot : Fin 2) (f : FillReq) (d : PassHdr) (codes scales : List (List Byte)), s.passOf f = some d →
    let y := if (s.hearth h.val).nextSlot == decide (slot.val = 0) then (s.hearth h.val).endFront else s.hearth h.val
    let m := s.lift.base.getD {}
    let tile := match (s.seOf d.part).program[f.tile]? with | some t => m.tiles.any (fun e => t.sealed e) | none => false
    let who : MemWho := { part := some f.part, secure := f.fromSealed || tile, hearth := some h }
    let dram := !(s.seOf d.part).weightReads.contains (readKey d)
    (if slot.val = 0 then y.stage0 else y.stage1) = none → y.owner = some d.part → f.src ≠ 0 → (f.src = 3 ↔ d.transposed = true) →
    s.fillOk h.val f d = true → (s.setHearth h.val y).readLines who d.part dram d.codeRanges = .ok (codes, s1) →
    s1.readLines who d.part dram d.scaleRanges = .ok (scales, s2) →
    ∃ t, exec (.stagingFillDone h slot f) s = .next t ∧ (∀ j, j ≠ h.val → t.hearth j = s.hearth j) ∧
      (if slot.val = 0 then (t.hearth h.val).stage0 else (t.hearth h.val).stage1) = some (stageOf d (sideRows m d) codes scales) ∧
      (if slot.val = 0 then (t.hearth h.val).stage1 = y.stage1 else (t.hearth h.val).stage0 = y.stage0) ∧ (t.hearth h.val).pass = y.pass ∧
      (∃ r ∈ (t.seOf d.part).runs, r.is d = true) ∧ readKey d ∈ (t.seOf d.part).weightReads ∧
      t = { s with hearths := t.hearths, se := t.se, regs := t.regs, force := t.force, mem := t.mem, freeCtr := t.freeCtr }) ∧
  (∀ (s : State) (h : HearthId) (q : PendSum) (rest : List PendSum) (form : Fin 3) (more : Bool) (dst : DrainDst),
    (s.hearth h.val).drainIn = q :: rest → (s.hearth h.val).owner = some q.hdr.part → ((s.hearth h.val).accOf q.hdr).isSome = true →
    let a := (s.hearth h.val).sumsOf q.hdr q.row
    ((s.seOf q.hdr.part).ordered = true → a.summed.length = q.hdr.kch) →
    (a.summed.length + 1 < q.hdr.kchunks →
      ∃ t, exec (.drainRow h q.row form more dst) s = .next t ∧ (t.hearth h.val).drainIn = rest ∧
        (t.hearth h.val).scratch = (s.hearth h.val).scratch ∧ (t.hearth h.val).vregs = (s.hearth h.val).vregs ∧
        (t.hearth h.val).sumsOf q.hdr q.row = { a with summed := a.summed ++ [q.hdr.kch], cols := (List.range q.cols.length).map (fun c =>
          match a.cols[c]? with | some v => (fadd v (q.cols.getD c 0)).v | none => q.cols.getD c 0) } ∧
        (∀ j, j ≠ h.val → t.hearth j = s.hearth j) ∧ t = { s with hearths := t.hearths, se := t.se }) ∧
    (q.hdr.kchunks ≤ a.summed.length + 1 → (more = true ∨ s.lineOf q.hdr q.row = none ∨
        ∃ l m, s.lineOf q.hdr q.row = some l ∧ m ∈ (s.hearth h.val).lines ∧ WaxLine.same m l = true ∧ m.landed = true) →
      ∃ t, exec (.drainRow h q.row form more dst) s = .next t ∧ (t.hearth h.val).drainIn = rest ∧ (t.hearth h.val).stalled = false ∧
        (∀ b ∈ (t.hearth h.val).accs, b.is q.hdr = true → q.row ∉ b.rows) ∧ (∀ j, j ≠ h.val → t.hearth j = s.hearth j) ∧
        ((∀ dua, dst ≠ .dram dua) ∨ more = true → t = { s with hearths := t.hearths, se := t.se })) ∧
    (q.hdr.kchunks ≤ a.summed.length + 1 → more = false → (∃ l, s.lineOf q.hdr q.row = some l ∧
        ∀ m ∈ (s.hearth h.val).lines, WaxLine.same m l = true → m.landed = false) →
      ∃ t, exec (.drainRow h q.row form more dst) s = .next t ∧ (t.hearth h.val).drainIn = q :: rest ∧ (t.hearth h.val).stalled = true ∧
        (t.hearth h.val).accs = (s.hearth h.val).accs ∧ (∀ j, j ≠ h.val → t.hearth j = s.hearth j) ∧
        t = { s with hearths := t.hearths, regs := t.regs, force := t.force })) ∧
  (∀ (s : State) (h : HearthId) (index : Nat) (l : WaxLine), (s.hearth h.val).lines[index]? = some l → l.landed = false →
    (s.hearth h.val).stalled = false →
    exec (.waxLineLanded h index) s = .next (s.setHearth h.val
      (Hearth.fillNeeded { s.hearth h.val with lines := (s.hearth h.val).lines.set index (s.landLine l) })))

/-- A tile all of whose passes have run completes, the last pass in a grate closed first: the hearths that ran it hold the tile's fold, its run is over,
and a tile whose program entry asks for it writes a TILE record. -/
def Obligations.TileComplete : Prop :=
  ∀ (s : State) (r : TileRun) (run : Run) (h : PassHdr),
    let p := r.part.val
    let s1 := s.closeTile p r
    (s1.seOf p).runs.find? (fun x => x.fromSealed == r.fromSealed && x.tile == r.tile && !x.complete) = some run →
    s1.passOf { part := r.part, fromSealed := r.fromSealed, tile := r.tile, kch := 0, nch := 0, grp := 0, groups := run.groups, inRec := 0, outRec := 0,
                src := 2, waited := 0 } = some h →
    run.is h = true → (∀ x ∈ allPasses h run.groups.length, x ∈ run.passes) →
    let f := foldWords h (run.groups.map List.length)
    ∃ t, exec (.tileComplete r) s = .next t ∧
      (∀ n ∈ run.hearths, (s1.hearth n).owner = some p → (t.hearth n).fold0 = f.1 ∧ (t.hearth n).fold1 = f.2) ∧
      (∀ n, n ∉ run.hearths → t.hearth n = s1.hearth n) ∧ (∀ x ∈ (t.seOf p).runs, x.is h = true → x.complete = true) ∧
      ((∀ d, (s1.seOf p).program[r.tile]? = some d → r.fromSealed = false → d.report = false) →
        t = { s1 with hearths := t.hearths, se := t.se })

/-! ## Queues -/

/-- The ending of a command: it is no longer outstanding, CMD_DONE steps by one, and its COMMAND record is written to the page's ring (one more in the
ring, event 0 if the record asks for NOTIFY) or held for it with CQ_FULL at the first; a QUIET command that ends OK writes none. An ending that is not
an error writes no error record. The queue's commands taken and ended are held to account (R367): where they do not agree, the breach stands in the audit
register. -/
def Obligations.EndOfCommand : Prop :=
  ∀ (s : State) (x : Started) (status : Nat) (i : EndInfo), x.page < 33 → x.eng < 5 → x.q < 8 → status ∉ [1, 2, 4, 5, 6] → x.eng ≠ 3 →
    let t := s.endCmd x status i
    let agree := (s.queue x.qnum).taken = (s.queue x.qnum).ended + 1 + (s.started.filter (fun y => y.key != x.key && y.qnum == x.qnum)).length
    t.findCmd x.key = none ∧ (∀ y ∈ s.started, y.key ≠ x.key → y ∈ t.started) ∧ (t.queue x.qnum).ended = (s.queue x.qnum).ended + 1 ∧
    t.rd64 (pgQP x.page) 0x020 = (s.rd64 (pgQP x.page) 0x020 + 1) % 2 ^ 64 ∧
    (¬ agree → s.resets = [] → (t.rd (pgQP x.page) 0x040).getLsbD 0 = true) ∧
    (agree → t.rd (pgQP x.page) 0x62C = s.rd (pgQP x.page) 0x62C ∧ (t.heldOf x.page).err = (s.heldOf x.page).err ∧
      (x.quiet = true → status = 0 → t.rd (pgQP x.page) 0x60C = s.rd (pgQP x.page) 0x60C ∧ t.held = s.held ∧ t.mem = s.mem) ∧
      (¬ (x.quiet = true ∧ status = 0) →
        (if (s.heldOf x.page).comp = [] ∧ s.enabled (pgQP x.page) = true ∧ 0 < s.ringRoom (ringCQ x.page) then
          t.rd (pgQP x.page) 0x60C = s.rd (pgQP x.page) 0x60C + 1 ∧ t.held = s.held ∧
            (x.notify = true → (t.hdr (pgQP x.page)).evStat.getLsbD 0 = true) ∧
            t.mem = (s.storeTry (whoOf x.page) (s.ringAddr (ringCQ x.page) (s.rd (pgQP x.page) 0x60C)) (x.comp s.nowUs status i).bytes).mem
        else
          t.rd (pgQP x.page) 0x60C = s.rd (pgQP x.page) 0x60C ∧ t.mem = s.mem ∧
            (t.heldOf x.page).comp = (s.heldOf x.page).comp ++ [x.comp s.nowUs status i] ∧
            ((s.heldOf x.page).comp = [] → (t.hdr (pgQP x.page)).evStat.getLsbD 3 = true))))

/-- An engine takes the record at the head of the queue it serves: QHEAD advances; a record of another generation ends SKIPPED and fixes no SEQ; one
out of SEQ is refused with 0x0702 and stops the queue; one that passes the record checks is started and outstanding, and the next SEQ is fixed, or ends
FENCED at the closed edge of the lift. With no head that can start, nothing but the doorbell queue changes. -/
def Obligations.CommandStart : Prop :=
  ∀ (s : State) (eng : Fin 5),
    ((s.popBell eng.val).choose eng.val = none → exec (.commandStart eng) s = .next (s.popBell eng.val)) ∧
    (∀ (qp q : Nat) (s1 s2 : State) (r : List Byte), (s.popBell eng.val).choose eng.val = some (qp, q, s1) →
      s1.load (whoOf qp) (s1.headAddr qp eng.val q) (recBytes (s1.qFormat qp eng.val q)) = .ok (r, s2) →
      let n := qNum qp eng.val q
      let x := s2.queue n
      let f := s2.qFormat qp eng.val q
      let b := padTo 64 r
      let c := if f = 0 then cmdV5 b else if f = 1 then cmdV4 b x.gen s2.groupGen else cmdV3 b x.gen (extendSeq x (field b 2 2))
      let st := startedOf c qp eng.val q s2.nowUs
      let a := s2.setQueue n { x with head := x.head + 1, taken := x.taken + 1 }
      (c.tag ≠ x.gen → exec (.commandStart eng) s = .next (a.finish st 13 { reason := 0x0262 })) ∧
      (c.tag = x.gen → (∃ e, x.expSeq = some e ∧ c.seq ≠ e) →
        exec (.commandStart eng) s = .next ((a.finish st 1 { reason := 0x0702 }).stopQueue qp n)) ∧
      (c.tag = x.gen → (∀ e, x.expSeq = some e → c.seq = e) →
        (∀ reason, cmdCheck c eng.val qp = some reason →
          ∃ t, exec (.commandStart eng) s = .next t ∧ (t.queue n).expSeq = some ((c.seq + 1) % 65536) ∧ t.started = s2.started) ∧
        (cmdCheck c eng.val qp = none → s2.edgeFenced eng.val = true →
          ∃ t, exec (.commandStart eng) s = .next t ∧ (t.queue n).expSeq = some ((c.seq + 1) % 65536) ∧ t.started = s2.started) ∧
        (cmdCheck c eng.val qp = none → s2.edgeFenced eng.val = false →
          ∃ t, exec (.commandStart eng) s = .next t ∧ t.started = s2.started ++ [st] ∧ (t.queue n).head = x.head + 1 ∧
            (t.queue n).expSeq = some ((c.seq + 1) % 65536) ∧ (t.queue n).st = x.st ∧ (t.queue n).gen = x.gen ∧ (t.queue n).tail = x.tail ∧
            (∀ m, m ≠ n → t.queue m = s2.queue m) ∧
            (x.taken = x.ended + (s2.started.filter (fun y => y.qnum == n)).length →
              t = { s2 with queues := t.queues, started := t.started }))))

/-- QTAIL and QCFG: a doorbell that leaves the tail as it was has no effect; one beyond the ring stops a RUNNING queue and reads nothing; enabling a
DISABLED queue whose checks pass makes it RUNNING under the next generation with no SEQ fixed; clearing ENABLE of a queue with nothing outstanding makes
it DISABLED; START makes a STOPPED queue RUNNING and leaves any other queue as it is. -/
def Obligations.QueueRegisters : Prop :=
  ∀ (s : State) (o : Origin) (page : QPage) (eng : Fin 5) (q : Fin 8) (r : Req),
    let n := qNum page.val eng.val q.val
    let x := s.queue n
    (∀ v popNow, s.access o (qReg page.val eng.val q.val 0x0C) true = .pass s r →
      (x.tail = v → exec (.qtailDoorbell o page eng q v popNow) s = .next (s.setReply .ok)) ∧
      (x.tail ≠ v → (v - x.head).toNat ≤ s.qSize page.val eng.val q.val ∨ x.st ≠ .running →
        ∃ t, exec (.qtailDoorbell o page eng q v popNow) s = .next t ∧ (t.queue n).tail = v ∧ (t.queue n).st = x.st ∧ (t.queue n).head = x.head ∧
          (∀ m, m ≠ n → t.queue m = s.queue m) ∧ t = { s with queues := t.queues, evq := t.evq, reply := .ok }) ∧
      (x.tail ≠ v → s.qSize page.val eng.val q.val < (v - x.head).toNat → x.st = .running →
        ∃ t, exec (.qtailDoorbell o page eng q v popNow) s = .next t ∧ (t.queue n).tail = v ∧ (t.queue n).st = .stopped ∧ (t.queue n).head = x.head ∧
          t.started = s.started)) ∧
    (∀ v : Word, s.access o (qReg page.val eng.val q.val 0x08) true = .pass s r →
      let s1 := (s.setReply .ok).wr (pgQP page.val) (qOff eng.val q.val + 8) ((v ||| 0x10000) &&& qcfgMask)
      (x.st = .disabled → s1.qEnableCheck page.val eng.val q.val = none → (x.tail - x.head).toNat ≤ s1.qSize page.val eng.val q.val →
        ∃ t, exec (.qcfgEnable o page eng q v) s = .next t ∧
          t.queue n = { x with st := .running, gen := qGenStep x.gen, expSeq := none, closing := false } ∧
          (∀ m, m ≠ n → t.queue m = s.queue m) ∧ t = { s with queues := t.queues, regs := t.regs, force := t.force, reply := .ok }) ∧
      (∀ reason, x.st = .disabled → s1.qEnableCheck page.val eng.val q.val = some reason →
        exec (.qcfgEnable o page eng q v) s = .next (s1.refuse (pgQP page.val) reason)) ∧
      (x.st ≠ .disabled → s.qcfg page.val eng.val q.val &&& 0x7F ≠ v &&& 0x7F →
        exec (.qcfgEnable o page eng q v) s = .next ((s.setReply .ok).refuse (pgQP page.val) 0x0704) ∧
        exec (.qcfgDisable o page eng q v) s = .next ((s.setReply .ok).refuse (pgQP page.val) 0x0704)) ∧
      (x.st ≠ .disabled → s.qcfg page.val eng.val q.val &&& 0x7F = v &&& 0x7F → (∀ c ∈ s.started, c.qnum ≠ n) →
        ∃ t, exec (.qcfgDisable o page eng q v) s = .next t ∧ t.queue n = { x with st := .disabled, closing := false } ∧
          (∀ m, m ≠ n → t.queue m = s.queue m) ∧ t = { s with queues := t.queues, regs := t.regs, force := t.force, reply := .ok }) ∧
      (x.st ≠ .disabled → s.qcfg page.val eng.val q.val &&& 0x7F = v &&& 0x7F → (∃ c ∈ s.started, c.qnum = n) →
        ∃ t, exec (.qcfgDisable o page eng q v) s = .next t ∧ t.queue n = { x with closing := true } ∧
          (∀ m, m ≠ n → t.queue m = s.queue m) ∧ t = { s with queues := t.queues, regs := t.regs, force := t.force, reply := .ok })) ∧
    (s.access o (qReg page.val eng.val q.val 0x08) true = .pass s r →
      (x.st = .stopped → x.closing = false → (x.tail - x.head).toNat ≤ s.qSize page.val eng.val q.val →
        ∃ t, exec (.qcfgStart o page eng q) s = .next t ∧ t.queue n = { x with st := .running, expSeq := none } ∧
          (∀ m, m ≠ n → t.queue m = s.queue m) ∧ t = { s with queues := t.queues, reply := .ok }) ∧
      (x.st ≠ .stopped ∨ x.closing = true → exec (.qcfgStart o page eng q) s = .next (s.setReply .ok)))

/-- A command still running after the tick in which its budget expires is torn down with its queue: the queue is STOPPED under the next generation and
no command of it is outstanding; before that nothing happens. A command that ends at its engine ends with the status of its ending, and a response to a
request that a fence aborted is dropped and counted. Held records are written while there is room. -/
def Obligations.HangsEndsAndHeld : Prop :=
  (∀ (s : State) (c : CmdRef) (x : Started), s.findCmd (refKey c) = some x →
    (s.nowUs ≤ x.start + x.budget → exec (.commandHang c) s = .next s) ∧
    (x.start + x.budget < s.nowUs → (s.queue x.qnum).st = .running → (s.queue x.qnum).closing = false →
      ∃ t, exec (.commandHang c) s = .next t ∧ (t.queue x.qnum).st = .stopped ∧ (t.queue x.qnum).gen = qGenStep (s.queue x.qnum).gen ∧
        t.findCmd x.key = none)) ∧
  (∀ (s : State) (c : CmdRef) (x : Started), s.findCmd (refKey c) = some x → x.phase = .running →
    (x.opcode ∉ [0x28, 0x30, 0x31, 0x50, 0x51, 0x52, 0x53, 0x54] → exec (.commandEnd c .ok) s = .next (s.endCmd x 0)) ∧
    (isCollective x.opcode = true → exec (.commandEnd c .ok) s = .next ((s.endCmd x 0).bump pgCL 0x020 1)) ∧
    (∀ f, exec (.commandEnd c (.unreachable f)) s = .next ((s.undefineDst x).endCmd x 6 { fabric := f })) ∧
    (∀ d, exec (.commandEnd c (.tagFail d)) s = .next ((s.undefineDst x).endCmd x 5 { dua := some d })) ∧
    (exec (.commandEnd c .abandoned) s = .next ((s.undefineDst x).endCmd x 7)) ∧
    (x.opcode = 0x28 → field x.ops 36 36 = 1 → exec (.commandEnd c .connBroke) s = .next (s.refuseCmd x 0x0113)) ∧
    (∀ f, x.opcode = 0x58 → exec (.commandEnd c (.noKey f)) s = .next (s.refuseCmd x 0x0119 { fabric := f })) ∧
    (x.opcode = 0x30 → s.lift.base = none → exec (.commandEnd c .ok) s = .next (s.loadBase.endCmd x 0)) ∧
    (x.opcode = 0x31 → s.anyPartition = false → exec (.commandEnd c .ok) s = .next (s.unloadBase.endCmd x 0))) ∧
  (∀ (s : State) (c : CmdRef) (how : EndHow), s.findCmd (refKey c) = none →
    (refKey c ∈ s.mc.late → ∃ t, exec (.commandEnd c how) s = .next t ∧ refKey c ∉ t.mc.late ∧
      t.rd64 pgMC 0x138 = (s.rd64 pgMC 0x138 + 1) % 2 ^ 64 ∧ t = { s with mc := t.mc, regs := t.regs, force := t.force }) ∧
    (refKey c ∉ s.mc.late → exec (.commandEnd c how) s = .next s)) ∧
  (∀ (s : State) (page : QPage), s.enabled (pgQP page.val) = true → (page.val < 32 → s.enabled (pgSE page.val) = false) →
    (32 ≤ page.val → ∀ f ∈ s.wx.fetches, f.st ≠ .missHeld) →
    (s.heldOf page.val).comp.length ≤ s.ringRoom (ringCQ page.val) → (s.heldOf page.val).err = [] →
    s.ringCount (ringCQ page.val) ≤ s.ringSize (ringCQ page.val) →
    ∃ t, exec (.heldRecordsWritten page) s = .next t ∧ (t.heldOf page.val).comp = [] ∧
      t.rd (pgQP page.val) 0x60C = s.rd (pgQP page.val) 0x60C + BitVec.ofNat 32 (s.heldOf page.val).comp.length)

/-! ## Commands of any engine and of the stride engine -/

/-- NOP ends OK. FENCE ends OK when no earlier command of its queue is open, else it waits until commandEnd finds none open. -/
def Obligations.NopAndFence : Prop :=
  (∀ (s : State) (c : CmdRef) (x : Started), s.taken c 0x00 = some x → exec (.nop c) s = .next (s.endCmd x 0)) ∧
  (∀ (s : State) (c : CmdRef) (x : Started), s.taken c 0x01 = some x →
    ((∀ y ∈ s.started.takeWhile (fun y => y.key != x.key), y.qnum ≠ x.qnum) → exec (.fence c) s = .next (s.endCmd x 0)) ∧
    ((∃ y ∈ s.started.takeWhile (fun y => y.key != x.key), y.qnum = x.qnum) →
      ∃ t, exec (.fence c) s = .next t ∧ t = { s with started := t.started } ∧ t.findCmd x.key = some { x with phase := .waiting })) ∧
  (∀ (s : State) (c : CmdRef) (x : Started), s.findCmd (refKey c) = some x → x.phase = .waiting → x.opcode = 0x01 →
    exec (.commandEnd c .ok) s = .next (if s.earlierOpen x then s else s.endCmd x 0))

/-- Rink semaphores: a wait succeeds when VALUE covers COUNT and takes it; an OWNED semaphore records its holder, and lets only the holder take more; a
wait that cannot succeed keeps the command open. A signal adds COUNT, gives tokens back to an OWNED semaphore, clears the holder at the last, is dropped
and counted when its epoch is below the holder record's, and is refused when VALUE would pass 65,535. A semaphore of another partition is refused; one
past 16,383 too (DESIGN CHOICE, log entry 25). -/
def Obligations.RinkSemaphores : Prop :=
  (∀ (s : State) (c : CmdRef) (x : Started), s.taken c 0x02 = some x →
    let n := field x.ops 16 17
    let k := field x.ops 18 19
    let m := s.sem n
    let mine := 0 < m.held ∧ m.hPart = semPart x ∧ m.hDom = semDom x ∧ m.hEpoch = s.epoch (semDom x)
    let ends := fun (m' : Sem) => ∃ t, exec (.semWait c) s = .next t ∧ t.sem n = m' ∧ (∀ j, j ≠ n → t.sem j = s.sem j) ∧
      t = (s.putSem n m').endCmd x 0 { result := if m.aband then [1] else [] }
    (16384 ≤ n → exec (.semWait c) s = .next (s.refuseCmd x 0x0259)) ∧
    (n < 16384 → m.part ≠ semPart x → exec (.semWait c) s = .next (s.refuseCmd x 0x0317)) ∧
    (n < 16384 → m.part = semPart x → k ≤ m.value → m.owned = false →
      ends { m with value := m.value - k, aband := false, ledger := m.ledger - k }) ∧
    (n < 16384 → m.part = semPart x → k ≤ m.value → m.owned = true → m.held = 0 →
      ends { m with value := m.value - k, held := k, aband := false, hPart := if k = 0 then 0 else semPart x, hDom := if k = 0 then 0 else semDom x,
                    hEpoch := if k = 0 then 0 else s.epoch (semDom x) }) ∧
    (n < 16384 → m.part = semPart x → k ≤ m.value → m.owned = true → mine →
      ends { m with value := m.value - k, held := m.held + k, aband := false }) ∧
    (n < 16384 → m.part = semPart x → (m.value < k ∨ (m.owned = true ∧ m.held ≠ 0 ∧ ¬ mine)) →
      ∃ t, exec (.semWait c) s = .next t ∧ t = { s with started := t.started } ∧ t.findCmd x.key = some { x with phase := .waiting })) ∧
  (∀ (s : State) (c : CmdRef) (x : Started), s.taken c 0x03 = some x →
    let n := field x.ops 16 17
    let k := field x.ops 18 19
    let m := s.sem n
    let stale := 0 < m.held ∧ m.hDom = semDom x ∧ (s.epoch (semDom x)).toNat < m.hEpoch.toNat
    (16384 ≤ n → exec (.semSignal c) s = .next (s.refuseCmd x 0x0259)) ∧
    (n < 16384 → m.part ≠ semPart x → exec (.semSignal c) s = .next (s.refuseCmd x 0x0317)) ∧
    (n < 16384 → m.part = semPart x → stale →
      exec (.semSignal c) s = .next (((s.bump pgRK 0x028 1).raise pgRK 1).endCmd x 0)) ∧
    (n < 16384 → m.part = semPart x → ¬ stale → m.value + k ≤ 65535 → (∀ w ∈ s.fab.rinkWaits, w.sem ≠ n) →
      let back := if m.owned = true ∧ m.heldBy (semPart x) (semDom x) (s.epoch (semDom x)) = true then min k m.held else 0
      ∃ t, exec (.semSignal c) s = .next t ∧ (t.sem n).value = m.value + k ∧ (t.sem n).held = m.held - back ∧
        (m.held - back = 0 → (t.sem n).hPart = 0 ∧ (t.sem n).hDom = 0 ∧ (t.sem n).hEpoch = 0) ∧ (∀ j, j ≠ n → t.sem j = s.sem j) ∧
        t = (s.putSem n (t.sem n)).endCmd x 0) ∧
    (n < 16384 → m.part = semPart x → ¬ stale → 65535 < m.value + k → exec (.semSignal c) s = .next (s.refuseCmd x 0x025D)))

/-- JOIN whose descriptor and prompt can be read and pass the checks takes a park-queue entry and ends OK, or is BUSY with the queue full; a descriptor
that fails a check is refused with that check's reason and takes none. PROGRAM_SET whose descriptors all pass replaces the partition's program at the
next boundary; the first that fails refuses the whole, and so does a pipeline layout out of its bounds. Neither has a partition on QPM (DEDUCED, log
entry 26). -/
def Obligations.JoinAndProgram : Prop :=
  (∀ (s s1 s2 : State) (c : CmdRef) (x : Started) (b pr : List Byte) (m : Manifest), s.taken c 0x10 = some x → x.page < 32 →
    s.load (seWho x.page) (field x.ops 16 23) 128 = .ok (b, s1) →
    let d := joinDescOf b
    (∀ r, joinCheck d (joinStopCount b) = some r → exec (.join c) s = .next (s1.refuseCmd x r { wax := d.wax })) ∧
    (joinCheck d (joinStopCount b) = none → s1.load (seWho x.page) d.promptDua (4 * d.promptLen) = .ok (pr, s2) → s2.lift.base = some m →
      (tokensOk m.vocab (wordsOf pr d.promptLen ++ d.stops) = false → exec (.join c) s = .next (s2.refuseCmd x 0x0237 { wax := d.wax })) ∧
      (tokensOk m.vocab (wordsOf pr d.promptLen ++ d.stops) = true →
        (s2.parks.length < 65536 →
          ∃ t k, exec (.join c) s = .next t ∧ t.parks = s.parks ++ [k] ∧ k.part = x.page ∧ k.d = d ∧ t.findCmd x.key = none ∧ t.slots = s.slots ∧
            (d.wax = 0 ∨ (s2.newestSlot x.page d.wax).isSome = true → k.fetch = none) ∧
            (d.wax ≠ 0 → s2.newestSlot x.page d.wax = none → k.fetch.isSome = true)) ∧
        (65536 ≤ s2.parks.length →
          exec (.join c) s = .next (((s2.bump (pgSE x.page) 0x068 1).raise pgWX 3).refuseCmd x 0x0502 { wax := d.wax }))))) ∧
  (∀ (s s1 : State) (c : CmdRef) (layout : Option Layout) (x : Started) (b : List Byte), s.taken c 0x16 = some x → x.page < 32 →
    (∀ y, layout = some y → layoutOk y s.segments = true) →
    s.load (seWho x.page) (field x.ops 16 23) (64 * field x.ops 24 27) = .ok (b, s1) →
    let recs := (List.range (field x.ops 24 27)).map (fun i => (b.drop (64 * i)).take 64)
    ((∀ r ∈ recs, s1.tileCheck r = none) →
      ∃ t, exec (.programSet c layout) s = .next t ∧ (t.seOf x.page).newProgram = some (recs.map tileOf, layout) ∧
        (t.seOf x.page).program = (s.seOf x.page).program ∧ (∀ q, q ≠ x.page → t.seOf q = s.seOf q) ∧ t.findCmd x.key = none) ∧
    (∀ i r, i < recs.length → s1.tileCheck (recs.getD i []) = some r → (∀ j, j < i → s1.tileCheck (recs.getD j []) = none) →
      exec (.programSet c layout) s = .next (s1.refuseCmd x r { detail := i }))) ∧
  (∀ (s : State) (c : CmdRef) (y : Layout) (x : Started), s.taken c 0x16 = some x → x.page < 32 → layoutOk y s.segments = false →
    exec (.programSet c (some y)) s = .next (s.refuseCmd x 0x0256)) ∧
  (∀ (s : State) (c : CmdRef) (layout : Option Layout) (x : Started), 32 ≤ x.page →
    (s.taken c 0x10 = some x → exec (.join c) s = .next (s.refuseCmd x 0x0259)) ∧
    (s.taken c 0x16 = some x → exec (.programSet c layout) s = .next (s.refuseCmd x 0x0259)))

/-- LEAVE, SUSPEND and RESUME that name a sequence by slot and generation wait for the next boundary of its partition; one that names another
generation, a FREE slot, another partition's slot or a slot in a state it does not act on is refused. A RESUME also calls for the slot's pages. -/
def Obligations.SlotCommands : Prop :=
  ∀ (s : State) (c : CmdRef) (x : Started),
    let n := field x.ops 16 17 % 2 ^ 12
    let g := field x.ops 18 19
    let y := s.slot n
    let e := s.seOf y.owner
    let req := fun (k : ReqKind) => ({ kind := k, target := n, gen := g, cmd := x.key, late := decide (e.st = .boundary) } : BReq)
    let mine := y.gen = g ∧ y.st ≠ .free ∧ (x.page < 32 → y.owner = x.page)
    let refusal := fun (i : Instr) =>
      (y.gen ≠ g → exec i s = .next (s.refuseCmd x 0x0311 { id := n, idGen := g })) ∧
      (y.gen = g → y.st = .free → exec i s = .next (s.refuseCmd x 0x0314 { id := n, idGen := g })) ∧
      (y.gen = g → y.st ≠ .free → x.page < 32 → y.owner ≠ x.page → exec i s = .next (s.refuseCmd x 0x0317 { id := n, idGen := g }))
    (s.taken c 0x11 = some x → refusal (.leave c) ∧
      (mine → ∃ t, exec (.leave c) s = .next t ∧ t = { s with se := t.se, started := t.started } ∧ (t.seOf y.owner).reqs = e.reqs ++ [req .leave] ∧
        (∀ q, q ≠ y.owner → t.seOf q = s.seOf q) ∧ t.findCmd x.key = some { x with phase := .waiting })) ∧
    (s.taken c 0x12 = some x → refusal (.suspend c) ∧
      (mine → y.st = .joining ∨ y.st = .decoding →
        ∃ t, exec (.suspend c) s = .next t ∧ t = { s with se := t.se, started := t.started } ∧ (t.seOf y.owner).reqs = e.reqs ++ [req .suspend] ∧
          (∀ q, q ≠ y.owner → t.seOf q = s.seOf q) ∧ t.findCmd x.key = some { x with phase := .waiting }) ∧
      (mine → y.st = .suspended ∨ y.st = .faulted → exec (.suspend c) s = .next (s.refuseCmd x 0x0314 { id := n, idGen := g }))) ∧
    (s.taken c 0x13 = some x → refusal (.resume c) ∧
      (mine → y.st = .suspended →
        ∃ t, exec (.resume c) s = .next t ∧ t = { s with se := t.se, started := t.started, mem := t.mem } ∧
          (t.seOf y.owner).reqs = e.reqs ++ [req .resume] ∧ (∀ q, q ≠ y.owner → t.seOf q = s.seOf q) ∧ (∀ a, t.byteAt a = s.byteAt a) ∧
          t.findCmd x.key = some { x with phase := .waiting }) ∧
      (mine → y.st ≠ .suspended → exec (.resume c) s = .next (s.refuseCmd x 0x0314 { id := n, idGen := g })))

/-- REWARD and GROUP_CLOSE of a partition wait for its next boundary with what they carry; a REWARD from QPM goes to the partition of the entry it names,
and is refused where that entry is FREE; a GROUP_CLOSE has no partition on QPM. -/
def Obligations.TrainingRequests : Prop :=
  ∀ (s : State) (c : CmdRef) (x : Started),
    let h := field x.ops 16 17 % 2 ^ 14
    let g := field x.ops 18 19
    let p := if x.page < 32 then x.page else (s.hold h).owner
    let e := s.seOf p
    let k := ReqKind.reward (BitVec.ofNat 32 (field x.ops 20 23)) (BitVec.ofNat 32 (field x.ops 24 27)) ((field x.ops 28 28).testBit 0)
    (s.taken c 0x14 = some x →
      (x.page < 32 ∨ (s.hold h).st ≠ .free →
        ∃ t, exec (.reward c) s = .next t ∧ t = { s with se := t.se, started := t.started } ∧
          (t.seOf p).reqs = e.reqs ++ [{ kind := k, target := h, gen := g, cmd := x.key, late := decide (e.st = .boundary) }] ∧
          (∀ q, q ≠ p → t.seOf q = s.seOf q) ∧ t.findCmd x.key = some { x with phase := .waiting }) ∧
      (32 ≤ x.page → (s.hold h).st = .free → exec (.reward c) s =
        .next (s.refuseCmd x (if (s.hold h).gen ≠ g then 0x0315 else 0x0316) { id := h, idGen := g, wax := (s.hold h).wax }))) ∧
    (s.taken c 0x15 = some x →
      (x.page < 32 →
        ∃ t, exec (.groupClose c) s = .next t ∧ t = { s with se := t.se, started := t.started } ∧
          (t.seOf x.page).reqs = (s.seOf x.page).reqs ++ [{ kind := .groupClose (field x.ops 16 21) (field x.ops 24 31), target := 0, gen := 0,
                                                             cmd := x.key, late := decide ((s.seOf x.page).st = .boundary) }] ∧
          (∀ q, q ≠ x.page → t.seOf q = s.seOf q) ∧ t.findCmd x.key = some { x with phase := .waiting }) ∧
      (32 ≤ x.page → exec (.groupClose c) s = .next (s.refuseCmd x 0x0259)))

/-! ## Waxes -/

/-- WAX_TRAIN whose configuration can be read and passes takes a waxing slot for the partition's wax: training at once from a full record of the
local store that is the resident newest version, else waiting for a fetch of the whole record. WAX_UNTRAIN is noted for the next wrap, in ordered mode at
once (DEDUCED, log entry 29), and WAX_STEP asks for a step; one that names no waxing wax changes none. -/
def Obligations.TrainingCommands : Prop :=
  (∀ (s s1 : State) (c : CmdRef) (x : Started) (b : List Byte), s.taken c 0x20 = some x → x.page < 32 →
    s.load x.who (field x.ops 16 23) 64 = .ok (b, s1) →
    let g := trainCfgOf b
    (∀ r, s1.trainCheck x.page g b = some r → exec (.waxTrain c) s = .next (s1.refuseCmd x r { wax := g.wax })) ∧
    (s1.trainCheck x.page g b = none →
      ∃ t w, exec (.waxTrain c) s = .next t ∧ w = (s1.takeWaxing x.page g).1 ∧ (t.wxOf w).used = true ∧ (t.wxOf w).owner = x.page ∧
        (t.wxOf w).wax = g.wax ∧ (t.wxOf w).cfg = g ∧
        (∀ r, (s1.takeWaxing x.page g).2.trainRecord x.page g.wax = some r →
          (t.wxOf w).ready = true ∧ (t.wxOf w).rcd = trainForm r ∧ t.findCmd x.key = none) ∧
        ((s1.takeWaxing x.page g).2.trainRecord x.page g.wax = none →
          (t.wxOf w).ready = false ∧ t.wx.fetches.length = s1.wx.fetches.length + 1))) ∧
  (∀ (s : State) (c : CmdRef) (x : Started) (w : Nat), s.taken c 0x21 = some x → s.namedWaxing x = some w →
    ((s.wxOf w).untrain = none →
      ∃ t, exec (.waxUntrain c) s = .next t ∧ t.wxOf w = { s.wxOf w with untrain := some x.key } ∧ (∀ j, j ≠ w → t.wxOf j = s.wxOf j) ∧
        ((s.seOf (s.wxOf w).owner).ordered = true → t.findCmd x.key = none) ∧
        ((s.seOf (s.wxOf w).owner).ordered = false →
          t = { s with wxs := t.wxs, started := t.started } ∧ t.findCmd x.key = some { x with phase := .waiting })) ∧
    ((s.wxOf w).untrain.isSome = true → exec (.waxUntrain c) s = .next (s.endCmd x 0))) ∧
  (∀ (s : State) (c : CmdRef) (x : Started) (w : Nat), s.taken c 0x22 = some x → s.namedWaxing x = some w →
    exec (.waxStep c) s = .next ((s.setWx w { s.wxOf w with stepAsked := true }).endCmd x 0)) ∧
  (∀ (s : State) (c : CmdRef) (x : Started), s.namedWaxing x = none →
    (s.taken c 0x21 = some x → exec (.waxUntrain c) s = .next (s.endCmd x 0)) ∧
    (s.taken c 0x22 = some x → exec (.waxStep c) s = .next (s.endCmd x 0))) ∧
  (∀ (s : State) (c : CmdRef) (x : Started), s.taken c 0x20 = some x → 32 ≤ x.page → exec (.waxTrain c) s = .next (s.refuseCmd x 0x0259))

/-- WAX_LOAD answers the miss of its tag and generation, which then waits to start from the remote store, or is dropped and counted; WAX_REFRESH of a
version that is not above the resident one ends CURRENT with that slot, else it waits for a fetch; WAX_EVICT marks its slot and ends DEFERRED while the
slot is referenced. A wax that is not resident is fetched (DESIGN CHOICE, log entry 30). -/
def Obligations.ResidencyCommands : Prop :=
  (∀ (s : State) (c : CmdRef) (x : Started), s.taken c 0x23 = some x →
    let tag := field x.ops 16 17
    let found := s.wx.fetches.find? (fun f => f.tag == some (tag % 512, tag / 512) && f.st == .miss && f.load.isNone)
    let remote : Remote := ⟨field x.ops 18 18, field x.ops 24 31, BitVec.ofNat 32 (field x.ops 20 23), field x.ops 32 35⟩
    (found = none → exec (.waxLoad c) s = .next ((s.bump pgWX 0x038 1).endCmd x 0)) ∧
    (∀ f, found = some f → x.page < 32 → f.part ≠ x.page → exec (.waxLoad c) s = .next (s.refuseCmd x 0x0317)) ∧
    (∀ f, found = some f → (x.page < 32 → f.part = x.page) →
      (1 < field x.ops 18 18 → exec (.waxLoad c) s = .next (s.refuseCmd x 0x0259)) ∧
      (field x.ops 18 18 ≤ 1 → (s.conn (field x.ops 18 18) 0).valid = false → exec (.waxLoad c) s = .next (s.refuseCmd x 0x0112)) ∧
      (field x.ops 18 18 ≤ 1 → (s.conn (field x.ops 18 18) 0).valid = true →
        exec (.waxLoad c) s = .next ((s.setFetch { f with st := .waitStart, remote := some remote, load := some x.key }).setCmd
          { x with phase := .waiting })))) ∧
  (∀ (s : State) (c : CmdRef) (x : Started), s.taken c 0x24 = some x →
    let wax := field x.ops 16 21
    let ver := field x.ops 24 27
    (32 ≤ x.page → exec (.waxRefresh c) s = .next (s.refuseCmd x 0x0259)) ∧
    (x.page < 32 → (s.waxingOf wax).isSome = true → exec (.waxRefresh c) s = .next (s.refuseCmd x 0x0327 { wax := wax })) ∧
    (x.page < 32 → s.waxingOf wax = none →
      (∀ n, s.newestSlot x.page wax = some n → ver ≠ 0 → ver ≤ (s.inf n).version →
        exec (.waxRefresh c) s = .next (s.endCmd x 9 { result := slotResult n (s.inf n).gen (s.inf n).version })) ∧
      ((s.newestSlot x.page wax = none ∨ ∃ n, s.newestSlot x.page wax = some n ∧ (ver = 0 ∨ (s.inf n).version < ver)) →
        ∃ t f, exec (.waxRefresh c) s = .next t ∧ t.wx.fetches = s.wx.fetches ++ [f] ∧ f.part = x.page ∧ f.wax = wax ∧ f.version = ver ∧
          f.kind = .refresh ∧ f.st = .waitTag ∧ f.cmd = some x.key ∧ t = { s with wx := t.wx, started := t.started } ∧
          t.findCmd x.key = some { x with phase := .waiting }))) ∧
  (∀ (s : State) (c : CmdRef) (x : Started), s.taken c 0x25 = some x →
    let n := field x.ops 16 17 % 8192
    ((s.inf n).gen ≠ field x.ops 18 19 → exec (.waxEvict c) s = .next (s.refuseCmd x 0x0319 { id := n, idGen := field x.ops 18 19 })) ∧
    ((s.inf n).gen = field x.ops 18 19 → (s.inf n).st ≠ .free →
      (x.page < 32 → (s.inf n).owner ≠ x.page → exec (.waxEvict c) s = .next (s.refuseCmd x 0x0317 { id := n, idGen := (s.inf n).gen })) ∧
      ((x.page < 32 → (s.inf n).owner = x.page) →
        exec (.waxEvict c) s = .next ((s.setInf n { s.inf n with evictMark := true }).endCmd x (if s.referenced n then 10 else 0)))))

/-- WAX_STORE of a record set that can be read, whose records are good and pass the checks puts the record into the local store, in place of an older
one, and ends OK; a bad record refuses it with 0x0323, an incomplete or unfit set with its reason, and one more than the frames hold with 0x0505.
WAX_DELETE takes the wax out of the local store and leaves resident slots; that of a wax that trains is refused. -/
def Obligations.StoreAndDelete : Prop :=
  (∀ (s s1 : State) (c : CmdRef) (x : Started) (b header : List Byte) (set : List PqRec), s.taken c 0x26 = some x →
    s.load x.who (field x.ops 16 23) (field x.ops 24 27) = .ok (b, s1) →
    let m := s1.lift.base.getD {}
    let rcd := setRec (s.lift.base.getD {}) header set
    ((∃ r ∈ set, pqGood r = false) → exec (.waxStore c set header) s = .next (s1.refuseCmd x 0x0323 { wax := rcd.desc.wax })) ∧
    ((∀ r ∈ set, pqGood r = true) →
      (∀ e, setCheck m rcd.desc.wax set header = some e → exec (.waxStore c set header) s = .next (s1.refuseCmd x e { wax := rcd.desc.wax })) ∧
      (setCheck m rcd.desc.wax set header = none →
        (∀ e, s1.recCheck x.page rcd = some e → exec (.waxStore c set header) s = .next (s1.refuseCmd x e { wax := rcd.desc.wax })) ∧
        (s1.recCheck x.page rcd = none → s1.framesFree = 0 →
          exec (.waxStore c set header) s = .next (s1.refuseCmd x 0x0505 { wax := rcd.desc.wax })) ∧
        (s1.recCheck x.page rcd = none → 0 < s1.framesFree →
          ∃ t, exec (.waxStore c set header) s = .next t ∧ AMap.find t.wx.store rcd.desc.wax = some (s1.rekey rcd) ∧
            (∀ w, w ≠ rcd.desc.wax → AMap.find t.wx.store w = AMap.find s.wx.store w) ∧ t.infs = s.infs ∧ t.wxs = s.wxs ∧
            t.findCmd x.key = none)))) ∧
  (∀ (s : State) (c : CmdRef) (x : Started), s.taken c 0x27 = some x →
    ((s.waxingOf (field x.ops 16 21)).isSome = true → exec (.waxDelete c) s = .next (s.refuseCmd x 0x0327 { wax := field x.ops 16 21 })) ∧
    (s.waxingOf (field x.ops 16 21) = none →
      ∃ t, exec (.waxDelete c) s = .next t ∧ AMap.find t.wx.store (field x.ops 16 21) = none ∧
        (∀ w, w ≠ field x.ops 16 21 → AMap.find t.wx.store w = AMap.find s.wx.store w) ∧ t.infs = s.infs ∧ t.findCmd x.key = none))

/-- WAX_EXPORT that passes its checks runs with its sealed records, made under the class's key, kept for its end; one without a granting placement
entry is refused with 0x0342, one without the key with 0x011C, one of a wax under none of the partition's accounts with 0x0325. OVERLAY_SET clears an entry
without VALID, or sets one whose checks pass; a check that fails refuses it and leaves the table. -/
def Obligations.ExportAndOverlay : Prop :=
  (∀ (s : State) (c : CmdRef) (x : Started), s.taken c 0x28 = some x →
    let wax := field x.ops 16 21
    let ver := field x.ops 24 27
    let first := field x.ops 28 29
    let last := field x.ops 30 31
    let m := s.lift.base.getD {}
    (∀ e, s.exportCheck x = some e → exec (.waxExport c) s = .next (s.refuseCmd x e { wax := wax })) ∧
    (s.exportAccount x wax = none → s.exportCheck x = some 0x0325) ∧
    (∀ a, s.exportAccount x wax = some a → x.page < 32 → a ∉ (s.pt x.page).cur.accts → s.exportCheck x = some 0x0325) ∧
    (∀ (r : WaxRec) (full : Bool), s.exportCheck x = none → s.exportSource x wax ver = some (r, full) →
      (full = true ∨ field x.ops 34 34 = 1 ∨ field x.ops 34 34 = 0) →
      (s.exportKey (field x.ops 35 35) wax r.desc.account = none → exec (.waxExport c) s = .next (s.refuseCmd x 0x011C { wax := wax })) ∧
      (∀ key, s.exportKey (field x.ops 35 35) wax r.desc.account = some key →
        let ps := pqOrder m (waxVectors r) ((List.range (last + 1 - first)).map (· + first)) (fun k => (field x.ops 32 33).testBit k)
          ((List.range 6).filter (fun k => (field x.ops 34 34).testBit k)) ((field x.ops 34 34).testBit 6)
        let e := s.exportSet m r key (field x.ops 35 35) ver ps
        let runs := ∃ t, exec (.waxExport c) s = .next t ∧ t = { s with freeCtr := t.freeCtr, started := t.started } ∧
          t.findCmd x.key = some { x with phase := .running, data := e.1 } ∧ e.1.length = ps.length + 1
        (field x.ops 36 36 = 0 → e.2.exportEntry (partOfQp x.page) (field x.ops 40 47) e.1.flatten.length = true → runs) ∧
        (field x.ops 36 36 = 0 → e.2.exportEntry (partOfQp x.page) (field x.ops 40 47) e.1.flatten.length = false →
          exec (.waxExport c) s = .next (e.2.refuseCmd x 0x0342 { wax := wax })) ∧
        (field x.ops 36 36 = 1 → field x.ops 37 37 ≤ 1 → (s.conn (field x.ops 37 37) 0).valid = true → runs) ∧
        (field x.ops 36 36 = 1 → (1 < field x.ops 37 37 ∨ (s.conn (field x.ops 37 37) 0).valid = false) →
          exec (.waxExport c) s = .next (s.refuseCmd x 0x0112 { wax := wax }))))) ∧
  (∀ (s : State) (c : CmdRef) (x : Started), s.taken c 0x29 = some x →
    let n := field x.ops 16 17
    let old := AMap.get {} s.wx.overlay n
    let put := fun (o : Overlay) => (s.setWax { s.wx with overlay := AMap.put {} s.wx.overlay n o }).endCmd x 0
    (4096 ≤ n → exec (.overlaySet c) s = .next (s.refuseCmd x 0x0259)) ∧
    (n < 4096 → x.page < 32 → old.valid = true → old.part ≠ x.page → exec (.overlaySet c) s = .next (s.refuseCmd x 0x0317)) ∧
    (n < 4096 → (x.page < 32 → old.valid = true → old.part = x.page) →
      ((field x.ops 18 18).testBit 0 = false → exec (.overlaySet c) s = .next (put {})) ∧
      ((field x.ops 18 18).testBit 0 = true →
        (∀ r, s.overlayCheck n (s.overlayPart x) (field x.ops 24 31) (field x.ops 20 21) (field x.ops 32 39) = some r →
          exec (.overlaySet c) s = .next (s.refuseCmd x r)) ∧
        (s.overlayCheck n (s.overlayPart x) (field x.ops 24 31) (field x.ops 20 21) (field x.ops 32 39) = none →
          exec (.overlaySet c) s = .next (put { part := s.overlayPart x, valid := true, base := field x.ops 24 31, units := field x.ops 20 21,
                                                repl := field x.ops 32 39 })))))

/-! ## The lift and the copy engine -/

/-- BASE_LOAD whose checks pass and whose pinned shards are good runs to its end, where the installed base is the loaded base; one whose pinned shard
fails its digest as it is read is refused with 0x0118 and the shard is BAD. BASE_UNLOAD with no partition enabled runs to its end, where no base is loaded
and no BASE page is VALID. -/
def Obligations.BaseLoadAndUnload : Prop :=
  (∀ (s : State) (c : CmdRef) (x : Started) (m : Manifest), s.taken c 0x30 = some x → s.lift.installed = some m →
    (∀ r bad, s.loadCheck = some r → exec (.baseLoad c bad) s = .next (s.refuseCmd x r)) ∧
    (∀ bad, s.loadCheck = none → (∀ n ∈ bad, ∀ d ∈ m.shards, d.number ≠ n) →
      ∃ t, exec (.baseLoad c bad) s = .next t ∧ t = { s with started := t.started } ∧ t.findCmd x.key = some { x with phase := .running }) ∧
    (∀ n, s.loadCheck = none → (∃ d ∈ m.shards, d.routed = none ∧ d.number = n) →
      ∃ t, exec (.baseLoad c [n]) s = .next t ∧ t = (s.markBad m n).refuseCmd x 0x0118 ∧ n ∈ t.lift.bad ∧ t.lift.base = s.lift.base)) ∧
  (∀ (s : State) (m : Manifest), s.lift.installed = some m → s.loadBase.lift.base = some m ∧ s.loadBase.lift.streamed = !fitsResident m) ∧
  (∀ (s : State) (c : CmdRef) (x : Started), s.taken c 0x31 = some x →
    (s.anyPartition = true → exec (.baseUnload c) s = .next (s.refuseCmd x 0x0330)) ∧
    (s.anyPartition = false →
      ∃ t, exec (.baseUnload c) s = .next t ∧ t = { s with started := t.started } ∧ t.findCmd x.key = some { x with phase := .running })) ∧
  (∀ s : State, s.unloadBase.lift.base = none ∧ (∀ n, (s.unloadBase.page n).owner ≠ 62) ∧
    (∀ n, (s.page n).owner ≠ 62 → s.unloadBase.page n = s.page n))

/-- COPY writes the source's bytes at the destination and FILL the pattern, least significant byte first; the bytes are counted and the command runs
to its end; a refused read or write ends it REFUSED. Where source and destination overlap without being the same, the bytes are free (DESIGN CHOICE, log
entry 43). -/
def Obligations.CopyAndFill : Prop :=
  (∀ (s s1 s2 : State) (c : CmdRef) (x : Started) (b : List Byte), s.taken c 0x40 = some x →
    let src := field x.ops 16 23
    let dst := field x.ops 24 31
    let n := field x.ops 32 39
    s.load x.who src n = .ok (b, s1) → dst + n ≤ memTop →
    ((src = dst ∨ src + n ≤ dst ∨ dst + n ≤ src) → s1.store x.who dst b = .ok s2 →
      ∃ t, exec (.copy c) s = .next t ∧ t.findCmd x.key = some { x with phase := .running, aux := n } ∧
        (∀ i, i < n → t.byteAt (dst + i) = s.byteAt (src + i)) ∧ (∀ a, a < dst ∨ dst + n ≤ a → t.byteAt a = s.byteAt a)) ∧
    (src ≠ dst → src < dst + n → dst < src + n → (∀ data, data.length = n → ∃ u, (s1.setFreeCtr (s1.freeCtr + 1)).store x.who dst data = .ok u) →
      ∃ t, exec (.copy c) s = .next t ∧ t.findCmd x.key = some { x with phase := .running, aux := n } ∧
        (∀ a, a < dst ∨ dst + n ≤ a → t.byteAt a = s.byteAt a))) ∧
  (∀ (s : State) (c : CmdRef) (x : Started) (r : Nat), s.taken c 0x40 = some x → s.load x.who (field x.ops 16 23) (field x.ops 32 39) = .error (.inl r) →
    exec (.copy c) s = .next (s.refuseCmd x r { dua := some (field x.ops 16 23) })) ∧
  (∀ (s s2 : State) (c : CmdRef) (x : Started), s.taken c 0x41 = some x →
    let dst := field x.ops 16 23
    let n := field x.ops 24 31
    let bytes := fillBytes (field x.ops 32 35) n
    dst + n ≤ memTop → s.store x.who dst bytes = .ok s2 →
    ∃ t, exec (.fill c) s = .next t ∧ t.findCmd x.key = some { x with phase := .running, aux := n } ∧
      (∀ i, i < n → t.byteAt (dst + i) = BitVec.ofNat 8 (field x.ops 32 35 / 2 ^ (8 * (i % 4)))) ∧
      (∀ a, a < dst ∨ dst + n ≤ a → t.byteAt a = s.byteAt a)) ∧
  (∀ (s : State) (c : CmdRef) (x : Started) (r : Nat), s.taken c 0x41 = some x →
    s.store x.who (field x.ops 16 23) (fillBytes (field x.ops 32 35) (field x.ops 24 31)) = .error (.inl r) →
    exec (.fill c) s = .next (s.refuseCmd x r { dua := some (field x.ops 16 23) }))

/-! ## The fabric -/

/-- The five collectives, on a group that stands under the command's GEN and whose members are reachable: the member's source is read, the result of the
members' buffers is written at the destination (ALL_REDUCE the element-wise sums in the fixed order, REDUCE_SCATTER this member's chunk of them, ALL_GATHER
the buffers in rank order, BROADCAST the root's buffer, ALL_TO_ALL this member's piece of each buffer), and the command runs to its end. Under another GEN
it ends ABANDONED with 0x032B, with an unreachable member UNREACHABLE; a quarantined module refuses it with 0x032A. -/
def Obligations.CollectiveResults : Prop :=
  ∀ (s s1 s2 : State) (c : CmdRef) (x : Started) (g : Group) (b : List Byte),
    let n := field x.ops 40 47
    let src := field x.ops 24 31
    let dst := field x.ops 32 39
    let ran := fun (op : Nat) (r : List Byte) => (s2.emit (.collective op g.id (s.collVc x) b)).setCmd { x with phase := .running, aux := r.length }
    (s.fab.quarantined = false → s.groupAt (field x.ops 16 19) (field x.ops 20 21) = some g → s.lostMember g = none →
      (∀ inputs : List (List F32), s.load x.who src (4 * n) = .ok (b, s1) → inputs.length = g.size →
        (∀ l ∈ inputs.set g.rank (f32sOf b n), l.length = n) →
        let sums := reduceAll n g.size (inputs.set g.rank (f32sOf b n))
        (s.taken c 0x50 = some x → s1.store x.who dst (f32Bytes sums) = .ok s2 →
          exec (.allReduce c inputs) s = .next (ran 0x50 (f32Bytes sums))) ∧
        (s.taken c 0x51 = some x → s1.store x.who dst (f32Bytes (chunkSlice n g.size g.rank sums)) = .ok s2 →
          exec (.reduceScatter c inputs) s = .next (ran 0x51 (f32Bytes (chunkSlice n g.size g.rank sums))))) ∧
      (∀ inputs : List (List Byte), inputs.length = g.size →
        (s.taken c 0x52 = some x → s.load x.who src n = .ok (b, s1) → (∀ l ∈ inputs.set g.rank b, l.length = n) →
          s1.store x.who dst (inputs.set g.rank b).flatten = .ok s2 →
          exec (.allGather c inputs) s = .next (ran 0x52 (inputs.set g.rank b).flatten)) ∧
        (s.taken c 0x54 = some x → s.load x.who src (g.size * n) = .ok (b, s1) → (∀ l ∈ inputs.set g.rank b, l.length = g.size * n) →
          let r := (inputs.set g.rank b).flatMap (fun d => (d.drop (n * g.rank)).take n)
          s1.store x.who dst r = .ok s2 → exec (.allToAll c inputs) s = .next (ran 0x54 r))) ∧
      (∀ data : List Byte, s.taken c 0x53 = some x → field x.ops 22 23 < g.size →
        (g.rank = field x.ops 22 23 → s.load x.who src n = .ok (b, s1) → s1.store x.who dst b = .ok s2 →
          exec (.broadcast c data) s = .next (ran 0x53 b)) ∧
        (g.rank ≠ field x.ops 22 23 → data.length = n → s.load x.who src 0 = .ok (b, s1) → s1.store x.who dst data = .ok s2 →
          exec (.broadcast c data) s = .next (ran 0x53 data)))) ∧
    (∀ (fs : List (List F32)) (bs : List (List Byte)) (data : List Byte) (i : Instr),
      (i = .allReduce c fs ∧ s.taken c 0x50 = some x ∨ i = .reduceScatter c fs ∧ s.taken c 0x51 = some x ∨
        i = .allGather c bs ∧ s.taken c 0x52 = some x ∨ i = .broadcast c data ∧ s.taken c 0x53 = some x ∨
        i = .allToAll c bs ∧ s.taken c 0x54 = some x) →
      (s.fab.quarantined = true → exec i s = .next (s.refuseCmd x 0x032A)) ∧
      (s.fab.quarantined = false → s.groupAt (field x.ops 16 19) (field x.ops 20 21) = none → exec i s = .next (s.endCmd x 7 { reason := 0x032B })) ∧
      (s.fab.quarantined = false → s.groupAt (field x.ops 16 19) (field x.ops 20 21) = some g →
        (x.opcode = 0x53 → g.size ≤ field x.ops 22 23 → exec i s = .next (s.refuseCmd x 0x0259)) ∧
        (∀ f, s.lostMember g = some f → (x.opcode = 0x53 → field x.ops 22 23 < g.size) → exec i s = .next (s.endCmd x 6 { fabric := f }))))

/-- GROUP_SET whose descriptor can be read and passes the checks writes the group entry under the next generation (kept until the group's open step is
over); one that fails is refused with its reason. PEER_SET writes the peer-table entry of its fabric ID and no other. CHIMNEY_SEND whose table passes
sends each shard of the range to the root's children, or ends UNREACHABLE where no link serves one. A quarantine message with an epoch above the module's
own quarantines it: the collectives end ABANDONED and the open steps are abandoned. Silence past the limit abandons what waits on the silent member. -/
def Obligations.GroupsAndPeers : Prop :=
  (∀ (s s1 s2 : State) (c : CmdRef) (x : Started) (b mb : List Byte), s.taken c 0x56 = some x → s.fab.quarantined = false →
    s.load x.who (field x.ops 16 23) 64 = .ok (b, s1) →
    let id := field b 0 3
    let size := field b 8 11
    let rank := field b 12 15
    let members := (List.range size).map (fun i => field mb (4 * i) (4 * i + 3) % 2 ^ 21)
    let spec : GroupSpec := ⟨size, rank, field b 16 23, members, BitVec.ofNat 256 (field b 24 55)⟩
    ((id = 0 ∨ size < 2 ∨ 32768 < size ∨ size ≤ rank) → exec (.groupSet c) s = .next (s1.refuseCmd x 0x0253)) ∧
    (id ≠ 0 → 2 ≤ size → size ≤ 32768 → rank < size → s1.load x.who (field b 16 23) (4 * size) = .ok (mb, s2) →
      ((s2.groupOf id).isNone = true → 4096 ≤ s2.fab.groups.length → exec (.groupSet c) s = .next (s2.refuseCmd x 0x0509)) ∧
      (((s2.groupOf id).isSome = true ∨ s2.fab.groups.length < 4096) →
        (dupNat members = true → exec (.groupSet c) s = .next (s2.refuseCmd x 0x032C)) ∧
        (dupNat members = false →
          ∃ t, exec (.groupSet c) s = .next t ∧ t.findCmd x.key = none ∧
            (s2.groupOf id = none → ∃ slot, slot < 4096 ∧ t.groupOf id = some (Group.become { id := id, slot := slot } spec)) ∧
            (∀ g, s2.groupOf id = some g → (∀ k ∈ s2.fab.commits, k.group ≠ id) → t.groupOf g.id = some (g.become spec)) ∧
            (∀ g, (∃ k ∈ s2.fab.commits, k.group = id) → s2.groupOf id = some g → t.groupOf id = some { g with next := some spec }) ∧
            (∀ j, j ≠ id → (∀ g, s2.groupOf id = some g → g.id = id) → t.groupOf j = s2.groupOf j))))) ∧
  (∀ (s : State) (c : CmdRef) (x : Started), s.taken c 0x57 = some x → s.fab.quarantined = false →
    (32768 ≤ field x.ops 16 17 → exec (.peerSet c) s = .next (s.refuseCmd x 0x0257)) ∧
    (field x.ops 16 17 < 32768 →
      ∃ t, exec (.peerSet c) s = .next t ∧ t.peer (field x.ops 16 17) = BitVec.ofNat 32 (field x.ops 20 23) ∧
        (∀ f, f ≠ field x.ops 16 17 → t.peer f = s.peer f) ∧ t.findCmd x.key = none)) ∧
  (∀ (s s1 : State) (c : CmdRef) (x : Started) (b : List Byte), s.taken c 0x58 = some x → s.fab.quarantined = false →
    s.load x.who (field x.ops 16 23) 4096 = .ok (b, s1) →
    let table := Config.chimneyTable b
    let first := field x.ops 24 27
    let n := field x.ops 28 31
    let kids := ((table.find? (fun e => e.1 == s1.ownId)).map (·.2)).getD []
    (chimneyOk s1.ownId table = false → exec (.chimneySend c) s = .next (s1.refuseCmd x 0x0255)) ∧
    (chimneyOk s1.ownId table = true → (∀ i, i < n → (Manifest.shard (s1.lift.installed.getD {}) (first + i)).isSome = true) →
      (∀ k, kids.find? (fun k => !s1.reachable s1.ownId k) = some k → exec (.chimneySend c) s = .next (s1.endCmd x 6 { fabric := k })) ∧
      ((∀ k ∈ kids, s1.reachable s1.ownId k = true) →
        ∃ t, exec (.chimneySend c) s = .next t ∧ t = { s1 with started := t.started, out := t.out } ∧
          t.findCmd x.key = some { x with phase := .running } ∧
          t.out = ((List.range n).flatMap (fun i => kids.map (fun k => Output.chunkForward k (first + i) false))).reverse ++ s1.out))) ∧
  (∀ (s : State) (c : CmdRef) (x : Started), s.fab.quarantined = true →
    (s.taken c 0x56 = some x → exec (.groupSet c) s = .next (s.refuseCmd x 0x032A)) ∧
    (s.taken c 0x57 = some x → exec (.peerSet c) s = .next (s.refuseCmd x 0x032A)) ∧
    (s.taken c 0x58 = some x → exec (.chimneySend c) s = .next (s.refuseCmd x 0x032A))) ∧
  (∀ (s : State) (epoch : Word), s.ownEpoch.toNat < epoch.toNat → s.fab.quarantined = false →
    ∃ t, exec (.quarantineReceived epoch) s = .next t ∧ t.fab.quarantined = true ∧ (t.hdr pgCL).evStat.getLsbD 2 = true ∧
      (s.started = [] → s.fab.commits = [] → s.sems = [] → t = (s.setFab { s.fab with quarantined := true }).raise pgCL 2)) ∧
  (∀ (s : State) (f : Nat), f ≠ s.ownId → f < 32768 →
    let lim := (s.frc pgCL 0x04C).toNat
    ((∀ x ∈ s.collectivesOf (fun g => g.has f), s.nowUs < x.start + lim) → (∀ k ∈ s.commitsOf f, s.nowUs < k.since + lim) →
      exec (.silenceTimeout f) s = .next s) ∧
    ((∃ k ∈ s.commitsOf f, k.since + lim ≤ s.nowUs) →
      ∃ t, exec (.silenceTimeout f) s = .next t ∧ t.rd pgCL 0x054 = BitVec.ofNat 32 f ∧ (t.hdr pgCL).evStat.getLsbD 0 = true))

/-- A step over a group: the reduction of the members' banks in the fixed order becomes the bank in flight and this rank is prepared with its digest
(CL_REDUCE); a PREPARED message adds its rank once; the coordinator commits when every rank is prepared with one digest and aborts on another digest; an
outcome closes the step here and is acknowledged; a timeout aborts as the coordinator and asks otherwise; a question is answered with the outcome, with
undecided while the step is open, and with abort for a step that is unknown. -/
def Obligations.CommitSteps : Prop :=
  (∀ (s : State) (p : PartId) (wax gen step w : Nat) (g : Group) (b : Bank) (inputs : List BankIn),
    s.waxingIn p.val wax = some w → (s.wxOf w).flight = some b → (s.wxOf w).stepOpen = true → (s.wxOf w).outcome = none → s.enabled pgCL = true →
    (s.fab.commits.any (fun c => c.part == p.val && c.wax == wax)) = false →
    let group := (s.wxOf w).cfg.replicaGroup
    (s.fab.quarantined = true → exec (.clReduce p wax group gen step inputs) s = .next (s.reduceRefused p.val w 1 0x032A)) ∧
    (s.fab.quarantined = false → step ≠ (s.wxOf w).rcd.step.step + 1 →
      exec (.clReduce p wax group gen step inputs) s = .next (s.internalRec p.val 1 0x0701)) ∧
    (s.fab.quarantined = false → step = (s.wxOf w).rcd.step.step + 1 →
      (s.groupAt group gen = none → exec (.clReduce p wax group gen step inputs) s = .next (s.reduceRefused p.val w 7 0x032B)) ∧
      (s.groupAt group gen = some g → g.digest ≠ Config.sha256 (cfgBytes (s.wxOf w).cfg) →
        exec (.clReduce p wax group gen step inputs) s = .next (s.reduceRefused p.val w 1 0x024A)) ∧
      (s.groupAt group gen = some g → g.digest = Config.sha256 (cfgBytes (s.wxOf w).cfg) →
        ((s.lostMember g).isSome = true → exec (.clReduce p wax group gen step inputs) s = .next (s.reduceRefused p.val w 6 0)) ∧
        (s.lostMember g = none → inputs.length = g.size → (s.coordinator g ≠ g.rank ∨ 2 ≤ g.size) → s.groupOf g.id = some g →
          let m := s.lift.base.getD {}
          let e := waxValues m + m.clipCapacity
          let r := reduceBanks e g.size (inputs.set g.rank (bankIn b))
          ∃ t, exec (.clReduce p wax group gen step inputs) s = .next t ∧ t.wxOf w = { s.wxOf w with flight := some r } ∧
            (∀ j, j ≠ w → t.wxOf j = s.wxOf j) ∧ t.out = .prepared g.id step (bankDigest e r) :: s.out ∧
            t.fab.commits = s.fab.commits ++ [{ group := g.id, gen := g.gen, wax := (s.wxOf w).wax, part := p.val, step := step,
                                                digest := bankDigest e r, since := s.nowUs, prepared := [(g.rank, bankDigest e r)] }])))) ∧
  (∀ (s : State) (group step rank : Nat) (digest : BitVec 256),
    (s.findCommit group step = none → exec (.preparedReceived group step rank digest) s = .next (s.bump pgCL 0x038 1)) ∧
    (∀ (c : Commit) (g : Group), s.findCommit group step = some c → s.groupOf group = some g →
      rank < g.size → rank ≠ g.rank → s.rankAlive g rank = true → (c.prepared.any (fun p => p.1 == rank)) = false →
      let c1 : Commit := { c with prepared := c.prepared ++ [(rank, digest)] }
      (s.coordinator g ≠ g.rank → exec (.preparedReceived group step rank digest) s = .next (s.setCommit c1)) ∧
      (s.coordinator g = g.rank →
        (digest ≠ c.digest →
          exec (.preparedReceived group step rank digest) s = .next (((s.setCommit c1).emit (.outcome group step false)).setOutcome c1 false)) ∧
        ((∀ p ∈ c1.prepared, p.2 = c.digest) →
          ((∀ r, r < g.size → c1.prepared.any (fun p => p.1 == r) = true) →
            exec (.preparedReceived group step rank digest) s = .next (((s.setCommit c1).emit (.outcome group step true)).setOutcome c1 true)) ∧
          ((∃ r, r < g.size ∧ c1.prepared.any (fun p => p.1 == r) = false) →
            exec (.preparedReceived group step rank digest) s = .next (s.setCommit c1)))))) ∧
  (∀ (s : State) (group step : Nat) (commit : Bool),
    (∀ c, s.findCommit group step = some c →
      exec (.outcomeReceived group step commit) s = .next ((s.emit (.outcomeAck group step)).setOutcome c commit)) ∧
    (s.findCommit group step = none → exec (.outcomeReceived group step commit) s = .next (s.bump pgCL 0x038 1))) ∧
  (∀ (s : State) (c : Commit) (commit : Bool), c ∉ (s.setOutcome c commit).fab.commits ∧
    (s.setOutcome c commit).fab.outcomes = s.fab.outcomes ++ [(c.group, c.step, commit)]) ∧
  (∀ (s : State) (group step : Nat) (c : Commit) (g : Group), s.findCommit group step = some c → s.groupOf group = some g →
    (s.nowUs < c.since + (s.frc pgCL 0x048).toNat → exec (.commitTimeout group step) s = .next s) ∧
    (c.since + (s.frc pgCL 0x048).toNat ≤ s.nowUs →
      (c.coordDead = false → s.coordinator g = g.rank →
        exec (.commitTimeout group step) s = .next ((s.emit (.outcome group step false)).setOutcome c false)) ∧
      (c.coordDead = false → s.coordinator g ≠ g.rank →
        exec (.commitTimeout group step) s = .next ((s.setCommit { c with asked := true }).emit (.outcomeQuery group step))) ∧
      (c.coordDead = true → c.asked = true → exec (.commitTimeout group step) s = .next (s.setOutcome c false)) ∧
      (c.coordDead = true → c.asked = false →
        exec (.commitTimeout group step) s = .next ((s.setCommit { c with asked := true }).emit (.outcomeQuery group step))))) ∧
  (∀ (s : State) (group step rank : Nat), ∃ a, exec (.outcomeQueryReceived group step rank) s = .next (s.emit (.outcomeAnswer rank group step a)) ∧
    ((∃ b, (group, step, b) ∈ s.fab.outcomes ∧ a = some b) ∨
      ((∀ b, (group, step, b) ∉ s.fab.outcomes) ∧ (a = none ↔ (s.findCommit group step).isSome = true) ∧ (a = some false ↔ s.findCommit group step = none))))

/-! ## Fetches, saves and reloads -/

/-- The stages of a fetch: the next in rotation takes a free tag index and looks the wax up; a miss unanswered past its budget fails with 0x0116; the
next that can start takes a credit and a free inference slot and transfers; a transfer whose record passes lands, which makes its slot VALID with the
record and frees the index under the next generation; a failed one leaves no fetch, no park entry of it and its slot free. A save done puts the record
into the local store; a reload done makes the waxing slot ready; a hold past its budget expires. -/
def Obligations.FetchStages : Prop :=
  (∀ (s : State) (f : Fetch), (∀ g ∈ s.wx.fetches, g.st ≠ .missHeld) → s.enabled pgWX = true →
    (s.wx.fetches.filterMap (fun g => g.tag.map (·.1))).length < 512 → s.nextFetch s.wx.rotTag (fun g => g.st == .waitTag) = some f →
    ∃ i, i < 512 ∧ (∀ g ∈ s.wx.fetches, g.tag.map (·.1) ≠ some i) ∧
      let g := { f with tag := some (i, s.tagGen i) }
      exec .fetchTagAcquired s =
        .next ((((s.setFreeCtr (s.freeCtr + 1)).setWax { s.wx with rotTag := (f.part + 1) % 32 }).setFetch g).lookup g)) ∧
  (∀ (s : State) (f : Fetch) (tag : Fin 512), s.wx.fetches.find? (fun g => g.tag.map (·.1) == some tag.val && g.st == .miss) = some f → f.left = none →
    (s.nowUs < f.since + (s.frc pgWX 0x044).toNat → exec (.missTimeout tag) s = .next s) ∧
    (f.since + (s.frc pgWX 0x044).toNat ≤ s.nowUs → exec (.missTimeout tag) s = .next (s.failFetch f 0x0116))) ∧
  (∀ (s : State) (f : Fetch) (reason : Nat), f.kind ≠ .train →
    let t := s.failFetch f reason
    (∀ g ∈ t.wx.fetches, g.id ≠ f.id) ∧ (∀ g ∈ s.wx.fetches, g.id ≠ f.id → g ∈ t.wx.fetches) ∧
      (∀ k ∈ t.parks, k.fetch ≠ some f.id) ∧ (∀ k ∈ s.parks, k.fetch ≠ some f.id → k ∈ t.parks) ∧
      (∀ n, f.slot = some n → t.inf n = { gen := genStep (s.inf n).gen }) ∧ t.slots = s.slots) ∧
  (∀ (s : State) (f : Fetch), s.enabled pgWX = true → s.wx.inUse < fld (s.frc pgWX 0x040) 9 0 →
    s.nextFetch s.wx.rotStart (fun g => s.canStart g) = some f →
    (s.infOf f.part).length < (s.pt f.part).cur.inf → (s.infs.filter (fun e => e.2.st ≠ .free)).length < 8192 →
    ∃ t n, exec .fetchStart s = .next t ∧ n < 8192 ∧ (s.inf n).st = .free ∧
      t.inf n = { gen := (s.inf n).gen, st := .filling, owner := f.part, wax := f.wax } ∧ (∀ j, j ≠ n → t.inf j = s.inf j) ∧
      t.wx.fetches = s.wx.fetches.map (fun g => if g.id = f.id then { f with st := .transfer, slot := some n } else g) ∧
      t.wx.inUse = s.wx.inUse + 1 ∧ t.wxs = s.wxs ∧
      (∀ r, f.remote = some r → t.out.head? = some (.rdmaRead r.port r.raddr r.rkey r.bytes))) ∧
  (∀ s : State, s.enabled pgWX = true → fld (s.frc pgWX 0x040) 9 0 ≤ s.wx.inUse → exec .fetchStart s = .next s) ∧
  (∀ (s : State) (tag : Fin 512) (gen : Nat) (a : Arrival),
    s.wx.fetches.find? (fun g => g.tag == some (tag.val, gen) && g.st == .transfer) = none →
    exec (.fetchTransferDone tag gen a) s = .next (s.bump pgWX 0x038 1)) ∧
  (∀ (s : State) (tag : Fin 512) (gen : Nat) (f : Fetch), s.wx.fetches.find? (fun g => g.tag == some (tag.val, gen) && g.st == .transfer) = some f →
    (f.retried = false → exec (.fetchTransferDone tag gen .digestFail) s = .next ((s.setFetch { f with retried := true }).askRemote f)) ∧
    (f.retried = true → exec (.fetchTransferDone tag gen .digestFail) s = .next ((s.bump pgWX 0x058 1).failFetch f 0x0323)) ∧
    (f.remote.isSome = true → exec (.fetchTransferDone tag gen .connBroke) s = .next (s.failFetch f 0x0113)) ∧
    (∀ set header, f.remote.isSome = true → (∀ r ∈ set, pqGood r = true) →
      let m := s.lift.base.getD {}
      let rcd := setRec m header set
      (∀ e, setCheck m f.wax set header = some e → exec (.fetchTransferDone tag gen (.remote set header)) s = .next (s.failFetch f e)) ∧
      (setCheck m f.wax set header = none → f.version ≠ 0 → rcd.desc.version ≠ f.version →
        exec (.fetchTransferDone tag gen (.remote set header)) s = .next (s.failFetch f 0x0323)) ∧
      (setCheck m f.wax set header = none → (f.version = 0 ∨ rcd.desc.version = f.version) → s.recCheck f.part rcd = none →
        exec (.fetchTransferDone tag gen (.remote set header)) s = .next (s.landFetch f rcd))) ∧
    (∀ r e, f.remote = none → AMap.find s.wx.store f.wax = some r → s.recCheck f.part r = some e →
      exec (.fetchTransferDone tag gen .stored) s = .next (s.failFetch f e)) ∧
    (∀ r n, f.remote = none → f.kind = .first → AMap.find s.wx.store f.wax = some r → s.recCheck f.part r = none → f.slot = some n →
      s.newestVersion f.part f.wax < (s.rekey r).desc.version →
      ∃ t, exec (.fetchTransferDone tag gen .stored) s = .next t ∧
        (t.inf n).st = (if s.newestVersion f.part f.wax = 0 then .valid else .landed) ∧ (t.inf n).owner = f.part ∧ (t.inf n).wax = f.wax ∧
        (t.inf n).version = (s.rekey r).desc.version ∧ (t.inf n).rcd = infForm (s.rekey r) ∧ (∀ j, j ≠ n → t.inf j = s.inf j) ∧
        (∀ g ∈ t.wx.fetches, g.id ≠ f.id) ∧ t.tagGen tag.val = tagGenStep gen)) ∧
  (∀ (s : State) (wax : Nat) (v : Save), s.wx.saves.find? (fun x => x.wax == wax && x.begun) = some v →
    (∃ t, exec (.waxSaveDone wax true) s = .next t ∧ AMap.find t.wx.store wax = some v.rcd ∧
      (∀ j, j ≠ wax → AMap.find t.wx.store j = AMap.find s.wx.store j) ∧ t.infs = s.infs ∧ t.wx.fetches = s.wx.fetches) ∧
    (∃ t, exec (.waxSaveDone wax false) s = .next t ∧ t.wx.store = s.wx.store ∧ t.wxs = s.wxs ∧ (t.hdr pgWX).evStat.getLsbD 4 = true)) ∧
  (∀ (s : State) (slot : Nat), (s.wxOf slot).used = true → (s.wxOf slot).ready = false → (s.wxOf slot).rcd.desc.wax ≠ 0 →
    (∀ r, AMap.find s.wx.store (s.wxOf slot).wax = some r →
      exec (.waxReloadDone slot true) s = .next (s.setWx slot { s.wxOf slot with ready := true, rcd := trainForm r })) ∧
    (∃ t, exec (.waxReloadDone slot false) s = .next t ∧ (t.wxOf slot).untrain.isSome = true ∧ (t.wxOf slot).ready = false ∧
      (∀ j, j ≠ slot → t.wxOf j = s.wxOf j) ∧ t = { s with wxs := t.wxs })) ∧
  (∀ (s : State) (n : Nat), ((s.hold n).st = .held ∨ (s.hold n).st = .grouped) → (s.hold n).left = none → (s.seOf (s.hold n).owner).ordered = false →
    let due := (s.hold n).since + (s.frc (pgSE (s.hold n).owner) 0x0F4).toNat * 1000
    (s.nowUs < due → exec (.holdBudgetExpiry n) s = .next s) ∧
    (due ≤ s.nowUs → exec (.holdBudgetExpiry n) s = .next (s.setHold n { s.hold n with expired := true })))

/-! ## Memory tiers -/

/-- An idle, unpinned page of local DRAM migrates to coherent memory while frames are free there (event 1 and nothing else if none is), one whose promotion
is called for migrates back while the free frames suffice; the switch gives the page its new tier and frame, drops its translations and cached lines, and
no byte changes; a zero-filled region reads as zeros and is served; a rewritten base shard's lines lose their poison, and one that fails twice is bad. -/
def Obligations.TiersAndRegions : Prop :=
  (∀ (s : State) (n : Nat),
    let e := s.page n
    let limit := fld (s.rd pgMS 0x040) 7 0
    (e.pinned = true ∨ e.modulePinned = true ∨ e.tier ≠ 1 ∨ e.idle < limit ∨ limit = 0 → exec (.pageDemote n) s = .next s) ∧
    (e.valid = true → e.tier = 1 → e.pinned = false → e.modulePinned = false → e.migrating = false → limit ≠ 0 → limit ≤ e.idle →
      (s.cohFree = 0 → exec (.pageDemote n) s = .next (s.raise pgMS 1)) ∧
      (0 < s.cohFree →
        ∃ t f, exec (.pageDemote n) s = .next t ∧ AMap.find t.mem.migr n = some { tier := 2, frame := f } ∧ t.page n = { e with migrating := true } ∧
          (∀ j, j ≠ n → t.page j = s.page j) ∧ t.mem.bytes = s.mem.bytes ∧ t = { s with mem := t.mem, freeCtr := s.freeCtr + 1 }))) ∧
  (∀ (s : State) (n : Nat),
    let e := s.page n
    (e.valid = true → e.tier = 2 → e.migrating = false → n ∈ s.mem.wanted → fld (s.rd pgMS 0x040) 27 8 ≤ s.dramFree → 0 < s.dramFree →
      ∃ t f, exec (.pagePromote n) s = .next t ∧ AMap.find t.mem.migr n = some { tier := 1, frame := f } ∧ t.page n = { e with migrating := true } ∧
        t.mem.bytes = s.mem.bytes ∧ n ∉ t.mem.wanted ∧ t = { s with mem := t.mem, freeCtr := s.freeCtr + 1 }) ∧
    (n ∉ s.mem.wanted ∨ s.dramFree < fld (s.rd pgMS 0x040) 27 8 → exec (.pagePromote n) s = .next s)) ∧
  (∀ (s : State) (n : Nat) (m : Migr), AMap.find s.mem.migr n = some m →
    ∃ t, exec (.migrationSwitch n) s = .next t ∧
      t.page n = { s.page n with frame := m.frame, tier := m.tier, migrating := false } ∧ (∀ j, j ≠ n → t.page j = s.page j) ∧
      AMap.find t.mem.migr n = none ∧ t.mem.bytes = s.mem.bytes ∧ t.mem.lines = s.mem.lines ∧ (∀ e ∈ t.mem.tlb, e.page ≠ n) ∧
      (∀ c ∈ t.mem.cache, linePage c.line ≠ n) ∧
      t.rd64 pgMS (if m.tier = 2 then 0x020 else 0x028) = (s.rd64 pgMS (if m.tier = 2 then 0x020 else 0x028) + 1) % 2 ^ 64) ∧
  (∀ (s : State) (n : Nat), (s.region n).filling = true → (s.region n).base % 64 = 0 →
    let r := s.region n
    let inside := fun (a : Nat) => r.base ≤ a ∧ a < r.base + r.pages * pageSize
    ∃ t, exec (.regionZeroFillDone n) s = .next t ∧ t.region n = { r with filling := false } ∧ (∀ j, j ≠ n → t.region j = s.region j) ∧
      (∀ a, inside a → (s.page (a / pageSize)).owner ≠ 62 → t.byteAt a = 0) ∧ (∀ a, ¬ inside a → t.byteAt a = s.byteAt a) ∧
      t = { s with fbx := t.fbx, mem := t.mem }) ∧
  (∀ (s : State) (dua n : Nat) (d : Shard), s.shardAt dua = some (n, d) → n ∈ s.lift.rewriting →
    (n ∈ s.lift.bad → ∀ ok, exec (.baseShardRewritten dua ok) s =
      .next (s.setLift { s.lift with rewriting := s.lift.rewriting.filter (· ≠ n) })) ∧
    (n ∉ s.lift.bad →
      (∃ t, exec (.baseShardRewritten dua true) s = .next t ∧ n ∉ t.lift.rewriting ∧ t.mem.bytes = s.mem.bytes ∧
        (∀ l e, s.shardAt (64 * l) = some (n, e) → (s.page (linePage l)).owner = 62 → (t.lineMeta l).poison = false) ∧
        (∀ l, (s.page (linePage l)).owner ≠ 62 → t.lineMeta l = s.lineMeta l)) ∧
      (n ∉ s.lift.retried → exec (.baseShardRewritten dua false) s = .next (s.setLift { s.lift with retried := s.lift.retried ++ [n] })) ∧
      (n ∈ s.lift.retried → ∃ t, exec (.baseShardRewritten dua false) s = .next t ∧ n ∈ t.lift.bad ∧ n ∉ t.lift.rewriting ∧ n ∉ t.lift.retried ∧
        t.mem = s.mem ∧ (t.hdr pgLF).evStat.getLsbD 1 = true)))

/-! ## The lift, the patrol and the installation -/

/-- The lift takes the next fill in order into a buffer not in use or free, or notes once that the window is full; an expert whose shard passes its digest
is landed in every buffer of its layer that reads it, one that fails is read again once and is then bad, and a peer's expert lands when its contribution
returns. A patrol pass that is due begins at the first shard; each shard checked moves it on and is counted, the last ends it with event 3. An
installation checks its registers, writes its shards in order and ends with event 4. -/
def Obligations.LiftPatrolInstall : Prop :=
  (∀ (s : State) (m : Manifest) (w : FillWant), s.lift.base = some m → s.lift.streamed = true → s.enabled pgLF = true →
    (s.hdr pgLF).stopping = false → (s.fillOrder m).find? (fun x => !s.filled x) = some w →
    let again := fun (b : WinBuf) => b.claim = none ∧ b.holds w = true
    let new : WinBuf := { layer := w.layer, need := w.need, landed := [], claim := some w.use }
    ((∃ b ∈ s.lift.bufs, again b) →
      ∃ t b, exec .liftFillStart s = .next t ∧ b ∈ s.lift.bufs ∧ again b ∧ { b with claim := some w.use } ∈ t.lift.bufs ∧
        t.lift.bufs.length = s.lift.bufs.length ∧ t = { s with lift := t.lift }) ∧
    ((∀ b ∈ s.lift.bufs, ¬ again b) → s.lift.bufs.length < s.lift.winLayers → exec .liftFillStart s =
      .next (s.setLift { s.lift with blocked := false, bufs := s.lift.bufs ++ [new] })) ∧
    ((∀ b ∈ s.lift.bufs, ¬ again b) → s.lift.winLayers ≤ s.lift.bufs.length →
      ((∃ b ∈ s.lift.bufs, b.claim = none) →
        ∃ t, exec .liftFillStart s = .next t ∧ new ∈ t.lift.bufs ∧ t.lift.bufs.length = s.lift.bufs.length ∧ t.lift.blocked = false ∧
          (∀ b ∈ s.lift.bufs, b.claim.isSome = true → b ∈ t.lift.bufs) ∧ t = { s with lift := t.lift }) ∧
      ((∀ b ∈ s.lift.bufs, b.claim.isSome = true) →
        (s.lift.blocked = false → exec .liftFillStart s = .next ((s.setLift { s.lift with blocked := true }).raise pgLF 3)) ∧
        (s.lift.blocked = true → exec .liftFillStart s = .next s)))) ∧
  (∀ (s : State) (m : Manifest) (layer expert : Nat) (d : Shard) (b : WinBuf), s.lift.base = some m → routedShard m layer expert = some d →
    b ∈ s.lift.bufs → b.layer = layer → b.claim.isSome = true → expert ∈ b.need → expert ∉ b.landed → d.number ∉ s.lift.bad →
    (∃ t, exec (.expertLanded layer expert true) s = .next t ∧
      (∀ x ∈ t.lift.bufs, x.layer = layer → x.claim.isSome = true → expert ∈ x.need → expert ∈ x.landed) ∧
      t.lift.bufs.length = s.lift.bufs.length ∧ t.lift.bad = s.lift.bad) ∧
    (d.number ∉ s.lift.retried →
      ∃ t, exec (.expertLanded layer expert false) s = .next t ∧ t.lift.bad = s.lift.bad ∧ t.lift.retried = s.lift.retried ++ [d.number]) ∧
    (d.number ∈ s.lift.retried →
      ∃ t, exec (.expertLanded layer expert false) s = .next t ∧ t.lift.bad = s.lift.bad ++ [d.number] ∧ d.number ∉ t.lift.retried ∧
        (t.hdr pgLF).evStat.getLsbD 1 = true)) ∧
  (∀ (s : State) (m : Manifest) (layer expert : Nat), s.lift.base = some m → routedShard m layer expert = none → s.lift.streamed = true →
    expert < (m.layers.getD layer {}).routed → s.landed layer expert = false →
    ∃ t, exec (.expertLanded layer expert true) s = .next t ∧ t.lift = { s.lift with peerLanded := s.lift.peerLanded ++ [(layer, expert)] } ∧
      t = { s with lift := t.lift, se := t.se }) ∧
  (∀ s : State, s.mc.vaultMounted = true → s.lift.installed.isSome = true → s.lift.openInstall = false → s.lift.patrolOn = false →
    (s.nowUs < s.lift.patrolAt → exec .patrolPassStart s = .next s) ∧
    (s.lift.patrolAt ≤ s.nowUs → exec .patrolPassStart s =
      .next (s.setLift { s.lift with patrolOn := true, patrolLate := false, patrolPos := 0, patrolAt := s.lift.patrolAt + dayUs }))) ∧
  (∀ (s : State) (m : Manifest) (n : Nat), s.lift.installed = some m → s.lift.patrolOn = true → s.mc.vaultMounted = true →
    (shardOrder m)[s.lift.patrolPos]? = some n →
    (∃ t, exec (.patrolShardChecked true) s = .next t ∧ t.lift.patrolPos = s.lift.patrolPos + 1 ∧ t.lift.bad = s.lift.bad ∧
      t.rd64 pgMS 0x038 = (s.rd64 pgMS 0x038 + 1) % 2 ^ 64 ∧
      (s.lift.patrolPos + 1 < m.shards.length → t.lift.patrolOn = true) ∧
      (m.shards.length ≤ s.lift.patrolPos + 1 → t.lift.patrolOn = false ∧ (t.hdr pgMS).evStat.getLsbD 3 = true)) ∧
    (n + 2 ^ 32 ∉ s.lift.retried → exec (.patrolShardChecked false) s = .next (s.setLift { s.lift with retried := s.lift.retried ++ [n + 2 ^ 32] })) ∧
    (n + 2 ^ 32 ∈ s.lift.retried →
      ∃ t, exec (.patrolShardChecked false) s = .next t ∧ n ∈ t.lift.bad ∧ t.lift.patrolPos = s.lift.patrolPos + 1)) ∧
  (∀ (s : State) (o : Origin) (r : Req), s.access o (pgLF * 0x1000 + 0x070) true = .pass s r →
    let a := s.setReply .ok
    ((s.lift.instBusy = true ∨ s.lift.openInstall = false) → exec (.instGo o) s = .next (a.refuse pgLF 0x0704)) ∧
    (s.lift.instBusy = false → s.lift.openInstall = true → s.rd64 pgLF 0x060 % 64 ≠ 0 → exec (.instGo o) s = .next (a.refuse pgLF 0x023B)) ∧
    (s.lift.instBusy = false → s.lift.openInstall = true → s.rd64 pgLF 0x060 % 64 = 0 →
      let left := transferShards (s.lift.installed.getD {}) (fld (s.rd pgLF 0x068) 23 0) (fld (s.rd pgLF 0x06C) 23 0)
      exec (.instGo o) s = .next (a.setLift { s.lift with instBusy := true, instLeft := left }))) ∧
  (∀ (s : State) (n : Nat) (rest : List Nat), s.lift.instBusy = true → s.lift.instLeft = n :: rest →
    (∃ t, exec (.instShardWritten n true false) s = .next t ∧ t.lift.instLeft = rest ∧ n ∈ t.lift.written ∧ n ∈ t.lift.passed ∧ n ∉ t.lift.bad ∧
      t = { s with lift := t.lift }) ∧
    (∃ t, exec (.instShardWritten n true true) s = .next t ∧ t.lift.instLeft = rest ∧ n ∈ t.lift.written ∧ n ∉ t.lift.passed ∧ n ∈ t.lift.scaleFF ∧
      t = { s with lift := t.lift }) ∧
    (n + 3 * 2 ^ 32 ∉ s.lift.retried →
      exec (.instShardWritten n false false) s = .next (s.setLift { s.lift with retried := s.lift.retried ++ [n + 3 * 2 ^ 32] })) ∧
    (n + 3 * 2 ^ 32 ∈ s.lift.retried →
      ∃ t, exec (.instShardWritten n false false) s = .next t ∧ t.lift.instLeft = rest ∧ n ∈ t.lift.bad ∧ n ∉ t.lift.passed)) ∧
  (∀ s : State, s.lift.instBusy = true → s.lift.instLeft = [] →
    exec .instDone s = .next ((s.setLift { s.lift with instBusy := false }).raise pgLF 4))

/-! ## Flues -/

/-- A flit is sent with the module's own fabric ID and epoch and the next number of its flow, takes a credit of its channel and stays for replay; a
channel the link does not carry is refused with 0x0602, a destination past 32,767 with 0x0257, and with no credit (or while quarantined, but for channel 0)
it waits. A flit received under the expected epoch is delivered in the order of its flow and its credit goes back, one under another epoch is counted,
answered with QUARANTINE if older. Credits returned free their flits; more than were taken break law 0, which the audit shows. A replay timeout sends the
oldest flit again; silence takes the link down, and what waited on it goes to a link that serves its destination; training gives it fresh credits. The last
chunk of a shard that passes is taken in, a failing one asked for again. -/
def Obligations.FlueTraffic : Prop :=
  (∀ (s : State) (n : LinkId) (f : Flit), (s.link n.val).st = .up → s.isUp (0x70 + n.val) = true → s.enabled (pgFL n.val) = true →
    (s.hdr (pgFL n.val)).fenced = false →
    let l := s.link n.val
    let c := l.chan f.vc.val
    let g : Flit := { f with src := s.ownId, epoch := s.ownEpoch, seq := s.txNext f, payload := padTo 256 f.payload }
    (l.carries f.vc.val = false → exec (.flitSend n f) s = .next (s.setReply (.refused 0x0602))) ∧
    (l.carries f.vc.val = true → 32768 ≤ f.dst → exec (.flitSend n f) s = .next (s.setReply (.refused 0x0257))) ∧
    (l.carries f.vc.val = true → f.dst < 32768 → l.queue = [] →
      ((s.fab.quarantined = true ∧ f.vc ≠ 0 ∨ c.held = 0) →
        exec (.flitSend n f) s = .next ((s.enqueue n.val { flit := f }).auditLink n.val)) ∧
      ((s.fab.quarantined = false ∨ f.vc = 0) → c.held ≠ 0 → (f.vc = 0 → l.vc0At ≠ s.nowUs ∨ l.vc0Sent < vc0Cap) →
        (∀ v, v < 4 → (l.chan v).held + (l.chan v).flight = vcTotal v ∧ (l.chan v).buf = s.buffered n.val v) →
        ∃ t, exec (.flitSend n f) s = .next t ∧ t.out = .flit n.val g :: s.out ∧ (t.link n.val).replay = l.replay ++ [⟨g, s.nowUs⟩] ∧
          (t.link n.val).queue = [] ∧ (t.link n.val).chan f.vc.val = { c with held := c.held - 1, flight := c.flight + 1 } ∧
          (∀ v, v ≠ f.vc.val → (t.link n.val).chan v = l.chan v) ∧ (∀ k, k ≠ n.val → t.link k = s.link k) ∧ t.txNext f = s.txNext f + 1 ∧
          t.rd64 (pgFL n.val) 0x020 = (s.rd64 (pgFL n.val) 0x020 + 1) % 2 ^ 64))) ∧
  (∀ (s : State) (n : LinkId) (f : Flit), (s.link n.val).st = .up → s.isUp (0x70 + n.val) = true →
    let pg := pgFL n.val
    let s1 := (s.setLink n.val { s.link n.val with lastRx := s.nowUs }).bump pg 0x028 1
    let e := s1.expectedEpoch n.val f
    ((s.link n.val).carries f.vc.val = false →
      exec (.flitReceived n f) s = .next ((s1.giveCredit n.val f.vc.val).setReply (.refused 0x0602))) ∧
    ((s.link n.val).carries f.vc.val = true →
      (f.epoch.toNat < e.toNat →
        exec (.flitReceived n f) s = .next (((s1.giveCredit n.val f.vc.val).bump pg 0x038 1).emit (.quarantine f.src e))) ∧
      (e.toNat < f.epoch.toNat ∨ e = 0 →
        exec (.flitReceived n f) s = .next (((s1.giveCredit n.val f.vc.val).bump pg 0x038 1).raise pg 2)) ∧
      (e ≠ 0 → f.epoch = e →
        (∀ w, s.fab.flows.find? (fun w => w.src == f.src && w.vc == f.vc.val && w.stream == f.stream) = some w → f.seq = w.next → w.early = [] →
          ∃ t, exec (.flitReceived n f) s = .next t ∧ t.fab.delivered = s.fab.delivered ++ [f] ∧ .credit n.val f.vc.val 1 ∈ t.out ∧
            t.rd64 pg 0x028 = (s.rd64 pg 0x028 + 1) % 2 ^ 64) ∧
        (∀ w, s.fab.flows.find? (fun w => w.src == f.src && w.vc == f.vc.val && w.stream == f.stream) = some w → f.seq ≠ w.next →
          ∃ t, exec (.flitReceived n f) s = .next t ∧ t.fab.delivered = s.fab.delivered)))) ∧
  (∀ (s : State) (n : LinkId) (vc : Fin 4) (k : Nat), (s.link n.val).st = .up →
    let l := s.link n.val
    let c := l.chan vc.val
    let pg := pgFL n.val
    let y := { l.setChan vc.val { c with held := c.held + k, flight := c.flight - k } with replay := dropAcked vc.val k l.replay }
    exec (.creditReturn n vc k) s = .next ((s.setLink n.val y).pump n.val) ∧
    (l.queue = [] → (∀ v, v < 4 → (l.chan v).held + (l.chan v).flight = vcTotal v ∧ (l.chan v).buf = s.buffered n.val v) →
      (k ≤ c.flight → exec (.creditReturn n vc k) s = .next (s.setLink n.val y)) ∧
      (c.flight < k → s.resets = [] →
        ∃ t, exec (.creditReturn n vc k) s = .next t ∧ (t.rd pg 0x048).getLsbD vc.val = true ∧ (t.hdr pg).evStat.getLsbD 3 = true))) ∧
  (∀ (s : State) (n : LinkId) (x : Sent) (rest : List Sent), (s.link n.val).replay = x :: rest → (s.link n.val).st = .up →
    (s.nowUs < x.at_ + 2 → exec (.replayTimeout n) s = .next s) ∧
    (x.at_ + 2 ≤ s.nowUs → exec (.replayTimeout n) s =
      .next (((s.setLink n.val { s.link n.val with replay := { x with at_ := s.nowUs } :: rest }).emit (.flit n.val x.flit)).bump (pgFL n.val) 0x030 1))) ∧
  (∀ (s : State) (n : LinkId), (s.link n.val).st = .up →
    (s.nowUs < (s.link n.val).lastRx + 10 → exec (.linkIdleTimeout n) s = .next s) ∧
    ((s.link n.val).lastRx + 10 ≤ s.nowUs →
      ∃ t, exec (.linkIdleTimeout n) s = .next t ∧ (t.link n.val).st = .down ∧ (t.hdr (pgFL n.val)).evStat.getLsbD 0 = true ∧
        ((s.link n.val).replay = [] → (∀ k, k < 16 → (s.link k).queue = []) → ∀ k, k ≠ n.val → t.link k = s.link k))) ∧
  (∀ (s : State) (w : Waiting),
    (∀ k, (List.range 16).find? (fun k => s.serves k w.flit.dst) = some k → ((s.moveFlit w).link k).queue = (s.link k).queue ++ [w]) ∧
    ((∀ k, k < 16 → s.serves k w.flit.dst = false) → s.moveFlit w = s)) ∧
  (∀ (s : State) (n : LinkId) (lanes peer : Nat), (s.link n.val).st ≠ .up → s.isUp (0x70 + n.val) = true → s.ownEpoch ≠ 0 → peer < 32768 →
    let k4 := (s.rd (pgFL n.val) 0x04C).getLsbD 0
    (lanes = 8 → exec (.linkTrained n lanes peer) s =
      .next (s.setLink n.val { st := .up, degraded := false, k4 := k4, peer := peer, chans := freshChans, lastRx := s.nowUs })) ∧
    (lanes = 4 → ∃ t, exec (.linkTrained n lanes peer) s = .next t ∧ (t.link n.val).st = .up ∧ (t.link n.val).degraded = true ∧
      (t.link n.val).chans = freshChans ∧ (t.hdr (pgFL n.val)).evStat.getLsbD 1 = true)) ∧
  (∀ (s : State) (shard : Nat) (kids : List Nat), s.fab.quarantined = false → (Manifest.shard (s.lift.installed.getD {}) shard).isSome = true →
    (s.fbx.baseKey = none → ∀ last ok bad, exec (.chimneyChunkArrived shard kids last ok bad) s = .next (s.setReply (.refused 0x0119))) ∧
    (s.fbx.baseKey.isSome = true →
      (∃ t, exec (.chimneyChunkArrived shard kids false true false) s = .next t ∧
        t.out = (kids.map (fun k => Output.chunkForward k shard false)).reverse ++ s.out) ∧
      (shard + 2 * 2 ^ 32 ∉ s.lift.retried →
        ∃ t, exec (.chimneyChunkArrived shard kids true false false) s = .next t ∧ t.out = .chunkRequest shard :: s.out ∧ t.lift.bad = s.lift.bad ∧
          t.lift.retried = s.lift.retried ++ [shard + 2 * 2 ^ 32]) ∧
      (shard + 2 * 2 ^ 32 ∈ s.lift.retried →
        ∃ t, exec (.chimneyChunkArrived shard kids true false false) s = .next t ∧ shard ∈ t.lift.bad) ∧
      (∃ t, exec (.chimneyChunkArrived shard kids true true true) s = .next t ∧ shard ∈ t.lift.bad) ∧
      (s.lift.openInstall = true →
        ∃ t, exec (.chimneyChunkArrived shard kids true true false) s = .next t ∧ shard ∈ t.lift.written ∧ shard ∈ t.lift.passed ∧ shard ∉ t.lift.bad)))

/-! ## Partitions -/

/-- Partition control. A GO of new values that fails a check is refused and changes no value in force; one that passes waits for the boundary, which a
partition that stands still is at. FREEZE on an enabled partition begins freezing, cleared on a frozen one it is enabled again, and a freeze still open when
its budget has passed falls back with event 2. Ash-out begins from any state but disabled, and a save or restore it cuts off ends aborted; its end steps
the generation of the partition's regions under new keys, unmaps its pages, frees its hearths and placement entries and leaves it disabled. A hearth whose
transit ends leaves the shrinking list. -/
def Obligations.PartitionControl : Prop :=
  (∀ (s : State) (o : Origin) (p : PartId) (r : Req), s.access o (pgPT p.val * 0x1000 + 0x078) true = .pass s r →
    let a := s.setReply .ok
    let pg := pgPT p.val
    let v := a.ptAsked p.val (fun off => a.rd pg off)
    let count := fld (s.rd pg 0x070) 6 0
    (∀ e, a.ptCheck p.val v count = some e → exec (.ptResizeGo o p) s = .next (a.refuse pg e)) ∧
    (∀ e, a.ptCheck p.val v count = none → a.ptResizeCheck p.val v = some e → exec (.ptResizeGo o p) s = .next (a.refuse pg e)) ∧
    (a.ptCheck p.val v count = none → a.ptResizeCheck p.val v = none →
      (∃ w : State, exec (.ptResizeGo o p) s = .next (w.settleIdle p.val) ∧ w.pt p.val = { s.pt p.val with resize := some v } ∧
        (∀ q, q ≠ p.val → w.pt q = s.pt q) ∧ (w.hdr pg).refused = false ∧ w.regs = s.regs ∧ w.force = s.force) ∧
      ((s.seOf p.val).st ≠ .idle → (s.seOf p.val).st ≠ .paused →
        ∃ t, exec (.ptResizeGo o p) s = .next t ∧ t.pt p.val = { s.pt p.val with resize := some v } ∧ (∀ q, q ≠ p.val → t.pt q = s.pt q) ∧
          (t.hdr pg).refused = false ∧ t.regs = s.regs ∧ t.force = s.force))) ∧
  (∀ (s : State) (h : HearthId) (p : Nat), (s.hearth h.val).transit = some p →
    (∀ q, q < 32 → s.logicalOf h.val ∉ (s.pt q).cur.hearths) →
    let rest := (s.pt p).shrinking.filter (· ≠ h.val)
    let s2 := (s.setHearth h.val { s.hearth h.val with transit := none }).setPt p { s.pt p with shrinking := rest }
    (h.val ∈ (s.pt p).shrinking → rest = [] → exec (.hearthTransitDone h) s = .next (s2.raise (pgPT p) 0)) ∧
    ((h.val ∉ (s.pt p).shrinking ∨ rest ≠ []) → exec (.hearthTransitDone h) s = .next s2)) ∧
  (∀ (s : State) (o : Origin) (p : PartId) (r : Req), s.access o (pgPT p.val * 0x1000 + 8) true = .pass s r →
    (s.hdr (pgPT p.val)).checking = none →
    let a := s.setReply .ok
    let pg := pgPT p.val
    ((s.pt p.val).st ≠ .restoring → (s.pt p.val).st ≠ .ashing →
      exec (.ptFreezeSet o p) s = .next ((a.writeEnable pg).setFreeze p.val) ∧
      exec (.ptFreezeClear o p) s = .next ((a.writeEnable pg).clearFreeze p.val)) ∧
    ((s.pt p.val).st = .restoring ∨ (s.pt p.val).st = .ashing →
      exec (.ptFreezeSet o p) s = .next (a.refuse pg 0x0704) ∧ exec (.ptFreezeClear o p) s = .next (a.refuse pg 0x0704)) ∧
    ((s.pt p.val).st = .enabled → (s.seOf p.val).st ≠ .idle → (s.seOf p.val).st ≠ .paused →
      ∃ t, exec (.ptFreezeSet o p) s = .next t ∧ t.pt p.val = { s.pt p.val with st := .freezing, freezeAt := s.nowUs, freezeLeft := none } ∧
        (t.hdr pg).freeze = true ∧ (∀ q, q ≠ p.val → t.pt q = s.pt q)) ∧
    ((s.pt p.val).st = .frozen → s.parks = [] →
      ∃ t, exec (.ptFreezeClear o p) s = .next t ∧ t.pt p.val = { s.pt p.val with st := .enabled } ∧ (t.hdr pg).freeze = false ∧
        (∀ q, q ≠ p.val → t.pt q = s.pt q)) ∧
    ((s.pt p.val).st ≠ .disabled → (s.pt p.val).st ≠ .ashing → (s.pt p.val).st ≠ .saving → (s.pt p.val).st ≠ .restoring →
      exec (.ptAshout o p) s = .next (a.beginAsh p.val)) ∧
    ((s.pt p.val).st = .saving ∨ (s.pt p.val).st = .restoring → exec (.ptAshout o p) s = .next ((a.wr pg 0x08C 3).beginAsh p.val)) ∧
    ((s.pt p.val).st = .ashing → exec (.ptAshout o p) s = .next a)) ∧
  (∀ (s : State) (p : Nat), p < 32 → (s.resets.any (fun r => r.dom == 0x48 + p || s.domainHolds r.dom (0x48 + p))) = true →
    s.resets.all (fun r => r.phase == 1) = true → ((s.beginAsh p).pt p).st = .ashing ∧ ((s.beginAsh p).hdr (pgPT p)).freeze = false) ∧
  (∀ (s : State) (p : PartId), (s.pt p.val).st = .freezing → (s.pt p.val).freezeLeft = none →
    let due := ((s.pt p.val).freezeAt + (s.frc (pgPT p.val) 0x090).toNat * 1000) / 1000
    (s.nowUs / 1000 ≤ due → exec (.freezeBudgetExpiry p) s = .next s) ∧
    (due < s.nowUs / 1000 →
      ∃ t, exec (.freezeBudgetExpiry p) s = .next t ∧ t.pt p.val = { s.pt p.val with st := .enabled } ∧ (t.hdr (pgPT p.val)).freeze = false ∧
        (t.hdr (pgPT p.val)).evStat.getLsbD 2 = true ∧ (∀ q, q ≠ p.val → t.pt q = s.pt q))) ∧
  (∀ (s : State) (p : PartId), (s.pt p.val).st = .ashing → (s.pt p.val).ashFenced = true → s.fbx.trng = .ready →
    ∃ t, exec (.ashoutDone p) s = .next t ∧ t.pt p.val = { shrinking := (s.pt p.val).shrinking } ∧ (∀ q, q ≠ p.val → t.pt q = s.pt q) ∧
      (∀ n, (t.page n).valid = true → (t.page n).owner ≠ p.val) ∧
      ((∀ e ∈ s.host.place, e.2.valid = true → e.2.owner ≠ p.val) → ∀ n, (s.page n).owner ≠ p.val → t.page n = s.page n) ∧
      (∀ n, (s.region n).valid = true → (s.region n).owner = p.val →
        ∃ k : BitVec 512 × BitVec 256, t.region n = { (s.region n).step with dataKey := k.1, tagKey := k.2 }) ∧
      (∀ n, (s.region n).owner ≠ p.val → t.region n = s.region n) ∧
      (∀ h ∈ s.hearthsOf p.val, (t.hearth h).owner = none) ∧ (∀ e ∈ t.host.place, e.2.valid = true → e.2.owner ≠ p.val) ∧
      (t.hdr (pgPT p.val)).evStat.getLsbD 4 = true)

/-- Images, page maps and mailboxes. A save needs a frozen partition and an aligned image area inside an entry that grants it, a restore a disabled
partition and an image whose key is here; each ends with its result, its reason and event 3, a failed restore by ash-out; a save waits 100 ms for the random
source. A mapping request works page by page and counts them, each page passing its check, waits for a page in migration, and stops at the first that
fails. A mailbox producer word is written by its own side only, with its event. -/
def Obligations.ImagesMapsMailboxes : Prop :=
  (∀ (s : State) (o : Origin) (p : PartId) (r : Req), s.access o (pgPT p.val * 0x1000 + 0x088) true = .pass s r →
    let a := s.setReply .ok
    let pg := pgPT p.val
    let dua := s.rd64 pg 0x080
    ((s.pt p.val).st ≠ .frozen → exec (.imageSave o p) s = .next (a.refuse pg 0x0704)) ∧
    ((s.pt p.val).st = .frozen → dua % 64 ≠ 0 → exec (.imageSave o p) s = .next (a.refuse pg 0x023B)) ∧
    ((s.pt p.val).st = .frozen → dua % 64 = 0 → s.fbx.trng = .failed → exec (.imageSave o p) s = .next (a.refuse pg 0x011B)) ∧
    ((s.pt p.val).st = .frozen → dua % 64 = 0 → s.fbx.trng ≠ .failed →
      (s.placeAround dua (s.saveBytes p.val) = none → exec (.imageSave o p) s = .next (a.refuse pg 0x0512)) ∧
      (∀ e, s.placeAround dua (s.saveBytes p.val) = some e →
        (e.expt = false → exec (.imageSave o p) s = .next (a.refuse pg 0x0342)) ∧
        (e.expt = true → exec (.imageSave o p) s = .next (a.setPt p.val { s.pt p.val with st := .saving, imgAt := s.nowUs })))) ∧
    ((s.pt p.val).st ≠ .disabled → exec (.imageRestore o p) s = .next (a.refuse pg 0x0704)) ∧
    ((s.pt p.val).st = .disabled → dua % 64 ≠ 0 → exec (.imageRestore o p) s = .next (a.refuse pg 0x023B)) ∧
    ((s.pt p.val).st = .disabled → dua % 64 = 0 →
      (a.imageAt p.val = none → exec (.imageRestore o p) s = .next (a.refuse pg 0x0512)) ∧
      (∀ i, a.imageAt p.val = some i → s.imageKeyHere i = false → exec (.imageRestore o p) s = .next (a.refuse pg 0x011C)) ∧
      (∀ i, a.imageAt p.val = some i → s.imageKeyHere i = true →
        exec (.imageRestore o p) s = .next (a.setPt p.val { s.pt p.val with st := .restoring, imgAt := s.nowUs })))) ∧
  (∀ (s s1 : State) (p : PartId) (ok : Bool), (s.pt p.val).st = .saving →
    let back := s.setPt p.val { s.pt p.val with st := .frozen }
    (s.fbx.trng = .failed → exec (.imageSaveDone p ok) s = .next (back.imageEnd p.val 2 0x011B)) ∧
    (s.fbx.trng ≠ .failed → s.fbx.trng ≠ .ready →
      (s.nowUs < (s.pt p.val).imgAt + 100000 → exec (.imageSaveDone p ok) s = .next s) ∧
      ((s.pt p.val).imgAt + 100000 ≤ s.nowUs → exec (.imageSaveDone p ok) s = .next (back.imageEnd p.val 2 0x011B))) ∧
    (s.fbx.trng = .ready →
      (exec (.imageSaveDone p false) s = .next (back.imageEnd p.val 2 0x0323)) ∧
      (∀ e, back.writeImage p.val = .error e → exec (.imageSaveDone p true) s = .next (back.imageEnd p.val 2 e)) ∧
      (back.writeImage p.val = .ok s1 →
        ∃ t, exec (.imageSaveDone p true) s = .next t ∧ t.images = back.newImage p.val :: s.images ∧ (t.pt p.val).st = .frozen ∧
          t.rd (pgPT p.val) 0x08C = 1 ∧ (t.hdr (pgPT p.val)).evStat.getLsbD 3 = true))) ∧
  (∀ (s : State) (p : PartId) (ok : Bool), (s.pt p.val).st = .restoring →
    (s.imageAt p.val = none → exec (.imageRestoreDone p ok) s = .next ((s.imageEnd p.val 2 0x0323).beginAsh p.val)) ∧
    (∀ i, s.imageAt p.val = some i →
      let s1 := s.restoreRegs p.val i
      (∀ e, s1.restoreCheck p.val i ok = some e → exec (.imageRestoreDone p ok) s = .next ((s1.imageEnd p.val 2 e).beginAsh p.val)) ∧
      (s1.restoreCheck p.val i ok = none →
        ∃ t, exec (.imageRestoreDone p ok) s = .next t ∧ (t.pt p.val).st = .frozen ∧ t.rd (pgPT p.val) 0x08C = 1 ∧
          (t.hdr (pgPT p.val)).evStat.getLsbD 3 = true))) ∧
  (∀ (s : State) (o : Origin) (p : PartId) (v : Word) (r : Req), s.access o (pgPT p.val * 0x1000 + 0x0A0) true = .pass s r →
    ((s.pt p.val).map.isSome = true → exec (.mapGo o p v) s = .next ((s.setReply .ok).refuse (pgPT p.val) 0x0704)) ∧
    ((s.pt p.val).map = none →
      ∃ t, exec (.mapGo o p v) s = .next t ∧ t.rd (pgPT p.val) 0x0A4 = 0 ∧ t.rd (pgPT p.val) 0x0A0 = v &&& 0x0031FFFF ∧
        t.pt p.val = { s.pt p.val with map := some { page := s.rd64 (pgPT p.val) 0x098 / pageSize, left := fld v 15 0, unmap := v.getLsbD 16,
                                                     pinned := v.getLsbD 20, readOnly := v.getLsbD 21 } } ∧ t.mem = s.mem)) ∧
  (∀ (s : State) (p : PartId) (r : MapReq), (s.pt p.val).map = some r →
    exec (.mapDone p) s = .next (s.mapRun p.val r r.left) ∧
    (∀ n, let page := r.page + (r.left - (n + 1))
      s.mapCheck p.val r page = none → (r.unmap = true → (s.page page).migrating = false) →
      s.mapRun p.val r (n + 1) = ((s.mapOne p.val r page).mapStatus p.val (fld (s.rd (pgPT p.val) 0x0A4) 15 0 + 1) 0).mapRun p.val r n)) ∧
  (∀ (s : State) (p : PartId) (r : MapReq), (s.pt p.val).map = some r → r.left = 1 →
    (∀ e, s.mapCheck p.val r r.page = some e →
      ∃ t, exec (.mapDone p) s = .next t ∧ (t.pt p.val).map = none ∧ t.mem = s.mem ∧ (t.hdr (pgPT p.val)).evStat.getLsbD 5 = true ∧
        t.rd (pgPT p.val) 0x0A4 = BitVec.ofNat 32 (fld (s.rd (pgPT p.val) 0x0A4) 15 0 + e % 4096 * 2 ^ 20)) ∧
    (s.mapCheck p.val r r.page = none → r.unmap = true → (s.page r.page).migrating = true →
      ∃ t, exec (.mapDone p) s = .next t ∧ t.pt p.val = s.pt p.val ∧ t.mem = s.mem) ∧
    (s.mapCheck p.val r r.page = none → (r.unmap = true → (s.page r.page).migrating = false) →
      ∃ t, exec (.mapDone p) s = .next t ∧ (t.pt p.val).map = none ∧ (t.hdr (pgPT p.val)).evStat.getLsbD 5 = true ∧
        t.rd (pgPT p.val) 0x0A4 = BitVec.ofNat 32 (fld (s.rd (pgPT p.val) 0x0A4) 15 0 + 1) ∧ (∀ n, n ≠ r.page → t.page n = s.page n) ∧
        (r.unmap = true → t.page r.page = {} ∧ (∀ x ∈ t.mem.tlb, x.page ≠ r.page)) ∧
        (r.unmap = false → (t.page r.page).valid = true ∧ (t.page r.page).owner = p.val ∧ (t.page r.page).tier = 1 ∧
          (t.page r.page).pinned = r.pinned ∧ (t.page r.page).readOnly = r.readOnly ∧ (∀ a, a / pageSize = r.page → t.byteAt a = 0)))) ∧
  (∀ (s : State) (o : Origin) (p : PartId) (v : Word) (r : Req),
    (s.access o (pgMB p.val * 0x1000 + 0x040) true = .pass s r →
      exec (.mbT2mProdWrite o p v) s =
        .next (if r.part.isSome then ((s.setReply .ok).wr (pgMB p.val) 0x040 v).raise (pgMB p.val) 0 else s.setReply .ok)) ∧
    (s.access o (pgMB p.val * 0x1000 + 0x048) true = .pass s r →
      exec (.mbM2tProdWrite o p v) s =
        .next (if r.part.isSome then s.setReply .ok else ((s.setReply .ok).wr (pgMB p.val) 0x048 v).raise (pgMB p.val) 1)))

/-! ## The firebox -/

/-- The firebox serves the request at the head of its queue: a request ends by its status and reason in its record, the consumer index moves on by one and
event 0 is raised, a failure is counted. ATTEST writes its report and opens a session; INSTALL_OPEN and INSTALL_CLOSE open and close the base;
KEY_RELEASE holds the base key; the account and export keys take a key-table entry under a handle; KEY_DELETE frees one under the next generation;
KEY_TRANSFER sends a key only to a peer whose report meets the base's floor; REGION_SET allocates, resizes or removes a region; FLOOR_COMMIT raises one
floor to the running version. -/
def Obligations.FireboxRequests : Prop :=
  (∀ (s : State) (reason : Nat) (h : Option Nat),
    let t := s.fbEnd reason h
    t.rd pgFQ 0x050 = s.rd pgFQ 0x050 + 1 ∧ (t.hdr pgFQ).evStat.getLsbD 0 = true ∧ t.fbx = { s.fbx with posted := s.fbx.posted.tail } ∧
      t.rd64 pgFB 0x030 = (s.rd64 pgFB 0x030 + (if reason = 0 then 0 else 1)) % 2 ^ 64) ∧
  (∀ (s : State) (r : FbReq), s.fbHead = some r → r.code = 1 → s.fbx.trng = .ready →
    ∀ (nonce : List Byte) (s1 s2 s3 : State) (n : Nat), s.load (whoOf 63) r.inDua (min r.inBytes 32) = .ok (nonce, s1) →
      s1.pickOf ((List.range 16).filter (fun n => (s1.session n).isNone)) = (some n, s2) →
      let d := s2.draw
      let out := d.2.attestOut n nonce d.1
      (r.outBytes < out.length → exec .attest s = .next (s.fbEnd 0x0511)) ∧
      (∀ e, out.length ≤ r.outBytes → d.2.store (whoOf 63) r.outDua out = .error (.inl e) → exec .attest s = .next (s.fbEnd e)) ∧
      (out.length ≤ r.outBytes → d.2.store (whoOf 63) r.outDua out = .ok s3 →
        ∃ t, exec .attest s = .next t ∧ t.session n = some { since := s3.nowUs, key := d.1 } ∧ (∀ j, j ≠ n → t.session j = s3.session j) ∧
          t.rd pgFQ 0x050 = s.rd pgFQ 0x050 + 1)) ∧
  (∀ (s s1 s2 : State) (r : FbReq) (nonce : List Byte), s.fbHead = some r → r.code = 1 →
    (s.fbx.trng = .failed → exec .attest s = .next (s.fbEnd 0x011B)) ∧
    (s.fbx.trng = .ready → s.load (whoOf 63) r.inDua (min r.inBytes 32) = .ok (nonce, s1) →
      s1.pickOf ((List.range 16).filter (fun n => (s1.session n).isNone)) = (none, s2) → exec .attest s = .next (s.fbEnd 0x0510))) ∧
  (∀ (s s1 : State) (r : FbReq) (b : List Byte) (i : FbInput), s.fbHead = some r → s.load (whoOf 63) r.inDua r.inBytes = .ok (b, s1) →
    let a := s.setSession r.session none
    (r.code = 2 → ((s.lift.base.isSome = true ∨ s.anyPartition = true ∨ s.mc.vaultMounted = false) → exec (.installOpen i) s = .next (s.fbEnd 0x0704))) ∧
    ((i.tagOk = false ∨ s.session r.session = none) →
      (r.code = 2 → s.lift.base = none → s.anyPartition = false → s.mc.vaultMounted = true → exec (.installOpen i) s = .next (a.fbEnd 0x0323)) ∧
      (r.code = 4 → exec (.keyRelease i) s = .next (a.fbEnd 0x0323)) ∧ (r.code = 5 → exec (.accountKeySet i) s = .next (a.fbEnd 0x0323)) ∧
      (r.code = 7 → exec (.exportKeySet i) s = .next (a.fbEnd 0x0323))) ∧
    (i.tagOk = true → (s.session r.session).isSome = true →
      (r.code = 2 → s.lift.base = none → s.anyPartition = false → s.mc.vaultMounted = true →
        (keyMatches i.manifest i.key = false → exec (.installOpen i) s = .next (a.fbEnd 0x0340)) ∧
        (keyMatches i.manifest i.key = true →
          (∀ e, manifestCheck i.manifest = some e → exec (.installOpen i) s = .next (a.fbEnd e)) ∧
          (manifestCheck i.manifest = none → exec (.installOpen i) s = .next ((a.openBase i.manifest i.key).fbEnd 0)))) ∧
      (r.code = 4 → s.mc.vaultMounted = false → exec (.keyRelease i) s = .next (a.fbEnd 0x0115)) ∧
      (r.code = 4 → s.mc.vaultMounted = true → s.lift.installed = none → exec (.keyRelease i) s = .next (a.fbEnd 0x0340)) ∧
      (r.code = 4 → s.mc.vaultMounted = true → ∀ m, s.lift.installed = some m →
        (keyMatches m i.key = false → exec (.keyRelease i) s = .next (a.fbEnd 0x0340)) ∧
        (keyMatches m i.key = true → svnMeets s.fbx.svns m.ownerFloor = false → exec (.keyRelease i) s = .next (a.fbEnd 0x0607)) ∧
        (keyMatches m i.key = true → svnMeets s.fbx.svns m.ownerFloor = true →
          ∃ t, exec (.keyRelease i) s = .next t ∧ t.fbx.baseKey = some i.key ∧ t.rd64 pgFB 0x020 = (s.rd64 pgFB 0x020 + 1) % 2 ^ 64)) ∧
      (r.code = 5 → exec (.accountKeySet i) s = .next (a.keyEnd (a.installKey false r.arg i.key))) ∧
      (r.code = 7 → exec (.exportKeySet i) s = .next (a.keyEnd (a.installKey true r.arg i.key))))) ∧
  (∀ (s : State) (out : Bool) (account n : Nat) (k : BitVec 256) (s1 : State),
    (s.installKey out 0 k = .error 0x0247) ∧
    (account ≠ 0 → s.keyPlace out account = (none, s1) → s.installKey out account k = .error 0x0510) ∧
    (account ≠ 0 → s.keyPlace out account = (some n, s1) →
      ∃ t g, s.installKey out account k = .ok (handleOf n g, t) ∧
        t.keyEnt n = { gen := g, used := true, outKey := out, account := account, key := k, dbg := s.fbx.unlocked } ∧
        (∀ j, j ≠ n → t.keyEnt j = s.keyEnt j))) ∧
  (∀ (s : State) (r : FbReq), s.fbHead = some r →
    (r.code = 3 →
      (s.lift.openInstall = false → exec .installClose s = .next (s.fbEnd 0x0118)) ∧
      (s.lift.openInstall = true → s.lift.instBusy = true → exec .installClose s = .next s) ∧
      (s.lift.openInstall = true → s.lift.instBusy = false → s.lift.scaleFF ≠ [] → exec .installClose s = .next (s.fbEnd 0x0223)) ∧
      (s.lift.openInstall = true → s.lift.instBusy = false → s.lift.scaleFF = [] →
        (∃ d ∈ (s.lift.installed.getD {}).shards, d.number ∉ s.lift.passed) → exec .installClose s = .next (s.fbEnd 0x0118)) ∧
      (s.lift.openInstall = true → s.lift.instBusy = false → s.lift.scaleFF = [] →
        (∀ d ∈ (s.lift.installed.getD {}).shards, d.number ∈ s.lift.passed) →
        ∃ t, exec .installClose s = .next t ∧ t.lift = { s.lift with openInstall := false } ∧ t.fbx.wrapped = s.fbx.baseKey)) ∧
    (r.code = 6 → s.fbx.trng = .ready →
      exec .accountKeyCreate s = .next (s.keyEnd (s.draw.2.installKey false r.arg s.draw.1)) ∧ s.draw.1 = Config.randomBits s.freeCtr ∧
        s.draw.2.freeCtr = s.freeCtr + 1) ∧
    (r.code = 8 → s.fbx.trng = .ready → ∀ p : PeerReport,
      ((p.debugLocked = false ∨ p.fabric ≠ r.arg ∨ svnMeets p.svn (s.lift.installed.getD {}).ownerFloor = false) →
        exec (.keyTransfer p) s = .next (s.fbEnd 0x0607)) ∧
      (∀ kind k, p.debugLocked = true → p.fabric = r.arg → svnMeets p.svn (s.lift.installed.getD {}).ownerFloor = true → s.transferKey r = .ok (kind, k) →
        ∃ t, exec (.keyTransfer p) s = .next t ∧ .keyTransfer r.arg kind (Config.gcmSeal s.draw.1 0 (leBytes k.toNat 32)) ∈ t.out ∧
          t.fbx.keys = s.fbx.keys ∧ t.rd64 pgFB 0x020 = (s.rd64 pgFB 0x020 + 1) % 2 ^ 64) ∧
      (∀ e, p.debugLocked = true → p.fabric = r.arg → svnMeets p.svn (s.lift.installed.getD {}).ownerFloor = true → s.transferKey r = .error e →
        exec (.keyTransfer p) s = .next (s.fbEnd e))) ∧
    (r.code = 10 →
      (s.keyByHandle r.handle = none → exec .keyDelete s = .next (s.fbEnd 0x0339)) ∧
      (∀ n e, s.keyByHandle r.handle = some (n, e) →
        ∃ t, exec .keyDelete s = .next t ∧ t.keyEnt n = { gen := keyGenStep e.gen } ∧ (∀ j, j ≠ n → t.keyEnt j = s.keyEnt j))) ∧
    (r.code = 11 →
      (3 < r.arg → exec .floorCommit s = .next (s.fbEnd 0x0259)) ∧
      (r.arg ≤ 3 → (if s.mc.slotB then s.mc.committedB else s.mc.committedA) = false → exec .floorCommit s = .next (s.fbEnd 0x0705)) ∧
      (r.arg ≤ 3 → (if s.mc.slotB then s.mc.committedB else s.mc.committedA) = true →
        ∃ t, exec .floorCommit s = .next t ∧
          t.fbx.floors.getD r.arg 0 = max (s.fbx.floors.getD r.arg 0) (s.fbx.svns.getD r.arg 0) ∧
          (∀ i, i < 4 → i ≠ r.arg → t.fbx.floors.getD i 0 = s.fbx.floors.getD i 0)))) ∧
  (∀ (s : State) (r : FbReq) (a : RegionArgs), s.fbHead = some r → r.code = 9 → s.fbx.trng = .ready →
    ((a.base % pageSize ≠ 0 ∨ memTop < a.base + a.pages * pageSize) → exec (.regionSet a) s = .next (s.fbEnd 0x0250)) ∧
    (a.base % pageSize = 0 → a.base + a.pages * pageSize ≤ memTop → 32 ≤ a.owner → a.owner ≠ 62 → a.owner ≠ 63 →
      exec (.regionSet a) s = .next (s.fbEnd 0x0259)) ∧
    (a.base % pageSize = 0 → a.base + a.pages * pageSize ≤ memTop → (a.owner < 32 ∨ a.owner = 62 ∨ a.owner = 63) →
      (s.regionClash a ((s.regionNamed a).map (·.1)) = true → exec (.regionSet a) s = .next (s.fbEnd 0x0333)) ∧
      (s.regionClash a ((s.regionNamed a).map (·.1)) = false →
        (s.regionNamed a = none → a.pages = 0 → exec (.regionSet a) s = .next (s.fbEnd 0)) ∧
        (∀ s1, s.regionNamed a = none → a.pages ≠ 0 → s.pickOf ((List.range 1024).filter (fun i => !(s.region i).valid)) = (none, s1) →
          exec (.regionSet a) s = .next (s.fbEnd 0x050F)) ∧
        (∀ n s1, s.regionNamed a = none → a.pages ≠ 0 → s.pickOf ((List.range 1024).filter (fun i => !(s.region i).valid)) = (some n, s1) →
          ∃ (t : State) (k : BitVec 512 × BitVec 256), exec (.regionSet a) s = .next t ∧
            t.region n = { base := a.base, pages := a.pages, owner := a.owner, valid := true, secure := a.secure, keygen := 1, dataKey := k.1,
                           tagKey := k.2 } ∧
            (∀ j, j ≠ n → t.region j = s.region j)) ∧
        (∀ n g, s.regionNamed a = some (n, g) → s.validIn (g.first + a.pages) g.past = true → exec (.regionSet a) s = .next (s.fbEnd 0x0335)) ∧
        (∀ n g, s.regionNamed a = some (n, g) → s.validIn (g.first + a.pages) g.past = false →
          ∃ t, exec (.regionSet a) s = .next t ∧ t.region n = (if a.pages = 0 then {} else { g with pages := a.pages }) ∧
            (∀ j, j ≠ n → t.region j = s.region j)))))

/-- The firebox beside its requests: a request that needs random numbers fails with 0x011B after 100 ms without them; a session ends 600 s after its
report; the generator runs its tests and its conditioning and is ready, or fails for good with event 2; a peer's key is held; a debug unlock with a
token forgets every key, ends the sessions and steps the generation of every region under new keys, and waits for the random source first. -/
def Obligations.FireboxKeeping : Prop :=
  (∀ (s : State) (r : FbReq), s.fbHead = some r → needsRandom r.code = true → s.fbx.trng ≠ .ready →
    let due := s.fbx.posted.headD s.nowUs + 100000
    (s.nowUs < due → exec .fbRequestTimeout s = .next s) ∧ (due ≤ s.nowUs → exec .fbRequestTimeout s = .next (s.fbEnd 0x011B))) ∧
  (∀ (s : State) (n : Fin 16) (x : Session), s.session n.val = some x →
    (s.nowUs < x.since + 600000000 → exec (.sessionExpiry n) s = .next s) ∧
    (x.since + 600000000 ≤ s.nowUs →
      ∃ t, exec (.sessionExpiry n) s = .next t ∧ t.session n.val = none ∧ (∀ j, j ≠ n.val → t.session j = s.session j) ∧ t = { s with fbx := t.fbx })) ∧
  (∀ s : State,
    (s.isUp 0x84 = true → s.fbx.trng = .off → exec .trngStart s = .next (s.setFbx { s.fbx with trng := .health, startAt := s.nowUs })) ∧
    (s.fbx.trng = .health → exec (.trngTestsDone true) s = .next (s.setFbx { s.fbx with trng := .condition }) ∧
      ∃ t, exec (.trngTestsDone false) s = .next t ∧ t.fbx.trng = .failed) ∧
    (s.fbx.trng = .condition →
      ∃ t, exec .trngConditioned s = .next t ∧ t.fbx.trng = .ready ∧ t.fbx.bits = 512 ∧ t.fbx.readyUs = min (s.nowUs - s.fbx.startAt) 65535 ∧
        t.fbx.attKey = some (Config.randomBits s.freeCtr) ∧ (t.hdr pgFQ).evStat.getLsbD 1 = true ∧
        t.fbx.unlocked = (s.fbx.unlocked || s.fbx.unlockWaits)) ∧
    (s.fbx.trng = .ready → ∃ t, exec .trngContinuousFail s = .next t ∧ t.fbx.trng = .failed ∧ (t.hdr pgFQ).evStat.getLsbD 2 = true)) ∧
  (∀ (s : State) (k : PeerKey), s.isUp 0x84 = true →
    (k.kind = 0 → ∃ t, exec (.peerKeyReceived k) s = .next t ∧ t.fbx.baseKey = some k.key ∧ t.fbx.keys = s.fbx.keys) ∧
    (∀ e, k.kind = 1 → s.installKey false k.arg k.key = .error e → exec (.peerKeyReceived k) s = .next s) ∧
    (∀ h s1, k.kind = 1 → s.installKey false k.arg k.key = .ok (h, s1) → exec (.peerKeyReceived k) s = .next s1) ∧
    (k.kind = 2 → ∃ t, exec (.peerKeyReceived k) s = .next t ∧ k.arg ∈ t.fbx.imageKeys ∧ t.fbx.keys = s.fbx.keys ∧ t.fbx.baseKey = s.fbx.baseKey)) ∧
  (∀ s : State, (exec (.debugUnlock false) s = .next s) ∧ (s.fbx.lockFuse = false → exec (.debugUnlock true) s = .next s) ∧
    (s.fbx.trng = .failed → exec (.debugUnlock true) s = .next s) ∧
    (s.isUp 0x84 = true → s.fbx.lockFuse = true → s.fbx.unlocked = false → s.fbx.trng ≠ .failed → s.fbx.trng ≠ .ready →
      exec (.debugUnlock true) s = .next (s.setFbx { s.fbx with unlockWaits := true })) ∧
    (s.isUp 0x84 = true → s.fbx.lockFuse = true → s.fbx.unlocked = false → s.fbx.trng = .ready →
      ∃ t, exec (.debugUnlock true) s = .next t ∧ t.fbx.unlocked = true ∧ t.fbx.baseKey = none ∧ t.fbx.sessions = [] ∧ t.fbx.imageKeys = [] ∧
        (∀ n, (t.keyEnt n).used = false) ∧
        (∀ n, (s.region n).valid = true → ∃ k : BitVec 512 × BitVec 256, t.region n = { (s.region n).step with dataKey := k.1, tagKey := k.2 })))

/-! ## Resets and errors -/

/-- A reset of a domain that is in no reset fences its pages, notes itself in RESET_STATUS and waits while commands of the domain are open; it is carried
out when none is left or the drain time is over: those commands end, the domain's owner state is reset and the reset is in its second phase. A domain is
released once no wider reset stands; its pages are then unfenced. Each uncorrectable error asks for its domain's reset, a correctable one is counted, on
its quadrant's page too where a cache slice had it; the tear-down watchdog resets the engine's domain; the third self-test failure in a day fails a hearth. -/
def Obligations.ResetsAndErrors : Prop :=
  (∀ (s : State) (o : Origin) (d cause : Nat) (r : Req), s.access o (pgMC * 0x1000 + 0x100) true = .pass s r →
    exec (.resetRequest (some o) d cause) s =
      .next (if s.domainExists (d % 256) then ((s.setReply .ok).wr pgMC 0x100 (BitVec.ofNat 32 (d % 256))).requestReset (d % 256) 0
             else ((s.setReply .ok).wr pgMC 0x100 (BitVec.ofNat 32 (d % 256))).refuse pgMC 0x0259)) ∧
  (∀ (s : State) (d cause : Nat), s.domainExists d = true → cause < 5 → exec (.resetRequest none d cause) s = .next (s.requestReset d cause)) ∧
  (∀ (s : State) (d cause : Nat), d ≠ 0xFF → (s.resets.any (fun r => r.dom == d || s.domainHolds r.dom d)) = true → s.requestReset d cause = s) ∧
  (∀ (s : State) (d cause : Nat), d < 256 → cause < 5 → (s.resets.any (fun r => r.dom == d || s.domainHolds r.dom d)) = false → s.openOf d ≠ [] →
    let t := s.requestReset d cause
    t.resets = s.resets.filter (fun r => !s.domainHolds d r.dom) ++ [⟨d, cause, s.nowUs, 1⟩] ∧ t.started = s.started ∧
      t.rd pgMC 0x104 = BitVec.ofNat 32 (d + cause * 4096) ∧ (∀ n ∈ domPages d, (t.hdr n).fenced = true) ∧
      (∀ n, n ∉ domPages d → t.hdr n = s.hdr n)) ∧
  (∀ (s : State) (d : Nat) (r : Rst), s.resets.find? (fun r => r.dom == d) = some r →
    ((r.phase ≠ 1 ∨ s.openOf r.dom ≠ [] ∧ s.nowUs ≤ r.at_ + fld (s.frc pgMC 0x10C) 15 0) → exec (.damperDrainTimeout d) s = .next s) ∧
    (r.phase = 1 → (s.openOf r.dom = [] ∨ r.at_ + fld (s.frc pgMC 0x10C) 15 0 < s.nowUs) →
      exec (.damperDrainTimeout d) s = .next (s.carryOut d r.cause))) ∧
  (∀ (s : State) (d cause : Nat),
    (∃ r ∈ (s.carryOut d cause).resets, r.dom = d ∧ r.cause = cause ∧ r.phase = 2) ∧
    (¬ (0x48 ≤ d ∧ d < 0x68) → (s.carryOut d cause).rd pgMC 0x104 = BitVec.ofNat 32 (d + cause * 4096))) ∧
  (∀ s : State, exec (.domainRelease 0xFF) s = .next s) ∧
  (∀ (s : State) (p : PartId), (s.pt p.val).st = .ashing → exec (.domainRelease (0x48 + p.val)) s = .next s) ∧
  (∀ (s : State) (d : Nat), d ≠ 0xFF → (0x48 ≤ d → d < 0x68 → (s.pt (d - 0x48)).st ≠ .ashing) →
    (s.releasable d = false → exec (.domainRelease d) s = .next s) ∧
    (s.releasable d = true →
      ∃ t, exec (.domainRelease d) s = .next t ∧ (∀ r ∈ t.resets, r.dom ≠ d) ∧
        (d ≠ 0x80 → (∀ n ∈ domPages d, (t.hdr n).fenced = false)))) ∧
  (∀ (s : State) (q : Fin 8), exec (.uncorrectableError (.cacheTags q)) s = .next (s.requestReset (0x40 + q.val) 1)) ∧
  (∀ s : State, exec (.uncorrectableError .hostLost) s = .next s.loseHost) ∧
  (∀ (s : State) (h : HearthId) (p : Nat), s.domainExists h.val = true →
    ((s.hearth h.val).owner = some p → exec (.uncorrectableError (.hearth h)) s = .next ((s.strideHangRec p h.val).requestReset h.val 1)) ∧
    ((s.hearth h.val).owner = none → exec (.uncorrectableError (.hearth h)) s =
      .next ((s.report 32 { kind := 1, status := 4, part := 63, time := s.nowUs, detail := h.val }).requestReset h.val 1))) ∧
  (∀ (s : State) (dua : Nat), (s.page (linePage (dua / 64))).valid = true → dua < memTop →
    let line := dua / 64
    let pg := s.page (linePage line)
    ((s.poisonLine line).lineMeta line).poison = true ∧ (∀ l, l ≠ line → (s.poisonLine line).lineMeta l = s.lineMeta l) ∧
      (s.poisonLine line).rd64 pgMS 0x030 = (s.rd64 pgMS 0x030 + 1) % 2 ^ 64 ∧ (s.poisonLine line).rd64 pgMS 0x058 = 64 * line % 2 ^ 64 ∧
      exec (.uncorrectableError (.dramLine dua)) s = .next (((s.poisonLine line).tagFailAt line).report (ringOfOwner pg.owner)
        { kind := 4, status := 5, part := partOfQp (ringOfOwner pg.owner), time := s.nowUs, dua := 64 * line })) ∧
  (∀ (s : State) (l : LinkId), (s.link l.val).st ≠ .up → exec (.uncorrectableError (.flueLost l)) s = .next (s.requestReset (0x70 + l.val) 1)) ∧
  (∀ (s : State) (l : LinkId), (s.link l.val).st = .up →
    let still := (s.setLink l.val { s.link l.val with st := .down }).reachable s.ownId (s.link l.val).peer
    exec (.uncorrectableError (.flueLost l)) s = .next ((if still then
      s.report 32 { kind := 5, status := 6, part := 63, time := s.nowUs, fabric := (s.link l.val).peer } else s).requestReset (0x70 + l.val) 1)) ∧
  (∀ (s : State) (n : Nat), let m := s.lift.installed.getD {}
    (Manifest.shard m n = none → exec (.uncorrectableError (.vaultRead n)) s = .next s) ∧
    ((Manifest.shard m n).isSome = true →
      (n ∉ s.lift.retried → ∃ t, exec (.uncorrectableError (.vaultRead n)) s = .next t ∧ t.lift = { s.lift with retried := s.lift.retried ++ [n] }) ∧
      (n ∈ s.lift.retried → ∃ t, exec (.uncorrectableError (.vaultRead n)) s = .next t ∧ n ∈ t.lift.bad))) ∧
  (∀ (s : State) (q : Fin 8), (exec (.correctableError none) s = .next (s.bump pgMC 0x130 1)) ∧
    exec (.correctableError (some q)) s = .next ((s.bump pgMC 0x130 1).bump (pgQD q.val) 0x030 1)) ∧
  (∀ (s : State) (p : PartId), (s.domainExists (0x48 + p.val) = true → exec (.teardownWatchdog 0 p) s = .next (s.requestReset (0x48 + p.val) 2)) ∧
    exec (.teardownWatchdog 1 p) s = .next (s.requestReset 0x83 2) ∧
    (∀ eng : Fin 5, 1 < eng.val → exec (.teardownWatchdog eng p) s = .next (s.requestReset 0xFF 2))) ∧
  (∀ (s : State) (h : HearthId), (s.resets.any (fun r => r.phase == 2 && r.dom == h.val)) = true → s.domainExists h.val = true →
    let recent := (s.hearth h.val).fails.filter (fun t => decide (s.nowUs < t + dayUs))
    (recent.length < 2 →
      ∃ t, exec (.hearthSelftestFail h) s = .next t ∧ (t.hearth h.val).fails = recent ++ [s.nowUs] ∧ (t.hearth h.val).failed = (s.hearth h.val).failed ∧
        (∀ j, j ≠ h.val → t.hearth j = s.hearth j)) ∧
    (2 ≤ recent.length → ∃ t, exec (.hearthSelftestFail h) s = .next t ∧ (t.hearth h.val).failed = true))

/-! ## Loss of the host, banking, adoption -/

/-- A semaphore that is held keeps its configuration, a free one takes it. The loss of the host link fences the host and begins banking; so does a
heartbeat that stays away past its limit, while a heartbeat in time sets the clock back. Banking ends with event 6 once strides, commands and saves are
over; adoption is refused before that, or while two partitions claim a PASID, and otherwise ends the banked state. -/
def Obligations.BankingAndAdoption : Prop :=
  (∀ (s : State) (o : Origin) (v : Word) (r : Req), s.access o (pgRK * 0x1000 + 0x044) true = .pass s r →
    let n := fld (s.rd pgRK 0x040) 13 0
    ((s.sem n).held ≠ 0 → exec (.semCfgWrite o v) s = .next ((s.setReply .ok).refuse pgRK 0x0335)) ∧
    ((s.sem n).held = 0 →
      exec (.semCfgWrite o v) s = .next (((s.setReply .ok).putSem n
        { s.sem n with part := fld v 5 0, owned := v.getLsbD 8, value := fld v 31 16, aband := false, ledger := fld v 31 16 }).wakeRink n) ∧
      (s.fab.rinkWaits = [] →
        ∃ t, exec (.semCfgWrite o v) s = .next t ∧ (t.sem n).part = fld v 5 0 ∧ (t.sem n).owned = v.getLsbD 8 ∧ (t.sem n).value = fld v 31 16 ∧
          (t.sem n).held = 0 ∧ (t.sem n).aband = false ∧ (∀ k, k ≠ n → t.sem k = s.sem k) ∧ t.mem = s.mem))) ∧
  (∀ s : State, (s.host.linkUp = false → exec .hostLinkDrop s = .next s) ∧
    (s.host.linkUp = true → s.mc.bank = .normal →
      ∃ t, exec .hostLinkDrop s = .next t ∧ t.host.linkUp = false ∧ t.host.fenced = true ∧ t.mc.bank = .banking ∧ t.mc.bankCause = 1 ∧
        (t.hdr pgHI).evStat.getLsbD 0 = true ∧ t.host.place = s.host.place)) ∧
  (∀ s : State, s.mc.running = true → (s.frc pgMC 0x114).getLsbD 0 = true →
    let due := (s.mc.lastHb + fld (s.frc pgMC 0x114) 31 16 * 1000) / 1000
    (s.nowUs / 1000 ≤ due → exec .heartbeatTimeout s = .next s) ∧
    (due < s.nowUs / 1000 → s.mc.bank = .normal →
      ∃ t, exec .heartbeatTimeout s = .next t ∧ t.mc.bank = .banking ∧ t.mc.bankCause = 2 ∧ t.host.fenced = true)) ∧
  (∀ (s : State) (o : Origin) (r : Req), s.access o (pgMC * 0x1000 + 0x110) true = .pass s r →
    exec (.hostHbWrite o) s = .next ((s.setReply .ok).setMc { s.mc with lastHb := s.nowUs })) ∧
  (∀ s : State, s.mc.bank = .banking → s.stridesStopped = true → s.started = [] →
    (s.bankSaves ≠ [] →
      exec .bankingComplete s = .next (s.setWax { s.wx with saves := startSaves (s.wx.saves ++ s.bankSaves) })) ∧
    (s.bankSaves = [] → s.wx.saves ≠ [] → exec .bankingComplete s = .next s) ∧
    (s.bankSaves = [] → s.wx.saves = [] →
      ∃ t, exec .bankingComplete s = .next t ∧ t.mc = { s.mc with bank := .banked } ∧ t.host.place = [] ∧ t.host.fenced = s.host.fenced ∧
        (t.hdr pgQPM).evStat.getLsbD 6 = true)) ∧
  (∀ (s : State) (o : Origin) (v : Word) (r : Req), s.access o (pgMC * 0x1000 + 0x11C) true = .pass s r →
    let a := (s.setReply .ok).wr pgMC 0x11C (v &&& 2)
    (s.mc.bank ≠ .banked → exec (.adoptGo o v) s = .next ((s.setReply .ok).refuse pgMC 0x0704)) ∧
    (s.mc.bank = .banked → a.pasidsOk = false → exec (.adoptGo o v) s = .next (a.refuse pgMC 0x0332)) ∧
    (s.mc.bank = .banked → a.pasidsOk = true →
      ∃ t, exec (.adoptGo o v) s = .next t ∧ t.mc.bank = .normal ∧ t.mc.bankCause = 0))

/-! ## Boot and firmware -/

/-- The active firmware image boots when it is committed or has fewer than three tries, its signature and floor hold and it reads the settings' format;
else the module falls back to the other image with the reason, or to recovery where that one fails as well; a boot still open after 60 s is tried
again. A boot takes the image's table bundle with its SVNs, but for one whose tables are refused. COMMIT makes the running image and the settings committed, SWITCH names the other image for the next boot unless it is below the floor. New
images and settings are taken in uncommitted. -/
def Obligations.BootAndFirmware : Prop :=
  (∀ s : State, s.mc.booting = true → s.isUp 0x84 = true →
    let m := s.mc
    let img := m.image m.active
    let s1 := if m.committed m.active then s else s.setMc { m with tries := m.tries + 1 }
    (m.committed m.active = false → 3 ≤ m.tries → exec .mcBoot s = .next (s.fallBack 1)) ∧
    ((m.committed m.active = true ∨ m.tries < 3) →
      ((s.imageCheck img).isSome = true → exec .mcBoot s = .next (s1.fallBack 2)) ∧
      (s.imageCheck img = none → s.settings.format ∉ img.reads → exec .mcBoot s = .next (s1.fallBack 3)) ∧
      (s.imageCheck img = none → s.settings.format ∈ img.reads →
        (∃ t, exec .mcBoot s = .next t ∧ t.mc.running = true ∧ t.mc.booting = false ∧ t.mc.slotB = m.active ∧ t.mc.lastHb = s.nowUs ∧
          t.isUp 0x85 = true ∧
          (let v := ((s.fbx.svns.set 0 img.fb.svn).set 1 img.svn).set 2 img.ucode.svn
           (img.bundle = none → t.fbx.svns = v ∧ t.mc.bundle = s.mc.bundle) ∧
           (∀ b, img.bundle = some b →
             (bundleCheck b = none → t.fbx.svns = v.set 3 b.svn ∧ t.mc.bundle = b) ∧
             (∀ e, bundleCheck b = some e → t.fbx.svns = v ∧ t.mc.bundle = s.mc.bundle ∧ (t.hdr pgTB).refused = true)))) ∧
        (s.nowUs < m.bootAt + 60000000 → exec .bootTimeout s = .next s) ∧
        (m.bootAt + 60000000 ≤ s.nowUs →
          exec .bootTimeout s = .next (s1.setMc { s1.mc with bootAt := s.nowUs }))))) ∧
  (∀ (s : State) (reason : Nat),
    ((s.imageCheck (s.mc.image (!s.mc.active))).isSome = true →
      s.fallBack reason = s.setMc { s.mc with recovery := true, recoveryDone := false, booting := false, running := false }) ∧
    (s.imageCheck (s.mc.image (!s.mc.active)) = none →
      s.fallBack reason = s.setMc { s.mc with active := !s.mc.active, fallback := reason, bootAt := s.nowUs })) ∧
  (∀ (s : State) (o : Origin) (r : Req), s.access o (pgMC * 0x1000 + 0x124) true = .pass s r →
    (∃ t, exec (.fwCommit o) s = .next t ∧ t.mc.committed s.mc.slotB = true ∧ t.mc.committed (!s.mc.slotB) = s.mc.committed (!s.mc.slotB) ∧
      (s.mc.committed s.mc.slotB = false → t.mc.tries = 0 ∧ t.mc.sa0.uncommitted = false ∧ t.mc.sa1.uncommitted = false) ∧
      t = { s with mc := t.mc, reply := .ok }) ∧
    ((s.mc.image (!s.mc.slotB)).svn < s.fbx.floors.getD 1 0 → exec (.fwSwitch o) s = .next ((s.setReply .ok).refuse pgMC 0x0606)) ∧
    (s.fbx.floors.getD 1 0 ≤ (s.mc.image (!s.mc.slotB)).svn →
      exec (.fwSwitch o) s = .next ((s.setReply .ok).setMc { s.mc with active := !s.mc.slotB }))) ∧
  (∀ (s : State) (slotB : Bool) (img : FwImage), (s.mc.recovery = false → exec (.recoveryImageWrite slotB img) s = .next s) ∧
    (s.mc.running = false → exec (.firmwareUpdate slotB img) s = .next s) ∧
    (∀ e, s.imageCheck img = some e →
      (s.mc.recovery = true → exec (.recoveryImageWrite slotB img) s = .next (s.setReply (.refused e))) ∧
      (s.mc.running = true → exec (.firmwareUpdate slotB img) s = .next (s.setReply (.refused e)))) ∧
    (s.imageCheck img = none →
      (s.mc.recovery = true →
        ∃ t, exec (.recoveryImageWrite slotB img) s = .next t ∧ t.mc.image slotB = img ∧ t.mc.image (!slotB) = s.mc.image (!slotB) ∧
          t.mc.committed slotB = false ∧ t.mc.recoveryDone = true ∧ t = { s with mc := t.mc, reply := .ok }) ∧
      (s.mc.running = true →
        ∃ t, exec (.firmwareUpdate slotB img) s = .next t ∧ t.mc.image slotB = img ∧ t.mc.image (!slotB) = s.mc.image (!slotB) ∧
          t.mc.committed slotB = false ∧ t.mc.recoveryDone = s.mc.recoveryDone ∧ t = { s with mc := t.mc, reply := .ok }))) ∧
  (∀ (s : State) (st : Settings), s.mc.running = true →
    let w : Settings := { st with seq := (s.settings.seq + 1) % 2 ^ 32, uncommitted := !s.mc.committed s.mc.slotB, digestOk := true }
    (s.currentIsSa1 = true → exec (.settingsUpdate st) s = .next (s.setMc { s.mc with sa0 := w })) ∧
    (s.currentIsSa1 = false → exec (.settingsUpdate st) s = .next (s.setMc { s.mc with sa1 := w })))

/-! ## Ordered mode and the meter -/

/-- A STEP records one cut while fewer than 64 wait, else it is refused with 0x0513. The card takes the oldest report and is compared with the module's
sums, a difference waiting while the audits of the partition are suspended; at the close of a window every millijoule goes to an account or to UNATTRIBUTED, so that the ENERGY counters still add up to TOTAL_ENERGY; a
counter's low word keeps the whole counter for the high one; a request is answered by its code, with no card it ends with 0x0117; tampering and
firmware changes are counted for good. -/
def Obligations.OrderAndMeter : Prop :=
  (∀ (s : State) (o : Origin) (p : PartId) (v : Word) (r : Req), s.access o (pgSE p.val * 0x1000 + 0x128) true = .pass s r →
    let a := s.setReply .ok
    (v.getLsbD 0 = false → exec (.orderStepWrite o p v) s = .next a) ∧
    (v.getLsbD 0 = true → 64 ≤ (s.seOf p.val).cuts.length → exec (.orderStepWrite o p v) s = .next (a.refuse (pgSE p.val) 0x0513)) ∧
    (v.getLsbD 0 = true → (s.seOf p.val).cuts.length < 64 →
      ∃ t c, exec (.orderStepWrite o p v) s = .next t ∧ t.seOf p.val = { s.seOf p.val with cuts := (s.seOf p.val).cuts ++ [c] } ∧
        c.tails = ([0, 2] : List Nat).flatMap (fun e => (List.range 8).map (fun q => (qNum p.val e q, (s.queue (qNum p.val e q)).tail))) ∧
        (∀ j, j ≠ p.val → t.seOf j = s.seOf j) ∧ t = { s with se := t.se, reply := .ok })) ∧
  (∀ (s : State) (r : Report) (rest : List Report) (tokens trained : Nat), s.meter.held = r :: rest → s.cardUp = true →
    let s1 := (s.setMeter { (s.meter.takeReport r) with held := rest }).bump pgMT 0x020 1
    (tokens = r.tokens → trained = r.trained → exec (.reportAck tokens trained) s = .next s1) ∧
    ((tokens ≠ r.tokens ∨ trained ≠ r.trained) →
      (s.auditHeld (· == 0x48 + r.part) = false → exec (.reportAck tokens trained) s = .next (s1.tokenMismatch r.part)) ∧
      (s.auditHeld (· == 0x48 + r.part) = true → exec (.reportAck tokens trained) s =
        .next (s1.setMeter { s1.meter with auditLate := s1.meter.auditLate ++ [r.part] })))) ∧
  (∀ (s : State) (tokens trained : Nat), (s.meter.held = [] ∨ s.cardUp = false) → exec (.reportAck tokens trained) s = .next s) ∧
  (∀ (s : State) (mJ : Nat) (ooc : Bool), (s.meter.present = false → exec (.energyWindowClose mJ ooc) s = .next s) ∧
    (s.meter.present = true → AMap.wf {} s.meter.accts = true →
      ∃ t, exec (.energyWindowClose mJ ooc) s = .next t ∧ t = { s with meter := t.meter } ∧ t.meter.total = s.meter.total + mJ ∧
        (t.meter.accts.map (fun e => e.2.energy)).sum + t.meter.unattr.energy = (s.meter.accts.map (fun e => e.2.energy)).sum + s.meter.unattr.energy + mJ ∧
        t.meter.window = [] ∧ t.meter.windowRest = 0)) ∧
  (∀ (s : State) (o : Origin) (k : Fin 5) (r : Req), s.access o (pgMQ * 0x1000 + 0x070 + 0x10 * k.val) false = .pass s r →
    ∃ t, exec (.meterCounterLoRead o k) s = .next t ∧ t.reply = .data (leBytes (s.meterCounter k.val) 4) ∧
      AMap.get 0 t.meter.snap k.val = s.meterCounter k.val ∧ (∀ j, j ≠ k.val → AMap.get 0 t.meter.snap j = AMap.get 0 s.meter.snap j) ∧
      t = { s with meter := t.meter, reply := t.reply }) ∧
  (∀ (s : State) (r : List Byte), s.mqHead = some r → (s.resets.any (fun x => x.dom == 0x86)) = false →
    (s.meter.present = false → exec .readAccount s = .next (s.mqEnd 0x0117) ∧ exec .readTotal s = .next (s.mqEnd 0x0117) ∧
      exec .cert s = .next (s.mqEnd 0x0117)) ∧
    (s.meter.present = true →
      (3 < field r 0 0 → exec .readAccount s = .next (s.mqEnd 0x0260) ∧ exec .readTotal s = .next (s.mqEnd 0x0260) ∧
        exec .cert s = .next (s.mqEnd 0x0260)) ∧
      (field r 0 0 = 1 → field r 16 19 < 256 → exec .readAccount s = .next (s.mqEnd 0x0511)) ∧
      (field r 0 0 = 2 → field r 16 19 < 256 → exec .readTotal s = .next (s.mqEnd 0x0511)) ∧
      (field r 0 0 = 3 → field r 16 19 < 4096 → exec .cert s = .next (s.mqEnd 0x0511)) ∧
      (∀ s1, field r 0 0 = 1 → 256 ≤ field r 16 19 →
        let b := s.reading (field r 4 7) ((r.drop 20).take 32)
        ((s.readingDone (field r 4 7)).emit (.reading b)).store (whoOf 63) (field r 8 15) b = .ok s1 →
          exec .readAccount s = .next (s1.mqEnd 0)) ∧
      (∀ s1, field r 0 0 = 2 → 256 ≤ field r 16 19 →
        let b := s.reading (2 ^ 32) ((r.drop 20).take 32)
        ((s.readingDone (2 ^ 32)).emit (.reading b)).store (whoOf 63) (field r 8 15) b = .ok s1 → exec .readTotal s = .next (s1.mqEnd 0)) ∧
      (∀ s1, field r 0 0 = 3 → 4096 ≤ field r 16 19 → s.store (whoOf 63) (field r 8 15) ((Config.certificate 1).take 4096) = .ok s1 →
        exec .cert s = .next (s1.mqEnd 0)))) ∧
  (∀ (s : State) (reason : Nat), (s.mqEnd reason).rd pgMQ 0x050 = s.rd pgMQ 0x050 + 1 ∧ ((s.mqEnd reason).hdr pgMQ).evStat.getLsbD 0 = true ∧
    (s.mqEnd reason).meter = s.meter) ∧
  (∀ s : State,
    (∃ t, exec (.tamperEvent false) s = .next t ∧ t.meter = { s.meter with tampers := s.meter.tampers + 1, sealBroken := true } ∧
      (s.meter.present = true → (t.hdr pgMT).evStat.getLsbD 2 = true)) ∧
    (s.meter.out = true → exec (.tamperEvent true) s = .next s) ∧
    (s.meter.out = false → ∃ t, exec (.tamperEvent true) s = .next t ∧
      t.meter = { s.meter with tampers := s.meter.tampers + 1, sealBroken := true, present := false, out := true }) ∧
    (∀ v : Word, exec (.meterFwChange v) s = .next (s.setMeter { s.meter with fwChanges := s.meter.fwChanges + 1, fwVersion := v.toNat })) ∧
    exec .meterCardPresent s = .next (s.setMeter { s.meter with present := s.meter.present || s.mc.sbOk, out := false }))

/-! ## Host, network and management -/

/-- A host link that trains is up in its mode; one at half width raises event 1, and one that retrains while up is counted. A BAR2 access runs as the owner of the placement entry that grants it and
its bytes are counted; with no such entry it is refused with 0x0409 and event 2. PLACE_SET writes the entry its record names if the record passes,
PLACE_CLEAR empties it. A port refuses incoming RDMA; a connection is entered once; a broken one is no longer valid; a push sends its bytes and ends with
its result; ports go up and down with their links. -/
def Obligations.HostAndNetwork : Prop :=
  (∀ (s : State) (mode width : Nat), s.isUp 0x80 = true → s.settings.hostless = false → s.host.training = true → s.host.linkUp = false →
    ((mode = 0 ∨ 4 < mode ∨ width ≠ 8 ∧ width ≠ 16) →
      exec (.hostLinkTrained mode width) s = .next (s.setHost { s.host with training := false, mode := 0, width := 0 })) ∧
    (1 ≤ mode → mode ≤ 4 → (width = 8 ∨ width = 16) →
      ∃ t, exec (.hostLinkTrained mode width) s = .next t ∧ t.host.linkUp = true ∧ t.host.training = false ∧ t.host.mode = mode ∧ t.host.width = width ∧
        (width = 8 → (t.hdr pgHI).evStat.getLsbD 1 = true))) ∧
  (∀ (s : State) (mode width : Nat), s.isUp 0x80 = true → s.settings.hostless = false → s.host.linkUp = true →
    ((mode = 0 ∨ 4 < mode ∨ width ≠ 8 ∧ width ≠ 16) → exec (.hostLinkTrained mode width) s = .next s) ∧
    (1 ≤ mode → mode ≤ 4 → (width = 8 ∨ width = 16) →
      ∃ t, exec (.hostLinkTrained mode width) s = .next t ∧ t.host.linkUp = true ∧ t.host.mode = mode ∧ t.host.width = width ∧
        t.rd64 pgHI 0x038 = (s.rd64 pgHI 0x038 + 1) % 2 ^ 64)) ∧
  (∀ s : State, (s.isUp 0x80 = true → exec .hostReset s = .next (s.requestReset 0x80 3)) ∧ (s.isUp 0x80 = false → exec .hostReset s = .next s)) ∧
  (∀ (s : State) (pasid : BitVec 20) (rid : BitVec 16) (dua len : Nat) (w : Option (List Byte)), s.host.linkUp = true → s.host.fenced = false →
    Sys2Proof.Instr.wf (.bar2Access (.host (some pasid) rid) dua len w) = true →
    (s.pasidOwner pasid.toNat = none →
      exec (.bar2Access (.host (some pasid) rid) dua len w) s = .next ((s.bump pgHI 0x030 1).setReply (.refused 0x0405))) ∧
    (∀ p, s.pasidOwner pasid.toNat = some p →
      (s.host.place.find? (fun e => e.2.grants (some pasid) rid (some p) false dua len w.isSome) = none →
        exec (.bar2Access (.host (some pasid) rid) dua len w) s = .next s.placeRefused) ∧
      (∀ n e, s.host.place.find? (fun e => e.2.grants (some pasid) rid (some p) false dua len w.isSome) = some (n, e) →
        (∀ d s1, w = some d → s.memWrite (whoOf e.owner) dua (padTo len d) true = s1 → s1.reply = .ok →
          exec (.bar2Access (.host (some pasid) rid) dua len w) s = .next (s1.bump pgHI 0x020 len)) ∧
        (∀ b s1, w = none → s.memRead (whoOf e.owner) dua len true = s1 → s1.reply = .data b →
          exec (.bar2Access (.host (some pasid) rid) dua len w) s = .next (s1.bump pgHI 0x020 len))))) ∧
  (∀ (s : State) (pasid : Option (BitVec 20)) (rid : BitVec 16) (dua len : Nat) (w : Option (List Byte)),
    Sys2Proof.Instr.wf (.bar2Access (.host pasid rid) dua len w) = true →
    let driver := decide (rid = (s.rd pgHI 0x044).setWidth 16)
    (s.host.linkUp = false → exec (.bar2Access (.host pasid rid) dua len w) s = .next s) ∧
    (s.host.linkUp = true → s.host.fenced = true → (pasid.isSome = true ∨ driver = false ∨ s.mc.bank ≠ .banked) →
      exec (.bar2Access (.host pasid rid) dua len w) s = .next (s.setReply .fenced)) ∧
    (s.host.linkUp = true → s.host.fenced = false → pasid = none →
      exec (.bar2Access (.host pasid rid) dua len w) s = .next (s.bar2 none rid none driver dua len w)) ∧
    (s.host.place.find? (fun e => e.2.grants none rid none driver dua len w.isSome) = none → s.bar2 none rid none driver dua len w = s.placeRefused)) ∧
  (∀ (s : State) (o : Origin) (n : BitVec 12) (r : Req), s.access o (pgHI * 0x1000 + 0x060) true = .pass s r →
    (∃ t, exec (.placeClear o n) s = .next t ∧ t.place n.toNat = {} ∧ (∀ j, j ≠ n.toNat → t.place j = s.place j)) ∧
    (∀ e, (s.setReply .ok).load (whoOf 63) (s.rd64 pgHI 0x058) 64 = .error (.inl e) → exec (.placeSet o n) s = .next ((s.setReply .ok).placeFail e)) ∧
    (∀ b s1, (s.setReply .ok).load (whoOf 63) (s.rd64 pgHI 0x058) 64 = .ok (b, s1) →
      (s.placeCheck n.toNat (placeOf b) = none →
        ∃ t, exec (.placeSet o n) s = .next t ∧ t.place n.toNat = placeOf b ∧ (∀ j, j ≠ n.toNat → t.place j = s.place j)) ∧
      (∀ e, s.placeCheck n.toNat (placeOf b) = some e → e < 2 ^ 16 →
        ∃ t, exec (.placeSet o n) s = .next t ∧ (∀ j, t.place j = s.place j) ∧ (t.hdr pgHI).refused = true ∧
          (t.hdr pgHI).reason = BitVec.ofNat 16 e ∧ t.rd pgHI 0x064 = BitVec.ofNat 32 (e * 65536)))) ∧
  (∀ (s : State) (port : PortId),
    (s.portUp port.val = true → exec (.rdmaIncoming port) s =
      .next (((s.emit (.nak port.val)).bump (pgNP port.val) 0x030 1).raise (pgNP port.val) 3)) ∧
    (s.portUp port.val = true → ∃ t, exec (.networkLinkDown port) s = .next t ∧ t.portUp port.val = false ∧
      (t.hdr (pgNP port.val)).evStat.getLsbD 0 = true) ∧
    (s.isUp (0x81 + port.val) = true → (s.resets.any (fun r => r.dom == 0x81 + port.val)) = false → ∀ half : Bool,
      ∃ t, exec (.networkLinkTrained port half) s = .next t ∧ t.portUp port.val = true ∧ t = { s with host := t.host })) ∧
  (∀ (s : State) (o : Origin) (port : PortId) (qpn : BitVec 24) (r : Req), s.access o (pgNP port.val * 0x1000 + 0x074) true = .pass s r →
    let c := s.connSel port.val
    ((s.conn port.val c).valid = true → exec (.connConnect o port qpn) s = .next ((s.setReply .ok).refuse (pgNP port.val) 0x0335)) ∧
    ((s.conn port.val c).valid = false →
      ∃ t, exec (.connConnect o port qpn) s = .next t ∧ t.conn port.val c = { s.conn port.val c with qpn := qpn.toNat, valid := true })) ∧
  (∀ (s : State) (port : PortId) (cls : Fin 3),
    ((s.conn port.val cls.val).valid = false → exec (.connBroken port cls) s = .next s) ∧
    ((s.conn port.val cls.val).valid = true →
      ∃ t, exec (.connBroken port cls) s = .next t ∧ (t.conn port.val cls.val).valid = false ∧ (t.hdr (pgNP port.val)).evStat.getLsbD 1 = true)) ∧
  (∀ (s : State) (o : Origin) (port : PortId) (r : Req), s.access o (pgNP port.val * 0x1000 + 0x0A0) true = .pass s r →
    let pg := pgNP port.val
    let e := s.place (fld (s.rd pg 0x08C) 11 0)
    ((AMap.get none s.host.pushes port.val).isSome = true → exec (.pushGo o port) s = .next ((s.setReply .ok).refuse pg 0x0704)) ∧
    (AMap.get none s.host.pushes port.val = none →
    ((s.conn port.val 1).valid = false → exec (.pushGo o port) s = .next ((s.setReply .ok).refuse pg 0x0112)) ∧
    ((s.conn port.val 1).valid = true → (e.valid = false ∨ e.expt = false) → exec (.pushGo o port) s = .next ((s.setReply .ok).refuse pg 0x0342)) ∧
    ((s.conn port.val 1).valid = true → e.valid = true → e.expt = true → e.len < s.rd64 pg 0x090 + s.rd64 pg 0x098 →
      exec (.pushGo o port) s = .next ((s.setReply .ok).refuse pg 0x0250)) ∧
    ((s.conn port.val 1).valid = true → e.valid = true → e.expt = true → s.rd64 pg 0x090 + s.rd64 pg 0x098 ≤ e.len →
      ∃ t, exec (.pushGo o port) s = .next t ∧ t.rd pg 0x0A4 = 1 ∧
        AMap.get none t.host.pushes port.val =
          some (e.base + s.rd64 pg 0x090, ⟨port, s.rd64 pg 0x080, s.rd pg 0x088, s.rd64 pg 0x098⟩)))) ∧
  (∀ (s : State) (port : PortId) (ok : Bool), AMap.get none s.host.pushes port.val = none → exec (.pushDone port ok) s = .next s) ∧
  (∀ (s s1 : State) (port : PortId) (dua : Nat) (x : Remote) (b : List Byte), AMap.get none s.host.pushes port.val = some (dua, x) →
    s.load (whoOf (s.page (dua / pageSize)).owner) dua x.bytes = .ok (b, s1) →
    (∃ t, exec (.pushDone port true) s = .next t ∧ AMap.get none t.host.pushes port.val = none ∧ t.rd (pgNP port.val) 0x0A4 = 2 ∧
      .rdmaWrite x.port x.raddr x.rkey b ∈ t.out) ∧
    (∃ t, exec (.pushDone port false) s = .next t ∧ AMap.get none t.host.pushes port.val = none ∧
      t.rd (pgNP port.val) 0x0A4 = BitVec.ofNat 32 (4 + 0x0113 * 65536))) ∧
  (∀ (s : State) (m : MgmtMsg), Sys2Proof.wfMsg m = true → s.portUp m.port.val = true → (s.conn m.port.val 2).valid = true →
    let s1 := s.bump (pgNP m.port.val) 0x028 64
    ((s1.mgmtOf m.port.val).seq = some m.seq →
      let again := s1.sendAnswer m.port.val (s1.mgmtOf m.port.val).answer
      exec (.regRead m) s = .next again ∧ exec (.regWrite m) s = .next again ∧ exec (.duaRead m) s = .next again ∧
        exec (.duaWrite m) s = .next again ∧ exec (.heartbeat m) s = .next again) ∧
    (∀ k, (s1.mgmtOf m.port.val).seq = some k → m.seq ≠ k → m.seq ≠ k + 1 →
      let late := fun (op : Nat) => s1.sendAnswer m.port.val (answerBytes op m { status := 1, reason := 0x0702 })
      exec (.regRead m) s = .next (late 1) ∧ exec (.regWrite m) s = .next (late 2) ∧ exec (.duaRead m) s = .next (late 3) ∧
        exec (.duaWrite m) s = .next (late 4) ∧ exec (.heartbeat m) s = .next (late 5)) ∧
    (((s1.mgmtOf m.port.val).seq = none ∨ ∃ k, (s1.mgmtOf m.port.val).seq = some k ∧ m.seq = k + 1) →
      let done := fun (op : Nat) (a : State) =>
        let b := answerBytes op m a.reply.mgmtEnd
        (a.setMgmt m.port.val { seq := some m.seq, answer := b }).sendAnswer m.port.val b
      (m.bytes ≠ 4 → exec (.regRead m) s = .next (done 1 (s1.setReply (.refused 0x0261))) ∧
        exec (.regWrite m) s = .next (done 2 (s1.setReply (.refused 0x0261)))) ∧
      (m.bytes = 4 → addrBad m = true → exec (.regRead m) s = .next (done 1 (s1.setReply (errorReply false))) ∧
        exec (.regWrite m) s = .next (done 2 (s1.setReply (errorReply true)))) ∧
      (duaLenBad m = true → exec (.duaRead m) s = .next (done 3 (s1.setReply (.refused 0x0261))) ∧
        exec (.duaWrite m) s = .next (done 4 (s1.setReply (.refused 0x0261)))) ∧
      (∀ r, m.bytes = 4 → addrBad m = false → (s1.setReply .none).access (.mgmt m.port) m.addr false = .pass (s1.setReply .none) r →
        let x := (s1.setReply .none).readWord m.addr r
        exec (.regRead m) s = .next (done 1 (x.2.setReply (.data (leBytes x.1.toNat 4))))) ∧
      (∀ r, m.bytes = 4 → addrBad m = false → (s1.setReply .none).access (.mgmt m.port) m.addr true = .pass (s1.setReply .none) r →
        exec (.regWrite m) s = .next (done 2 ((s1.setReply .ok).writeWord m.addr r (w32 (field m.data 0 3)) 0))) ∧
      (duaLenBad m = false →
        exec (.duaRead m) s = .next (done 3 ((s1.setReply .none).duaRead (whoOf 63) ⟨none, false, 0x81 + m.port.val, false⟩ m.addr m.bytes true)) ∧
        exec (.duaWrite m) s =
          .next (done 4 ((s1.setReply .none).duaWrite (whoOf 63) ⟨none, false, 0x81 + m.port.val, false⟩ m.addr (padTo m.bytes m.data) true))) ∧
      (∀ r, (s1.setReply .none).access (.mgmt m.port) (pgMC * 0x1000 + 0x110) true = .pass (s1.setReply .none) r →
        exec (.heartbeat m) s = .next (done 5 ((s1.setReply .ok).setMc { s1.mc with lastHb := s1.nowUs }))))) ∧
  (∀ (s : State) (m : MgmtMsg), (s.portUp m.port.val = false ∨ (s.conn m.port.val 2).valid = false) →
    exec (.regRead m) s = .next s ∧ exec (.regWrite m) s = .next s ∧ exec (.duaRead m) s = .next s ∧ exec (.duaWrite m) s = .next s ∧
      exec (.heartbeat m) s = .next s)

/-! ## Power -/

/-- The standby rail starts the controller's boot; the steps of the power-up sequence follow each other as they succeed, a failing DRAM step stops it; the
module reset asks for the whole domain. Loss of the main rail wipes the module and holds it off; loss of the standby rail keeps only what is
non-volatile. The operating point is chosen at each check; a thermal trip counts, raises event 3 and holds the module until it is released; coolant out of
range raises event 6. -/
def Obligations.PowerAndThermal : Prop :=
  (∀ s : State, (s.mc.sbOk = true → exec .standbyRailUp s = .next s) ∧
    (s.mc.sbOk = false →
      ∃ t, exec .standbyRailUp s = .next t ∧ t.mc = { s.mc with sbOk := true, step := 0, booting := true, bootAt := s.nowUs } ∧ t.up = [0x84] ∧
        t.meter = { s.meter with present := !s.meter.out } ∧ t = { s with mc := t.mc, up := t.up, meter := t.meter })) ∧
  (∀ (s : State) (permit : Bool), s.mc.sbOk = true → s.mc.running = true → s.mc.stopped = false →
    (s.resets.any (fun r => r.dom == 0xFF && r.phase == 1)) = false →
    (s.mc.step = 0 → s.mc.mainOff = false → s.mc.tripHold = false →
      (∃ t, exec (.powerStepDone true true) s = .next t ∧ t.mc = { s.mc with mainPermit := true, step := 1 } ∧
        t.rd64 pgMC 0x030 = (s.rd64 pgMC 0x030 + 1) % 2 ^ 64) ∧
      exec (.powerStepDone false true) s = .next s) ∧
    (s.mc.step = 1 → exec (.powerStepDone true permit) s = .next (s.setMc { s.mc with step := 2, mainOk := true })) ∧
    (s.mc.step = 2 →
      (∃ t, exec (.powerStepDone true permit) s = .next t ∧ t.mc = { s.mc with step := 3 } ∧ t.mem.bytes = [] ∧ t.mem.lines = [] ∧
        (∀ n, (t.page n).valid = true → (t.page n).owner = 63 ∧ (t.page n).tier = 1 ∧ (t.page n).pinned = true ∧ (t.page n).modulePinned = true) ∧
        (∀ k ∈ ([0, 1, 2, 3, 4, 6] : List Nat), (t.page (s.tableLoc k / pageSize)).valid = true)) ∧
      exec (.powerStepDone false permit) s = .next (s.setMc { s.mc with stopped := true, failStep := 2 })) ∧
    (s.mc.step = 3 → (∃ t, exec (.powerStepDone true permit) s = .next t ∧ t.mc = { s.mc with step := 4, vaultMounted := true } ∧
        t.lift.patrolAt = s.nowUs + dayUs) ∧
      exec (.powerStepDone false permit) s = .next (s.setMc { s.mc with step := 4, vaultMounted := false })) ∧
    (s.mc.step = 4 → exec (.powerStepDone true permit) s = .next (s.setMc { s.mc with step := 5, ticksAligned := true, tickFailed := 0 }) ∧
      ∃ t, exec (.powerStepDone false permit) s = .next t ∧ t.mc.step = 5 ∧ t.mc.ticksAligned = false ∧ (t.hdr pgMC).evStat.getLsbD 1 = true) ∧
    (s.mc.step = 5 → ∃ t, exec (.powerStepDone true permit) s = .next t ∧ t.mc.step = 6 ∧ t.up = s.allDomains) ∧
    (s.mc.step = 6 → ∃ t, exec (.powerStepDone true permit) s = .next t ∧ t.mc = { s.mc with step := 7, ready := true } ∧
      (t.hdr pgMC).evStat.getLsbD 5 = true)) ∧
  (∀ s : State, (s.mc.sbOk = true → s.mc.running = true → exec .modRst s = .next (s.requestReset 0xFF 0)) ∧
    ((s.mc.sbOk = false ∨ s.mc.running = false) → exec .modRst s = .next s)) ∧
  (∀ s : State,
    ((s.mc.sbOk = false ∨ s.mc.mainOk = false) → exec .mainRailFault s = .next s) ∧
    (s.mc.sbOk = true → s.mc.mainOk = true →
      (∃ t, exec .mainRailFault s = .next t ∧ t.mc.mainOk = false ∧ t.mc.mainOff = true ∧ t.mc.step = 0 ∧ t.mc.ready = false ∧ t.mem = {} ∧ t.started = [] ∧
        t.meter = s.meter ∧ t.fbx.baseKey = none ∧ t.rd64 pgMC 0x020 = (s.rd64 pgMC 0x020 + 1) % 2 ^ 64 ∧ (t.hdr pgMC).evStat.getLsbD 4 = true) ∧
      (∃ t, exec .mainPermitFall s = .next t ∧ t.mc.mainPermit = false ∧ t.mc.mainOk = false ∧ t.mem = {})) ∧
    ((s.mc.sbOk = false ∨ s.mc.mainOk = false) → exec .mainPermitFall s = .next (s.setMc { s.mc with mainPermit := false })) ∧
    (s.mc.sbOk = false → exec .standbyRailLoss s = .next s) ∧
    (s.mc.sbOk = true →
      ∃ t, exec .standbyRailLoss s = .next t ∧ t.mem = {} ∧ t.regs = [] ∧ t.mc.sbOk = false ∧ t.mc.running = false ∧ t.mc.mainOk = false ∧ t.up = [] ∧
        t.mc.imgA = s.mc.imgA ∧ t.mc.imgB = s.mc.imgB ∧ t.mc.active = s.mc.active ∧ t.mc.sa0 = s.mc.sa0 ∧ t.mc.sa1 = s.mc.sa1 ∧
        t.fbx.baseKey = none ∧ t.fbx.lockFuse = s.fbx.lockFuse ∧ t.fbx.floors = s.fbx.floors ∧ t.wx.store = s.wx.store ∧
        t.meter.accts = (if s.meter.present then s.meter.closeWindow (Config.windowMj s.nowUs) false else s.meter).accts)) ∧
  (∀ (s : State) (permit : Bool), s.mc.mainOff = true → s.mc.sbOk = true → s.mc.running = true →
    ((permit = false ∨ s.nowUs < s.mc.faultAt + 100000) → exec (.mainRailReturn permit) s = .next s) ∧
    (permit = true → s.mc.faultAt + 100000 ≤ s.nowUs → s.mc.tripHold = true →
      exec (.mainRailReturn permit) s = .next (s.setMc { s.mc with mainOff := false, mainPermit := true })) ∧
    (permit = true → s.mc.faultAt + 100000 ≤ s.nowUs → s.mc.tripHold = false →
      ∃ t, exec (.mainRailReturn permit) s = .next t ∧ t.mc = { s.mc with mainOff := false, mainPermit := true, step := 1 })) ∧
  (∀ (s : State) (watts tj : Nat), s.mc.running = true → s.mc.mainOk = true →
    let s1 := s.setMc { s.mc with watts := watts, tj := tj }
    (s.vfUp = none → exec (.dvfsCheck watts tj) s = .next (s1.vfCheck watts tj)) ∧
    (s.vfUp.isSome = true → exec (.dvfsCheck watts tj) s = .next ((s1.bump pgMC 0x028 1).vfCheck watts tj)) ∧
    (s.mc.tripHold = true → exec .thermalTrip s = .next s) ∧
    (s.mc.tripHold = false →
      ∃ s2 : State, exec .thermalTrip s = .next (s2.requestReset 0xFF 1) ∧ s2.mc = { s.mc with tripHold := true } ∧ (s2.hdr pgMC).evStat.getLsbD 3 = true ∧
        s2.rd64 pgMC 0x038 = (s.rd64 pgMC 0x038 + 1) % 2 ^ 64)) ∧
  (∀ (s : State) (watts tj : Nat), 105 < tj → s.vfLast ≠ s.mc.vfPoint → (s.vfCheck watts tj).mc.vfPoint = s.vfLast) ∧
  (∀ s : State, (s.mc.tripHold = false → exec .thermalTripRelease s = .next s) ∧
    (s.mc.tripHold = true → (s.mc.mainOk = true ∨ s.mc.mainOff = true) → exec .thermalTripRelease s = .next (s.setMc { s.mc with tripHold := false })) ∧
    (s.mc.tripHold = true → s.mc.mainOk = false → s.mc.mainOff = false →
      ∃ t, exec .thermalTripRelease s = .next t ∧ t.mc = { s.mc with tripHold := false, step := 1 })) ∧
  (∀ (s : State) (inlet flow : Nat), s.mc.running = true →
    let s1 := s.setMc { s.mc with inlet := inlet, flow := flow }
    ((40 < inlet ∨ flow < 2000) → exec (.coolantOutOfRange inlet flow) s = .next (s1.raise pgMC 6)) ∧
    (inlet ≤ 40 → 2000 ≤ flow → exec (.coolantOutOfRange inlet flow) s = .next s1))
end

