-- ==== Sys2Proof/Laws/AMap.lean ====
section
/-!
SUPPORT. The laws of sparse maps: every operation keeps the canonical form, and what a key reads as after each.
-/

namespace Sys2Proof.Machine

/-- Keys strictly rising. -/
def AMap.Rising {α : Type} (m : AMap α) : Prop := m.Pairwise (fun a b => a.1 < b.1)

theorem AMap.wf_iff {α : Type} [DecidableEq α] (d : α) (m : AMap α) :
    AMap.wf d m = true ↔ AMap.Rising m ∧ ∀ e ∈ m, e.2 ≠ d := by
  simp [AMap.wf, AMap.Rising]

@[simp] theorem AMap.wf_nil {α : Type} [DecidableEq α] (d : α) : AMap.wf d ([] : AMap α) = true := by simp [AMap.wf]

@[simp] theorem AMap.wf_filter {α : Type} [DecidableEq α] {d : α} {m : AMap α} (p : Nat × α → Bool) (h : AMap.wf d m = true) :
    AMap.wf d (m.filter p) = true := by
  rw [AMap.wf_iff] at *
  exact ⟨h.1.filter _, fun e he => h.2 e (List.mem_filter.1 he).1⟩

@[simp] theorem AMap.wf_del {α : Type} [DecidableEq α] {d : α} {m : AMap α} (k : Nat) (h : AMap.wf d m = true) : AMap.wf d (AMap.del m k) = true :=
  AMap.wf_filter _ h

@[simp] theorem AMap.wf_delRange {α : Type} [DecidableEq α] {d : α} {m : AMap α} (lo n : Nat) (h : AMap.wf d m = true) :
    AMap.wf d (AMap.delRange m lo n) = true := AMap.wf_filter _ h

theorem AMap.mem_ins {α : Type} {k : Nat} {v : α} {m : AMap α} {e : Nat × α} (h : e ∈ AMap.ins k v m) : e = (k, v) ∨ e ∈ m := by
  induction m with
  | nil => simpa [AMap.ins] using h
  | cons x t ih =>
    obtain ⟨k', v'⟩ := x
    simp only [AMap.ins] at h
    split at h
    · simpa using h
    · rcases List.mem_cons.1 h with h | h
      · exact .inr (by simp [h])
      · rcases ih h with h | h
        · exact .inl h
        · exact .inr (by simp [h])

theorem AMap.rising_ins {α : Type} {k : Nat} {v : α} {m : AMap α} (h : AMap.Rising m) (hk : ∀ e ∈ m, e.1 ≠ k) :
    AMap.Rising (AMap.ins k v m) := by
  induction m with
  | nil => simp [AMap.ins, AMap.Rising]
  | cons x t ih =>
    obtain ⟨k', v'⟩ := x
    have hx : k' ≠ k := hk _ List.mem_cons_self
    simp only [AMap.Rising, List.pairwise_cons] at h
    simp only [AMap.ins]
    split
    · rename_i hlt
      simp only [AMap.Rising, List.pairwise_cons, List.mem_cons, forall_eq_or_imp]
      exact ⟨⟨hlt, fun e he => by have := h.1 e he; omega⟩, h.1, h.2⟩
    · rename_i hlt
      simp only [AMap.Rising, List.pairwise_cons]
      refine ⟨fun e he => ?_, ih h.2 (fun e he => hk e (List.mem_cons_of_mem _ he))⟩
      rcases AMap.mem_ins he with rfl | he
      · show k' < k; omega
      · exact h.1 e he

theorem AMap.del_ne {α : Type} {m : AMap α} {k : Nat} : ∀ e ∈ AMap.del m k, e.1 ≠ k := by
  intro e he; simpa using (List.mem_filter.1 he).2

/-- A key changed keeps the canonical form. -/
@[simp] theorem AMap.wf_put {α : Type} [DecidableEq α] {d : α} {m : AMap α} (k : Nat) (v : α) (h : AMap.wf d m = true) :
    AMap.wf d (AMap.put d m k v) = true := by
  have hd := AMap.wf_del k h
  unfold AMap.put
  split
  · exact hd
  · rename_i hv
    rw [AMap.wf_iff] at *
    refine ⟨AMap.rising_ins hd.1 AMap.del_ne, fun e he => ?_⟩
    rcases AMap.mem_ins he with rfl | he
    · exact hv
    · exact hd.2 e he

@[simp] theorem AMap.wf_putList {α : Type} [DecidableEq α] {d : α} (vs : List α) : ∀ {m : AMap α} (k : Nat), AMap.wf d m = true →
    AMap.wf d (AMap.putList d m k vs) = true := by
  induction vs with
  | nil => intro m k h; exact h
  | cons v vs ih => intro m k h; exact ih (k + 1) (AMap.wf_put k v h)

@[simp] theorem AMap.wf_mapAll {α : Type} [DecidableEq α] {d : α} (f : Nat → α → α) {m : AMap α} (h : AMap.wf d m = true) :
    AMap.wf d (AMap.mapAll d f m) = true := by
  unfold AMap.mapAll
  suffices ∀ (l acc : AMap α), AMap.wf d acc = true → AMap.wf d (l.foldl (fun acc e => AMap.put d acc e.1 (f e.1 (AMap.get d m e.1))) acc) = true from
    this m m h
  intro l
  induction l with
  | nil => intro acc h; exact h
  | cons e t ih => intro acc h; exact ih _ (AMap.wf_put _ _ h)

/-! ## Reads -/

theorem AMap.get_of_ne {α : Type} {d : α} {m : AMap α} {k : Nat} (h : ∀ e ∈ m, e.1 ≠ k) : AMap.get d m k = d := by
  induction m with
  | nil => rfl
  | cons x t ih =>
    obtain ⟨k', v'⟩ := x
    have : k' ≠ k := h _ List.mem_cons_self
    simp only [AMap.get, if_neg this]
    exact ih (fun e he => h e (List.mem_cons_of_mem _ he))

theorem AMap.get_del {α : Type} (d : α) (m : AMap α) (k j : Nat) : AMap.get d (AMap.del m k) j = if j = k then d else AMap.get d m j := by
  by_cases hj : j = k
  · subst hj; simp [AMap.get_of_ne AMap.del_ne]
  · rw [if_neg hj]
    induction m with
    | nil => rfl
    | cons x t ih =>
      obtain ⟨k', v'⟩ := x
      by_cases hk : k' = k
      · subst hk
        have : AMap.del ((k', v') :: t) k' = AMap.del t k' := by simp [AMap.del]
        rw [this, ih]
        simp [AMap.get, Ne.symm hj]
      · have : AMap.del ((k', v') :: t) k = (k', v') :: AMap.del t k := by simp [AMap.del, hk]
        rw [this]
        simp only [AMap.get]
        split
        · rfl
        · exact ih

theorem AMap.get_ins {α : Type} (d : α) (k : Nat) (v : α) (m : AMap α) (hk : ∀ e ∈ m, e.1 ≠ k) (j : Nat) :
    AMap.get d (AMap.ins k v m) j = if j = k then v else AMap.get d m j := by
  induction m with
  | nil => simp [AMap.ins, AMap.get, eq_comm]
  | cons x t ih =>
    obtain ⟨k', v'⟩ := x
    have hx : k' ≠ k := hk _ List.mem_cons_self
    simp only [AMap.ins]
    split
    · simp only [AMap.get, eq_comm]
    · simp only [AMap.get]
      rw [ih (fun e he => hk e (List.mem_cons_of_mem _ he))]
      by_cases h1 : k' = j
      · subst h1; simp [hx]
      · simp [h1]

/-- What a key reads as after one key was changed. -/
theorem AMap.get_put {α : Type} [DecidableEq α] (d : α) (m : AMap α) (k : Nat) (v : α) (j : Nat) :
    AMap.get d (AMap.put d m k v) j = if j = k then v else AMap.get d m j := by
  unfold AMap.put
  split
  · rename_i h; subst h; exact AMap.get_del _ m k j
  · rw [AMap.get_ins d k v _ AMap.del_ne, AMap.get_del]
    by_cases h : j = k <;> simp [h]

@[simp] theorem AMap.get_put_self {α : Type} [DecidableEq α] (d : α) (m : AMap α) (k : Nat) (v : α) :
    AMap.get d (AMap.put d m k v) k = v := by simp [AMap.get_put]

theorem AMap.get_put_ne {α : Type} [DecidableEq α] {d : α} {m : AMap α} {k j : Nat} {v : α} (h : j ≠ k) :
    AMap.get d (AMap.put d m k v) j = AMap.get d m j := by simp [AMap.get_put, h]

/-- What a key reads as after a run of keys was changed. -/
theorem AMap.get_putList {α : Type} [DecidableEq α] (d : α) (vs : List α) : ∀ (m : AMap α) (k j : Nat),
    AMap.get d (AMap.putList d m k vs) j = if k ≤ j ∧ j < k + vs.length then vs.getD (j - k) d else AMap.get d m j := by
  induction vs with
  | nil => intro m k j; simp [AMap.putList]
  | cons v vs ih =>
    intro m k j
    rw [AMap.putList, ih, AMap.get_put]
    by_cases h : j = k
    · subst h; simp
    · by_cases h2 : k ≤ j ∧ j < k + (vs.length + 1)
      · have h3 : k + 1 ≤ j ∧ j < k + 1 + vs.length := by omega
        have h4 : j - k = (j - (k + 1)) + 1 := by omega
        simp only [h3, List.length_cons, h2, h4]
        simp
      · have h3 : ¬ (k + 1 ≤ j ∧ j < k + 1 + vs.length) := by omega
        simp only [List.length_cons, if_neg h2, if_neg h3, h, if_false]

end Sys2Proof.Machine
end

