-- ==== Sys2Proof/Laws/State.lean ====
section
/-!
SUPPORT. Reads of the state after one of its updates: every field and every accessor that an update leaves alone reads as before, and the changed one
as it was set.
-/

namespace Sys2Proof.Machine

@[simp] theorem State.setHoldSeq_fields (s : State) (x : Nat) :
    (s.setHoldSeq x).part = s.part ∧ (s.setHoldSeq x).regs = s.regs ∧ (s.setHoldSeq x).force = s.force ∧ (s.setHoldSeq x).pages = s.pages ∧
    (s.setHoldSeq x).latch = s.latch ∧ (s.setHoldSeq x).tbData = s.tbData ∧ (s.setHoldSeq x).mem = s.mem ∧ (s.setHoldSeq x).queues = s.queues ∧
    (s.setHoldSeq x).started = s.started ∧ (s.setHoldSeq x).held = s.held ∧ (s.setHoldSeq x).evq = s.evq ∧ (s.setHoldSeq x).se = s.se ∧
    (s.setHoldSeq x).slots = s.slots ∧ (s.setHoldSeq x).parks = s.parks ∧ (s.setHoldSeq x).holds = s.holds ∧ (s.setHoldSeq x).infs = s.infs ∧
    (s.setHoldSeq x).wxs = s.wxs ∧ (s.setHoldSeq x).wx = s.wx ∧ (s.setHoldSeq x).hearths = s.hearths ∧ (s.setHoldSeq x).pts = s.pts ∧
    (s.setHoldSeq x).images = s.images ∧ (s.setHoldSeq x).lift = s.lift ∧ (s.setHoldSeq x).fab = s.fab ∧ (s.setHoldSeq x).sems = s.sems ∧
    (s.setHoldSeq x).fbx = s.fbx ∧ (s.setHoldSeq x).mc = s.mc ∧ (s.setHoldSeq x).up = s.up ∧ (s.setHoldSeq x).epochs = s.epochs ∧
    (s.setHoldSeq x).resets = s.resets ∧ (s.setHoldSeq x).meter = s.meter ∧ (s.setHoldSeq x).host = s.host ∧ (s.setHoldSeq x).holdSeq = x ∧
    (s.setHoldSeq x).nowUs = s.nowUs ∧ (s.setHoldSeq x).freeCtr = s.freeCtr ∧ (s.setHoldSeq x).reply = s.reply ∧ (s.setHoldSeq x).out = s.out ∧
    (s.setHoldSeq x).pending = s.pending ∧ State.rd (s.setHoldSeq x) = State.rd s ∧ State.frc (s.setHoldSeq x) = State.frc s ∧ State.rd64 (s.setHoldSeq x) = State.rd64 s ∧
    State.frc64 (s.setHoldSeq x) = State.frc64 s ∧ State.hdr (s.setHoldSeq x) = State.hdr s ∧ State.latchOf (s.setHoldSeq x) = State.latchOf s ∧ State.page (s.setHoldSeq x) = State.page s ∧
    State.lineMeta (s.setHoldSeq x) = State.lineMeta s ∧ State.region (s.setHoldSeq x) = State.region s ∧ State.keygenAt (s.setHoldSeq x) = State.keygenAt s ∧ State.byteAt (s.setHoldSeq x) = State.byteAt s ∧
    State.seOf (s.setHoldSeq x) = State.seOf s ∧ State.slot (s.setHoldSeq x) = State.slot s ∧ State.hold (s.setHoldSeq x) = State.hold s ∧ State.inf (s.setHoldSeq x) = State.inf s ∧
    State.wxOf (s.setHoldSeq x) = State.wxOf s ∧ State.hearth (s.setHoldSeq x) = State.hearth s ∧ State.pt (s.setHoldSeq x) = State.pt s ∧ State.queue (s.setHoldSeq x) = State.queue s ∧
    State.sem (s.setHoldSeq x) = State.sem s ∧ State.link (s.setHoldSeq x) = State.link s ∧ State.heldOf (s.setHoldSeq x) = State.heldOf s ∧ State.findCmd (s.setHoldSeq x) = State.findCmd s ∧
    State.enabled (s.setHoldSeq x) = State.enabled s ∧ State.ringRoom (s.setHoldSeq x) = State.ringRoom s ∧ State.ringCount (s.setHoldSeq x) = State.ringCount s ∧ State.ringSize (s.setHoldSeq x) = State.ringSize s ∧
    State.ringAddr (s.setHoldSeq x) = State.ringAddr s := by
  and_intros <;> rfl

@[simp] theorem State.setParks_fields (s : State) (x : List Park) :
    (s.setParks x).part = s.part ∧ (s.setParks x).regs = s.regs ∧ (s.setParks x).force = s.force ∧ (s.setParks x).pages = s.pages ∧
    (s.setParks x).latch = s.latch ∧ (s.setParks x).tbData = s.tbData ∧ (s.setParks x).mem = s.mem ∧ (s.setParks x).queues = s.queues ∧
    (s.setParks x).started = s.started ∧ (s.setParks x).held = s.held ∧ (s.setParks x).evq = s.evq ∧ (s.setParks x).se = s.se ∧
    (s.setParks x).slots = s.slots ∧ (s.setParks x).parks = x ∧ (s.setParks x).holds = s.holds ∧ (s.setParks x).infs = s.infs ∧
    (s.setParks x).wxs = s.wxs ∧ (s.setParks x).wx = s.wx ∧ (s.setParks x).hearths = s.hearths ∧ (s.setParks x).pts = s.pts ∧
    (s.setParks x).images = s.images ∧ (s.setParks x).lift = s.lift ∧ (s.setParks x).fab = s.fab ∧ (s.setParks x).sems = s.sems ∧
    (s.setParks x).fbx = s.fbx ∧ (s.setParks x).mc = s.mc ∧ (s.setParks x).up = s.up ∧ (s.setParks x).epochs = s.epochs ∧
    (s.setParks x).resets = s.resets ∧ (s.setParks x).meter = s.meter ∧ (s.setParks x).host = s.host ∧ (s.setParks x).holdSeq = s.holdSeq ∧
    (s.setParks x).nowUs = s.nowUs ∧ (s.setParks x).freeCtr = s.freeCtr ∧ (s.setParks x).reply = s.reply ∧ (s.setParks x).out = s.out ∧
    (s.setParks x).pending = s.pending ∧ State.rd (s.setParks x) = State.rd s ∧ State.frc (s.setParks x) = State.frc s ∧ State.rd64 (s.setParks x) = State.rd64 s ∧
    State.frc64 (s.setParks x) = State.frc64 s ∧ State.hdr (s.setParks x) = State.hdr s ∧ State.latchOf (s.setParks x) = State.latchOf s ∧ State.page (s.setParks x) = State.page s ∧
    State.lineMeta (s.setParks x) = State.lineMeta s ∧ State.region (s.setParks x) = State.region s ∧ State.keygenAt (s.setParks x) = State.keygenAt s ∧ State.byteAt (s.setParks x) = State.byteAt s ∧
    State.seOf (s.setParks x) = State.seOf s ∧ State.slot (s.setParks x) = State.slot s ∧ State.hold (s.setParks x) = State.hold s ∧ State.inf (s.setParks x) = State.inf s ∧
    State.wxOf (s.setParks x) = State.wxOf s ∧ State.hearth (s.setParks x) = State.hearth s ∧ State.pt (s.setParks x) = State.pt s ∧ State.queue (s.setParks x) = State.queue s ∧
    State.sem (s.setParks x) = State.sem s ∧ State.link (s.setParks x) = State.link s ∧ State.heldOf (s.setParks x) = State.heldOf s ∧ State.findCmd (s.setParks x) = State.findCmd s ∧
    State.enabled (s.setParks x) = State.enabled s ∧ State.ringRoom (s.setParks x) = State.ringRoom s ∧ State.ringCount (s.setParks x) = State.ringCount s ∧ State.ringSize (s.setParks x) = State.ringSize s ∧
    State.ringAddr (s.setParks x) = State.ringAddr s := by
  and_intros <;> rfl

@[simp] theorem State.setFreeCtr_fields (s : State) (x : Nat) :
    (s.setFreeCtr x).part = s.part ∧ (s.setFreeCtr x).regs = s.regs ∧ (s.setFreeCtr x).force = s.force ∧ (s.setFreeCtr x).pages = s.pages ∧
    (s.setFreeCtr x).latch = s.latch ∧ (s.setFreeCtr x).tbData = s.tbData ∧ (s.setFreeCtr x).mem = s.mem ∧ (s.setFreeCtr x).queues = s.queues ∧
    (s.setFreeCtr x).started = s.started ∧ (s.setFreeCtr x).held = s.held ∧ (s.setFreeCtr x).evq = s.evq ∧ (s.setFreeCtr x).se = s.se ∧
    (s.setFreeCtr x).slots = s.slots ∧ (s.setFreeCtr x).parks = s.parks ∧ (s.setFreeCtr x).holds = s.holds ∧ (s.setFreeCtr x).infs = s.infs ∧
    (s.setFreeCtr x).wxs = s.wxs ∧ (s.setFreeCtr x).wx = s.wx ∧ (s.setFreeCtr x).hearths = s.hearths ∧ (s.setFreeCtr x).pts = s.pts ∧
    (s.setFreeCtr x).images = s.images ∧ (s.setFreeCtr x).lift = s.lift ∧ (s.setFreeCtr x).fab = s.fab ∧ (s.setFreeCtr x).sems = s.sems ∧
    (s.setFreeCtr x).fbx = s.fbx ∧ (s.setFreeCtr x).mc = s.mc ∧ (s.setFreeCtr x).up = s.up ∧ (s.setFreeCtr x).epochs = s.epochs ∧
    (s.setFreeCtr x).resets = s.resets ∧ (s.setFreeCtr x).meter = s.meter ∧ (s.setFreeCtr x).host = s.host ∧ (s.setFreeCtr x).holdSeq = s.holdSeq ∧
    (s.setFreeCtr x).nowUs = s.nowUs ∧ (s.setFreeCtr x).freeCtr = x ∧ (s.setFreeCtr x).reply = s.reply ∧ (s.setFreeCtr x).out = s.out ∧
    (s.setFreeCtr x).pending = s.pending ∧ State.rd (s.setFreeCtr x) = State.rd s ∧ State.frc (s.setFreeCtr x) = State.frc s ∧ State.rd64 (s.setFreeCtr x) = State.rd64 s ∧
    State.frc64 (s.setFreeCtr x) = State.frc64 s ∧ State.hdr (s.setFreeCtr x) = State.hdr s ∧ State.latchOf (s.setFreeCtr x) = State.latchOf s ∧ State.page (s.setFreeCtr x) = State.page s ∧
    State.lineMeta (s.setFreeCtr x) = State.lineMeta s ∧ State.region (s.setFreeCtr x) = State.region s ∧ State.keygenAt (s.setFreeCtr x) = State.keygenAt s ∧ State.byteAt (s.setFreeCtr x) = State.byteAt s ∧
    State.seOf (s.setFreeCtr x) = State.seOf s ∧ State.slot (s.setFreeCtr x) = State.slot s ∧ State.hold (s.setFreeCtr x) = State.hold s ∧ State.inf (s.setFreeCtr x) = State.inf s ∧
    State.wxOf (s.setFreeCtr x) = State.wxOf s ∧ State.hearth (s.setFreeCtr x) = State.hearth s ∧ State.pt (s.setFreeCtr x) = State.pt s ∧ State.queue (s.setFreeCtr x) = State.queue s ∧
    State.sem (s.setFreeCtr x) = State.sem s ∧ State.link (s.setFreeCtr x) = State.link s ∧ State.heldOf (s.setFreeCtr x) = State.heldOf s ∧ State.findCmd (s.setFreeCtr x) = State.findCmd s ∧
    State.enabled (s.setFreeCtr x) = State.enabled s ∧ State.ringRoom (s.setFreeCtr x) = State.ringRoom s ∧ State.ringCount (s.setFreeCtr x) = State.ringCount s ∧ State.ringSize (s.setFreeCtr x) = State.ringSize s ∧
    State.ringAddr (s.setFreeCtr x) = State.ringAddr s := by
  and_intros <;> rfl

@[simp] theorem State.setPages_fields (s : State) (x : AMap PageHdr) :
    (s.setPages x).part = s.part ∧ (s.setPages x).regs = s.regs ∧ (s.setPages x).force = s.force ∧ (s.setPages x).pages = x ∧
    (s.setPages x).latch = s.latch ∧ (s.setPages x).tbData = s.tbData ∧ (s.setPages x).mem = s.mem ∧ (s.setPages x).queues = s.queues ∧
    (s.setPages x).started = s.started ∧ (s.setPages x).held = s.held ∧ (s.setPages x).evq = s.evq ∧ (s.setPages x).se = s.se ∧
    (s.setPages x).slots = s.slots ∧ (s.setPages x).parks = s.parks ∧ (s.setPages x).holds = s.holds ∧ (s.setPages x).infs = s.infs ∧
    (s.setPages x).wxs = s.wxs ∧ (s.setPages x).wx = s.wx ∧ (s.setPages x).hearths = s.hearths ∧ (s.setPages x).pts = s.pts ∧
    (s.setPages x).images = s.images ∧ (s.setPages x).lift = s.lift ∧ (s.setPages x).fab = s.fab ∧ (s.setPages x).sems = s.sems ∧
    (s.setPages x).fbx = s.fbx ∧ (s.setPages x).mc = s.mc ∧ (s.setPages x).up = s.up ∧ (s.setPages x).epochs = s.epochs ∧
    (s.setPages x).resets = s.resets ∧ (s.setPages x).meter = s.meter ∧ (s.setPages x).host = s.host ∧ (s.setPages x).holdSeq = s.holdSeq ∧
    (s.setPages x).nowUs = s.nowUs ∧ (s.setPages x).freeCtr = s.freeCtr ∧ (s.setPages x).reply = s.reply ∧ (s.setPages x).out = s.out ∧
    (s.setPages x).pending = s.pending ∧ State.rd (s.setPages x) = State.rd s ∧ State.frc (s.setPages x) = State.frc s ∧ State.rd64 (s.setPages x) = State.rd64 s ∧
    State.frc64 (s.setPages x) = State.frc64 s ∧ State.latchOf (s.setPages x) = State.latchOf s ∧ State.page (s.setPages x) = State.page s ∧ State.lineMeta (s.setPages x) = State.lineMeta s ∧
    State.region (s.setPages x) = State.region s ∧ State.keygenAt (s.setPages x) = State.keygenAt s ∧ State.byteAt (s.setPages x) = State.byteAt s ∧ State.seOf (s.setPages x) = State.seOf s ∧
    State.slot (s.setPages x) = State.slot s ∧ State.hold (s.setPages x) = State.hold s ∧ State.inf (s.setPages x) = State.inf s ∧ State.wxOf (s.setPages x) = State.wxOf s ∧
    State.hearth (s.setPages x) = State.hearth s ∧ State.pt (s.setPages x) = State.pt s ∧ State.queue (s.setPages x) = State.queue s ∧ State.sem (s.setPages x) = State.sem s ∧
    State.link (s.setPages x) = State.link s ∧ State.heldOf (s.setPages x) = State.heldOf s ∧ State.findCmd (s.setPages x) = State.findCmd s ∧ State.ringRoom (s.setPages x) = State.ringRoom s ∧
    State.ringCount (s.setPages x) = State.ringCount s ∧ State.ringSize (s.setPages x) = State.ringSize s ∧ State.ringAddr (s.setPages x) = State.ringAddr s := by
  and_intros <;> rfl

@[simp] theorem State.setLatch_fields (s : State) (x : AMap Word) :
    (s.setLatch x).part = s.part ∧ (s.setLatch x).regs = s.regs ∧ (s.setLatch x).force = s.force ∧ (s.setLatch x).pages = s.pages ∧
    (s.setLatch x).latch = x ∧ (s.setLatch x).tbData = s.tbData ∧ (s.setLatch x).mem = s.mem ∧ (s.setLatch x).queues = s.queues ∧
    (s.setLatch x).started = s.started ∧ (s.setLatch x).held = s.held ∧ (s.setLatch x).evq = s.evq ∧ (s.setLatch x).se = s.se ∧
    (s.setLatch x).slots = s.slots ∧ (s.setLatch x).parks = s.parks ∧ (s.setLatch x).holds = s.holds ∧ (s.setLatch x).infs = s.infs ∧
    (s.setLatch x).wxs = s.wxs ∧ (s.setLatch x).wx = s.wx ∧ (s.setLatch x).hearths = s.hearths ∧ (s.setLatch x).pts = s.pts ∧
    (s.setLatch x).images = s.images ∧ (s.setLatch x).lift = s.lift ∧ (s.setLatch x).fab = s.fab ∧ (s.setLatch x).sems = s.sems ∧
    (s.setLatch x).fbx = s.fbx ∧ (s.setLatch x).mc = s.mc ∧ (s.setLatch x).up = s.up ∧ (s.setLatch x).epochs = s.epochs ∧
    (s.setLatch x).resets = s.resets ∧ (s.setLatch x).meter = s.meter ∧ (s.setLatch x).host = s.host ∧ (s.setLatch x).holdSeq = s.holdSeq ∧
    (s.setLatch x).nowUs = s.nowUs ∧ (s.setLatch x).freeCtr = s.freeCtr ∧ (s.setLatch x).reply = s.reply ∧ (s.setLatch x).out = s.out ∧
    (s.setLatch x).pending = s.pending ∧ State.rd (s.setLatch x) = State.rd s ∧ State.frc (s.setLatch x) = State.frc s ∧ State.rd64 (s.setLatch x) = State.rd64 s ∧
    State.frc64 (s.setLatch x) = State.frc64 s ∧ State.hdr (s.setLatch x) = State.hdr s ∧ State.page (s.setLatch x) = State.page s ∧ State.lineMeta (s.setLatch x) = State.lineMeta s ∧
    State.region (s.setLatch x) = State.region s ∧ State.keygenAt (s.setLatch x) = State.keygenAt s ∧ State.byteAt (s.setLatch x) = State.byteAt s ∧ State.seOf (s.setLatch x) = State.seOf s ∧
    State.slot (s.setLatch x) = State.slot s ∧ State.hold (s.setLatch x) = State.hold s ∧ State.inf (s.setLatch x) = State.inf s ∧ State.wxOf (s.setLatch x) = State.wxOf s ∧
    State.hearth (s.setLatch x) = State.hearth s ∧ State.pt (s.setLatch x) = State.pt s ∧ State.queue (s.setLatch x) = State.queue s ∧ State.sem (s.setLatch x) = State.sem s ∧
    State.link (s.setLatch x) = State.link s ∧ State.heldOf (s.setLatch x) = State.heldOf s ∧ State.findCmd (s.setLatch x) = State.findCmd s ∧ State.enabled (s.setLatch x) = State.enabled s ∧
    State.ringRoom (s.setLatch x) = State.ringRoom s ∧ State.ringCount (s.setLatch x) = State.ringCount s ∧ State.ringSize (s.setLatch x) = State.ringSize s ∧ State.ringAddr (s.setLatch x) = State.ringAddr s := by
  and_intros <;> rfl

@[simp] theorem State.setSes_fields (s : State) (x : AMap Se) :
    (s.setSes x).part = s.part ∧ (s.setSes x).regs = s.regs ∧ (s.setSes x).force = s.force ∧ (s.setSes x).pages = s.pages ∧
    (s.setSes x).latch = s.latch ∧ (s.setSes x).tbData = s.tbData ∧ (s.setSes x).mem = s.mem ∧ (s.setSes x).queues = s.queues ∧
    (s.setSes x).started = s.started ∧ (s.setSes x).held = s.held ∧ (s.setSes x).evq = s.evq ∧ (s.setSes x).se = x ∧
    (s.setSes x).slots = s.slots ∧ (s.setSes x).parks = s.parks ∧ (s.setSes x).holds = s.holds ∧ (s.setSes x).infs = s.infs ∧
    (s.setSes x).wxs = s.wxs ∧ (s.setSes x).wx = s.wx ∧ (s.setSes x).hearths = s.hearths ∧ (s.setSes x).pts = s.pts ∧
    (s.setSes x).images = s.images ∧ (s.setSes x).lift = s.lift ∧ (s.setSes x).fab = s.fab ∧ (s.setSes x).sems = s.sems ∧
    (s.setSes x).fbx = s.fbx ∧ (s.setSes x).mc = s.mc ∧ (s.setSes x).up = s.up ∧ (s.setSes x).epochs = s.epochs ∧
    (s.setSes x).resets = s.resets ∧ (s.setSes x).meter = s.meter ∧ (s.setSes x).host = s.host ∧ (s.setSes x).holdSeq = s.holdSeq ∧
    (s.setSes x).nowUs = s.nowUs ∧ (s.setSes x).freeCtr = s.freeCtr ∧ (s.setSes x).reply = s.reply ∧ (s.setSes x).out = s.out ∧
    (s.setSes x).pending = s.pending ∧ State.rd (s.setSes x) = State.rd s ∧ State.frc (s.setSes x) = State.frc s ∧ State.rd64 (s.setSes x) = State.rd64 s ∧
    State.frc64 (s.setSes x) = State.frc64 s ∧ State.hdr (s.setSes x) = State.hdr s ∧ State.latchOf (s.setSes x) = State.latchOf s ∧ State.page (s.setSes x) = State.page s ∧
    State.lineMeta (s.setSes x) = State.lineMeta s ∧ State.region (s.setSes x) = State.region s ∧ State.keygenAt (s.setSes x) = State.keygenAt s ∧ State.byteAt (s.setSes x) = State.byteAt s ∧
    State.slot (s.setSes x) = State.slot s ∧ State.hold (s.setSes x) = State.hold s ∧ State.inf (s.setSes x) = State.inf s ∧ State.wxOf (s.setSes x) = State.wxOf s ∧
    State.hearth (s.setSes x) = State.hearth s ∧ State.pt (s.setSes x) = State.pt s ∧ State.queue (s.setSes x) = State.queue s ∧ State.sem (s.setSes x) = State.sem s ∧
    State.link (s.setSes x) = State.link s ∧ State.heldOf (s.setSes x) = State.heldOf s ∧ State.findCmd (s.setSes x) = State.findCmd s ∧ State.enabled (s.setSes x) = State.enabled s ∧
    State.ringRoom (s.setSes x) = State.ringRoom s ∧ State.ringCount (s.setSes x) = State.ringCount s ∧ State.ringSize (s.setSes x) = State.ringSize s ∧ State.ringAddr (s.setSes x) = State.ringAddr s := by
  and_intros <;> rfl

@[simp] theorem State.setStarted_fields (s : State) (x : List Started) :
    (s.setStarted x).part = s.part ∧ (s.setStarted x).regs = s.regs ∧ (s.setStarted x).force = s.force ∧ (s.setStarted x).pages = s.pages ∧
    (s.setStarted x).latch = s.latch ∧ (s.setStarted x).tbData = s.tbData ∧ (s.setStarted x).mem = s.mem ∧ (s.setStarted x).queues = s.queues ∧
    (s.setStarted x).started = x ∧ (s.setStarted x).held = s.held ∧ (s.setStarted x).evq = s.evq ∧ (s.setStarted x).se = s.se ∧
    (s.setStarted x).slots = s.slots ∧ (s.setStarted x).parks = s.parks ∧ (s.setStarted x).holds = s.holds ∧ (s.setStarted x).infs = s.infs ∧
    (s.setStarted x).wxs = s.wxs ∧ (s.setStarted x).wx = s.wx ∧ (s.setStarted x).hearths = s.hearths ∧ (s.setStarted x).pts = s.pts ∧
    (s.setStarted x).images = s.images ∧ (s.setStarted x).lift = s.lift ∧ (s.setStarted x).fab = s.fab ∧ (s.setStarted x).sems = s.sems ∧
    (s.setStarted x).fbx = s.fbx ∧ (s.setStarted x).mc = s.mc ∧ (s.setStarted x).up = s.up ∧ (s.setStarted x).epochs = s.epochs ∧
    (s.setStarted x).resets = s.resets ∧ (s.setStarted x).meter = s.meter ∧ (s.setStarted x).host = s.host ∧ (s.setStarted x).holdSeq = s.holdSeq ∧
    (s.setStarted x).nowUs = s.nowUs ∧ (s.setStarted x).freeCtr = s.freeCtr ∧ (s.setStarted x).reply = s.reply ∧ (s.setStarted x).out = s.out ∧
    (s.setStarted x).pending = s.pending ∧ State.rd (s.setStarted x) = State.rd s ∧ State.frc (s.setStarted x) = State.frc s ∧ State.rd64 (s.setStarted x) = State.rd64 s ∧
    State.frc64 (s.setStarted x) = State.frc64 s ∧ State.hdr (s.setStarted x) = State.hdr s ∧ State.latchOf (s.setStarted x) = State.latchOf s ∧ State.page (s.setStarted x) = State.page s ∧
    State.lineMeta (s.setStarted x) = State.lineMeta s ∧ State.region (s.setStarted x) = State.region s ∧ State.keygenAt (s.setStarted x) = State.keygenAt s ∧ State.byteAt (s.setStarted x) = State.byteAt s ∧
    State.seOf (s.setStarted x) = State.seOf s ∧ State.slot (s.setStarted x) = State.slot s ∧ State.hold (s.setStarted x) = State.hold s ∧ State.inf (s.setStarted x) = State.inf s ∧
    State.wxOf (s.setStarted x) = State.wxOf s ∧ State.hearth (s.setStarted x) = State.hearth s ∧ State.pt (s.setStarted x) = State.pt s ∧ State.queue (s.setStarted x) = State.queue s ∧
    State.sem (s.setStarted x) = State.sem s ∧ State.link (s.setStarted x) = State.link s ∧ State.heldOf (s.setStarted x) = State.heldOf s ∧ State.enabled (s.setStarted x) = State.enabled s ∧
    State.ringRoom (s.setStarted x) = State.ringRoom s ∧ State.ringCount (s.setStarted x) = State.ringCount s ∧ State.ringSize (s.setStarted x) = State.ringSize s ∧ State.ringAddr (s.setStarted x) = State.ringAddr s := by
  and_intros <;> rfl

@[simp] theorem State.setEvq_fields (s : State) (x : EvQ) :
    (s.setEvq x).part = s.part ∧ (s.setEvq x).regs = s.regs ∧ (s.setEvq x).force = s.force ∧ (s.setEvq x).pages = s.pages ∧
    (s.setEvq x).latch = s.latch ∧ (s.setEvq x).tbData = s.tbData ∧ (s.setEvq x).mem = s.mem ∧ (s.setEvq x).queues = s.queues ∧
    (s.setEvq x).started = s.started ∧ (s.setEvq x).held = s.held ∧ (s.setEvq x).evq = x ∧ (s.setEvq x).se = s.se ∧
    (s.setEvq x).slots = s.slots ∧ (s.setEvq x).parks = s.parks ∧ (s.setEvq x).holds = s.holds ∧ (s.setEvq x).infs = s.infs ∧
    (s.setEvq x).wxs = s.wxs ∧ (s.setEvq x).wx = s.wx ∧ (s.setEvq x).hearths = s.hearths ∧ (s.setEvq x).pts = s.pts ∧
    (s.setEvq x).images = s.images ∧ (s.setEvq x).lift = s.lift ∧ (s.setEvq x).fab = s.fab ∧ (s.setEvq x).sems = s.sems ∧
    (s.setEvq x).fbx = s.fbx ∧ (s.setEvq x).mc = s.mc ∧ (s.setEvq x).up = s.up ∧ (s.setEvq x).epochs = s.epochs ∧
    (s.setEvq x).resets = s.resets ∧ (s.setEvq x).meter = s.meter ∧ (s.setEvq x).host = s.host ∧ (s.setEvq x).holdSeq = s.holdSeq ∧
    (s.setEvq x).nowUs = s.nowUs ∧ (s.setEvq x).freeCtr = s.freeCtr ∧ (s.setEvq x).reply = s.reply ∧ (s.setEvq x).out = s.out ∧
    (s.setEvq x).pending = s.pending ∧ State.rd (s.setEvq x) = State.rd s ∧ State.frc (s.setEvq x) = State.frc s ∧ State.rd64 (s.setEvq x) = State.rd64 s ∧
    State.frc64 (s.setEvq x) = State.frc64 s ∧ State.hdr (s.setEvq x) = State.hdr s ∧ State.latchOf (s.setEvq x) = State.latchOf s ∧ State.page (s.setEvq x) = State.page s ∧
    State.lineMeta (s.setEvq x) = State.lineMeta s ∧ State.region (s.setEvq x) = State.region s ∧ State.keygenAt (s.setEvq x) = State.keygenAt s ∧ State.byteAt (s.setEvq x) = State.byteAt s ∧
    State.seOf (s.setEvq x) = State.seOf s ∧ State.slot (s.setEvq x) = State.slot s ∧ State.hold (s.setEvq x) = State.hold s ∧ State.inf (s.setEvq x) = State.inf s ∧
    State.wxOf (s.setEvq x) = State.wxOf s ∧ State.hearth (s.setEvq x) = State.hearth s ∧ State.pt (s.setEvq x) = State.pt s ∧ State.queue (s.setEvq x) = State.queue s ∧
    State.sem (s.setEvq x) = State.sem s ∧ State.link (s.setEvq x) = State.link s ∧ State.heldOf (s.setEvq x) = State.heldOf s ∧ State.findCmd (s.setEvq x) = State.findCmd s ∧
    State.enabled (s.setEvq x) = State.enabled s ∧ State.ringRoom (s.setEvq x) = State.ringRoom s ∧ State.ringCount (s.setEvq x) = State.ringCount s ∧ State.ringSize (s.setEvq x) = State.ringSize s ∧
    State.ringAddr (s.setEvq x) = State.ringAddr s := by
  and_intros <;> rfl

@[simp] theorem State.setWxs_fields (s : State) (x : AMap WaxingSlot) :
    (s.setWxs x).part = s.part ∧ (s.setWxs x).regs = s.regs ∧ (s.setWxs x).force = s.force ∧ (s.setWxs x).pages = s.pages ∧
    (s.setWxs x).latch = s.latch ∧ (s.setWxs x).tbData = s.tbData ∧ (s.setWxs x).mem = s.mem ∧ (s.setWxs x).queues = s.queues ∧
    (s.setWxs x).started = s.started ∧ (s.setWxs x).held = s.held ∧ (s.setWxs x).evq = s.evq ∧ (s.setWxs x).se = s.se ∧
    (s.setWxs x).slots = s.slots ∧ (s.setWxs x).parks = s.parks ∧ (s.setWxs x).holds = s.holds ∧ (s.setWxs x).infs = s.infs ∧
    (s.setWxs x).wxs = x ∧ (s.setWxs x).wx = s.wx ∧ (s.setWxs x).hearths = s.hearths ∧ (s.setWxs x).pts = s.pts ∧
    (s.setWxs x).images = s.images ∧ (s.setWxs x).lift = s.lift ∧ (s.setWxs x).fab = s.fab ∧ (s.setWxs x).sems = s.sems ∧
    (s.setWxs x).fbx = s.fbx ∧ (s.setWxs x).mc = s.mc ∧ (s.setWxs x).up = s.up ∧ (s.setWxs x).epochs = s.epochs ∧
    (s.setWxs x).resets = s.resets ∧ (s.setWxs x).meter = s.meter ∧ (s.setWxs x).host = s.host ∧ (s.setWxs x).holdSeq = s.holdSeq ∧
    (s.setWxs x).nowUs = s.nowUs ∧ (s.setWxs x).freeCtr = s.freeCtr ∧ (s.setWxs x).reply = s.reply ∧ (s.setWxs x).out = s.out ∧
    (s.setWxs x).pending = s.pending ∧ State.rd (s.setWxs x) = State.rd s ∧ State.frc (s.setWxs x) = State.frc s ∧ State.rd64 (s.setWxs x) = State.rd64 s ∧
    State.frc64 (s.setWxs x) = State.frc64 s ∧ State.hdr (s.setWxs x) = State.hdr s ∧ State.latchOf (s.setWxs x) = State.latchOf s ∧ State.page (s.setWxs x) = State.page s ∧
    State.lineMeta (s.setWxs x) = State.lineMeta s ∧ State.region (s.setWxs x) = State.region s ∧ State.keygenAt (s.setWxs x) = State.keygenAt s ∧ State.byteAt (s.setWxs x) = State.byteAt s ∧
    State.seOf (s.setWxs x) = State.seOf s ∧ State.slot (s.setWxs x) = State.slot s ∧ State.hold (s.setWxs x) = State.hold s ∧ State.inf (s.setWxs x) = State.inf s ∧
    State.hearth (s.setWxs x) = State.hearth s ∧ State.pt (s.setWxs x) = State.pt s ∧ State.queue (s.setWxs x) = State.queue s ∧ State.sem (s.setWxs x) = State.sem s ∧
    State.link (s.setWxs x) = State.link s ∧ State.heldOf (s.setWxs x) = State.heldOf s ∧ State.findCmd (s.setWxs x) = State.findCmd s ∧ State.enabled (s.setWxs x) = State.enabled s ∧
    State.ringRoom (s.setWxs x) = State.ringRoom s ∧ State.ringCount (s.setWxs x) = State.ringCount s ∧ State.ringSize (s.setWxs x) = State.ringSize s ∧ State.ringAddr (s.setWxs x) = State.ringAddr s := by
  and_intros <;> rfl

@[simp] theorem State.setUp_fields (s : State) (x : List Nat) :
    (s.setUp x).part = s.part ∧ (s.setUp x).regs = s.regs ∧ (s.setUp x).force = s.force ∧ (s.setUp x).pages = s.pages ∧
    (s.setUp x).latch = s.latch ∧ (s.setUp x).tbData = s.tbData ∧ (s.setUp x).mem = s.mem ∧ (s.setUp x).queues = s.queues ∧
    (s.setUp x).started = s.started ∧ (s.setUp x).held = s.held ∧ (s.setUp x).evq = s.evq ∧ (s.setUp x).se = s.se ∧
    (s.setUp x).slots = s.slots ∧ (s.setUp x).parks = s.parks ∧ (s.setUp x).holds = s.holds ∧ (s.setUp x).infs = s.infs ∧
    (s.setUp x).wxs = s.wxs ∧ (s.setUp x).wx = s.wx ∧ (s.setUp x).hearths = s.hearths ∧ (s.setUp x).pts = s.pts ∧
    (s.setUp x).images = s.images ∧ (s.setUp x).lift = s.lift ∧ (s.setUp x).fab = s.fab ∧ (s.setUp x).sems = s.sems ∧
    (s.setUp x).fbx = s.fbx ∧ (s.setUp x).mc = s.mc ∧ (s.setUp x).up = x ∧ (s.setUp x).epochs = s.epochs ∧
    (s.setUp x).resets = s.resets ∧ (s.setUp x).meter = s.meter ∧ (s.setUp x).host = s.host ∧ (s.setUp x).holdSeq = s.holdSeq ∧
    (s.setUp x).nowUs = s.nowUs ∧ (s.setUp x).freeCtr = s.freeCtr ∧ (s.setUp x).reply = s.reply ∧ (s.setUp x).out = s.out ∧
    (s.setUp x).pending = s.pending ∧ State.rd (s.setUp x) = State.rd s ∧ State.frc (s.setUp x) = State.frc s ∧ State.rd64 (s.setUp x) = State.rd64 s ∧
    State.frc64 (s.setUp x) = State.frc64 s ∧ State.hdr (s.setUp x) = State.hdr s ∧ State.latchOf (s.setUp x) = State.latchOf s ∧ State.page (s.setUp x) = State.page s ∧
    State.lineMeta (s.setUp x) = State.lineMeta s ∧ State.region (s.setUp x) = State.region s ∧ State.keygenAt (s.setUp x) = State.keygenAt s ∧ State.byteAt (s.setUp x) = State.byteAt s ∧
    State.seOf (s.setUp x) = State.seOf s ∧ State.slot (s.setUp x) = State.slot s ∧ State.hold (s.setUp x) = State.hold s ∧ State.inf (s.setUp x) = State.inf s ∧
    State.wxOf (s.setUp x) = State.wxOf s ∧ State.hearth (s.setUp x) = State.hearth s ∧ State.pt (s.setUp x) = State.pt s ∧ State.queue (s.setUp x) = State.queue s ∧
    State.sem (s.setUp x) = State.sem s ∧ State.link (s.setUp x) = State.link s ∧ State.heldOf (s.setUp x) = State.heldOf s ∧ State.findCmd (s.setUp x) = State.findCmd s ∧
    State.enabled (s.setUp x) = State.enabled s ∧ State.ringRoom (s.setUp x) = State.ringRoom s ∧ State.ringCount (s.setUp x) = State.ringCount s ∧ State.ringSize (s.setUp x) = State.ringSize s ∧
    State.ringAddr (s.setUp x) = State.ringAddr s := by
  and_intros <;> rfl

@[simp] theorem State.setOut_fields (s : State) (x : List Output) :
    (s.setOut x).part = s.part ∧ (s.setOut x).regs = s.regs ∧ (s.setOut x).force = s.force ∧ (s.setOut x).pages = s.pages ∧
    (s.setOut x).latch = s.latch ∧ (s.setOut x).tbData = s.tbData ∧ (s.setOut x).mem = s.mem ∧ (s.setOut x).queues = s.queues ∧
    (s.setOut x).started = s.started ∧ (s.setOut x).held = s.held ∧ (s.setOut x).evq = s.evq ∧ (s.setOut x).se = s.se ∧
    (s.setOut x).slots = s.slots ∧ (s.setOut x).parks = s.parks ∧ (s.setOut x).holds = s.holds ∧ (s.setOut x).infs = s.infs ∧
    (s.setOut x).wxs = s.wxs ∧ (s.setOut x).wx = s.wx ∧ (s.setOut x).hearths = s.hearths ∧ (s.setOut x).pts = s.pts ∧
    (s.setOut x).images = s.images ∧ (s.setOut x).lift = s.lift ∧ (s.setOut x).fab = s.fab ∧ (s.setOut x).sems = s.sems ∧
    (s.setOut x).fbx = s.fbx ∧ (s.setOut x).mc = s.mc ∧ (s.setOut x).up = s.up ∧ (s.setOut x).epochs = s.epochs ∧
    (s.setOut x).resets = s.resets ∧ (s.setOut x).meter = s.meter ∧ (s.setOut x).host = s.host ∧ (s.setOut x).holdSeq = s.holdSeq ∧
    (s.setOut x).nowUs = s.nowUs ∧ (s.setOut x).freeCtr = s.freeCtr ∧ (s.setOut x).reply = s.reply ∧ (s.setOut x).out = x ∧
    (s.setOut x).pending = s.pending ∧ State.rd (s.setOut x) = State.rd s ∧ State.frc (s.setOut x) = State.frc s ∧ State.rd64 (s.setOut x) = State.rd64 s ∧
    State.frc64 (s.setOut x) = State.frc64 s ∧ State.hdr (s.setOut x) = State.hdr s ∧ State.latchOf (s.setOut x) = State.latchOf s ∧ State.page (s.setOut x) = State.page s ∧
    State.lineMeta (s.setOut x) = State.lineMeta s ∧ State.region (s.setOut x) = State.region s ∧ State.keygenAt (s.setOut x) = State.keygenAt s ∧ State.byteAt (s.setOut x) = State.byteAt s ∧
    State.seOf (s.setOut x) = State.seOf s ∧ State.slot (s.setOut x) = State.slot s ∧ State.hold (s.setOut x) = State.hold s ∧ State.inf (s.setOut x) = State.inf s ∧
    State.wxOf (s.setOut x) = State.wxOf s ∧ State.hearth (s.setOut x) = State.hearth s ∧ State.pt (s.setOut x) = State.pt s ∧ State.queue (s.setOut x) = State.queue s ∧
    State.sem (s.setOut x) = State.sem s ∧ State.link (s.setOut x) = State.link s ∧ State.heldOf (s.setOut x) = State.heldOf s ∧ State.findCmd (s.setOut x) = State.findCmd s ∧
    State.enabled (s.setOut x) = State.enabled s ∧ State.ringRoom (s.setOut x) = State.ringRoom s ∧ State.ringCount (s.setOut x) = State.ringCount s ∧ State.ringSize (s.setOut x) = State.ringSize s ∧
    State.ringAddr (s.setOut x) = State.ringAddr s := by
  and_intros <;> rfl

@[simp] theorem State.setResets_fields (s : State) (x : List Rst) :
    (s.setResets x).part = s.part ∧ (s.setResets x).regs = s.regs ∧ (s.setResets x).force = s.force ∧ (s.setResets x).pages = s.pages ∧
    (s.setResets x).latch = s.latch ∧ (s.setResets x).tbData = s.tbData ∧ (s.setResets x).mem = s.mem ∧ (s.setResets x).queues = s.queues ∧
    (s.setResets x).started = s.started ∧ (s.setResets x).held = s.held ∧ (s.setResets x).evq = s.evq ∧ (s.setResets x).se = s.se ∧
    (s.setResets x).slots = s.slots ∧ (s.setResets x).parks = s.parks ∧ (s.setResets x).holds = s.holds ∧ (s.setResets x).infs = s.infs ∧
    (s.setResets x).wxs = s.wxs ∧ (s.setResets x).wx = s.wx ∧ (s.setResets x).hearths = s.hearths ∧ (s.setResets x).pts = s.pts ∧
    (s.setResets x).images = s.images ∧ (s.setResets x).lift = s.lift ∧ (s.setResets x).fab = s.fab ∧ (s.setResets x).sems = s.sems ∧
    (s.setResets x).fbx = s.fbx ∧ (s.setResets x).mc = s.mc ∧ (s.setResets x).up = s.up ∧ (s.setResets x).epochs = s.epochs ∧
    (s.setResets x).resets = x ∧ (s.setResets x).meter = s.meter ∧ (s.setResets x).host = s.host ∧ (s.setResets x).holdSeq = s.holdSeq ∧
    (s.setResets x).nowUs = s.nowUs ∧ (s.setResets x).freeCtr = s.freeCtr ∧ (s.setResets x).reply = s.reply ∧ (s.setResets x).out = s.out ∧
    (s.setResets x).pending = s.pending ∧ State.rd (s.setResets x) = State.rd s ∧ State.frc (s.setResets x) = State.frc s ∧ State.rd64 (s.setResets x) = State.rd64 s ∧
    State.frc64 (s.setResets x) = State.frc64 s ∧ State.hdr (s.setResets x) = State.hdr s ∧ State.latchOf (s.setResets x) = State.latchOf s ∧ State.page (s.setResets x) = State.page s ∧
    State.lineMeta (s.setResets x) = State.lineMeta s ∧ State.region (s.setResets x) = State.region s ∧ State.keygenAt (s.setResets x) = State.keygenAt s ∧ State.byteAt (s.setResets x) = State.byteAt s ∧
    State.seOf (s.setResets x) = State.seOf s ∧ State.slot (s.setResets x) = State.slot s ∧ State.hold (s.setResets x) = State.hold s ∧ State.inf (s.setResets x) = State.inf s ∧
    State.wxOf (s.setResets x) = State.wxOf s ∧ State.hearth (s.setResets x) = State.hearth s ∧ State.pt (s.setResets x) = State.pt s ∧ State.queue (s.setResets x) = State.queue s ∧
    State.sem (s.setResets x) = State.sem s ∧ State.link (s.setResets x) = State.link s ∧ State.heldOf (s.setResets x) = State.heldOf s ∧ State.findCmd (s.setResets x) = State.findCmd s ∧
    State.enabled (s.setResets x) = State.enabled s ∧ State.ringRoom (s.setResets x) = State.ringRoom s ∧ State.ringCount (s.setResets x) = State.ringCount s ∧ State.ringSize (s.setResets x) = State.ringSize s ∧
    State.ringAddr (s.setResets x) = State.ringAddr s := by
  and_intros <;> rfl

@[simp] theorem State.setEpochs_fields (s : State) (x : AMap Word) :
    (s.setEpochs x).part = s.part ∧ (s.setEpochs x).regs = s.regs ∧ (s.setEpochs x).force = s.force ∧ (s.setEpochs x).pages = s.pages ∧
    (s.setEpochs x).latch = s.latch ∧ (s.setEpochs x).tbData = s.tbData ∧ (s.setEpochs x).mem = s.mem ∧ (s.setEpochs x).queues = s.queues ∧
    (s.setEpochs x).started = s.started ∧ (s.setEpochs x).held = s.held ∧ (s.setEpochs x).evq = s.evq ∧ (s.setEpochs x).se = s.se ∧
    (s.setEpochs x).slots = s.slots ∧ (s.setEpochs x).parks = s.parks ∧ (s.setEpochs x).holds = s.holds ∧ (s.setEpochs x).infs = s.infs ∧
    (s.setEpochs x).wxs = s.wxs ∧ (s.setEpochs x).wx = s.wx ∧ (s.setEpochs x).hearths = s.hearths ∧ (s.setEpochs x).pts = s.pts ∧
    (s.setEpochs x).images = s.images ∧ (s.setEpochs x).lift = s.lift ∧ (s.setEpochs x).fab = s.fab ∧ (s.setEpochs x).sems = s.sems ∧
    (s.setEpochs x).fbx = s.fbx ∧ (s.setEpochs x).mc = s.mc ∧ (s.setEpochs x).up = s.up ∧ (s.setEpochs x).epochs = x ∧
    (s.setEpochs x).resets = s.resets ∧ (s.setEpochs x).meter = s.meter ∧ (s.setEpochs x).host = s.host ∧ (s.setEpochs x).holdSeq = s.holdSeq ∧
    (s.setEpochs x).nowUs = s.nowUs ∧ (s.setEpochs x).freeCtr = s.freeCtr ∧ (s.setEpochs x).reply = s.reply ∧ (s.setEpochs x).out = s.out ∧
    (s.setEpochs x).pending = s.pending ∧ State.rd (s.setEpochs x) = State.rd s ∧ State.frc (s.setEpochs x) = State.frc s ∧ State.rd64 (s.setEpochs x) = State.rd64 s ∧
    State.frc64 (s.setEpochs x) = State.frc64 s ∧ State.hdr (s.setEpochs x) = State.hdr s ∧ State.latchOf (s.setEpochs x) = State.latchOf s ∧ State.page (s.setEpochs x) = State.page s ∧
    State.lineMeta (s.setEpochs x) = State.lineMeta s ∧ State.region (s.setEpochs x) = State.region s ∧ State.keygenAt (s.setEpochs x) = State.keygenAt s ∧ State.byteAt (s.setEpochs x) = State.byteAt s ∧
    State.seOf (s.setEpochs x) = State.seOf s ∧ State.slot (s.setEpochs x) = State.slot s ∧ State.hold (s.setEpochs x) = State.hold s ∧ State.inf (s.setEpochs x) = State.inf s ∧
    State.wxOf (s.setEpochs x) = State.wxOf s ∧ State.hearth (s.setEpochs x) = State.hearth s ∧ State.pt (s.setEpochs x) = State.pt s ∧ State.queue (s.setEpochs x) = State.queue s ∧
    State.sem (s.setEpochs x) = State.sem s ∧ State.link (s.setEpochs x) = State.link s ∧ State.heldOf (s.setEpochs x) = State.heldOf s ∧ State.findCmd (s.setEpochs x) = State.findCmd s ∧
    State.enabled (s.setEpochs x) = State.enabled s ∧ State.ringRoom (s.setEpochs x) = State.ringRoom s ∧ State.ringCount (s.setEpochs x) = State.ringCount s ∧ State.ringSize (s.setEpochs x) = State.ringSize s ∧
    State.ringAddr (s.setEpochs x) = State.ringAddr s := by
  and_intros <;> rfl

@[simp] theorem State.setHolds_fields (s : State) (x : AMap Hold) :
    (s.setHolds x).part = s.part ∧ (s.setHolds x).regs = s.regs ∧ (s.setHolds x).force = s.force ∧ (s.setHolds x).pages = s.pages ∧
    (s.setHolds x).latch = s.latch ∧ (s.setHolds x).tbData = s.tbData ∧ (s.setHolds x).mem = s.mem ∧ (s.setHolds x).queues = s.queues ∧
    (s.setHolds x).started = s.started ∧ (s.setHolds x).held = s.held ∧ (s.setHolds x).evq = s.evq ∧ (s.setHolds x).se = s.se ∧
    (s.setHolds x).slots = s.slots ∧ (s.setHolds x).parks = s.parks ∧ (s.setHolds x).holds = x ∧ (s.setHolds x).infs = s.infs ∧
    (s.setHolds x).wxs = s.wxs ∧ (s.setHolds x).wx = s.wx ∧ (s.setHolds x).hearths = s.hearths ∧ (s.setHolds x).pts = s.pts ∧
    (s.setHolds x).images = s.images ∧ (s.setHolds x).lift = s.lift ∧ (s.setHolds x).fab = s.fab ∧ (s.setHolds x).sems = s.sems ∧
    (s.setHolds x).fbx = s.fbx ∧ (s.setHolds x).mc = s.mc ∧ (s.setHolds x).up = s.up ∧ (s.setHolds x).epochs = s.epochs ∧
    (s.setHolds x).resets = s.resets ∧ (s.setHolds x).meter = s.meter ∧ (s.setHolds x).host = s.host ∧ (s.setHolds x).holdSeq = s.holdSeq ∧
    (s.setHolds x).nowUs = s.nowUs ∧ (s.setHolds x).freeCtr = s.freeCtr ∧ (s.setHolds x).reply = s.reply ∧ (s.setHolds x).out = s.out ∧
    (s.setHolds x).pending = s.pending ∧ State.rd (s.setHolds x) = State.rd s ∧ State.frc (s.setHolds x) = State.frc s ∧ State.rd64 (s.setHolds x) = State.rd64 s ∧
    State.frc64 (s.setHolds x) = State.frc64 s ∧ State.hdr (s.setHolds x) = State.hdr s ∧ State.latchOf (s.setHolds x) = State.latchOf s ∧ State.page (s.setHolds x) = State.page s ∧
    State.lineMeta (s.setHolds x) = State.lineMeta s ∧ State.region (s.setHolds x) = State.region s ∧ State.keygenAt (s.setHolds x) = State.keygenAt s ∧ State.byteAt (s.setHolds x) = State.byteAt s ∧
    State.seOf (s.setHolds x) = State.seOf s ∧ State.slot (s.setHolds x) = State.slot s ∧ State.inf (s.setHolds x) = State.inf s ∧ State.wxOf (s.setHolds x) = State.wxOf s ∧
    State.hearth (s.setHolds x) = State.hearth s ∧ State.pt (s.setHolds x) = State.pt s ∧ State.queue (s.setHolds x) = State.queue s ∧ State.sem (s.setHolds x) = State.sem s ∧
    State.link (s.setHolds x) = State.link s ∧ State.heldOf (s.setHolds x) = State.heldOf s ∧ State.findCmd (s.setHolds x) = State.findCmd s ∧ State.enabled (s.setHolds x) = State.enabled s ∧
    State.ringRoom (s.setHolds x) = State.ringRoom s ∧ State.ringCount (s.setHolds x) = State.ringCount s ∧ State.ringSize (s.setHolds x) = State.ringSize s ∧ State.ringAddr (s.setHolds x) = State.ringAddr s := by
  and_intros <;> rfl

@[simp] theorem State.setSlots_fields (s : State) (x : AMap Slot) :
    (s.setSlots x).part = s.part ∧ (s.setSlots x).regs = s.regs ∧ (s.setSlots x).force = s.force ∧ (s.setSlots x).pages = s.pages ∧
    (s.setSlots x).latch = s.latch ∧ (s.setSlots x).tbData = s.tbData ∧ (s.setSlots x).mem = s.mem ∧ (s.setSlots x).queues = s.queues ∧
    (s.setSlots x).started = s.started ∧ (s.setSlots x).held = s.held ∧ (s.setSlots x).evq = s.evq ∧ (s.setSlots x).se = s.se ∧
    (s.setSlots x).slots = x ∧ (s.setSlots x).parks = s.parks ∧ (s.setSlots x).holds = s.holds ∧ (s.setSlots x).infs = s.infs ∧
    (s.setSlots x).wxs = s.wxs ∧ (s.setSlots x).wx = s.wx ∧ (s.setSlots x).hearths = s.hearths ∧ (s.setSlots x).pts = s.pts ∧
    (s.setSlots x).images = s.images ∧ (s.setSlots x).lift = s.lift ∧ (s.setSlots x).fab = s.fab ∧ (s.setSlots x).sems = s.sems ∧
    (s.setSlots x).fbx = s.fbx ∧ (s.setSlots x).mc = s.mc ∧ (s.setSlots x).up = s.up ∧ (s.setSlots x).epochs = s.epochs ∧
    (s.setSlots x).resets = s.resets ∧ (s.setSlots x).meter = s.meter ∧ (s.setSlots x).host = s.host ∧ (s.setSlots x).holdSeq = s.holdSeq ∧
    (s.setSlots x).nowUs = s.nowUs ∧ (s.setSlots x).freeCtr = s.freeCtr ∧ (s.setSlots x).reply = s.reply ∧ (s.setSlots x).out = s.out ∧
    (s.setSlots x).pending = s.pending ∧ State.rd (s.setSlots x) = State.rd s ∧ State.frc (s.setSlots x) = State.frc s ∧ State.rd64 (s.setSlots x) = State.rd64 s ∧
    State.frc64 (s.setSlots x) = State.frc64 s ∧ State.hdr (s.setSlots x) = State.hdr s ∧ State.latchOf (s.setSlots x) = State.latchOf s ∧ State.page (s.setSlots x) = State.page s ∧
    State.lineMeta (s.setSlots x) = State.lineMeta s ∧ State.region (s.setSlots x) = State.region s ∧ State.keygenAt (s.setSlots x) = State.keygenAt s ∧ State.byteAt (s.setSlots x) = State.byteAt s ∧
    State.seOf (s.setSlots x) = State.seOf s ∧ State.hold (s.setSlots x) = State.hold s ∧ State.inf (s.setSlots x) = State.inf s ∧ State.wxOf (s.setSlots x) = State.wxOf s ∧
    State.hearth (s.setSlots x) = State.hearth s ∧ State.pt (s.setSlots x) = State.pt s ∧ State.queue (s.setSlots x) = State.queue s ∧ State.sem (s.setSlots x) = State.sem s ∧
    State.link (s.setSlots x) = State.link s ∧ State.heldOf (s.setSlots x) = State.heldOf s ∧ State.findCmd (s.setSlots x) = State.findCmd s ∧ State.enabled (s.setSlots x) = State.enabled s ∧
    State.ringRoom (s.setSlots x) = State.ringRoom s ∧ State.ringCount (s.setSlots x) = State.ringCount s ∧ State.ringSize (s.setSlots x) = State.ringSize s ∧ State.ringAddr (s.setSlots x) = State.ringAddr s := by
  and_intros <;> rfl

@[simp] theorem State.setInfs_fields (s : State) (x : AMap InfSlot) :
    (s.setInfs x).part = s.part ∧ (s.setInfs x).regs = s.regs ∧ (s.setInfs x).force = s.force ∧ (s.setInfs x).pages = s.pages ∧
    (s.setInfs x).latch = s.latch ∧ (s.setInfs x).tbData = s.tbData ∧ (s.setInfs x).mem = s.mem ∧ (s.setInfs x).queues = s.queues ∧
    (s.setInfs x).started = s.started ∧ (s.setInfs x).held = s.held ∧ (s.setInfs x).evq = s.evq ∧ (s.setInfs x).se = s.se ∧
    (s.setInfs x).slots = s.slots ∧ (s.setInfs x).parks = s.parks ∧ (s.setInfs x).holds = s.holds ∧ (s.setInfs x).infs = x ∧
    (s.setInfs x).wxs = s.wxs ∧ (s.setInfs x).wx = s.wx ∧ (s.setInfs x).hearths = s.hearths ∧ (s.setInfs x).pts = s.pts ∧
    (s.setInfs x).images = s.images ∧ (s.setInfs x).lift = s.lift ∧ (s.setInfs x).fab = s.fab ∧ (s.setInfs x).sems = s.sems ∧
    (s.setInfs x).fbx = s.fbx ∧ (s.setInfs x).mc = s.mc ∧ (s.setInfs x).up = s.up ∧ (s.setInfs x).epochs = s.epochs ∧
    (s.setInfs x).resets = s.resets ∧ (s.setInfs x).meter = s.meter ∧ (s.setInfs x).host = s.host ∧ (s.setInfs x).holdSeq = s.holdSeq ∧
    (s.setInfs x).nowUs = s.nowUs ∧ (s.setInfs x).freeCtr = s.freeCtr ∧ (s.setInfs x).reply = s.reply ∧ (s.setInfs x).out = s.out ∧
    (s.setInfs x).pending = s.pending ∧ State.rd (s.setInfs x) = State.rd s ∧ State.frc (s.setInfs x) = State.frc s ∧ State.rd64 (s.setInfs x) = State.rd64 s ∧
    State.frc64 (s.setInfs x) = State.frc64 s ∧ State.hdr (s.setInfs x) = State.hdr s ∧ State.latchOf (s.setInfs x) = State.latchOf s ∧ State.page (s.setInfs x) = State.page s ∧
    State.lineMeta (s.setInfs x) = State.lineMeta s ∧ State.region (s.setInfs x) = State.region s ∧ State.keygenAt (s.setInfs x) = State.keygenAt s ∧ State.byteAt (s.setInfs x) = State.byteAt s ∧
    State.seOf (s.setInfs x) = State.seOf s ∧ State.slot (s.setInfs x) = State.slot s ∧ State.hold (s.setInfs x) = State.hold s ∧ State.wxOf (s.setInfs x) = State.wxOf s ∧
    State.hearth (s.setInfs x) = State.hearth s ∧ State.pt (s.setInfs x) = State.pt s ∧ State.queue (s.setInfs x) = State.queue s ∧ State.sem (s.setInfs x) = State.sem s ∧
    State.link (s.setInfs x) = State.link s ∧ State.heldOf (s.setInfs x) = State.heldOf s ∧ State.findCmd (s.setInfs x) = State.findCmd s ∧ State.enabled (s.setInfs x) = State.enabled s ∧
    State.ringRoom (s.setInfs x) = State.ringRoom s ∧ State.ringCount (s.setInfs x) = State.ringCount s ∧ State.ringSize (s.setInfs x) = State.ringSize s ∧ State.ringAddr (s.setInfs x) = State.ringAddr s := by
  and_intros <;> rfl

@[simp] theorem State.setQueues_fields (s : State) (x : AMap Queue) :
    (s.setQueues x).part = s.part ∧ (s.setQueues x).regs = s.regs ∧ (s.setQueues x).force = s.force ∧ (s.setQueues x).pages = s.pages ∧
    (s.setQueues x).latch = s.latch ∧ (s.setQueues x).tbData = s.tbData ∧ (s.setQueues x).mem = s.mem ∧ (s.setQueues x).queues = x ∧
    (s.setQueues x).started = s.started ∧ (s.setQueues x).held = s.held ∧ (s.setQueues x).evq = s.evq ∧ (s.setQueues x).se = s.se ∧
    (s.setQueues x).slots = s.slots ∧ (s.setQueues x).parks = s.parks ∧ (s.setQueues x).holds = s.holds ∧ (s.setQueues x).infs = s.infs ∧
    (s.setQueues x).wxs = s.wxs ∧ (s.setQueues x).wx = s.wx ∧ (s.setQueues x).hearths = s.hearths ∧ (s.setQueues x).pts = s.pts ∧
    (s.setQueues x).images = s.images ∧ (s.setQueues x).lift = s.lift ∧ (s.setQueues x).fab = s.fab ∧ (s.setQueues x).sems = s.sems ∧
    (s.setQueues x).fbx = s.fbx ∧ (s.setQueues x).mc = s.mc ∧ (s.setQueues x).up = s.up ∧ (s.setQueues x).epochs = s.epochs ∧
    (s.setQueues x).resets = s.resets ∧ (s.setQueues x).meter = s.meter ∧ (s.setQueues x).host = s.host ∧ (s.setQueues x).holdSeq = s.holdSeq ∧
    (s.setQueues x).nowUs = s.nowUs ∧ (s.setQueues x).freeCtr = s.freeCtr ∧ (s.setQueues x).reply = s.reply ∧ (s.setQueues x).out = s.out ∧
    (s.setQueues x).pending = s.pending ∧ State.rd (s.setQueues x) = State.rd s ∧ State.frc (s.setQueues x) = State.frc s ∧ State.rd64 (s.setQueues x) = State.rd64 s ∧
    State.frc64 (s.setQueues x) = State.frc64 s ∧ State.hdr (s.setQueues x) = State.hdr s ∧ State.latchOf (s.setQueues x) = State.latchOf s ∧ State.page (s.setQueues x) = State.page s ∧
    State.lineMeta (s.setQueues x) = State.lineMeta s ∧ State.region (s.setQueues x) = State.region s ∧ State.keygenAt (s.setQueues x) = State.keygenAt s ∧ State.byteAt (s.setQueues x) = State.byteAt s ∧
    State.seOf (s.setQueues x) = State.seOf s ∧ State.slot (s.setQueues x) = State.slot s ∧ State.hold (s.setQueues x) = State.hold s ∧ State.inf (s.setQueues x) = State.inf s ∧
    State.wxOf (s.setQueues x) = State.wxOf s ∧ State.hearth (s.setQueues x) = State.hearth s ∧ State.pt (s.setQueues x) = State.pt s ∧ State.sem (s.setQueues x) = State.sem s ∧
    State.link (s.setQueues x) = State.link s ∧ State.heldOf (s.setQueues x) = State.heldOf s ∧ State.findCmd (s.setQueues x) = State.findCmd s ∧ State.enabled (s.setQueues x) = State.enabled s ∧
    State.ringRoom (s.setQueues x) = State.ringRoom s ∧ State.ringCount (s.setQueues x) = State.ringCount s ∧ State.ringSize (s.setQueues x) = State.ringSize s ∧ State.ringAddr (s.setQueues x) = State.ringAddr s := by
  and_intros <;> rfl

@[simp] theorem State.setHearths_fields (s : State) (x : AMap Hearth) :
    (s.setHearths x).part = s.part ∧ (s.setHearths x).regs = s.regs ∧ (s.setHearths x).force = s.force ∧ (s.setHearths x).pages = s.pages ∧
    (s.setHearths x).latch = s.latch ∧ (s.setHearths x).tbData = s.tbData ∧ (s.setHearths x).mem = s.mem ∧ (s.setHearths x).queues = s.queues ∧
    (s.setHearths x).started = s.started ∧ (s.setHearths x).held = s.held ∧ (s.setHearths x).evq = s.evq ∧ (s.setHearths x).se = s.se ∧
    (s.setHearths x).slots = s.slots ∧ (s.setHearths x).parks = s.parks ∧ (s.setHearths x).holds = s.holds ∧ (s.setHearths x).infs = s.infs ∧
    (s.setHearths x).wxs = s.wxs ∧ (s.setHearths x).wx = s.wx ∧ (s.setHearths x).hearths = x ∧ (s.setHearths x).pts = s.pts ∧
    (s.setHearths x).images = s.images ∧ (s.setHearths x).lift = s.lift ∧ (s.setHearths x).fab = s.fab ∧ (s.setHearths x).sems = s.sems ∧
    (s.setHearths x).fbx = s.fbx ∧ (s.setHearths x).mc = s.mc ∧ (s.setHearths x).up = s.up ∧ (s.setHearths x).epochs = s.epochs ∧
    (s.setHearths x).resets = s.resets ∧ (s.setHearths x).meter = s.meter ∧ (s.setHearths x).host = s.host ∧ (s.setHearths x).holdSeq = s.holdSeq ∧
    (s.setHearths x).nowUs = s.nowUs ∧ (s.setHearths x).freeCtr = s.freeCtr ∧ (s.setHearths x).reply = s.reply ∧ (s.setHearths x).out = s.out ∧
    (s.setHearths x).pending = s.pending ∧ State.rd (s.setHearths x) = State.rd s ∧ State.frc (s.setHearths x) = State.frc s ∧ State.rd64 (s.setHearths x) = State.rd64 s ∧
    State.frc64 (s.setHearths x) = State.frc64 s ∧ State.hdr (s.setHearths x) = State.hdr s ∧ State.latchOf (s.setHearths x) = State.latchOf s ∧ State.page (s.setHearths x) = State.page s ∧
    State.lineMeta (s.setHearths x) = State.lineMeta s ∧ State.region (s.setHearths x) = State.region s ∧ State.keygenAt (s.setHearths x) = State.keygenAt s ∧ State.byteAt (s.setHearths x) = State.byteAt s ∧
    State.seOf (s.setHearths x) = State.seOf s ∧ State.slot (s.setHearths x) = State.slot s ∧ State.hold (s.setHearths x) = State.hold s ∧ State.inf (s.setHearths x) = State.inf s ∧
    State.wxOf (s.setHearths x) = State.wxOf s ∧ State.pt (s.setHearths x) = State.pt s ∧ State.queue (s.setHearths x) = State.queue s ∧ State.sem (s.setHearths x) = State.sem s ∧
    State.link (s.setHearths x) = State.link s ∧ State.heldOf (s.setHearths x) = State.heldOf s ∧ State.findCmd (s.setHearths x) = State.findCmd s ∧ State.enabled (s.setHearths x) = State.enabled s ∧
    State.ringRoom (s.setHearths x) = State.ringRoom s ∧ State.ringCount (s.setHearths x) = State.ringCount s ∧ State.ringSize (s.setHearths x) = State.ringSize s ∧ State.ringAddr (s.setHearths x) = State.ringAddr s := by
  and_intros <;> rfl

@[simp] theorem State.setNowUs_fields (s : State) (x : Nat) :
    (s.setNowUs x).part = s.part ∧ (s.setNowUs x).regs = s.regs ∧ (s.setNowUs x).force = s.force ∧ (s.setNowUs x).pages = s.pages ∧
    (s.setNowUs x).latch = s.latch ∧ (s.setNowUs x).tbData = s.tbData ∧ (s.setNowUs x).mem = s.mem ∧ (s.setNowUs x).queues = s.queues ∧
    (s.setNowUs x).started = s.started ∧ (s.setNowUs x).held = s.held ∧ (s.setNowUs x).evq = s.evq ∧ (s.setNowUs x).se = s.se ∧
    (s.setNowUs x).slots = s.slots ∧ (s.setNowUs x).parks = s.parks ∧ (s.setNowUs x).holds = s.holds ∧ (s.setNowUs x).infs = s.infs ∧
    (s.setNowUs x).wxs = s.wxs ∧ (s.setNowUs x).wx = s.wx ∧ (s.setNowUs x).hearths = s.hearths ∧ (s.setNowUs x).pts = s.pts ∧
    (s.setNowUs x).images = s.images ∧ (s.setNowUs x).lift = s.lift ∧ (s.setNowUs x).fab = s.fab ∧ (s.setNowUs x).sems = s.sems ∧
    (s.setNowUs x).fbx = s.fbx ∧ (s.setNowUs x).mc = s.mc ∧ (s.setNowUs x).up = s.up ∧ (s.setNowUs x).epochs = s.epochs ∧
    (s.setNowUs x).resets = s.resets ∧ (s.setNowUs x).meter = s.meter ∧ (s.setNowUs x).host = s.host ∧ (s.setNowUs x).holdSeq = s.holdSeq ∧
    (s.setNowUs x).nowUs = x ∧ (s.setNowUs x).freeCtr = s.freeCtr ∧ (s.setNowUs x).reply = s.reply ∧ (s.setNowUs x).out = s.out ∧
    (s.setNowUs x).pending = s.pending ∧ State.rd (s.setNowUs x) = State.rd s ∧ State.frc (s.setNowUs x) = State.frc s ∧ State.rd64 (s.setNowUs x) = State.rd64 s ∧
    State.frc64 (s.setNowUs x) = State.frc64 s ∧ State.hdr (s.setNowUs x) = State.hdr s ∧ State.latchOf (s.setNowUs x) = State.latchOf s ∧ State.page (s.setNowUs x) = State.page s ∧
    State.lineMeta (s.setNowUs x) = State.lineMeta s ∧ State.region (s.setNowUs x) = State.region s ∧ State.keygenAt (s.setNowUs x) = State.keygenAt s ∧ State.byteAt (s.setNowUs x) = State.byteAt s ∧
    State.seOf (s.setNowUs x) = State.seOf s ∧ State.slot (s.setNowUs x) = State.slot s ∧ State.hold (s.setNowUs x) = State.hold s ∧ State.inf (s.setNowUs x) = State.inf s ∧
    State.wxOf (s.setNowUs x) = State.wxOf s ∧ State.hearth (s.setNowUs x) = State.hearth s ∧ State.pt (s.setNowUs x) = State.pt s ∧ State.queue (s.setNowUs x) = State.queue s ∧
    State.sem (s.setNowUs x) = State.sem s ∧ State.link (s.setNowUs x) = State.link s ∧ State.heldOf (s.setNowUs x) = State.heldOf s ∧ State.findCmd (s.setNowUs x) = State.findCmd s ∧
    State.enabled (s.setNowUs x) = State.enabled s ∧ State.ringRoom (s.setNowUs x) = State.ringRoom s ∧ State.ringCount (s.setNowUs x) = State.ringCount s ∧ State.ringSize (s.setNowUs x) = State.ringSize s ∧
    State.ringAddr (s.setNowUs x) = State.ringAddr s := by
  and_intros <;> rfl

@[simp] theorem State.setImages_fields (s : State) (x : List Image) :
    (s.setImages x).part = s.part ∧ (s.setImages x).regs = s.regs ∧ (s.setImages x).force = s.force ∧ (s.setImages x).pages = s.pages ∧
    (s.setImages x).latch = s.latch ∧ (s.setImages x).tbData = s.tbData ∧ (s.setImages x).mem = s.mem ∧ (s.setImages x).queues = s.queues ∧
    (s.setImages x).started = s.started ∧ (s.setImages x).held = s.held ∧ (s.setImages x).evq = s.evq ∧ (s.setImages x).se = s.se ∧
    (s.setImages x).slots = s.slots ∧ (s.setImages x).parks = s.parks ∧ (s.setImages x).holds = s.holds ∧ (s.setImages x).infs = s.infs ∧
    (s.setImages x).wxs = s.wxs ∧ (s.setImages x).wx = s.wx ∧ (s.setImages x).hearths = s.hearths ∧ (s.setImages x).pts = s.pts ∧
    (s.setImages x).images = x ∧ (s.setImages x).lift = s.lift ∧ (s.setImages x).fab = s.fab ∧ (s.setImages x).sems = s.sems ∧
    (s.setImages x).fbx = s.fbx ∧ (s.setImages x).mc = s.mc ∧ (s.setImages x).up = s.up ∧ (s.setImages x).epochs = s.epochs ∧
    (s.setImages x).resets = s.resets ∧ (s.setImages x).meter = s.meter ∧ (s.setImages x).host = s.host ∧ (s.setImages x).holdSeq = s.holdSeq ∧
    (s.setImages x).nowUs = s.nowUs ∧ (s.setImages x).freeCtr = s.freeCtr ∧ (s.setImages x).reply = s.reply ∧ (s.setImages x).out = s.out ∧
    (s.setImages x).pending = s.pending ∧ State.rd (s.setImages x) = State.rd s ∧ State.frc (s.setImages x) = State.frc s ∧ State.rd64 (s.setImages x) = State.rd64 s ∧
    State.frc64 (s.setImages x) = State.frc64 s ∧ State.hdr (s.setImages x) = State.hdr s ∧ State.latchOf (s.setImages x) = State.latchOf s ∧ State.page (s.setImages x) = State.page s ∧
    State.lineMeta (s.setImages x) = State.lineMeta s ∧ State.region (s.setImages x) = State.region s ∧ State.keygenAt (s.setImages x) = State.keygenAt s ∧ State.byteAt (s.setImages x) = State.byteAt s ∧
    State.seOf (s.setImages x) = State.seOf s ∧ State.slot (s.setImages x) = State.slot s ∧ State.hold (s.setImages x) = State.hold s ∧ State.inf (s.setImages x) = State.inf s ∧
    State.wxOf (s.setImages x) = State.wxOf s ∧ State.hearth (s.setImages x) = State.hearth s ∧ State.pt (s.setImages x) = State.pt s ∧ State.queue (s.setImages x) = State.queue s ∧
    State.sem (s.setImages x) = State.sem s ∧ State.link (s.setImages x) = State.link s ∧ State.heldOf (s.setImages x) = State.heldOf s ∧ State.findCmd (s.setImages x) = State.findCmd s ∧
    State.enabled (s.setImages x) = State.enabled s ∧ State.ringRoom (s.setImages x) = State.ringRoom s ∧ State.ringCount (s.setImages x) = State.ringCount s ∧ State.ringSize (s.setImages x) = State.ringSize s ∧
    State.ringAddr (s.setImages x) = State.ringAddr s := by
  and_intros <;> rfl

@[simp] theorem State.wr_fields (s : State) (page off : Nat) (v : Word) :
    (s.wr page off v).part = s.part ∧ (s.wr page off v).pages = s.pages ∧ (s.wr page off v).latch = s.latch ∧ (s.wr page off v).tbData = s.tbData ∧
    (s.wr page off v).mem = s.mem ∧ (s.wr page off v).queues = s.queues ∧ (s.wr page off v).started = s.started ∧ (s.wr page off v).held = s.held ∧
    (s.wr page off v).evq = s.evq ∧ (s.wr page off v).se = s.se ∧ (s.wr page off v).slots = s.slots ∧ (s.wr page off v).parks = s.parks ∧
    (s.wr page off v).holds = s.holds ∧ (s.wr page off v).infs = s.infs ∧ (s.wr page off v).wxs = s.wxs ∧ (s.wr page off v).wx = s.wx ∧
    (s.wr page off v).hearths = s.hearths ∧ (s.wr page off v).pts = s.pts ∧ (s.wr page off v).images = s.images ∧ (s.wr page off v).lift = s.lift ∧
    (s.wr page off v).fab = s.fab ∧ (s.wr page off v).sems = s.sems ∧ (s.wr page off v).fbx = s.fbx ∧ (s.wr page off v).mc = s.mc ∧
    (s.wr page off v).up = s.up ∧ (s.wr page off v).epochs = s.epochs ∧ (s.wr page off v).resets = s.resets ∧ (s.wr page off v).meter = s.meter ∧
    (s.wr page off v).host = s.host ∧ (s.wr page off v).holdSeq = s.holdSeq ∧ (s.wr page off v).nowUs = s.nowUs ∧ (s.wr page off v).freeCtr = s.freeCtr ∧
    (s.wr page off v).reply = s.reply ∧ (s.wr page off v).out = s.out ∧ (s.wr page off v).pending = s.pending ∧ State.hdr (s.wr page off v) = State.hdr s ∧
    State.latchOf (s.wr page off v) = State.latchOf s ∧ State.page (s.wr page off v) = State.page s ∧ State.lineMeta (s.wr page off v) = State.lineMeta s ∧ State.region (s.wr page off v) = State.region s ∧
    State.keygenAt (s.wr page off v) = State.keygenAt s ∧ State.byteAt (s.wr page off v) = State.byteAt s ∧ State.seOf (s.wr page off v) = State.seOf s ∧ State.slot (s.wr page off v) = State.slot s ∧
    State.hold (s.wr page off v) = State.hold s ∧ State.inf (s.wr page off v) = State.inf s ∧ State.wxOf (s.wr page off v) = State.wxOf s ∧ State.hearth (s.wr page off v) = State.hearth s ∧
    State.pt (s.wr page off v) = State.pt s ∧ State.queue (s.wr page off v) = State.queue s ∧ State.sem (s.wr page off v) = State.sem s ∧ State.link (s.wr page off v) = State.link s ∧
    State.heldOf (s.wr page off v) = State.heldOf s ∧ State.findCmd (s.wr page off v) = State.findCmd s ∧ State.enabled (s.wr page off v) = State.enabled s := by
  and_intros <;> rfl

@[simp] theorem State.wrPending_fields (s : State) (page off : Nat) (chk v : Word) :
    (s.wrPending page off chk v).part = s.part ∧ (s.wrPending page off chk v).pages = s.pages ∧ (s.wrPending page off chk v).latch = s.latch ∧ (s.wrPending page off chk v).tbData = s.tbData ∧
    (s.wrPending page off chk v).mem = s.mem ∧ (s.wrPending page off chk v).queues = s.queues ∧ (s.wrPending page off chk v).started = s.started ∧ (s.wrPending page off chk v).held = s.held ∧
    (s.wrPending page off chk v).evq = s.evq ∧ (s.wrPending page off chk v).se = s.se ∧ (s.wrPending page off chk v).slots = s.slots ∧ (s.wrPending page off chk v).parks = s.parks ∧
    (s.wrPending page off chk v).holds = s.holds ∧ (s.wrPending page off chk v).infs = s.infs ∧ (s.wrPending page off chk v).wxs = s.wxs ∧ (s.wrPending page off chk v).wx = s.wx ∧
    (s.wrPending page off chk v).hearths = s.hearths ∧ (s.wrPending page off chk v).pts = s.pts ∧ (s.wrPending page off chk v).images = s.images ∧ (s.wrPending page off chk v).lift = s.lift ∧
    (s.wrPending page off chk v).fab = s.fab ∧ (s.wrPending page off chk v).sems = s.sems ∧ (s.wrPending page off chk v).fbx = s.fbx ∧ (s.wrPending page off chk v).mc = s.mc ∧
    (s.wrPending page off chk v).up = s.up ∧ (s.wrPending page off chk v).epochs = s.epochs ∧ (s.wrPending page off chk v).resets = s.resets ∧ (s.wrPending page off chk v).meter = s.meter ∧
    (s.wrPending page off chk v).host = s.host ∧ (s.wrPending page off chk v).holdSeq = s.holdSeq ∧ (s.wrPending page off chk v).nowUs = s.nowUs ∧ (s.wrPending page off chk v).freeCtr = s.freeCtr ∧
    (s.wrPending page off chk v).reply = s.reply ∧ (s.wrPending page off chk v).out = s.out ∧ (s.wrPending page off chk v).pending = s.pending ∧ State.hdr (s.wrPending page off chk v) = State.hdr s ∧
    State.latchOf (s.wrPending page off chk v) = State.latchOf s ∧ State.page (s.wrPending page off chk v) = State.page s ∧ State.lineMeta (s.wrPending page off chk v) = State.lineMeta s ∧ State.region (s.wrPending page off chk v) = State.region s ∧
    State.keygenAt (s.wrPending page off chk v) = State.keygenAt s ∧ State.byteAt (s.wrPending page off chk v) = State.byteAt s ∧ State.seOf (s.wrPending page off chk v) = State.seOf s ∧ State.slot (s.wrPending page off chk v) = State.slot s ∧
    State.hold (s.wrPending page off chk v) = State.hold s ∧ State.inf (s.wrPending page off chk v) = State.inf s ∧ State.wxOf (s.wrPending page off chk v) = State.wxOf s ∧ State.hearth (s.wrPending page off chk v) = State.hearth s ∧
    State.pt (s.wrPending page off chk v) = State.pt s ∧ State.queue (s.wrPending page off chk v) = State.queue s ∧ State.sem (s.wrPending page off chk v) = State.sem s ∧ State.link (s.wrPending page off chk v) = State.link s ∧
    State.heldOf (s.wrPending page off chk v) = State.heldOf s ∧ State.findCmd (s.wrPending page off chk v) = State.findCmd s ∧ State.enabled (s.wrPending page off chk v) = State.enabled s := by
  and_intros <;> rfl

@[simp] theorem State.setForce_fields (s : State) (page off : Nat) (v : Word) :
    (s.setForce page off v).part = s.part ∧ (s.setForce page off v).regs = s.regs ∧ (s.setForce page off v).pages = s.pages ∧ (s.setForce page off v).latch = s.latch ∧
    (s.setForce page off v).tbData = s.tbData ∧ (s.setForce page off v).mem = s.mem ∧ (s.setForce page off v).queues = s.queues ∧ (s.setForce page off v).started = s.started ∧
    (s.setForce page off v).held = s.held ∧ (s.setForce page off v).evq = s.evq ∧ (s.setForce page off v).se = s.se ∧ (s.setForce page off v).slots = s.slots ∧
    (s.setForce page off v).parks = s.parks ∧ (s.setForce page off v).holds = s.holds ∧ (s.setForce page off v).infs = s.infs ∧ (s.setForce page off v).wxs = s.wxs ∧
    (s.setForce page off v).wx = s.wx ∧ (s.setForce page off v).hearths = s.hearths ∧ (s.setForce page off v).pts = s.pts ∧ (s.setForce page off v).images = s.images ∧
    (s.setForce page off v).lift = s.lift ∧ (s.setForce page off v).fab = s.fab ∧ (s.setForce page off v).sems = s.sems ∧ (s.setForce page off v).fbx = s.fbx ∧
    (s.setForce page off v).mc = s.mc ∧ (s.setForce page off v).up = s.up ∧ (s.setForce page off v).epochs = s.epochs ∧ (s.setForce page off v).resets = s.resets ∧
    (s.setForce page off v).meter = s.meter ∧ (s.setForce page off v).host = s.host ∧ (s.setForce page off v).holdSeq = s.holdSeq ∧ (s.setForce page off v).nowUs = s.nowUs ∧
    (s.setForce page off v).freeCtr = s.freeCtr ∧ (s.setForce page off v).reply = s.reply ∧ (s.setForce page off v).out = s.out ∧ (s.setForce page off v).pending = s.pending ∧
    State.rd (s.setForce page off v) = State.rd s ∧ State.rd64 (s.setForce page off v) = State.rd64 s ∧ State.hdr (s.setForce page off v) = State.hdr s ∧ State.latchOf (s.setForce page off v) = State.latchOf s ∧
    State.page (s.setForce page off v) = State.page s ∧ State.lineMeta (s.setForce page off v) = State.lineMeta s ∧ State.region (s.setForce page off v) = State.region s ∧ State.keygenAt (s.setForce page off v) = State.keygenAt s ∧
    State.byteAt (s.setForce page off v) = State.byteAt s ∧ State.seOf (s.setForce page off v) = State.seOf s ∧ State.slot (s.setForce page off v) = State.slot s ∧ State.hold (s.setForce page off v) = State.hold s ∧
    State.inf (s.setForce page off v) = State.inf s ∧ State.wxOf (s.setForce page off v) = State.wxOf s ∧ State.hearth (s.setForce page off v) = State.hearth s ∧ State.pt (s.setForce page off v) = State.pt s ∧
    State.queue (s.setForce page off v) = State.queue s ∧ State.sem (s.setForce page off v) = State.sem s ∧ State.link (s.setForce page off v) = State.link s ∧ State.heldOf (s.setForce page off v) = State.heldOf s ∧
    State.findCmd (s.setForce page off v) = State.findCmd s ∧ State.enabled (s.setForce page off v) = State.enabled s := by
  and_intros <;> rfl

@[simp] theorem State.setHdr_fields (s : State) (page : Nat) (h : PageHdr) :
    (s.setHdr page h).part = s.part ∧ (s.setHdr page h).regs = s.regs ∧ (s.setHdr page h).force = s.force ∧ (s.setHdr page h).latch = s.latch ∧
    (s.setHdr page h).tbData = s.tbData ∧ (s.setHdr page h).mem = s.mem ∧ (s.setHdr page h).queues = s.queues ∧ (s.setHdr page h).started = s.started ∧
    (s.setHdr page h).held = s.held ∧ (s.setHdr page h).evq = s.evq ∧ (s.setHdr page h).se = s.se ∧ (s.setHdr page h).slots = s.slots ∧
    (s.setHdr page h).parks = s.parks ∧ (s.setHdr page h).holds = s.holds ∧ (s.setHdr page h).infs = s.infs ∧ (s.setHdr page h).wxs = s.wxs ∧
    (s.setHdr page h).wx = s.wx ∧ (s.setHdr page h).hearths = s.hearths ∧ (s.setHdr page h).pts = s.pts ∧ (s.setHdr page h).images = s.images ∧
    (s.setHdr page h).lift = s.lift ∧ (s.setHdr page h).fab = s.fab ∧ (s.setHdr page h).sems = s.sems ∧ (s.setHdr page h).fbx = s.fbx ∧
    (s.setHdr page h).mc = s.mc ∧ (s.setHdr page h).up = s.up ∧ (s.setHdr page h).epochs = s.epochs ∧ (s.setHdr page h).resets = s.resets ∧
    (s.setHdr page h).meter = s.meter ∧ (s.setHdr page h).host = s.host ∧ (s.setHdr page h).holdSeq = s.holdSeq ∧ (s.setHdr page h).nowUs = s.nowUs ∧
    (s.setHdr page h).freeCtr = s.freeCtr ∧ (s.setHdr page h).reply = s.reply ∧ (s.setHdr page h).out = s.out ∧ (s.setHdr page h).pending = s.pending ∧
    State.rd (s.setHdr page h) = State.rd s ∧ State.frc (s.setHdr page h) = State.frc s ∧ State.rd64 (s.setHdr page h) = State.rd64 s ∧ State.frc64 (s.setHdr page h) = State.frc64 s ∧
    State.latchOf (s.setHdr page h) = State.latchOf s ∧ State.page (s.setHdr page h) = State.page s ∧ State.lineMeta (s.setHdr page h) = State.lineMeta s ∧ State.region (s.setHdr page h) = State.region s ∧
    State.keygenAt (s.setHdr page h) = State.keygenAt s ∧ State.byteAt (s.setHdr page h) = State.byteAt s ∧ State.seOf (s.setHdr page h) = State.seOf s ∧ State.slot (s.setHdr page h) = State.slot s ∧
    State.hold (s.setHdr page h) = State.hold s ∧ State.inf (s.setHdr page h) = State.inf s ∧ State.wxOf (s.setHdr page h) = State.wxOf s ∧ State.hearth (s.setHdr page h) = State.hearth s ∧
    State.pt (s.setHdr page h) = State.pt s ∧ State.queue (s.setHdr page h) = State.queue s ∧ State.sem (s.setHdr page h) = State.sem s ∧ State.link (s.setHdr page h) = State.link s ∧
    State.heldOf (s.setHdr page h) = State.heldOf s ∧ State.findCmd (s.setHdr page h) = State.findCmd s ∧ State.ringRoom (s.setHdr page h) = State.ringRoom s ∧ State.ringCount (s.setHdr page h) = State.ringCount s ∧
    State.ringSize (s.setHdr page h) = State.ringSize s ∧ State.ringAddr (s.setHdr page h) = State.ringAddr s := by
  and_intros <;> rfl

@[simp] theorem State.setSe_fields (s : State) (p : Nat) (x : Se) :
    (s.setSe p x).part = s.part ∧ (s.setSe p x).regs = s.regs ∧ (s.setSe p x).force = s.force ∧ (s.setSe p x).pages = s.pages ∧
    (s.setSe p x).latch = s.latch ∧ (s.setSe p x).tbData = s.tbData ∧ (s.setSe p x).mem = s.mem ∧ (s.setSe p x).queues = s.queues ∧
    (s.setSe p x).started = s.started ∧ (s.setSe p x).held = s.held ∧ (s.setSe p x).evq = s.evq ∧ (s.setSe p x).slots = s.slots ∧
    (s.setSe p x).parks = s.parks ∧ (s.setSe p x).holds = s.holds ∧ (s.setSe p x).infs = s.infs ∧ (s.setSe p x).wxs = s.wxs ∧
    (s.setSe p x).wx = s.wx ∧ (s.setSe p x).hearths = s.hearths ∧ (s.setSe p x).pts = s.pts ∧ (s.setSe p x).images = s.images ∧
    (s.setSe p x).lift = s.lift ∧ (s.setSe p x).fab = s.fab ∧ (s.setSe p x).sems = s.sems ∧ (s.setSe p x).fbx = s.fbx ∧
    (s.setSe p x).mc = s.mc ∧ (s.setSe p x).up = s.up ∧ (s.setSe p x).epochs = s.epochs ∧ (s.setSe p x).resets = s.resets ∧
    (s.setSe p x).meter = s.meter ∧ (s.setSe p x).host = s.host ∧ (s.setSe p x).holdSeq = s.holdSeq ∧ (s.setSe p x).nowUs = s.nowUs ∧
    (s.setSe p x).freeCtr = s.freeCtr ∧ (s.setSe p x).reply = s.reply ∧ (s.setSe p x).out = s.out ∧ (s.setSe p x).pending = s.pending ∧
    State.rd (s.setSe p x) = State.rd s ∧ State.frc (s.setSe p x) = State.frc s ∧ State.rd64 (s.setSe p x) = State.rd64 s ∧ State.frc64 (s.setSe p x) = State.frc64 s ∧
    State.hdr (s.setSe p x) = State.hdr s ∧ State.latchOf (s.setSe p x) = State.latchOf s ∧ State.page (s.setSe p x) = State.page s ∧ State.lineMeta (s.setSe p x) = State.lineMeta s ∧
    State.region (s.setSe p x) = State.region s ∧ State.keygenAt (s.setSe p x) = State.keygenAt s ∧ State.byteAt (s.setSe p x) = State.byteAt s ∧ State.slot (s.setSe p x) = State.slot s ∧
    State.hold (s.setSe p x) = State.hold s ∧ State.inf (s.setSe p x) = State.inf s ∧ State.wxOf (s.setSe p x) = State.wxOf s ∧ State.hearth (s.setSe p x) = State.hearth s ∧
    State.pt (s.setSe p x) = State.pt s ∧ State.queue (s.setSe p x) = State.queue s ∧ State.sem (s.setSe p x) = State.sem s ∧ State.link (s.setSe p x) = State.link s ∧
    State.heldOf (s.setSe p x) = State.heldOf s ∧ State.findCmd (s.setSe p x) = State.findCmd s ∧ State.enabled (s.setSe p x) = State.enabled s ∧ State.ringRoom (s.setSe p x) = State.ringRoom s ∧
    State.ringCount (s.setSe p x) = State.ringCount s ∧ State.ringSize (s.setSe p x) = State.ringSize s ∧ State.ringAddr (s.setSe p x) = State.ringAddr s := by
  and_intros <;> rfl

@[simp] theorem State.setSlot_fields (s : State) (n : Nat) (x : Slot) :
    (s.setSlot n x).part = s.part ∧ (s.setSlot n x).regs = s.regs ∧ (s.setSlot n x).force = s.force ∧ (s.setSlot n x).pages = s.pages ∧
    (s.setSlot n x).latch = s.latch ∧ (s.setSlot n x).tbData = s.tbData ∧ (s.setSlot n x).mem = s.mem ∧ (s.setSlot n x).queues = s.queues ∧
    (s.setSlot n x).started = s.started ∧ (s.setSlot n x).held = s.held ∧ (s.setSlot n x).evq = s.evq ∧ (s.setSlot n x).se = s.se ∧
    (s.setSlot n x).parks = s.parks ∧ (s.setSlot n x).holds = s.holds ∧ (s.setSlot n x).infs = s.infs ∧ (s.setSlot n x).wxs = s.wxs ∧
    (s.setSlot n x).wx = s.wx ∧ (s.setSlot n x).hearths = s.hearths ∧ (s.setSlot n x).pts = s.pts ∧ (s.setSlot n x).images = s.images ∧
    (s.setSlot n x).lift = s.lift ∧ (s.setSlot n x).fab = s.fab ∧ (s.setSlot n x).sems = s.sems ∧ (s.setSlot n x).fbx = s.fbx ∧
    (s.setSlot n x).mc = s.mc ∧ (s.setSlot n x).up = s.up ∧ (s.setSlot n x).epochs = s.epochs ∧ (s.setSlot n x).resets = s.resets ∧
    (s.setSlot n x).meter = s.meter ∧ (s.setSlot n x).host = s.host ∧ (s.setSlot n x).holdSeq = s.holdSeq ∧ (s.setSlot n x).nowUs = s.nowUs ∧
    (s.setSlot n x).freeCtr = s.freeCtr ∧ (s.setSlot n x).reply = s.reply ∧ (s.setSlot n x).out = s.out ∧ (s.setSlot n x).pending = s.pending ∧
    State.rd (s.setSlot n x) = State.rd s ∧ State.frc (s.setSlot n x) = State.frc s ∧ State.rd64 (s.setSlot n x) = State.rd64 s ∧ State.frc64 (s.setSlot n x) = State.frc64 s ∧
    State.hdr (s.setSlot n x) = State.hdr s ∧ State.latchOf (s.setSlot n x) = State.latchOf s ∧ State.page (s.setSlot n x) = State.page s ∧ State.lineMeta (s.setSlot n x) = State.lineMeta s ∧
    State.region (s.setSlot n x) = State.region s ∧ State.keygenAt (s.setSlot n x) = State.keygenAt s ∧ State.byteAt (s.setSlot n x) = State.byteAt s ∧ State.seOf (s.setSlot n x) = State.seOf s ∧
    State.hold (s.setSlot n x) = State.hold s ∧ State.inf (s.setSlot n x) = State.inf s ∧ State.wxOf (s.setSlot n x) = State.wxOf s ∧ State.hearth (s.setSlot n x) = State.hearth s ∧
    State.pt (s.setSlot n x) = State.pt s ∧ State.queue (s.setSlot n x) = State.queue s ∧ State.sem (s.setSlot n x) = State.sem s ∧ State.link (s.setSlot n x) = State.link s ∧
    State.heldOf (s.setSlot n x) = State.heldOf s ∧ State.findCmd (s.setSlot n x) = State.findCmd s ∧ State.enabled (s.setSlot n x) = State.enabled s ∧ State.ringRoom (s.setSlot n x) = State.ringRoom s ∧
    State.ringCount (s.setSlot n x) = State.ringCount s ∧ State.ringSize (s.setSlot n x) = State.ringSize s ∧ State.ringAddr (s.setSlot n x) = State.ringAddr s := by
  and_intros <;> rfl

@[simp] theorem State.setHold_fields (s : State) (n : Nat) (x : Hold) :
    (s.setHold n x).part = s.part ∧ (s.setHold n x).regs = s.regs ∧ (s.setHold n x).force = s.force ∧ (s.setHold n x).pages = s.pages ∧
    (s.setHold n x).latch = s.latch ∧ (s.setHold n x).tbData = s.tbData ∧ (s.setHold n x).mem = s.mem ∧ (s.setHold n x).queues = s.queues ∧
    (s.setHold n x).started = s.started ∧ (s.setHold n x).held = s.held ∧ (s.setHold n x).evq = s.evq ∧ (s.setHold n x).se = s.se ∧
    (s.setHold n x).slots = s.slots ∧ (s.setHold n x).parks = s.parks ∧ (s.setHold n x).infs = s.infs ∧ (s.setHold n x).wxs = s.wxs ∧
    (s.setHold n x).wx = s.wx ∧ (s.setHold n x).hearths = s.hearths ∧ (s.setHold n x).pts = s.pts ∧ (s.setHold n x).images = s.images ∧
    (s.setHold n x).lift = s.lift ∧ (s.setHold n x).fab = s.fab ∧ (s.setHold n x).sems = s.sems ∧ (s.setHold n x).fbx = s.fbx ∧
    (s.setHold n x).mc = s.mc ∧ (s.setHold n x).up = s.up ∧ (s.setHold n x).epochs = s.epochs ∧ (s.setHold n x).resets = s.resets ∧
    (s.setHold n x).meter = s.meter ∧ (s.setHold n x).host = s.host ∧ (s.setHold n x).holdSeq = s.holdSeq ∧ (s.setHold n x).nowUs = s.nowUs ∧
    (s.setHold n x).freeCtr = s.freeCtr ∧ (s.setHold n x).reply = s.reply ∧ (s.setHold n x).out = s.out ∧ (s.setHold n x).pending = s.pending ∧
    State.rd (s.setHold n x) = State.rd s ∧ State.frc (s.setHold n x) = State.frc s ∧ State.rd64 (s.setHold n x) = State.rd64 s ∧ State.frc64 (s.setHold n x) = State.frc64 s ∧
    State.hdr (s.setHold n x) = State.hdr s ∧ State.latchOf (s.setHold n x) = State.latchOf s ∧ State.page (s.setHold n x) = State.page s ∧ State.lineMeta (s.setHold n x) = State.lineMeta s ∧
    State.region (s.setHold n x) = State.region s ∧ State.keygenAt (s.setHold n x) = State.keygenAt s ∧ State.byteAt (s.setHold n x) = State.byteAt s ∧ State.seOf (s.setHold n x) = State.seOf s ∧
    State.slot (s.setHold n x) = State.slot s ∧ State.inf (s.setHold n x) = State.inf s ∧ State.wxOf (s.setHold n x) = State.wxOf s ∧ State.hearth (s.setHold n x) = State.hearth s ∧
    State.pt (s.setHold n x) = State.pt s ∧ State.queue (s.setHold n x) = State.queue s ∧ State.sem (s.setHold n x) = State.sem s ∧ State.link (s.setHold n x) = State.link s ∧
    State.heldOf (s.setHold n x) = State.heldOf s ∧ State.findCmd (s.setHold n x) = State.findCmd s ∧ State.enabled (s.setHold n x) = State.enabled s ∧ State.ringRoom (s.setHold n x) = State.ringRoom s ∧
    State.ringCount (s.setHold n x) = State.ringCount s ∧ State.ringSize (s.setHold n x) = State.ringSize s ∧ State.ringAddr (s.setHold n x) = State.ringAddr s := by
  and_intros <;> rfl

@[simp] theorem State.setInf_fields (s : State) (n : Nat) (x : InfSlot) :
    (s.setInf n x).part = s.part ∧ (s.setInf n x).regs = s.regs ∧ (s.setInf n x).force = s.force ∧ (s.setInf n x).pages = s.pages ∧
    (s.setInf n x).latch = s.latch ∧ (s.setInf n x).tbData = s.tbData ∧ (s.setInf n x).mem = s.mem ∧ (s.setInf n x).queues = s.queues ∧
    (s.setInf n x).started = s.started ∧ (s.setInf n x).held = s.held ∧ (s.setInf n x).evq = s.evq ∧ (s.setInf n x).se = s.se ∧
    (s.setInf n x).slots = s.slots ∧ (s.setInf n x).parks = s.parks ∧ (s.setInf n x).holds = s.holds ∧ (s.setInf n x).wxs = s.wxs ∧
    (s.setInf n x).wx = s.wx ∧ (s.setInf n x).hearths = s.hearths ∧ (s.setInf n x).pts = s.pts ∧ (s.setInf n x).images = s.images ∧
    (s.setInf n x).lift = s.lift ∧ (s.setInf n x).fab = s.fab ∧ (s.setInf n x).sems = s.sems ∧ (s.setInf n x).fbx = s.fbx ∧
    (s.setInf n x).mc = s.mc ∧ (s.setInf n x).up = s.up ∧ (s.setInf n x).epochs = s.epochs ∧ (s.setInf n x).resets = s.resets ∧
    (s.setInf n x).meter = s.meter ∧ (s.setInf n x).host = s.host ∧ (s.setInf n x).holdSeq = s.holdSeq ∧ (s.setInf n x).nowUs = s.nowUs ∧
    (s.setInf n x).freeCtr = s.freeCtr ∧ (s.setInf n x).reply = s.reply ∧ (s.setInf n x).out = s.out ∧ (s.setInf n x).pending = s.pending ∧
    State.rd (s.setInf n x) = State.rd s ∧ State.frc (s.setInf n x) = State.frc s ∧ State.rd64 (s.setInf n x) = State.rd64 s ∧ State.frc64 (s.setInf n x) = State.frc64 s ∧
    State.hdr (s.setInf n x) = State.hdr s ∧ State.latchOf (s.setInf n x) = State.latchOf s ∧ State.page (s.setInf n x) = State.page s ∧ State.lineMeta (s.setInf n x) = State.lineMeta s ∧
    State.region (s.setInf n x) = State.region s ∧ State.keygenAt (s.setInf n x) = State.keygenAt s ∧ State.byteAt (s.setInf n x) = State.byteAt s ∧ State.seOf (s.setInf n x) = State.seOf s ∧
    State.slot (s.setInf n x) = State.slot s ∧ State.hold (s.setInf n x) = State.hold s ∧ State.wxOf (s.setInf n x) = State.wxOf s ∧ State.hearth (s.setInf n x) = State.hearth s ∧
    State.pt (s.setInf n x) = State.pt s ∧ State.queue (s.setInf n x) = State.queue s ∧ State.sem (s.setInf n x) = State.sem s ∧ State.link (s.setInf n x) = State.link s ∧
    State.heldOf (s.setInf n x) = State.heldOf s ∧ State.findCmd (s.setInf n x) = State.findCmd s ∧ State.enabled (s.setInf n x) = State.enabled s ∧ State.ringRoom (s.setInf n x) = State.ringRoom s ∧
    State.ringCount (s.setInf n x) = State.ringCount s ∧ State.ringSize (s.setInf n x) = State.ringSize s ∧ State.ringAddr (s.setInf n x) = State.ringAddr s := by
  and_intros <;> rfl

@[simp] theorem State.setWx_fields (s : State) (n : Nat) (x : WaxingSlot) :
    (s.setWx n x).part = s.part ∧ (s.setWx n x).regs = s.regs ∧ (s.setWx n x).force = s.force ∧ (s.setWx n x).pages = s.pages ∧
    (s.setWx n x).latch = s.latch ∧ (s.setWx n x).tbData = s.tbData ∧ (s.setWx n x).mem = s.mem ∧ (s.setWx n x).queues = s.queues ∧
    (s.setWx n x).started = s.started ∧ (s.setWx n x).held = s.held ∧ (s.setWx n x).evq = s.evq ∧ (s.setWx n x).se = s.se ∧
    (s.setWx n x).slots = s.slots ∧ (s.setWx n x).parks = s.parks ∧ (s.setWx n x).holds = s.holds ∧ (s.setWx n x).infs = s.infs ∧
    (s.setWx n x).wx = s.wx ∧ (s.setWx n x).hearths = s.hearths ∧ (s.setWx n x).pts = s.pts ∧ (s.setWx n x).images = s.images ∧
    (s.setWx n x).lift = s.lift ∧ (s.setWx n x).fab = s.fab ∧ (s.setWx n x).sems = s.sems ∧ (s.setWx n x).fbx = s.fbx ∧
    (s.setWx n x).mc = s.mc ∧ (s.setWx n x).up = s.up ∧ (s.setWx n x).epochs = s.epochs ∧ (s.setWx n x).resets = s.resets ∧
    (s.setWx n x).meter = s.meter ∧ (s.setWx n x).host = s.host ∧ (s.setWx n x).holdSeq = s.holdSeq ∧ (s.setWx n x).nowUs = s.nowUs ∧
    (s.setWx n x).freeCtr = s.freeCtr ∧ (s.setWx n x).reply = s.reply ∧ (s.setWx n x).out = s.out ∧ (s.setWx n x).pending = s.pending ∧
    State.rd (s.setWx n x) = State.rd s ∧ State.frc (s.setWx n x) = State.frc s ∧ State.rd64 (s.setWx n x) = State.rd64 s ∧ State.frc64 (s.setWx n x) = State.frc64 s ∧
    State.hdr (s.setWx n x) = State.hdr s ∧ State.latchOf (s.setWx n x) = State.latchOf s ∧ State.page (s.setWx n x) = State.page s ∧ State.lineMeta (s.setWx n x) = State.lineMeta s ∧
    State.region (s.setWx n x) = State.region s ∧ State.keygenAt (s.setWx n x) = State.keygenAt s ∧ State.byteAt (s.setWx n x) = State.byteAt s ∧ State.seOf (s.setWx n x) = State.seOf s ∧
    State.slot (s.setWx n x) = State.slot s ∧ State.hold (s.setWx n x) = State.hold s ∧ State.inf (s.setWx n x) = State.inf s ∧ State.hearth (s.setWx n x) = State.hearth s ∧
    State.pt (s.setWx n x) = State.pt s ∧ State.queue (s.setWx n x) = State.queue s ∧ State.sem (s.setWx n x) = State.sem s ∧ State.link (s.setWx n x) = State.link s ∧
    State.heldOf (s.setWx n x) = State.heldOf s ∧ State.findCmd (s.setWx n x) = State.findCmd s ∧ State.enabled (s.setWx n x) = State.enabled s ∧ State.ringRoom (s.setWx n x) = State.ringRoom s ∧
    State.ringCount (s.setWx n x) = State.ringCount s ∧ State.ringSize (s.setWx n x) = State.ringSize s ∧ State.ringAddr (s.setWx n x) = State.ringAddr s := by
  and_intros <;> rfl

@[simp] theorem State.setHearth_fields (s : State) (n : Nat) (x : Hearth) :
    (s.setHearth n x).part = s.part ∧ (s.setHearth n x).regs = s.regs ∧ (s.setHearth n x).force = s.force ∧ (s.setHearth n x).pages = s.pages ∧
    (s.setHearth n x).latch = s.latch ∧ (s.setHearth n x).tbData = s.tbData ∧ (s.setHearth n x).mem = s.mem ∧ (s.setHearth n x).queues = s.queues ∧
    (s.setHearth n x).started = s.started ∧ (s.setHearth n x).held = s.held ∧ (s.setHearth n x).evq = s.evq ∧ (s.setHearth n x).se = s.se ∧
    (s.setHearth n x).slots = s.slots ∧ (s.setHearth n x).parks = s.parks ∧ (s.setHearth n x).holds = s.holds ∧ (s.setHearth n x).infs = s.infs ∧
    (s.setHearth n x).wxs = s.wxs ∧ (s.setHearth n x).wx = s.wx ∧ (s.setHearth n x).pts = s.pts ∧ (s.setHearth n x).images = s.images ∧
    (s.setHearth n x).lift = s.lift ∧ (s.setHearth n x).fab = s.fab ∧ (s.setHearth n x).sems = s.sems ∧ (s.setHearth n x).fbx = s.fbx ∧
    (s.setHearth n x).mc = s.mc ∧ (s.setHearth n x).up = s.up ∧ (s.setHearth n x).epochs = s.epochs ∧ (s.setHearth n x).resets = s.resets ∧
    (s.setHearth n x).meter = s.meter ∧ (s.setHearth n x).host = s.host ∧ (s.setHearth n x).holdSeq = s.holdSeq ∧ (s.setHearth n x).nowUs = s.nowUs ∧
    (s.setHearth n x).freeCtr = s.freeCtr ∧ (s.setHearth n x).reply = s.reply ∧ (s.setHearth n x).out = s.out ∧ (s.setHearth n x).pending = s.pending ∧
    State.rd (s.setHearth n x) = State.rd s ∧ State.frc (s.setHearth n x) = State.frc s ∧ State.rd64 (s.setHearth n x) = State.rd64 s ∧ State.frc64 (s.setHearth n x) = State.frc64 s ∧
    State.hdr (s.setHearth n x) = State.hdr s ∧ State.latchOf (s.setHearth n x) = State.latchOf s ∧ State.page (s.setHearth n x) = State.page s ∧ State.lineMeta (s.setHearth n x) = State.lineMeta s ∧
    State.region (s.setHearth n x) = State.region s ∧ State.keygenAt (s.setHearth n x) = State.keygenAt s ∧ State.byteAt (s.setHearth n x) = State.byteAt s ∧ State.seOf (s.setHearth n x) = State.seOf s ∧
    State.slot (s.setHearth n x) = State.slot s ∧ State.hold (s.setHearth n x) = State.hold s ∧ State.inf (s.setHearth n x) = State.inf s ∧ State.wxOf (s.setHearth n x) = State.wxOf s ∧
    State.pt (s.setHearth n x) = State.pt s ∧ State.queue (s.setHearth n x) = State.queue s ∧ State.sem (s.setHearth n x) = State.sem s ∧ State.link (s.setHearth n x) = State.link s ∧
    State.heldOf (s.setHearth n x) = State.heldOf s ∧ State.findCmd (s.setHearth n x) = State.findCmd s ∧ State.enabled (s.setHearth n x) = State.enabled s ∧ State.ringRoom (s.setHearth n x) = State.ringRoom s ∧
    State.ringCount (s.setHearth n x) = State.ringCount s ∧ State.ringSize (s.setHearth n x) = State.ringSize s ∧ State.ringAddr (s.setHearth n x) = State.ringAddr s := by
  and_intros <;> rfl

@[simp] theorem State.setPt_fields (s : State) (n : Nat) (x : Pt) :
    (s.setPt n x).part = s.part ∧ (s.setPt n x).regs = s.regs ∧ (s.setPt n x).force = s.force ∧ (s.setPt n x).pages = s.pages ∧
    (s.setPt n x).latch = s.latch ∧ (s.setPt n x).tbData = s.tbData ∧ (s.setPt n x).mem = s.mem ∧ (s.setPt n x).queues = s.queues ∧
    (s.setPt n x).started = s.started ∧ (s.setPt n x).held = s.held ∧ (s.setPt n x).evq = s.evq ∧ (s.setPt n x).se = s.se ∧
    (s.setPt n x).slots = s.slots ∧ (s.setPt n x).parks = s.parks ∧ (s.setPt n x).holds = s.holds ∧ (s.setPt n x).infs = s.infs ∧
    (s.setPt n x).wxs = s.wxs ∧ (s.setPt n x).wx = s.wx ∧ (s.setPt n x).hearths = s.hearths ∧ (s.setPt n x).images = s.images ∧
    (s.setPt n x).lift = s.lift ∧ (s.setPt n x).fab = s.fab ∧ (s.setPt n x).sems = s.sems ∧ (s.setPt n x).fbx = s.fbx ∧
    (s.setPt n x).mc = s.mc ∧ (s.setPt n x).up = s.up ∧ (s.setPt n x).epochs = s.epochs ∧ (s.setPt n x).resets = s.resets ∧
    (s.setPt n x).meter = s.meter ∧ (s.setPt n x).host = s.host ∧ (s.setPt n x).holdSeq = s.holdSeq ∧ (s.setPt n x).nowUs = s.nowUs ∧
    (s.setPt n x).freeCtr = s.freeCtr ∧ (s.setPt n x).reply = s.reply ∧ (s.setPt n x).out = s.out ∧ (s.setPt n x).pending = s.pending ∧
    State.rd (s.setPt n x) = State.rd s ∧ State.frc (s.setPt n x) = State.frc s ∧ State.rd64 (s.setPt n x) = State.rd64 s ∧ State.frc64 (s.setPt n x) = State.frc64 s ∧
    State.hdr (s.setPt n x) = State.hdr s ∧ State.latchOf (s.setPt n x) = State.latchOf s ∧ State.page (s.setPt n x) = State.page s ∧ State.lineMeta (s.setPt n x) = State.lineMeta s ∧
    State.region (s.setPt n x) = State.region s ∧ State.keygenAt (s.setPt n x) = State.keygenAt s ∧ State.byteAt (s.setPt n x) = State.byteAt s ∧ State.seOf (s.setPt n x) = State.seOf s ∧
    State.slot (s.setPt n x) = State.slot s ∧ State.hold (s.setPt n x) = State.hold s ∧ State.inf (s.setPt n x) = State.inf s ∧ State.wxOf (s.setPt n x) = State.wxOf s ∧
    State.hearth (s.setPt n x) = State.hearth s ∧ State.queue (s.setPt n x) = State.queue s ∧ State.sem (s.setPt n x) = State.sem s ∧ State.link (s.setPt n x) = State.link s ∧
    State.heldOf (s.setPt n x) = State.heldOf s ∧ State.findCmd (s.setPt n x) = State.findCmd s ∧ State.enabled (s.setPt n x) = State.enabled s ∧ State.ringRoom (s.setPt n x) = State.ringRoom s ∧
    State.ringCount (s.setPt n x) = State.ringCount s ∧ State.ringSize (s.setPt n x) = State.ringSize s ∧ State.ringAddr (s.setPt n x) = State.ringAddr s := by
  and_intros <;> rfl

@[simp] theorem State.setQueue_fields (s : State) (n : Nat) (x : Queue) :
    (s.setQueue n x).part = s.part ∧ (s.setQueue n x).regs = s.regs ∧ (s.setQueue n x).force = s.force ∧ (s.setQueue n x).pages = s.pages ∧
    (s.setQueue n x).latch = s.latch ∧ (s.setQueue n x).tbData = s.tbData ∧ (s.setQueue n x).mem = s.mem ∧ (s.setQueue n x).started = s.started ∧
    (s.setQueue n x).held = s.held ∧ (s.setQueue n x).evq = s.evq ∧ (s.setQueue n x).se = s.se ∧ (s.setQueue n x).slots = s.slots ∧
    (s.setQueue n x).parks = s.parks ∧ (s.setQueue n x).holds = s.holds ∧ (s.setQueue n x).infs = s.infs ∧ (s.setQueue n x).wxs = s.wxs ∧
    (s.setQueue n x).wx = s.wx ∧ (s.setQueue n x).hearths = s.hearths ∧ (s.setQueue n x).pts = s.pts ∧ (s.setQueue n x).images = s.images ∧
    (s.setQueue n x).lift = s.lift ∧ (s.setQueue n x).fab = s.fab ∧ (s.setQueue n x).sems = s.sems ∧ (s.setQueue n x).fbx = s.fbx ∧
    (s.setQueue n x).mc = s.mc ∧ (s.setQueue n x).up = s.up ∧ (s.setQueue n x).epochs = s.epochs ∧ (s.setQueue n x).resets = s.resets ∧
    (s.setQueue n x).meter = s.meter ∧ (s.setQueue n x).host = s.host ∧ (s.setQueue n x).holdSeq = s.holdSeq ∧ (s.setQueue n x).nowUs = s.nowUs ∧
    (s.setQueue n x).freeCtr = s.freeCtr ∧ (s.setQueue n x).reply = s.reply ∧ (s.setQueue n x).out = s.out ∧ (s.setQueue n x).pending = s.pending ∧
    State.rd (s.setQueue n x) = State.rd s ∧ State.frc (s.setQueue n x) = State.frc s ∧ State.rd64 (s.setQueue n x) = State.rd64 s ∧ State.frc64 (s.setQueue n x) = State.frc64 s ∧
    State.hdr (s.setQueue n x) = State.hdr s ∧ State.latchOf (s.setQueue n x) = State.latchOf s ∧ State.page (s.setQueue n x) = State.page s ∧ State.lineMeta (s.setQueue n x) = State.lineMeta s ∧
    State.region (s.setQueue n x) = State.region s ∧ State.keygenAt (s.setQueue n x) = State.keygenAt s ∧ State.byteAt (s.setQueue n x) = State.byteAt s ∧ State.seOf (s.setQueue n x) = State.seOf s ∧
    State.slot (s.setQueue n x) = State.slot s ∧ State.hold (s.setQueue n x) = State.hold s ∧ State.inf (s.setQueue n x) = State.inf s ∧ State.wxOf (s.setQueue n x) = State.wxOf s ∧
    State.hearth (s.setQueue n x) = State.hearth s ∧ State.pt (s.setQueue n x) = State.pt s ∧ State.sem (s.setQueue n x) = State.sem s ∧ State.link (s.setQueue n x) = State.link s ∧
    State.heldOf (s.setQueue n x) = State.heldOf s ∧ State.findCmd (s.setQueue n x) = State.findCmd s ∧ State.enabled (s.setQueue n x) = State.enabled s ∧ State.ringRoom (s.setQueue n x) = State.ringRoom s ∧
    State.ringCount (s.setQueue n x) = State.ringCount s ∧ State.ringSize (s.setQueue n x) = State.ringSize s ∧ State.ringAddr (s.setQueue n x) = State.ringAddr s := by
  and_intros <;> rfl

@[simp] theorem State.setSem_fields (s : State) (n : Nat) (x : Sem) :
    (s.setSem n x).part = s.part ∧ (s.setSem n x).regs = s.regs ∧ (s.setSem n x).force = s.force ∧ (s.setSem n x).pages = s.pages ∧
    (s.setSem n x).latch = s.latch ∧ (s.setSem n x).tbData = s.tbData ∧ (s.setSem n x).mem = s.mem ∧ (s.setSem n x).queues = s.queues ∧
    (s.setSem n x).started = s.started ∧ (s.setSem n x).held = s.held ∧ (s.setSem n x).evq = s.evq ∧ (s.setSem n x).se = s.se ∧
    (s.setSem n x).slots = s.slots ∧ (s.setSem n x).parks = s.parks ∧ (s.setSem n x).holds = s.holds ∧ (s.setSem n x).infs = s.infs ∧
    (s.setSem n x).wxs = s.wxs ∧ (s.setSem n x).wx = s.wx ∧ (s.setSem n x).hearths = s.hearths ∧ (s.setSem n x).pts = s.pts ∧
    (s.setSem n x).images = s.images ∧ (s.setSem n x).lift = s.lift ∧ (s.setSem n x).fab = s.fab ∧ (s.setSem n x).fbx = s.fbx ∧
    (s.setSem n x).mc = s.mc ∧ (s.setSem n x).up = s.up ∧ (s.setSem n x).epochs = s.epochs ∧ (s.setSem n x).resets = s.resets ∧
    (s.setSem n x).meter = s.meter ∧ (s.setSem n x).host = s.host ∧ (s.setSem n x).holdSeq = s.holdSeq ∧ (s.setSem n x).nowUs = s.nowUs ∧
    (s.setSem n x).freeCtr = s.freeCtr ∧ (s.setSem n x).reply = s.reply ∧ (s.setSem n x).out = s.out ∧ (s.setSem n x).pending = s.pending ∧
    State.rd (s.setSem n x) = State.rd s ∧ State.frc (s.setSem n x) = State.frc s ∧ State.rd64 (s.setSem n x) = State.rd64 s ∧ State.frc64 (s.setSem n x) = State.frc64 s ∧
    State.hdr (s.setSem n x) = State.hdr s ∧ State.latchOf (s.setSem n x) = State.latchOf s ∧ State.page (s.setSem n x) = State.page s ∧ State.lineMeta (s.setSem n x) = State.lineMeta s ∧
    State.region (s.setSem n x) = State.region s ∧ State.keygenAt (s.setSem n x) = State.keygenAt s ∧ State.byteAt (s.setSem n x) = State.byteAt s ∧ State.seOf (s.setSem n x) = State.seOf s ∧
    State.slot (s.setSem n x) = State.slot s ∧ State.hold (s.setSem n x) = State.hold s ∧ State.inf (s.setSem n x) = State.inf s ∧ State.wxOf (s.setSem n x) = State.wxOf s ∧
    State.hearth (s.setSem n x) = State.hearth s ∧ State.pt (s.setSem n x) = State.pt s ∧ State.queue (s.setSem n x) = State.queue s ∧ State.link (s.setSem n x) = State.link s ∧
    State.heldOf (s.setSem n x) = State.heldOf s ∧ State.findCmd (s.setSem n x) = State.findCmd s ∧ State.enabled (s.setSem n x) = State.enabled s ∧ State.ringRoom (s.setSem n x) = State.ringRoom s ∧
    State.ringCount (s.setSem n x) = State.ringCount s ∧ State.ringSize (s.setSem n x) = State.ringSize s ∧ State.ringAddr (s.setSem n x) = State.ringAddr s := by
  and_intros <;> rfl

@[simp] theorem State.setLink_fields (s : State) (n : Nat) (x : Link) :
    (s.setLink n x).part = s.part ∧ (s.setLink n x).regs = s.regs ∧ (s.setLink n x).force = s.force ∧ (s.setLink n x).pages = s.pages ∧
    (s.setLink n x).latch = s.latch ∧ (s.setLink n x).tbData = s.tbData ∧ (s.setLink n x).mem = s.mem ∧ (s.setLink n x).queues = s.queues ∧
    (s.setLink n x).started = s.started ∧ (s.setLink n x).held = s.held ∧ (s.setLink n x).evq = s.evq ∧ (s.setLink n x).se = s.se ∧
    (s.setLink n x).slots = s.slots ∧ (s.setLink n x).parks = s.parks ∧ (s.setLink n x).holds = s.holds ∧ (s.setLink n x).infs = s.infs ∧
    (s.setLink n x).wxs = s.wxs ∧ (s.setLink n x).wx = s.wx ∧ (s.setLink n x).hearths = s.hearths ∧ (s.setLink n x).pts = s.pts ∧
    (s.setLink n x).images = s.images ∧ (s.setLink n x).lift = s.lift ∧ (s.setLink n x).sems = s.sems ∧ (s.setLink n x).fbx = s.fbx ∧
    (s.setLink n x).mc = s.mc ∧ (s.setLink n x).up = s.up ∧ (s.setLink n x).epochs = s.epochs ∧ (s.setLink n x).resets = s.resets ∧
    (s.setLink n x).meter = s.meter ∧ (s.setLink n x).host = s.host ∧ (s.setLink n x).holdSeq = s.holdSeq ∧ (s.setLink n x).nowUs = s.nowUs ∧
    (s.setLink n x).freeCtr = s.freeCtr ∧ (s.setLink n x).reply = s.reply ∧ (s.setLink n x).out = s.out ∧ (s.setLink n x).pending = s.pending ∧
    State.rd (s.setLink n x) = State.rd s ∧ State.frc (s.setLink n x) = State.frc s ∧ State.rd64 (s.setLink n x) = State.rd64 s ∧ State.frc64 (s.setLink n x) = State.frc64 s ∧
    State.hdr (s.setLink n x) = State.hdr s ∧ State.latchOf (s.setLink n x) = State.latchOf s ∧ State.page (s.setLink n x) = State.page s ∧ State.lineMeta (s.setLink n x) = State.lineMeta s ∧
    State.region (s.setLink n x) = State.region s ∧ State.keygenAt (s.setLink n x) = State.keygenAt s ∧ State.byteAt (s.setLink n x) = State.byteAt s ∧ State.seOf (s.setLink n x) = State.seOf s ∧
    State.slot (s.setLink n x) = State.slot s ∧ State.hold (s.setLink n x) = State.hold s ∧ State.inf (s.setLink n x) = State.inf s ∧ State.wxOf (s.setLink n x) = State.wxOf s ∧
    State.hearth (s.setLink n x) = State.hearth s ∧ State.pt (s.setLink n x) = State.pt s ∧ State.queue (s.setLink n x) = State.queue s ∧ State.sem (s.setLink n x) = State.sem s ∧
    State.heldOf (s.setLink n x) = State.heldOf s ∧ State.findCmd (s.setLink n x) = State.findCmd s ∧ State.enabled (s.setLink n x) = State.enabled s ∧ State.ringRoom (s.setLink n x) = State.ringRoom s ∧
    State.ringCount (s.setLink n x) = State.ringCount s ∧ State.ringSize (s.setLink n x) = State.ringSize s ∧ State.ringAddr (s.setLink n x) = State.ringAddr s := by
  and_intros <;> rfl

@[simp] theorem State.setRegion_fields (s : State) (n : Nat) (x : Region) :
    (s.setRegion n x).part = s.part ∧ (s.setRegion n x).regs = s.regs ∧ (s.setRegion n x).force = s.force ∧ (s.setRegion n x).pages = s.pages ∧
    (s.setRegion n x).latch = s.latch ∧ (s.setRegion n x).tbData = s.tbData ∧ (s.setRegion n x).mem = s.mem ∧ (s.setRegion n x).queues = s.queues ∧
    (s.setRegion n x).started = s.started ∧ (s.setRegion n x).held = s.held ∧ (s.setRegion n x).evq = s.evq ∧ (s.setRegion n x).se = s.se ∧
    (s.setRegion n x).slots = s.slots ∧ (s.setRegion n x).parks = s.parks ∧ (s.setRegion n x).holds = s.holds ∧ (s.setRegion n x).infs = s.infs ∧
    (s.setRegion n x).wxs = s.wxs ∧ (s.setRegion n x).wx = s.wx ∧ (s.setRegion n x).hearths = s.hearths ∧ (s.setRegion n x).pts = s.pts ∧
    (s.setRegion n x).images = s.images ∧ (s.setRegion n x).lift = s.lift ∧ (s.setRegion n x).fab = s.fab ∧ (s.setRegion n x).sems = s.sems ∧
    (s.setRegion n x).mc = s.mc ∧ (s.setRegion n x).up = s.up ∧ (s.setRegion n x).epochs = s.epochs ∧ (s.setRegion n x).resets = s.resets ∧
    (s.setRegion n x).meter = s.meter ∧ (s.setRegion n x).host = s.host ∧ (s.setRegion n x).holdSeq = s.holdSeq ∧ (s.setRegion n x).nowUs = s.nowUs ∧
    (s.setRegion n x).freeCtr = s.freeCtr ∧ (s.setRegion n x).reply = s.reply ∧ (s.setRegion n x).out = s.out ∧ (s.setRegion n x).pending = s.pending ∧
    State.rd (s.setRegion n x) = State.rd s ∧ State.frc (s.setRegion n x) = State.frc s ∧ State.rd64 (s.setRegion n x) = State.rd64 s ∧ State.frc64 (s.setRegion n x) = State.frc64 s ∧
    State.hdr (s.setRegion n x) = State.hdr s ∧ State.latchOf (s.setRegion n x) = State.latchOf s ∧ State.page (s.setRegion n x) = State.page s ∧ State.lineMeta (s.setRegion n x) = State.lineMeta s ∧
    State.seOf (s.setRegion n x) = State.seOf s ∧ State.slot (s.setRegion n x) = State.slot s ∧ State.hold (s.setRegion n x) = State.hold s ∧ State.inf (s.setRegion n x) = State.inf s ∧
    State.wxOf (s.setRegion n x) = State.wxOf s ∧ State.hearth (s.setRegion n x) = State.hearth s ∧ State.pt (s.setRegion n x) = State.pt s ∧ State.queue (s.setRegion n x) = State.queue s ∧
    State.sem (s.setRegion n x) = State.sem s ∧ State.link (s.setRegion n x) = State.link s ∧ State.heldOf (s.setRegion n x) = State.heldOf s ∧ State.findCmd (s.setRegion n x) = State.findCmd s ∧
    State.enabled (s.setRegion n x) = State.enabled s ∧ State.ringRoom (s.setRegion n x) = State.ringRoom s ∧ State.ringCount (s.setRegion n x) = State.ringCount s ∧ State.ringSize (s.setRegion n x) = State.ringSize s ∧
    State.ringAddr (s.setRegion n x) = State.ringAddr s := by
  and_intros <;> rfl

@[simp] theorem State.setHeld_fields (s : State) (n : Nat) (x : HeldRecs) :
    (s.setHeld n x).part = s.part ∧ (s.setHeld n x).regs = s.regs ∧ (s.setHeld n x).force = s.force ∧ (s.setHeld n x).pages = s.pages ∧
    (s.setHeld n x).latch = s.latch ∧ (s.setHeld n x).tbData = s.tbData ∧ (s.setHeld n x).mem = s.mem ∧ (s.setHeld n x).queues = s.queues ∧
    (s.setHeld n x).started = s.started ∧ (s.setHeld n x).evq = s.evq ∧ (s.setHeld n x).se = s.se ∧ (s.setHeld n x).slots = s.slots ∧
    (s.setHeld n x).parks = s.parks ∧ (s.setHeld n x).holds = s.holds ∧ (s.setHeld n x).infs = s.infs ∧ (s.setHeld n x).wxs = s.wxs ∧
    (s.setHeld n x).wx = s.wx ∧ (s.setHeld n x).hearths = s.hearths ∧ (s.setHeld n x).pts = s.pts ∧ (s.setHeld n x).images = s.images ∧
    (s.setHeld n x).lift = s.lift ∧ (s.setHeld n x).fab = s.fab ∧ (s.setHeld n x).sems = s.sems ∧ (s.setHeld n x).fbx = s.fbx ∧
    (s.setHeld n x).mc = s.mc ∧ (s.setHeld n x).up = s.up ∧ (s.setHeld n x).epochs = s.epochs ∧ (s.setHeld n x).resets = s.resets ∧
    (s.setHeld n x).meter = s.meter ∧ (s.setHeld n x).host = s.host ∧ (s.setHeld n x).holdSeq = s.holdSeq ∧ (s.setHeld n x).nowUs = s.nowUs ∧
    (s.setHeld n x).freeCtr = s.freeCtr ∧ (s.setHeld n x).reply = s.reply ∧ (s.setHeld n x).out = s.out ∧ (s.setHeld n x).pending = s.pending ∧
    State.rd (s.setHeld n x) = State.rd s ∧ State.frc (s.setHeld n x) = State.frc s ∧ State.rd64 (s.setHeld n x) = State.rd64 s ∧ State.frc64 (s.setHeld n x) = State.frc64 s ∧
    State.hdr (s.setHeld n x) = State.hdr s ∧ State.latchOf (s.setHeld n x) = State.latchOf s ∧ State.page (s.setHeld n x) = State.page s ∧ State.lineMeta (s.setHeld n x) = State.lineMeta s ∧
    State.region (s.setHeld n x) = State.region s ∧ State.keygenAt (s.setHeld n x) = State.keygenAt s ∧ State.byteAt (s.setHeld n x) = State.byteAt s ∧ State.seOf (s.setHeld n x) = State.seOf s ∧
    State.slot (s.setHeld n x) = State.slot s ∧ State.hold (s.setHeld n x) = State.hold s ∧ State.inf (s.setHeld n x) = State.inf s ∧ State.wxOf (s.setHeld n x) = State.wxOf s ∧
    State.hearth (s.setHeld n x) = State.hearth s ∧ State.pt (s.setHeld n x) = State.pt s ∧ State.queue (s.setHeld n x) = State.queue s ∧ State.sem (s.setHeld n x) = State.sem s ∧
    State.link (s.setHeld n x) = State.link s ∧ State.findCmd (s.setHeld n x) = State.findCmd s ∧ State.enabled (s.setHeld n x) = State.enabled s ∧ State.ringRoom (s.setHeld n x) = State.ringRoom s ∧
    State.ringCount (s.setHeld n x) = State.ringCount s ∧ State.ringSize (s.setHeld n x) = State.ringSize s ∧ State.ringAddr (s.setHeld n x) = State.ringAddr s := by
  and_intros <;> rfl

@[simp] theorem State.setReply_fields (s : State) (r : Reply) :
    (s.setReply r).part = s.part ∧ (s.setReply r).regs = s.regs ∧ (s.setReply r).force = s.force ∧ (s.setReply r).pages = s.pages ∧
    (s.setReply r).latch = s.latch ∧ (s.setReply r).tbData = s.tbData ∧ (s.setReply r).mem = s.mem ∧ (s.setReply r).queues = s.queues ∧
    (s.setReply r).started = s.started ∧ (s.setReply r).held = s.held ∧ (s.setReply r).evq = s.evq ∧ (s.setReply r).se = s.se ∧
    (s.setReply r).slots = s.slots ∧ (s.setReply r).parks = s.parks ∧ (s.setReply r).holds = s.holds ∧ (s.setReply r).infs = s.infs ∧
    (s.setReply r).wxs = s.wxs ∧ (s.setReply r).wx = s.wx ∧ (s.setReply r).hearths = s.hearths ∧ (s.setReply r).pts = s.pts ∧
    (s.setReply r).images = s.images ∧ (s.setReply r).lift = s.lift ∧ (s.setReply r).fab = s.fab ∧ (s.setReply r).sems = s.sems ∧
    (s.setReply r).fbx = s.fbx ∧ (s.setReply r).mc = s.mc ∧ (s.setReply r).up = s.up ∧ (s.setReply r).epochs = s.epochs ∧
    (s.setReply r).resets = s.resets ∧ (s.setReply r).meter = s.meter ∧ (s.setReply r).host = s.host ∧ (s.setReply r).holdSeq = s.holdSeq ∧
    (s.setReply r).nowUs = s.nowUs ∧ (s.setReply r).freeCtr = s.freeCtr ∧ (s.setReply r).reply = r ∧ (s.setReply r).out = s.out ∧
    (s.setReply r).pending = s.pending ∧ State.rd (s.setReply r) = State.rd s ∧ State.frc (s.setReply r) = State.frc s ∧ State.rd64 (s.setReply r) = State.rd64 s ∧
    State.frc64 (s.setReply r) = State.frc64 s ∧ State.hdr (s.setReply r) = State.hdr s ∧ State.latchOf (s.setReply r) = State.latchOf s ∧ State.page (s.setReply r) = State.page s ∧
    State.lineMeta (s.setReply r) = State.lineMeta s ∧ State.region (s.setReply r) = State.region s ∧ State.keygenAt (s.setReply r) = State.keygenAt s ∧ State.byteAt (s.setReply r) = State.byteAt s ∧
    State.seOf (s.setReply r) = State.seOf s ∧ State.slot (s.setReply r) = State.slot s ∧ State.hold (s.setReply r) = State.hold s ∧ State.inf (s.setReply r) = State.inf s ∧
    State.wxOf (s.setReply r) = State.wxOf s ∧ State.hearth (s.setReply r) = State.hearth s ∧ State.pt (s.setReply r) = State.pt s ∧ State.queue (s.setReply r) = State.queue s ∧
    State.sem (s.setReply r) = State.sem s ∧ State.link (s.setReply r) = State.link s ∧ State.heldOf (s.setReply r) = State.heldOf s ∧ State.findCmd (s.setReply r) = State.findCmd s ∧
    State.enabled (s.setReply r) = State.enabled s ∧ State.ringRoom (s.setReply r) = State.ringRoom s ∧ State.ringCount (s.setReply r) = State.ringCount s ∧ State.ringSize (s.setReply r) = State.ringSize s ∧
    State.ringAddr (s.setReply r) = State.ringAddr s := by
  and_intros <;> rfl

@[simp] theorem State.setMc_fields (s : State) (x : Mc) :
    (s.setMc x).part = s.part ∧ (s.setMc x).regs = s.regs ∧ (s.setMc x).force = s.force ∧ (s.setMc x).pages = s.pages ∧
    (s.setMc x).latch = s.latch ∧ (s.setMc x).tbData = s.tbData ∧ (s.setMc x).mem = s.mem ∧ (s.setMc x).queues = s.queues ∧
    (s.setMc x).started = s.started ∧ (s.setMc x).held = s.held ∧ (s.setMc x).evq = s.evq ∧ (s.setMc x).se = s.se ∧
    (s.setMc x).slots = s.slots ∧ (s.setMc x).parks = s.parks ∧ (s.setMc x).holds = s.holds ∧ (s.setMc x).infs = s.infs ∧
    (s.setMc x).wxs = s.wxs ∧ (s.setMc x).wx = s.wx ∧ (s.setMc x).hearths = s.hearths ∧ (s.setMc x).pts = s.pts ∧
    (s.setMc x).images = s.images ∧ (s.setMc x).lift = s.lift ∧ (s.setMc x).fab = s.fab ∧ (s.setMc x).sems = s.sems ∧
    (s.setMc x).fbx = s.fbx ∧ (s.setMc x).mc = x ∧ (s.setMc x).up = s.up ∧ (s.setMc x).epochs = s.epochs ∧
    (s.setMc x).resets = s.resets ∧ (s.setMc x).meter = s.meter ∧ (s.setMc x).host = s.host ∧ (s.setMc x).holdSeq = s.holdSeq ∧
    (s.setMc x).nowUs = s.nowUs ∧ (s.setMc x).freeCtr = s.freeCtr ∧ (s.setMc x).reply = s.reply ∧ (s.setMc x).out = s.out ∧
    (s.setMc x).pending = s.pending ∧ State.rd (s.setMc x) = State.rd s ∧ State.frc (s.setMc x) = State.frc s ∧ State.rd64 (s.setMc x) = State.rd64 s ∧
    State.frc64 (s.setMc x) = State.frc64 s ∧ State.hdr (s.setMc x) = State.hdr s ∧ State.latchOf (s.setMc x) = State.latchOf s ∧ State.page (s.setMc x) = State.page s ∧
    State.lineMeta (s.setMc x) = State.lineMeta s ∧ State.region (s.setMc x) = State.region s ∧ State.keygenAt (s.setMc x) = State.keygenAt s ∧ State.byteAt (s.setMc x) = State.byteAt s ∧
    State.seOf (s.setMc x) = State.seOf s ∧ State.slot (s.setMc x) = State.slot s ∧ State.hold (s.setMc x) = State.hold s ∧ State.inf (s.setMc x) = State.inf s ∧
    State.wxOf (s.setMc x) = State.wxOf s ∧ State.hearth (s.setMc x) = State.hearth s ∧ State.pt (s.setMc x) = State.pt s ∧ State.queue (s.setMc x) = State.queue s ∧
    State.sem (s.setMc x) = State.sem s ∧ State.link (s.setMc x) = State.link s ∧ State.heldOf (s.setMc x) = State.heldOf s ∧ State.findCmd (s.setMc x) = State.findCmd s ∧
    State.enabled (s.setMc x) = State.enabled s ∧ State.ringRoom (s.setMc x) = State.ringRoom s ∧ State.ringCount (s.setMc x) = State.ringCount s ∧ State.ringSize (s.setMc x) = State.ringSize s ∧
    State.ringAddr (s.setMc x) = State.ringAddr s := by
  and_intros <;> rfl

@[simp] theorem State.setLift_fields (s : State) (x : Lift) :
    (s.setLift x).part = s.part ∧ (s.setLift x).regs = s.regs ∧ (s.setLift x).force = s.force ∧ (s.setLift x).pages = s.pages ∧
    (s.setLift x).latch = s.latch ∧ (s.setLift x).tbData = s.tbData ∧ (s.setLift x).mem = s.mem ∧ (s.setLift x).queues = s.queues ∧
    (s.setLift x).started = s.started ∧ (s.setLift x).held = s.held ∧ (s.setLift x).evq = s.evq ∧ (s.setLift x).se = s.se ∧
    (s.setLift x).slots = s.slots ∧ (s.setLift x).parks = s.parks ∧ (s.setLift x).holds = s.holds ∧ (s.setLift x).infs = s.infs ∧
    (s.setLift x).wxs = s.wxs ∧ (s.setLift x).wx = s.wx ∧ (s.setLift x).hearths = s.hearths ∧ (s.setLift x).pts = s.pts ∧
    (s.setLift x).images = s.images ∧ (s.setLift x).lift = x ∧ (s.setLift x).fab = s.fab ∧ (s.setLift x).sems = s.sems ∧
    (s.setLift x).fbx = s.fbx ∧ (s.setLift x).mc = s.mc ∧ (s.setLift x).up = s.up ∧ (s.setLift x).epochs = s.epochs ∧
    (s.setLift x).resets = s.resets ∧ (s.setLift x).meter = s.meter ∧ (s.setLift x).host = s.host ∧ (s.setLift x).holdSeq = s.holdSeq ∧
    (s.setLift x).nowUs = s.nowUs ∧ (s.setLift x).freeCtr = s.freeCtr ∧ (s.setLift x).reply = s.reply ∧ (s.setLift x).out = s.out ∧
    (s.setLift x).pending = s.pending ∧ State.rd (s.setLift x) = State.rd s ∧ State.frc (s.setLift x) = State.frc s ∧ State.rd64 (s.setLift x) = State.rd64 s ∧
    State.frc64 (s.setLift x) = State.frc64 s ∧ State.hdr (s.setLift x) = State.hdr s ∧ State.latchOf (s.setLift x) = State.latchOf s ∧ State.page (s.setLift x) = State.page s ∧
    State.lineMeta (s.setLift x) = State.lineMeta s ∧ State.region (s.setLift x) = State.region s ∧ State.keygenAt (s.setLift x) = State.keygenAt s ∧ State.seOf (s.setLift x) = State.seOf s ∧
    State.slot (s.setLift x) = State.slot s ∧ State.hold (s.setLift x) = State.hold s ∧ State.inf (s.setLift x) = State.inf s ∧ State.wxOf (s.setLift x) = State.wxOf s ∧
    State.hearth (s.setLift x) = State.hearth s ∧ State.pt (s.setLift x) = State.pt s ∧ State.queue (s.setLift x) = State.queue s ∧ State.sem (s.setLift x) = State.sem s ∧
    State.link (s.setLift x) = State.link s ∧ State.heldOf (s.setLift x) = State.heldOf s ∧ State.findCmd (s.setLift x) = State.findCmd s ∧ State.enabled (s.setLift x) = State.enabled s ∧
    State.ringRoom (s.setLift x) = State.ringRoom s ∧ State.ringCount (s.setLift x) = State.ringCount s ∧ State.ringSize (s.setLift x) = State.ringSize s ∧ State.ringAddr (s.setLift x) = State.ringAddr s := by
  and_intros <;> rfl

@[simp] theorem State.setFab_fields (s : State) (x : Fabric) :
    (s.setFab x).part = s.part ∧ (s.setFab x).regs = s.regs ∧ (s.setFab x).force = s.force ∧ (s.setFab x).pages = s.pages ∧
    (s.setFab x).latch = s.latch ∧ (s.setFab x).tbData = s.tbData ∧ (s.setFab x).mem = s.mem ∧ (s.setFab x).queues = s.queues ∧
    (s.setFab x).started = s.started ∧ (s.setFab x).held = s.held ∧ (s.setFab x).evq = s.evq ∧ (s.setFab x).se = s.se ∧
    (s.setFab x).slots = s.slots ∧ (s.setFab x).parks = s.parks ∧ (s.setFab x).holds = s.holds ∧ (s.setFab x).infs = s.infs ∧
    (s.setFab x).wxs = s.wxs ∧ (s.setFab x).wx = s.wx ∧ (s.setFab x).hearths = s.hearths ∧ (s.setFab x).pts = s.pts ∧
    (s.setFab x).images = s.images ∧ (s.setFab x).lift = s.lift ∧ (s.setFab x).fab = x ∧ (s.setFab x).sems = s.sems ∧
    (s.setFab x).fbx = s.fbx ∧ (s.setFab x).mc = s.mc ∧ (s.setFab x).up = s.up ∧ (s.setFab x).epochs = s.epochs ∧
    (s.setFab x).resets = s.resets ∧ (s.setFab x).meter = s.meter ∧ (s.setFab x).host = s.host ∧ (s.setFab x).holdSeq = s.holdSeq ∧
    (s.setFab x).nowUs = s.nowUs ∧ (s.setFab x).freeCtr = s.freeCtr ∧ (s.setFab x).reply = s.reply ∧ (s.setFab x).out = s.out ∧
    (s.setFab x).pending = s.pending ∧ State.rd (s.setFab x) = State.rd s ∧ State.frc (s.setFab x) = State.frc s ∧ State.rd64 (s.setFab x) = State.rd64 s ∧
    State.frc64 (s.setFab x) = State.frc64 s ∧ State.hdr (s.setFab x) = State.hdr s ∧ State.latchOf (s.setFab x) = State.latchOf s ∧ State.page (s.setFab x) = State.page s ∧
    State.lineMeta (s.setFab x) = State.lineMeta s ∧ State.region (s.setFab x) = State.region s ∧ State.keygenAt (s.setFab x) = State.keygenAt s ∧ State.byteAt (s.setFab x) = State.byteAt s ∧
    State.seOf (s.setFab x) = State.seOf s ∧ State.slot (s.setFab x) = State.slot s ∧ State.hold (s.setFab x) = State.hold s ∧ State.inf (s.setFab x) = State.inf s ∧
    State.wxOf (s.setFab x) = State.wxOf s ∧ State.hearth (s.setFab x) = State.hearth s ∧ State.pt (s.setFab x) = State.pt s ∧ State.queue (s.setFab x) = State.queue s ∧
    State.sem (s.setFab x) = State.sem s ∧ State.heldOf (s.setFab x) = State.heldOf s ∧ State.findCmd (s.setFab x) = State.findCmd s ∧ State.enabled (s.setFab x) = State.enabled s ∧
    State.ringRoom (s.setFab x) = State.ringRoom s ∧ State.ringCount (s.setFab x) = State.ringCount s ∧ State.ringSize (s.setFab x) = State.ringSize s ∧ State.ringAddr (s.setFab x) = State.ringAddr s := by
  and_intros <;> rfl

@[simp] theorem State.setFbx_fields (s : State) (x : Fbx) :
    (s.setFbx x).part = s.part ∧ (s.setFbx x).regs = s.regs ∧ (s.setFbx x).force = s.force ∧ (s.setFbx x).pages = s.pages ∧
    (s.setFbx x).latch = s.latch ∧ (s.setFbx x).tbData = s.tbData ∧ (s.setFbx x).mem = s.mem ∧ (s.setFbx x).queues = s.queues ∧
    (s.setFbx x).started = s.started ∧ (s.setFbx x).held = s.held ∧ (s.setFbx x).evq = s.evq ∧ (s.setFbx x).se = s.se ∧
    (s.setFbx x).slots = s.slots ∧ (s.setFbx x).parks = s.parks ∧ (s.setFbx x).holds = s.holds ∧ (s.setFbx x).infs = s.infs ∧
    (s.setFbx x).wxs = s.wxs ∧ (s.setFbx x).wx = s.wx ∧ (s.setFbx x).hearths = s.hearths ∧ (s.setFbx x).pts = s.pts ∧
    (s.setFbx x).images = s.images ∧ (s.setFbx x).lift = s.lift ∧ (s.setFbx x).fab = s.fab ∧ (s.setFbx x).sems = s.sems ∧
    (s.setFbx x).fbx = x ∧ (s.setFbx x).mc = s.mc ∧ (s.setFbx x).up = s.up ∧ (s.setFbx x).epochs = s.epochs ∧
    (s.setFbx x).resets = s.resets ∧ (s.setFbx x).meter = s.meter ∧ (s.setFbx x).host = s.host ∧ (s.setFbx x).holdSeq = s.holdSeq ∧
    (s.setFbx x).nowUs = s.nowUs ∧ (s.setFbx x).freeCtr = s.freeCtr ∧ (s.setFbx x).reply = s.reply ∧ (s.setFbx x).out = s.out ∧
    (s.setFbx x).pending = s.pending ∧ State.rd (s.setFbx x) = State.rd s ∧ State.frc (s.setFbx x) = State.frc s ∧ State.rd64 (s.setFbx x) = State.rd64 s ∧
    State.frc64 (s.setFbx x) = State.frc64 s ∧ State.hdr (s.setFbx x) = State.hdr s ∧ State.latchOf (s.setFbx x) = State.latchOf s ∧ State.page (s.setFbx x) = State.page s ∧
    State.lineMeta (s.setFbx x) = State.lineMeta s ∧ State.seOf (s.setFbx x) = State.seOf s ∧ State.slot (s.setFbx x) = State.slot s ∧ State.hold (s.setFbx x) = State.hold s ∧
    State.inf (s.setFbx x) = State.inf s ∧ State.wxOf (s.setFbx x) = State.wxOf s ∧ State.hearth (s.setFbx x) = State.hearth s ∧ State.pt (s.setFbx x) = State.pt s ∧
    State.queue (s.setFbx x) = State.queue s ∧ State.sem (s.setFbx x) = State.sem s ∧ State.link (s.setFbx x) = State.link s ∧ State.heldOf (s.setFbx x) = State.heldOf s ∧
    State.findCmd (s.setFbx x) = State.findCmd s ∧ State.enabled (s.setFbx x) = State.enabled s ∧ State.ringRoom (s.setFbx x) = State.ringRoom s ∧ State.ringCount (s.setFbx x) = State.ringCount s ∧
    State.ringSize (s.setFbx x) = State.ringSize s ∧ State.ringAddr (s.setFbx x) = State.ringAddr s := by
  and_intros <;> rfl

@[simp] theorem State.setMeter_fields (s : State) (x : Meter) :
    (s.setMeter x).part = s.part ∧ (s.setMeter x).regs = s.regs ∧ (s.setMeter x).force = s.force ∧ (s.setMeter x).pages = s.pages ∧
    (s.setMeter x).latch = s.latch ∧ (s.setMeter x).tbData = s.tbData ∧ (s.setMeter x).mem = s.mem ∧ (s.setMeter x).queues = s.queues ∧
    (s.setMeter x).started = s.started ∧ (s.setMeter x).held = s.held ∧ (s.setMeter x).evq = s.evq ∧ (s.setMeter x).se = s.se ∧
    (s.setMeter x).slots = s.slots ∧ (s.setMeter x).parks = s.parks ∧ (s.setMeter x).holds = s.holds ∧ (s.setMeter x).infs = s.infs ∧
    (s.setMeter x).wxs = s.wxs ∧ (s.setMeter x).wx = s.wx ∧ (s.setMeter x).hearths = s.hearths ∧ (s.setMeter x).pts = s.pts ∧
    (s.setMeter x).images = s.images ∧ (s.setMeter x).lift = s.lift ∧ (s.setMeter x).fab = s.fab ∧ (s.setMeter x).sems = s.sems ∧
    (s.setMeter x).fbx = s.fbx ∧ (s.setMeter x).mc = s.mc ∧ (s.setMeter x).up = s.up ∧ (s.setMeter x).epochs = s.epochs ∧
    (s.setMeter x).resets = s.resets ∧ (s.setMeter x).meter = x ∧ (s.setMeter x).host = s.host ∧ (s.setMeter x).holdSeq = s.holdSeq ∧
    (s.setMeter x).nowUs = s.nowUs ∧ (s.setMeter x).freeCtr = s.freeCtr ∧ (s.setMeter x).reply = s.reply ∧ (s.setMeter x).out = s.out ∧
    (s.setMeter x).pending = s.pending ∧ State.rd (s.setMeter x) = State.rd s ∧ State.frc (s.setMeter x) = State.frc s ∧ State.rd64 (s.setMeter x) = State.rd64 s ∧
    State.frc64 (s.setMeter x) = State.frc64 s ∧ State.hdr (s.setMeter x) = State.hdr s ∧ State.latchOf (s.setMeter x) = State.latchOf s ∧ State.page (s.setMeter x) = State.page s ∧
    State.lineMeta (s.setMeter x) = State.lineMeta s ∧ State.region (s.setMeter x) = State.region s ∧ State.keygenAt (s.setMeter x) = State.keygenAt s ∧ State.byteAt (s.setMeter x) = State.byteAt s ∧
    State.seOf (s.setMeter x) = State.seOf s ∧ State.slot (s.setMeter x) = State.slot s ∧ State.hold (s.setMeter x) = State.hold s ∧ State.inf (s.setMeter x) = State.inf s ∧
    State.wxOf (s.setMeter x) = State.wxOf s ∧ State.hearth (s.setMeter x) = State.hearth s ∧ State.pt (s.setMeter x) = State.pt s ∧ State.queue (s.setMeter x) = State.queue s ∧
    State.sem (s.setMeter x) = State.sem s ∧ State.link (s.setMeter x) = State.link s ∧ State.heldOf (s.setMeter x) = State.heldOf s ∧ State.findCmd (s.setMeter x) = State.findCmd s ∧
    State.enabled (s.setMeter x) = State.enabled s ∧ State.ringRoom (s.setMeter x) = State.ringRoom s ∧ State.ringCount (s.setMeter x) = State.ringCount s ∧ State.ringSize (s.setMeter x) = State.ringSize s ∧
    State.ringAddr (s.setMeter x) = State.ringAddr s := by
  and_intros <;> rfl

@[simp] theorem State.setHost_fields (s : State) (x : HostSt) :
    (s.setHost x).part = s.part ∧ (s.setHost x).regs = s.regs ∧ (s.setHost x).force = s.force ∧ (s.setHost x).pages = s.pages ∧
    (s.setHost x).latch = s.latch ∧ (s.setHost x).tbData = s.tbData ∧ (s.setHost x).mem = s.mem ∧ (s.setHost x).queues = s.queues ∧
    (s.setHost x).started = s.started ∧ (s.setHost x).held = s.held ∧ (s.setHost x).evq = s.evq ∧ (s.setHost x).se = s.se ∧
    (s.setHost x).slots = s.slots ∧ (s.setHost x).parks = s.parks ∧ (s.setHost x).holds = s.holds ∧ (s.setHost x).infs = s.infs ∧
    (s.setHost x).wxs = s.wxs ∧ (s.setHost x).wx = s.wx ∧ (s.setHost x).hearths = s.hearths ∧ (s.setHost x).pts = s.pts ∧
    (s.setHost x).images = s.images ∧ (s.setHost x).lift = s.lift ∧ (s.setHost x).fab = s.fab ∧ (s.setHost x).sems = s.sems ∧
    (s.setHost x).fbx = s.fbx ∧ (s.setHost x).mc = s.mc ∧ (s.setHost x).up = s.up ∧ (s.setHost x).epochs = s.epochs ∧
    (s.setHost x).resets = s.resets ∧ (s.setHost x).meter = s.meter ∧ (s.setHost x).host = x ∧ (s.setHost x).holdSeq = s.holdSeq ∧
    (s.setHost x).nowUs = s.nowUs ∧ (s.setHost x).freeCtr = s.freeCtr ∧ (s.setHost x).reply = s.reply ∧ (s.setHost x).out = s.out ∧
    (s.setHost x).pending = s.pending ∧ State.rd (s.setHost x) = State.rd s ∧ State.frc (s.setHost x) = State.frc s ∧ State.rd64 (s.setHost x) = State.rd64 s ∧
    State.frc64 (s.setHost x) = State.frc64 s ∧ State.hdr (s.setHost x) = State.hdr s ∧ State.latchOf (s.setHost x) = State.latchOf s ∧ State.page (s.setHost x) = State.page s ∧
    State.lineMeta (s.setHost x) = State.lineMeta s ∧ State.region (s.setHost x) = State.region s ∧ State.keygenAt (s.setHost x) = State.keygenAt s ∧ State.byteAt (s.setHost x) = State.byteAt s ∧
    State.seOf (s.setHost x) = State.seOf s ∧ State.slot (s.setHost x) = State.slot s ∧ State.hold (s.setHost x) = State.hold s ∧ State.inf (s.setHost x) = State.inf s ∧
    State.wxOf (s.setHost x) = State.wxOf s ∧ State.hearth (s.setHost x) = State.hearth s ∧ State.pt (s.setHost x) = State.pt s ∧ State.queue (s.setHost x) = State.queue s ∧
    State.sem (s.setHost x) = State.sem s ∧ State.link (s.setHost x) = State.link s ∧ State.heldOf (s.setHost x) = State.heldOf s ∧ State.findCmd (s.setHost x) = State.findCmd s ∧
    State.enabled (s.setHost x) = State.enabled s ∧ State.ringRoom (s.setHost x) = State.ringRoom s ∧ State.ringCount (s.setHost x) = State.ringCount s ∧ State.ringSize (s.setHost x) = State.ringSize s ∧
    State.ringAddr (s.setHost x) = State.ringAddr s := by
  and_intros <;> rfl

@[simp] theorem State.setWax_fields (s : State) (x : WaxEng) :
    (s.setWax x).part = s.part ∧ (s.setWax x).regs = s.regs ∧ (s.setWax x).force = s.force ∧ (s.setWax x).pages = s.pages ∧
    (s.setWax x).latch = s.latch ∧ (s.setWax x).tbData = s.tbData ∧ (s.setWax x).mem = s.mem ∧ (s.setWax x).queues = s.queues ∧
    (s.setWax x).started = s.started ∧ (s.setWax x).held = s.held ∧ (s.setWax x).evq = s.evq ∧ (s.setWax x).se = s.se ∧
    (s.setWax x).slots = s.slots ∧ (s.setWax x).parks = s.parks ∧ (s.setWax x).holds = s.holds ∧ (s.setWax x).infs = s.infs ∧
    (s.setWax x).wxs = s.wxs ∧ (s.setWax x).wx = x ∧ (s.setWax x).hearths = s.hearths ∧ (s.setWax x).pts = s.pts ∧
    (s.setWax x).images = s.images ∧ (s.setWax x).lift = s.lift ∧ (s.setWax x).fab = s.fab ∧ (s.setWax x).sems = s.sems ∧
    (s.setWax x).fbx = s.fbx ∧ (s.setWax x).mc = s.mc ∧ (s.setWax x).up = s.up ∧ (s.setWax x).epochs = s.epochs ∧
    (s.setWax x).resets = s.resets ∧ (s.setWax x).meter = s.meter ∧ (s.setWax x).host = s.host ∧ (s.setWax x).holdSeq = s.holdSeq ∧
    (s.setWax x).nowUs = s.nowUs ∧ (s.setWax x).freeCtr = s.freeCtr ∧ (s.setWax x).reply = s.reply ∧ (s.setWax x).out = s.out ∧
    (s.setWax x).pending = s.pending ∧ State.rd (s.setWax x) = State.rd s ∧ State.frc (s.setWax x) = State.frc s ∧ State.rd64 (s.setWax x) = State.rd64 s ∧
    State.frc64 (s.setWax x) = State.frc64 s ∧ State.hdr (s.setWax x) = State.hdr s ∧ State.latchOf (s.setWax x) = State.latchOf s ∧ State.page (s.setWax x) = State.page s ∧
    State.lineMeta (s.setWax x) = State.lineMeta s ∧ State.region (s.setWax x) = State.region s ∧ State.keygenAt (s.setWax x) = State.keygenAt s ∧ State.byteAt (s.setWax x) = State.byteAt s ∧
    State.seOf (s.setWax x) = State.seOf s ∧ State.slot (s.setWax x) = State.slot s ∧ State.hold (s.setWax x) = State.hold s ∧ State.inf (s.setWax x) = State.inf s ∧
    State.wxOf (s.setWax x) = State.wxOf s ∧ State.hearth (s.setWax x) = State.hearth s ∧ State.pt (s.setWax x) = State.pt s ∧ State.queue (s.setWax x) = State.queue s ∧
    State.sem (s.setWax x) = State.sem s ∧ State.link (s.setWax x) = State.link s ∧ State.heldOf (s.setWax x) = State.heldOf s ∧ State.findCmd (s.setWax x) = State.findCmd s ∧
    State.enabled (s.setWax x) = State.enabled s ∧ State.ringRoom (s.setWax x) = State.ringRoom s ∧ State.ringCount (s.setWax x) = State.ringCount s ∧ State.ringSize (s.setWax x) = State.ringSize s ∧
    State.ringAddr (s.setWax x) = State.ringAddr s := by
  and_intros <;> rfl

@[simp] theorem State.setMem_fields (s : State) (x : Mem) :
    (s.setMem x).part = s.part ∧ (s.setMem x).regs = s.regs ∧ (s.setMem x).force = s.force ∧ (s.setMem x).pages = s.pages ∧
    (s.setMem x).latch = s.latch ∧ (s.setMem x).tbData = s.tbData ∧ (s.setMem x).mem = x ∧ (s.setMem x).queues = s.queues ∧
    (s.setMem x).started = s.started ∧ (s.setMem x).held = s.held ∧ (s.setMem x).evq = s.evq ∧ (s.setMem x).se = s.se ∧
    (s.setMem x).slots = s.slots ∧ (s.setMem x).parks = s.parks ∧ (s.setMem x).holds = s.holds ∧ (s.setMem x).infs = s.infs ∧
    (s.setMem x).wxs = s.wxs ∧ (s.setMem x).wx = s.wx ∧ (s.setMem x).hearths = s.hearths ∧ (s.setMem x).pts = s.pts ∧
    (s.setMem x).images = s.images ∧ (s.setMem x).lift = s.lift ∧ (s.setMem x).fab = s.fab ∧ (s.setMem x).sems = s.sems ∧
    (s.setMem x).fbx = s.fbx ∧ (s.setMem x).mc = s.mc ∧ (s.setMem x).up = s.up ∧ (s.setMem x).epochs = s.epochs ∧
    (s.setMem x).resets = s.resets ∧ (s.setMem x).meter = s.meter ∧ (s.setMem x).host = s.host ∧ (s.setMem x).holdSeq = s.holdSeq ∧
    (s.setMem x).nowUs = s.nowUs ∧ (s.setMem x).freeCtr = s.freeCtr ∧ (s.setMem x).reply = s.reply ∧ (s.setMem x).out = s.out ∧
    (s.setMem x).pending = s.pending ∧ State.rd (s.setMem x) = State.rd s ∧ State.frc (s.setMem x) = State.frc s ∧ State.rd64 (s.setMem x) = State.rd64 s ∧
    State.frc64 (s.setMem x) = State.frc64 s ∧ State.hdr (s.setMem x) = State.hdr s ∧ State.latchOf (s.setMem x) = State.latchOf s ∧ State.region (s.setMem x) = State.region s ∧
    State.keygenAt (s.setMem x) = State.keygenAt s ∧ State.seOf (s.setMem x) = State.seOf s ∧ State.slot (s.setMem x) = State.slot s ∧ State.hold (s.setMem x) = State.hold s ∧
    State.inf (s.setMem x) = State.inf s ∧ State.wxOf (s.setMem x) = State.wxOf s ∧ State.hearth (s.setMem x) = State.hearth s ∧ State.pt (s.setMem x) = State.pt s ∧
    State.queue (s.setMem x) = State.queue s ∧ State.sem (s.setMem x) = State.sem s ∧ State.link (s.setMem x) = State.link s ∧ State.heldOf (s.setMem x) = State.heldOf s ∧
    State.findCmd (s.setMem x) = State.findCmd s ∧ State.enabled (s.setMem x) = State.enabled s ∧ State.ringRoom (s.setMem x) = State.ringRoom s ∧ State.ringCount (s.setMem x) = State.ringCount s ∧
    State.ringSize (s.setMem x) = State.ringSize s ∧ State.ringAddr (s.setMem x) = State.ringAddr s := by
  and_intros <;> rfl

/-! ## The changed entry -/

@[simp] theorem State.slot_setSlot (s : State) (n : Nat) (x : Slot) (j : Nat) : (s.setSlot n x).slot j = if j = n then x else s.slot j := AMap.get_put ..
@[simp] theorem State.hold_setHold (s : State) (n : Nat) (x : Hold) (j : Nat) : (s.setHold n x).hold j = if j = n then x else s.hold j := AMap.get_put ..
@[simp] theorem State.inf_setInf (s : State) (n : Nat) (x : InfSlot) (j : Nat) : (s.setInf n x).inf j = if j = n then x else s.inf j := AMap.get_put ..
@[simp] theorem State.wxOf_setWx (s : State) (n : Nat) (x : WaxingSlot) (j : Nat) : (s.setWx n x).wxOf j = if j = n then x else s.wxOf j := AMap.get_put ..
@[simp] theorem State.hearth_setHearth (s : State) (n : Nat) (x : Hearth) (j : Nat) : (s.setHearth n x).hearth j = if j = n then x else s.hearth j :=
  AMap.get_put ..
@[simp] theorem State.pt_setPt (s : State) (n : Nat) (x : Pt) (j : Nat) : (s.setPt n x).pt j = if j = n then x else s.pt j := AMap.get_put ..
@[simp] theorem State.queue_setQueue (s : State) (n : Nat) (x : Queue) (j : Nat) : (s.setQueue n x).queue j = if j = n then x else s.queue j :=
  AMap.get_put ..
@[simp] theorem State.sem_setSem (s : State) (n : Nat) (x : Sem) (j : Nat) : (s.setSem n x).sem j = if j = n then x else s.sem j := AMap.get_put ..
@[simp] theorem State.link_setLink (s : State) (n : Nat) (x : Link) (j : Nat) : (s.setLink n x).link j = if j = n then x else s.link j := AMap.get_put ..
@[simp] theorem State.region_setRegion (s : State) (n : Nat) (x : Region) (j : Nat) : (s.setRegion n x).region j = if j = n then x else s.region j :=
  AMap.get_put ..
@[simp] theorem State.heldOf_setHeld (s : State) (n : Nat) (x : HeldRecs) (j : Nat) : (s.setHeld n x).heldOf j = if j = n then x else s.heldOf j :=
  AMap.get_put ..
@[simp] theorem State.seOf_setSe (s : State) (p : Nat) (x : Se) (j : Nat) : (s.setSe p x).seOf j = if j = p then x else s.seOf j := AMap.get_put ..
@[simp] theorem State.hdr_setHdr (s : State) (p : Nat) (h : PageHdr) (j : Nat) : (s.setHdr p h).hdr j = if j = p then h else s.hdr j := AMap.get_put ..
theorem rstAt_congr (p o p' o' : Nat) (ho : o % 4 = 0) (ho' : o' % 4 = 0) (hb : o < 0x1000) (hb' : o' < 0x1000) (h : regKey p o = regKey p' o') :
    p = p' ∧ o = o' := by
  unfold regKey at h; omega
theorem State.rd_wr (s : State) (p o : Nat) (v : Word) : (s.wr p o v).rd p o = v := by simp [State.rd, State.wr, AMap.get_put]
theorem State.rd_wr_ne (s : State) (p o p' o' : Nat) (v : Word) (h : regKey p' o' ≠ regKey p o) : (s.wr p o v).rd p' o' = s.rd p' o' := by
  unfold State.rd State.wr AMap.put
  split
  · rw [AMap.get_del, if_neg h]
  · rw [AMap.get_ins _ _ _ _ AMap.del_ne, if_neg h, AMap.get_del, if_neg h]
theorem State.frc_wr (s : State) (p o : Nat) (v : Word) : (s.wr p o v).frc p o = v := by simp [State.frc, State.wr, AMap.get_put]
theorem State.frc_wr_ne (s : State) (p o p' o' : Nat) (v : Word) (h : regKey p' o' ≠ regKey p o) : (s.wr p o v).frc p' o' = s.frc p' o' := by
  unfold State.frc State.wr AMap.put
  split
  · rw [AMap.get_del, if_neg h]
  · rw [AMap.get_ins _ _ _ _ AMap.del_ne, if_neg h, AMap.get_del, if_neg h]

end Sys2Proof.Machine
end

