-- ==== Sys2Proof/Laws/Frame/Fold.lean ====
section
/-!
SUPPORT. A field that every turn of a fold leaves alone is left alone by the fold; a field of a choice between states.
-/

namespace Sys2Proof.Machine

theorem foldl_keeps {α β : Type} (g : State → β) (f : State → α → State) (h : ∀ s a, g (f s a) = g s) (l : List α) (s : State) :
    g (l.foldl f s) = g s := by
  induction l generalizing s with
  | nil => rfl
  | cons a l ih => rw [List.foldl_cons, ih, h]

@[simp] theorem foldl_part {α : Type} (f : State → α → State) (l : List α) (s : State) (h : ∀ s a, (f s a).part = s.part) :
    (l.foldl f s).part = s.part := foldl_keeps State.part f h l s
@[simp] theorem foldl_regs {α : Type} (f : State → α → State) (l : List α) (s : State) (h : ∀ s a, (f s a).regs = s.regs) :
    (l.foldl f s).regs = s.regs := foldl_keeps State.regs f h l s
@[simp] theorem foldl_force {α : Type} (f : State → α → State) (l : List α) (s : State) (h : ∀ s a, (f s a).force = s.force) :
    (l.foldl f s).force = s.force := foldl_keeps State.force f h l s
@[simp] theorem foldl_pages {α : Type} (f : State → α → State) (l : List α) (s : State) (h : ∀ s a, (f s a).pages = s.pages) :
    (l.foldl f s).pages = s.pages := foldl_keeps State.pages f h l s
@[simp] theorem foldl_latch {α : Type} (f : State → α → State) (l : List α) (s : State) (h : ∀ s a, (f s a).latch = s.latch) :
    (l.foldl f s).latch = s.latch := foldl_keeps State.latch f h l s
@[simp] theorem foldl_tbData {α : Type} (f : State → α → State) (l : List α) (s : State) (h : ∀ s a, (f s a).tbData = s.tbData) :
    (l.foldl f s).tbData = s.tbData := foldl_keeps State.tbData f h l s
@[simp] theorem foldl_mem {α : Type} (f : State → α → State) (l : List α) (s : State) (h : ∀ s a, (f s a).mem = s.mem) :
    (l.foldl f s).mem = s.mem := foldl_keeps State.mem f h l s
@[simp] theorem foldl_queues {α : Type} (f : State → α → State) (l : List α) (s : State) (h : ∀ s a, (f s a).queues = s.queues) :
    (l.foldl f s).queues = s.queues := foldl_keeps State.queues f h l s
@[simp] theorem foldl_started {α : Type} (f : State → α → State) (l : List α) (s : State) (h : ∀ s a, (f s a).started = s.started) :
    (l.foldl f s).started = s.started := foldl_keeps State.started f h l s
@[simp] theorem foldl_held {α : Type} (f : State → α → State) (l : List α) (s : State) (h : ∀ s a, (f s a).held = s.held) :
    (l.foldl f s).held = s.held := foldl_keeps State.held f h l s
@[simp] theorem foldl_evq {α : Type} (f : State → α → State) (l : List α) (s : State) (h : ∀ s a, (f s a).evq = s.evq) :
    (l.foldl f s).evq = s.evq := foldl_keeps State.evq f h l s
@[simp] theorem foldl_se {α : Type} (f : State → α → State) (l : List α) (s : State) (h : ∀ s a, (f s a).se = s.se) :
    (l.foldl f s).se = s.se := foldl_keeps State.se f h l s
@[simp] theorem foldl_slots {α : Type} (f : State → α → State) (l : List α) (s : State) (h : ∀ s a, (f s a).slots = s.slots) :
    (l.foldl f s).slots = s.slots := foldl_keeps State.slots f h l s
@[simp] theorem foldl_parks {α : Type} (f : State → α → State) (l : List α) (s : State) (h : ∀ s a, (f s a).parks = s.parks) :
    (l.foldl f s).parks = s.parks := foldl_keeps State.parks f h l s
@[simp] theorem foldl_holds {α : Type} (f : State → α → State) (l : List α) (s : State) (h : ∀ s a, (f s a).holds = s.holds) :
    (l.foldl f s).holds = s.holds := foldl_keeps State.holds f h l s
@[simp] theorem foldl_infs {α : Type} (f : State → α → State) (l : List α) (s : State) (h : ∀ s a, (f s a).infs = s.infs) :
    (l.foldl f s).infs = s.infs := foldl_keeps State.infs f h l s
@[simp] theorem foldl_wxs {α : Type} (f : State → α → State) (l : List α) (s : State) (h : ∀ s a, (f s a).wxs = s.wxs) :
    (l.foldl f s).wxs = s.wxs := foldl_keeps State.wxs f h l s
@[simp] theorem foldl_wx {α : Type} (f : State → α → State) (l : List α) (s : State) (h : ∀ s a, (f s a).wx = s.wx) :
    (l.foldl f s).wx = s.wx := foldl_keeps State.wx f h l s
@[simp] theorem foldl_hearths {α : Type} (f : State → α → State) (l : List α) (s : State) (h : ∀ s a, (f s a).hearths = s.hearths) :
    (l.foldl f s).hearths = s.hearths := foldl_keeps State.hearths f h l s
@[simp] theorem foldl_pts {α : Type} (f : State → α → State) (l : List α) (s : State) (h : ∀ s a, (f s a).pts = s.pts) :
    (l.foldl f s).pts = s.pts := foldl_keeps State.pts f h l s
@[simp] theorem foldl_images {α : Type} (f : State → α → State) (l : List α) (s : State) (h : ∀ s a, (f s a).images = s.images) :
    (l.foldl f s).images = s.images := foldl_keeps State.images f h l s
@[simp] theorem foldl_lift {α : Type} (f : State → α → State) (l : List α) (s : State) (h : ∀ s a, (f s a).lift = s.lift) :
    (l.foldl f s).lift = s.lift := foldl_keeps State.lift f h l s
@[simp] theorem foldl_fab {α : Type} (f : State → α → State) (l : List α) (s : State) (h : ∀ s a, (f s a).fab = s.fab) :
    (l.foldl f s).fab = s.fab := foldl_keeps State.fab f h l s
@[simp] theorem foldl_sems {α : Type} (f : State → α → State) (l : List α) (s : State) (h : ∀ s a, (f s a).sems = s.sems) :
    (l.foldl f s).sems = s.sems := foldl_keeps State.sems f h l s
@[simp] theorem foldl_fbx {α : Type} (f : State → α → State) (l : List α) (s : State) (h : ∀ s a, (f s a).fbx = s.fbx) :
    (l.foldl f s).fbx = s.fbx := foldl_keeps State.fbx f h l s
@[simp] theorem foldl_mc {α : Type} (f : State → α → State) (l : List α) (s : State) (h : ∀ s a, (f s a).mc = s.mc) :
    (l.foldl f s).mc = s.mc := foldl_keeps State.mc f h l s
@[simp] theorem foldl_up {α : Type} (f : State → α → State) (l : List α) (s : State) (h : ∀ s a, (f s a).up = s.up) :
    (l.foldl f s).up = s.up := foldl_keeps State.up f h l s
@[simp] theorem foldl_epochs {α : Type} (f : State → α → State) (l : List α) (s : State) (h : ∀ s a, (f s a).epochs = s.epochs) :
    (l.foldl f s).epochs = s.epochs := foldl_keeps State.epochs f h l s
@[simp] theorem foldl_resets {α : Type} (f : State → α → State) (l : List α) (s : State) (h : ∀ s a, (f s a).resets = s.resets) :
    (l.foldl f s).resets = s.resets := foldl_keeps State.resets f h l s
@[simp] theorem foldl_meter {α : Type} (f : State → α → State) (l : List α) (s : State) (h : ∀ s a, (f s a).meter = s.meter) :
    (l.foldl f s).meter = s.meter := foldl_keeps State.meter f h l s
@[simp] theorem foldl_host {α : Type} (f : State → α → State) (l : List α) (s : State) (h : ∀ s a, (f s a).host = s.host) :
    (l.foldl f s).host = s.host := foldl_keeps State.host f h l s
@[simp] theorem foldl_holdSeq {α : Type} (f : State → α → State) (l : List α) (s : State) (h : ∀ s a, (f s a).holdSeq = s.holdSeq) :
    (l.foldl f s).holdSeq = s.holdSeq := foldl_keeps State.holdSeq f h l s
@[simp] theorem foldl_nowUs {α : Type} (f : State → α → State) (l : List α) (s : State) (h : ∀ s a, (f s a).nowUs = s.nowUs) :
    (l.foldl f s).nowUs = s.nowUs := foldl_keeps State.nowUs f h l s
@[simp] theorem foldl_freeCtr {α : Type} (f : State → α → State) (l : List α) (s : State) (h : ∀ s a, (f s a).freeCtr = s.freeCtr) :
    (l.foldl f s).freeCtr = s.freeCtr := foldl_keeps State.freeCtr f h l s
@[simp] theorem foldl_reply {α : Type} (f : State → α → State) (l : List α) (s : State) (h : ∀ s a, (f s a).reply = s.reply) :
    (l.foldl f s).reply = s.reply := foldl_keeps State.reply f h l s
@[simp] theorem foldl_out {α : Type} (f : State → α → State) (l : List α) (s : State) (h : ∀ s a, (f s a).out = s.out) :
    (l.foldl f s).out = s.out := foldl_keeps State.out f h l s
@[simp] theorem foldl_pending {α : Type} (f : State → α → State) (l : List α) (s : State) (h : ∀ s a, (f s a).pending = s.pending) :
    (l.foldl f s).pending = s.pending := foldl_keeps State.pending f h l s

@[simp] theorem ite_part (c : Prop) [Decidable c] (a b : State) : (if c then a else b).part = if c then a.part else b.part := apply_ite State.part c a b
@[simp] theorem ite_regs (c : Prop) [Decidable c] (a b : State) : (if c then a else b).regs = if c then a.regs else b.regs := apply_ite State.regs c a b
@[simp] theorem ite_force (c : Prop) [Decidable c] (a b : State) : (if c then a else b).force = if c then a.force else b.force := apply_ite State.force c a b
@[simp] theorem ite_pages (c : Prop) [Decidable c] (a b : State) : (if c then a else b).pages = if c then a.pages else b.pages := apply_ite State.pages c a b
@[simp] theorem ite_latch (c : Prop) [Decidable c] (a b : State) : (if c then a else b).latch = if c then a.latch else b.latch := apply_ite State.latch c a b
@[simp] theorem ite_tbData (c : Prop) [Decidable c] (a b : State) : (if c then a else b).tbData = if c then a.tbData else b.tbData := apply_ite State.tbData c a b
@[simp] theorem ite_mem (c : Prop) [Decidable c] (a b : State) : (if c then a else b).mem = if c then a.mem else b.mem := apply_ite State.mem c a b
@[simp] theorem ite_queues (c : Prop) [Decidable c] (a b : State) : (if c then a else b).queues = if c then a.queues else b.queues := apply_ite State.queues c a b
@[simp] theorem ite_started (c : Prop) [Decidable c] (a b : State) : (if c then a else b).started = if c then a.started else b.started := apply_ite State.started c a b
@[simp] theorem ite_held (c : Prop) [Decidable c] (a b : State) : (if c then a else b).held = if c then a.held else b.held := apply_ite State.held c a b
@[simp] theorem ite_evq (c : Prop) [Decidable c] (a b : State) : (if c then a else b).evq = if c then a.evq else b.evq := apply_ite State.evq c a b
@[simp] theorem ite_se (c : Prop) [Decidable c] (a b : State) : (if c then a else b).se = if c then a.se else b.se := apply_ite State.se c a b
@[simp] theorem ite_slots (c : Prop) [Decidable c] (a b : State) : (if c then a else b).slots = if c then a.slots else b.slots := apply_ite State.slots c a b
@[simp] theorem ite_parks (c : Prop) [Decidable c] (a b : State) : (if c then a else b).parks = if c then a.parks else b.parks := apply_ite State.parks c a b
@[simp] theorem ite_holds (c : Prop) [Decidable c] (a b : State) : (if c then a else b).holds = if c then a.holds else b.holds := apply_ite State.holds c a b
@[simp] theorem ite_infs (c : Prop) [Decidable c] (a b : State) : (if c then a else b).infs = if c then a.infs else b.infs := apply_ite State.infs c a b
@[simp] theorem ite_wxs (c : Prop) [Decidable c] (a b : State) : (if c then a else b).wxs = if c then a.wxs else b.wxs := apply_ite State.wxs c a b
@[simp] theorem ite_wx (c : Prop) [Decidable c] (a b : State) : (if c then a else b).wx = if c then a.wx else b.wx := apply_ite State.wx c a b
@[simp] theorem ite_hearths (c : Prop) [Decidable c] (a b : State) : (if c then a else b).hearths = if c then a.hearths else b.hearths := apply_ite State.hearths c a b
@[simp] theorem ite_pts (c : Prop) [Decidable c] (a b : State) : (if c then a else b).pts = if c then a.pts else b.pts := apply_ite State.pts c a b
@[simp] theorem ite_images (c : Prop) [Decidable c] (a b : State) : (if c then a else b).images = if c then a.images else b.images := apply_ite State.images c a b
@[simp] theorem ite_lift (c : Prop) [Decidable c] (a b : State) : (if c then a else b).lift = if c then a.lift else b.lift := apply_ite State.lift c a b
@[simp] theorem ite_fab (c : Prop) [Decidable c] (a b : State) : (if c then a else b).fab = if c then a.fab else b.fab := apply_ite State.fab c a b
@[simp] theorem ite_sems (c : Prop) [Decidable c] (a b : State) : (if c then a else b).sems = if c then a.sems else b.sems := apply_ite State.sems c a b
@[simp] theorem ite_fbx (c : Prop) [Decidable c] (a b : State) : (if c then a else b).fbx = if c then a.fbx else b.fbx := apply_ite State.fbx c a b
@[simp] theorem ite_mc (c : Prop) [Decidable c] (a b : State) : (if c then a else b).mc = if c then a.mc else b.mc := apply_ite State.mc c a b
@[simp] theorem ite_up (c : Prop) [Decidable c] (a b : State) : (if c then a else b).up = if c then a.up else b.up := apply_ite State.up c a b
@[simp] theorem ite_epochs (c : Prop) [Decidable c] (a b : State) : (if c then a else b).epochs = if c then a.epochs else b.epochs := apply_ite State.epochs c a b
@[simp] theorem ite_resets (c : Prop) [Decidable c] (a b : State) : (if c then a else b).resets = if c then a.resets else b.resets := apply_ite State.resets c a b
@[simp] theorem ite_meter (c : Prop) [Decidable c] (a b : State) : (if c then a else b).meter = if c then a.meter else b.meter := apply_ite State.meter c a b
@[simp] theorem ite_host (c : Prop) [Decidable c] (a b : State) : (if c then a else b).host = if c then a.host else b.host := apply_ite State.host c a b
@[simp] theorem ite_holdSeq (c : Prop) [Decidable c] (a b : State) : (if c then a else b).holdSeq = if c then a.holdSeq else b.holdSeq := apply_ite State.holdSeq c a b
@[simp] theorem ite_nowUs (c : Prop) [Decidable c] (a b : State) : (if c then a else b).nowUs = if c then a.nowUs else b.nowUs := apply_ite State.nowUs c a b
@[simp] theorem ite_freeCtr (c : Prop) [Decidable c] (a b : State) : (if c then a else b).freeCtr = if c then a.freeCtr else b.freeCtr := apply_ite State.freeCtr c a b
@[simp] theorem ite_reply (c : Prop) [Decidable c] (a b : State) : (if c then a else b).reply = if c then a.reply else b.reply := apply_ite State.reply c a b
@[simp] theorem ite_out (c : Prop) [Decidable c] (a b : State) : (if c then a else b).out = if c then a.out else b.out := apply_ite State.out c a b
@[simp] theorem ite_pending (c : Prop) [Decidable c] (a b : State) : (if c then a else b).pending = if c then a.pending else b.pending := apply_ite State.pending c a b

end Sys2Proof.Machine
end

