-- ==== Sys2Proof/Laws/Frame/Regs.lean ====
section
/-!
SUPPORT. What the operations of Machine/Regs.lean leave alone: each field that an operation does not write reads after it as before.
-/

namespace Sys2Proof.Machine

@[simp] theorem State.wr64_fields (s : State) (page off : Nat) (n : Nat) :
    (s.wr64 page off n).part = s.part ∧ (s.wr64 page off n).pages = s.pages ∧ (s.wr64 page off n).latch = s.latch ∧ (s.wr64 page off n).tbData = s.tbData ∧
    (s.wr64 page off n).mem = s.mem ∧ (s.wr64 page off n).queues = s.queues ∧ (s.wr64 page off n).started = s.started ∧ (s.wr64 page off n).held = s.held ∧
    (s.wr64 page off n).evq = s.evq ∧ (s.wr64 page off n).se = s.se ∧ (s.wr64 page off n).slots = s.slots ∧ (s.wr64 page off n).parks = s.parks ∧
    (s.wr64 page off n).holds = s.holds ∧ (s.wr64 page off n).infs = s.infs ∧ (s.wr64 page off n).wxs = s.wxs ∧ (s.wr64 page off n).wx = s.wx ∧
    (s.wr64 page off n).hearths = s.hearths ∧ (s.wr64 page off n).pts = s.pts ∧ (s.wr64 page off n).images = s.images ∧ (s.wr64 page off n).lift = s.lift ∧
    (s.wr64 page off n).fab = s.fab ∧ (s.wr64 page off n).sems = s.sems ∧ (s.wr64 page off n).fbx = s.fbx ∧ (s.wr64 page off n).mc = s.mc ∧
    (s.wr64 page off n).up = s.up ∧ (s.wr64 page off n).epochs = s.epochs ∧ (s.wr64 page off n).resets = s.resets ∧ (s.wr64 page off n).meter = s.meter ∧
    (s.wr64 page off n).host = s.host ∧ (s.wr64 page off n).holdSeq = s.holdSeq ∧ (s.wr64 page off n).nowUs = s.nowUs ∧ (s.wr64 page off n).freeCtr = s.freeCtr ∧
    (s.wr64 page off n).reply = s.reply ∧ (s.wr64 page off n).out = s.out ∧ (s.wr64 page off n).pending = s.pending := by
  unfold State.wr64; (try and_intros) <;> (try dsimp only) <;> (repeat' split) <;> simp_all

@[simp] theorem State.bump_fields (s : State) (page off n : Nat) :
    (s.bump page off n).part = s.part ∧ (s.bump page off n).pages = s.pages ∧ (s.bump page off n).latch = s.latch ∧ (s.bump page off n).tbData = s.tbData ∧
    (s.bump page off n).mem = s.mem ∧ (s.bump page off n).queues = s.queues ∧ (s.bump page off n).started = s.started ∧ (s.bump page off n).held = s.held ∧
    (s.bump page off n).evq = s.evq ∧ (s.bump page off n).se = s.se ∧ (s.bump page off n).slots = s.slots ∧ (s.bump page off n).parks = s.parks ∧
    (s.bump page off n).holds = s.holds ∧ (s.bump page off n).infs = s.infs ∧ (s.bump page off n).wxs = s.wxs ∧ (s.bump page off n).wx = s.wx ∧
    (s.bump page off n).hearths = s.hearths ∧ (s.bump page off n).pts = s.pts ∧ (s.bump page off n).images = s.images ∧ (s.bump page off n).lift = s.lift ∧
    (s.bump page off n).fab = s.fab ∧ (s.bump page off n).sems = s.sems ∧ (s.bump page off n).fbx = s.fbx ∧ (s.bump page off n).mc = s.mc ∧
    (s.bump page off n).up = s.up ∧ (s.bump page off n).epochs = s.epochs ∧ (s.bump page off n).resets = s.resets ∧ (s.bump page off n).meter = s.meter ∧
    (s.bump page off n).host = s.host ∧ (s.bump page off n).holdSeq = s.holdSeq ∧ (s.bump page off n).nowUs = s.nowUs ∧ (s.bump page off n).freeCtr = s.freeCtr ∧
    (s.bump page off n).reply = s.reply ∧ (s.bump page off n).out = s.out ∧ (s.bump page off n).pending = s.pending := by
  unfold State.bump; (try and_intros) <;> (try dsimp only) <;> (repeat' split) <;> simp_all

@[simp] theorem State.emit_fields (s : State) (o : Output) :
    (s.emit o).part = s.part ∧ (s.emit o).regs = s.regs ∧ (s.emit o).force = s.force ∧ (s.emit o).pages = s.pages ∧
    (s.emit o).latch = s.latch ∧ (s.emit o).tbData = s.tbData ∧ (s.emit o).mem = s.mem ∧ (s.emit o).queues = s.queues ∧
    (s.emit o).started = s.started ∧ (s.emit o).held = s.held ∧ (s.emit o).evq = s.evq ∧ (s.emit o).se = s.se ∧
    (s.emit o).slots = s.slots ∧ (s.emit o).parks = s.parks ∧ (s.emit o).holds = s.holds ∧ (s.emit o).infs = s.infs ∧
    (s.emit o).wxs = s.wxs ∧ (s.emit o).wx = s.wx ∧ (s.emit o).hearths = s.hearths ∧ (s.emit o).pts = s.pts ∧
    (s.emit o).images = s.images ∧ (s.emit o).lift = s.lift ∧ (s.emit o).fab = s.fab ∧ (s.emit o).sems = s.sems ∧
    (s.emit o).fbx = s.fbx ∧ (s.emit o).mc = s.mc ∧ (s.emit o).up = s.up ∧ (s.emit o).epochs = s.epochs ∧
    (s.emit o).resets = s.resets ∧ (s.emit o).meter = s.meter ∧ (s.emit o).host = s.host ∧ (s.emit o).holdSeq = s.holdSeq ∧
    (s.emit o).nowUs = s.nowUs ∧ (s.emit o).freeCtr = s.freeCtr ∧ (s.emit o).reply = s.reply ∧ (s.emit o).pending = s.pending := by
  unfold State.emit; (try and_intros) <;> (try dsimp only) <;> (repeat' split) <;> simp_all

end Sys2Proof.Machine
end

