-- ==== Sys2Proof/Laws/Frame/Flags.lean ====
section
/-!
SUPPORT. What the operations of Machine/Flags.lean leave alone: each field that an operation does not write reads after it as before.
-/

namespace Sys2Proof.Machine

@[simp] theorem State.sendVector_fields (s : State) (v : Nat) :
    (s.sendVector v).part = s.part ∧ (s.sendVector v).regs = s.regs ∧ (s.sendVector v).force = s.force ∧ (s.sendVector v).pages = s.pages ∧
    (s.sendVector v).latch = s.latch ∧ (s.sendVector v).tbData = s.tbData ∧ (s.sendVector v).mem = s.mem ∧ (s.sendVector v).queues = s.queues ∧
    (s.sendVector v).started = s.started ∧ (s.sendVector v).held = s.held ∧ (s.sendVector v).evq = s.evq ∧ (s.sendVector v).se = s.se ∧
    (s.sendVector v).slots = s.slots ∧ (s.sendVector v).parks = s.parks ∧ (s.sendVector v).holds = s.holds ∧ (s.sendVector v).infs = s.infs ∧
    (s.sendVector v).wxs = s.wxs ∧ (s.sendVector v).wx = s.wx ∧ (s.sendVector v).hearths = s.hearths ∧ (s.sendVector v).pts = s.pts ∧
    (s.sendVector v).images = s.images ∧ (s.sendVector v).lift = s.lift ∧ (s.sendVector v).fab = s.fab ∧ (s.sendVector v).sems = s.sems ∧
    (s.sendVector v).fbx = s.fbx ∧ (s.sendVector v).mc = s.mc ∧ (s.sendVector v).up = s.up ∧ (s.sendVector v).epochs = s.epochs ∧
    (s.sendVector v).resets = s.resets ∧ (s.sendVector v).meter = s.meter ∧ (s.sendVector v).holdSeq = s.holdSeq ∧ (s.sendVector v).nowUs = s.nowUs ∧
    (s.sendVector v).freeCtr = s.freeCtr ∧ (s.sendVector v).reply = s.reply ∧ (s.sendVector v).pending = s.pending := by
  unfold State.sendVector; (try and_intros) <;> (try dsimp only) <;> (repeat' split) <;> simp_all

@[simp] theorem State.sendMsi_fields (s : State) (page : Nat) :
    (s.sendMsi page).part = s.part ∧ (s.sendMsi page).regs = s.regs ∧ (s.sendMsi page).force = s.force ∧ (s.sendMsi page).pages = s.pages ∧
    (s.sendMsi page).latch = s.latch ∧ (s.sendMsi page).tbData = s.tbData ∧ (s.sendMsi page).mem = s.mem ∧ (s.sendMsi page).queues = s.queues ∧
    (s.sendMsi page).started = s.started ∧ (s.sendMsi page).held = s.held ∧ (s.sendMsi page).evq = s.evq ∧ (s.sendMsi page).se = s.se ∧
    (s.sendMsi page).slots = s.slots ∧ (s.sendMsi page).parks = s.parks ∧ (s.sendMsi page).holds = s.holds ∧ (s.sendMsi page).infs = s.infs ∧
    (s.sendMsi page).wxs = s.wxs ∧ (s.sendMsi page).wx = s.wx ∧ (s.sendMsi page).hearths = s.hearths ∧ (s.sendMsi page).pts = s.pts ∧
    (s.sendMsi page).images = s.images ∧ (s.sendMsi page).lift = s.lift ∧ (s.sendMsi page).fab = s.fab ∧ (s.sendMsi page).sems = s.sems ∧
    (s.sendMsi page).fbx = s.fbx ∧ (s.sendMsi page).mc = s.mc ∧ (s.sendMsi page).up = s.up ∧ (s.sendMsi page).epochs = s.epochs ∧
    (s.sendMsi page).resets = s.resets ∧ (s.sendMsi page).meter = s.meter ∧ (s.sendMsi page).holdSeq = s.holdSeq ∧ (s.sendMsi page).nowUs = s.nowUs ∧
    (s.sendMsi page).freeCtr = s.freeCtr ∧ (s.sendMsi page).reply = s.reply ∧ (s.sendMsi page).pending = s.pending := by
  unfold State.sendMsi; (try and_intros) <;> (try dsimp only) <;> (repeat' split) <;> simp_all

@[simp] theorem State.raise_fields (s : State) (page bit : Nat) :
    (s.raise page bit).part = s.part ∧ (s.raise page bit).regs = s.regs ∧ (s.raise page bit).force = s.force ∧ (s.raise page bit).latch = s.latch ∧
    (s.raise page bit).tbData = s.tbData ∧ (s.raise page bit).mem = s.mem ∧ (s.raise page bit).queues = s.queues ∧ (s.raise page bit).started = s.started ∧
    (s.raise page bit).held = s.held ∧ (s.raise page bit).evq = s.evq ∧ (s.raise page bit).se = s.se ∧ (s.raise page bit).slots = s.slots ∧
    (s.raise page bit).parks = s.parks ∧ (s.raise page bit).holds = s.holds ∧ (s.raise page bit).infs = s.infs ∧ (s.raise page bit).wxs = s.wxs ∧
    (s.raise page bit).wx = s.wx ∧ (s.raise page bit).hearths = s.hearths ∧ (s.raise page bit).pts = s.pts ∧ (s.raise page bit).images = s.images ∧
    (s.raise page bit).lift = s.lift ∧ (s.raise page bit).fab = s.fab ∧ (s.raise page bit).sems = s.sems ∧ (s.raise page bit).fbx = s.fbx ∧
    (s.raise page bit).mc = s.mc ∧ (s.raise page bit).up = s.up ∧ (s.raise page bit).epochs = s.epochs ∧ (s.raise page bit).resets = s.resets ∧
    (s.raise page bit).meter = s.meter ∧ (s.raise page bit).holdSeq = s.holdSeq ∧ (s.raise page bit).nowUs = s.nowUs ∧ (s.raise page bit).freeCtr = s.freeCtr ∧
    (s.raise page bit).reply = s.reply ∧ (s.raise page bit).pending = s.pending := by
  unfold State.raise; (try and_intros) <;> (try dsimp only) <;> (repeat' split) <;> simp_all

@[simp] theorem State.resend_fields (s : State) (page : Nat) :
    (s.resend page).part = s.part ∧ (s.resend page).regs = s.regs ∧ (s.resend page).force = s.force ∧ (s.resend page).pages = s.pages ∧
    (s.resend page).latch = s.latch ∧ (s.resend page).tbData = s.tbData ∧ (s.resend page).mem = s.mem ∧ (s.resend page).queues = s.queues ∧
    (s.resend page).started = s.started ∧ (s.resend page).held = s.held ∧ (s.resend page).evq = s.evq ∧ (s.resend page).se = s.se ∧
    (s.resend page).slots = s.slots ∧ (s.resend page).parks = s.parks ∧ (s.resend page).holds = s.holds ∧ (s.resend page).infs = s.infs ∧
    (s.resend page).wxs = s.wxs ∧ (s.resend page).wx = s.wx ∧ (s.resend page).hearths = s.hearths ∧ (s.resend page).pts = s.pts ∧
    (s.resend page).images = s.images ∧ (s.resend page).lift = s.lift ∧ (s.resend page).fab = s.fab ∧ (s.resend page).sems = s.sems ∧
    (s.resend page).fbx = s.fbx ∧ (s.resend page).mc = s.mc ∧ (s.resend page).up = s.up ∧ (s.resend page).epochs = s.epochs ∧
    (s.resend page).resets = s.resets ∧ (s.resend page).meter = s.meter ∧ (s.resend page).holdSeq = s.holdSeq ∧ (s.resend page).nowUs = s.nowUs ∧
    (s.resend page).freeCtr = s.freeCtr ∧ (s.resend page).reply = s.reply ∧ (s.resend page).pending = s.pending := by
  unfold State.resend; (try and_intros) <;> (try dsimp only) <;> (repeat' split) <;> simp_all

@[simp] theorem State.refuse_fields (s : State) (page reason : Nat) :
    (s.refuse page reason).part = s.part ∧ (s.refuse page reason).regs = s.regs ∧ (s.refuse page reason).force = s.force ∧ (s.refuse page reason).latch = s.latch ∧
    (s.refuse page reason).tbData = s.tbData ∧ (s.refuse page reason).mem = s.mem ∧ (s.refuse page reason).queues = s.queues ∧ (s.refuse page reason).started = s.started ∧
    (s.refuse page reason).held = s.held ∧ (s.refuse page reason).evq = s.evq ∧ (s.refuse page reason).se = s.se ∧ (s.refuse page reason).slots = s.slots ∧
    (s.refuse page reason).parks = s.parks ∧ (s.refuse page reason).holds = s.holds ∧ (s.refuse page reason).infs = s.infs ∧ (s.refuse page reason).wxs = s.wxs ∧
    (s.refuse page reason).wx = s.wx ∧ (s.refuse page reason).hearths = s.hearths ∧ (s.refuse page reason).pts = s.pts ∧ (s.refuse page reason).images = s.images ∧
    (s.refuse page reason).lift = s.lift ∧ (s.refuse page reason).fab = s.fab ∧ (s.refuse page reason).sems = s.sems ∧ (s.refuse page reason).fbx = s.fbx ∧
    (s.refuse page reason).mc = s.mc ∧ (s.refuse page reason).up = s.up ∧ (s.refuse page reason).epochs = s.epochs ∧ (s.refuse page reason).resets = s.resets ∧
    (s.refuse page reason).meter = s.meter ∧ (s.refuse page reason).host = s.host ∧ (s.refuse page reason).holdSeq = s.holdSeq ∧ (s.refuse page reason).nowUs = s.nowUs ∧
    (s.refuse page reason).freeCtr = s.freeCtr ∧ (s.refuse page reason).reply = s.reply ∧ (s.refuse page reason).out = s.out ∧ (s.refuse page reason).pending = s.pending := by
  unfold State.refuse; (try and_intros) <;> (try dsimp only) <;> (repeat' split) <;> simp_all

@[simp] theorem State.flushPba_fields (s : State) :
    s.flushPba.part = s.part ∧ s.flushPba.regs = s.regs ∧ s.flushPba.force = s.force ∧ s.flushPba.pages = s.pages ∧
    s.flushPba.latch = s.latch ∧ s.flushPba.tbData = s.tbData ∧ s.flushPba.mem = s.mem ∧ s.flushPba.queues = s.queues ∧
    s.flushPba.started = s.started ∧ s.flushPba.held = s.held ∧ s.flushPba.evq = s.evq ∧ s.flushPba.se = s.se ∧
    s.flushPba.slots = s.slots ∧ s.flushPba.parks = s.parks ∧ s.flushPba.holds = s.holds ∧ s.flushPba.infs = s.infs ∧
    s.flushPba.wxs = s.wxs ∧ s.flushPba.wx = s.wx ∧ s.flushPba.hearths = s.hearths ∧ s.flushPba.pts = s.pts ∧
    s.flushPba.images = s.images ∧ s.flushPba.lift = s.lift ∧ s.flushPba.fab = s.fab ∧ s.flushPba.sems = s.sems ∧
    s.flushPba.fbx = s.fbx ∧ s.flushPba.mc = s.mc ∧ s.flushPba.up = s.up ∧ s.flushPba.epochs = s.epochs ∧
    s.flushPba.resets = s.resets ∧ s.flushPba.meter = s.meter ∧ s.flushPba.holdSeq = s.holdSeq ∧ s.flushPba.nowUs = s.nowUs ∧
    s.flushPba.freeCtr = s.freeCtr ∧ s.flushPba.reply = s.reply ∧ s.flushPba.pending = s.pending := by
  unfold State.flushPba; (try and_intros) <;> (try dsimp only) <;> (repeat' split) <;> simp_all

@[simp] theorem State.snapshot_fields (s : State) (page off : Nat) :
    (s.snapshot page off).part = s.part ∧ (s.snapshot page off).regs = s.regs ∧ (s.snapshot page off).force = s.force ∧ (s.snapshot page off).pages = s.pages ∧
    (s.snapshot page off).tbData = s.tbData ∧ (s.snapshot page off).mem = s.mem ∧ (s.snapshot page off).queues = s.queues ∧ (s.snapshot page off).started = s.started ∧
    (s.snapshot page off).held = s.held ∧ (s.snapshot page off).evq = s.evq ∧ (s.snapshot page off).se = s.se ∧ (s.snapshot page off).slots = s.slots ∧
    (s.snapshot page off).parks = s.parks ∧ (s.snapshot page off).holds = s.holds ∧ (s.snapshot page off).infs = s.infs ∧ (s.snapshot page off).wxs = s.wxs ∧
    (s.snapshot page off).wx = s.wx ∧ (s.snapshot page off).hearths = s.hearths ∧ (s.snapshot page off).pts = s.pts ∧ (s.snapshot page off).images = s.images ∧
    (s.snapshot page off).lift = s.lift ∧ (s.snapshot page off).fab = s.fab ∧ (s.snapshot page off).sems = s.sems ∧ (s.snapshot page off).fbx = s.fbx ∧
    (s.snapshot page off).mc = s.mc ∧ (s.snapshot page off).up = s.up ∧ (s.snapshot page off).epochs = s.epochs ∧ (s.snapshot page off).resets = s.resets ∧
    (s.snapshot page off).meter = s.meter ∧ (s.snapshot page off).host = s.host ∧ (s.snapshot page off).holdSeq = s.holdSeq ∧ (s.snapshot page off).nowUs = s.nowUs ∧
    (s.snapshot page off).freeCtr = s.freeCtr ∧ (s.snapshot page off).reply = s.reply ∧ (s.snapshot page off).out = s.out ∧ (s.snapshot page off).pending = s.pending := by
  unfold State.snapshot; (try and_intros) <;> (try dsimp only) <;> (repeat' split) <;> simp_all

end Sys2Proof.Machine
end

