-- ==== Sys2Proof/Laws/Frame/Store.lean ====
section
/-!
SUPPORT. Loads and stores change memory, the traffic counters they count in, and the count of free draws, and nothing else.
-/

namespace Sys2Proof.Machine

/-- `t` is `s` but for memory, registers, forced registers and the count of free draws. -/
def Near (s t : State) : Prop := t = { s with mem := t.mem, regs := t.regs, force := t.force, freeCtr := t.freeCtr }

theorem Near.rfl {s : State} : Near s s := Eq.refl s

theorem Near.trans {s t u : State} (h : Near s t) (g : Near t u) : Near s u := by
  unfold Near at *; rw [g, h]

theorem near_setMem {s t : State} (h : Near s t) (m : Mem) : Near s (t.setMem m) := by
  unfold Near at *; rw [h]; exact Eq.refl _

theorem near_bump {s t : State} (h : Near s t) (page off n : Nat) : Near s (t.bump page off n) :=
  h.trans (by unfold Near State.bump State.wr64; split <;> rfl)

theorem near_ite {s a b : State} {p : Prop} [Decidable p] (h : Near s a) (g : Near s b) : Near s (if p then a else b) := by
  split <;> assumption

theorem near_foldl {α : Type} {s : State} {f : State → α → State} (hf : ∀ t x, Near s t → Near s (f t x)) :
    ∀ {l : List α} {t : State}, Near s t → Near s (l.foldl f t) := by
  intro l
  induction l with
  | nil => intro t h; exact h
  | cons x l ih => intro t h; exact ih (hf _ _ h)

/-- Data written line by line changes memory alone. -/
theorem State.poke_mem (s : State) (dua : Nat) (data : List Byte) (fuel : Nat) : s.poke dua data fuel = s.setMem (s.poke dua data fuel).mem := by
  induction fuel generalizing s dua data with
  | zero => rfl
  | succ n ih =>
    unfold State.poke
    split
    · rfl
    · rw [ih]; rfl

theorem State.storeRaw_mem (s : State) (dua : Nat) (data : List Byte) : s.storeRaw dua data = s.setMem (s.storeRaw dua data).mem :=
  s.poke_mem dua data _

theorem near_want {s t : State} (h : Near s t) (n : Nat) : Near s (t.want n) := by
  unfold State.want; exact near_ite (near_setMem h _) h

theorem near_translate {s t : State} (h : Near s t) (who n tier frame : Nat) : Near s (t.translate who n tier frame) := by
  unfold State.translate; exact near_ite h (near_setMem h _)

theorem near_touchPage {s t : State} (h : Near s t) (who : Option Nat) (n : Nat) : Near s (t.touchPage who n) := by
  have g : ∀ e, Near s (t.setPage n e) := fun e => near_setMem h _
  unfold State.touchPage
  extract_lets e x s1
  have h1 : Near s s1 := by
    show Near s (match AMap.find t.mem.migr n with | some m => _ | none => _)
    split
    · exact near_ite (near_setMem (g _) _) (g _)
    · exact near_want (g _) _
  split
  · exact near_ite h1 (near_translate h1 _ _ _ _)
  · exact h1

theorem near_touchRange {s t : State} (h : Near s t) (who : MemWho) (dua len : Nat) : Near s (t.touchRange who dua len) := by
  unfold State.touchRange
  split
  · exact near_foldl (fun _ _ g => near_touchPage g _ _) h
  · exact h

theorem near_waitChunks {s t : State} (h : Near s t) (dua len : Nat) : Near s (t.waitChunks dua len) := by
  unfold State.waitChunks
  refine near_foldl (fun t n g => ?_) h
  split
  · exact near_setMem g _
  · exact g

theorem near_pick {s t : State} (h : Near s t) (n : Nat) : Near s (t.pick n).2 := h.trans (by unfold Near; rfl)

theorem near_allocLine {s t : State} (h : Near s t) (line : Nat) : Near s (t.allocLine line) := by
  unfold State.allocLine
  extract_lets e k ways put
  have hp : ∀ {u : State}, Near s u → ∀ w, Near s (put u w) := fun g w => near_setMem g _
  split
  · exact hp h _
  · have hq : ∀ l, Near s (t.pickOf l).2 := by
      intro l
      unfold State.pickOf
      split
      · exact h
      · next x xs => exact near_pick h (xs.length + 1)
    split
    · next w s1 hw => exact hp (show Near s s1 by have := hq ways; rw [hw] at this; exact this) w
    · next s1 hw => have := hq ways; rw [hw] at this; exact this

theorem near_cacheLine {s t : State} (h : Near s t) (line : Nat) : Near s (t.cacheLine line) := by
  unfold State.cacheLine
  split
  · exact h
  · split
    · exact near_bump h _ _ _
    · exact near_allocLine (near_bump h _ _ _) _

theorem near_prefetchLine {s t : State} (h : Near s t) (line : Nat) : Near s (t.prefetchLine line) := by
  unfold State.prefetchLine; exact near_ite h (near_allocLine h _)

theorem near_streamLine {s t : State} (h : Near s t) (n line : Nat) : Near s (t.streamLine n line) := by
  unfold State.streamLine
  extract_lets l old t1 l1 x s1
  have h1 : Near s s1 := near_setMem h _
  refine near_ite (near_foldl (fun t x g => ?_) h1) h1
  exact near_ite (near_prefetchLine g _) g

theorem near_bridgeLine {s t : State} (h : Near s t) (n line : Nat) (b : Bool) : Near s (t.bridgeLine n line b) := by
  unfold State.bridgeLine; exact near_ite (near_bump h _ _ _) h

theorem near_cacheRange {s t : State} (h : Near s t) (who : MemWho) (dua len : Nat) (b : Bool) : Near s (t.cacheRange who dua len b) := by
  unfold State.cacheRange
  refine near_foldl (fun t l g => ?_) h
  have g1 := near_cacheLine g l
  split
  · dsimp only
    split
    · exact near_streamLine (near_bridgeLine g1 _ _ _) _ _
    · exact near_bridgeLine g1 _ _ _
  · exact g1

theorem near_demand {s t : State} (h : Near s t) (who : MemWho) (dua len : Nat) (b : Bool) : Near s (t.demand who dua len b) := by
  unfold State.demand
  split
  · exact near_cacheRange (near_touchRange h _ _ _) _ _ _ _
  · exact h

/-- What a load that succeeds leaves. -/
theorem State.load_near {s t : State} {who : MemWho} {dua len : Nat} {b : List Byte} (h : s.load who dua len = .ok (b, t)) : Near s t := by
  unfold State.load at h
  split at h
  · cases h; exact Near.rfl
  · split at h
    · cases h
    · dsimp only at h
      split at h
      · cases h
      · cases h; exact near_demand Near.rfl _ _ _ _

/-- What a store that succeeds leaves. -/
theorem State.store_near {s t : State} {who : MemWho} {dua : Nat} {data : List Byte} (h : s.store who dua data = .ok t) : Near s t := by
  unfold State.store at h
  split at h
  · cases h; exact Near.rfl
  · split at h
    · cases h
    · dsimp only at h
      split at h
      · cases h
      · cases h
        rw [State.storeRaw_mem]
        exact near_setMem (near_waitChunks (near_demand Near.rfl _ _ _ _) _ _) _

theorem State.storeTry_near (s : State) (who : MemWho) (dua : Nat) (data : List Byte) : Near s (s.storeTry who dua data) := by
  unfold State.storeTry
  split
  · exact State.store_near ‹_›
  · exact Near.rfl

end Sys2Proof.Machine
end

