-- ==== Sys2Proof/Laws/Kept/Basic.lean ====
section
/-!
SUPPORT. What no meaning breaks: memory stays in its canonical form, and the part and the queue of waiting commands stay as they are. One lemma
says so for every operation, in the order of the model's files.
-/

namespace Sys2Proof.Machine

/-- From one state to another: a canonical memory stays canonical, the part and the waiting commands are the same. -/
structure Kept (a b : State) : Prop where
  mem : a.mem.wf → b.mem.wf
  part : b.part = a.part
  pending : b.pending = a.pending

theorem Kept.rfl {a : State} : Kept a a := ⟨id, Eq.refl _, Eq.refl _⟩

theorem Kept.trans {a b c : State} (h : Kept a b) (g : Kept b c) : Kept a c :=
  ⟨fun w => g.mem (h.mem w), g.part.trans h.part, g.pending.trans h.pending⟩

/-- A state that differs in other fields only. -/
theorem Kept.of_eq {a b c : State} (h : Kept a b) (hm : c.mem = b.mem) (hp : c.part = b.part) (hq : c.pending = b.pending) : Kept a c :=
  ⟨fun w => hm ▸ h.mem w, hp.trans h.part, hq.trans h.pending⟩

@[simp ↓] theorem kept_ite {a b c : State} {p : Prop} [Decidable p] (h : Kept a b) (g : Kept a c) : Kept a (if p then b else c) := by
  split <;> assumption

@[simp ↓] theorem kept_foldl {α : Type} {a : State} {f : State → α → State} (hf : ∀ b x, Kept a b → Kept a (f b x)) :
    ∀ {l : List α} {s : State}, Kept a s → Kept a (l.foldl f s) := by
  intro l
  induction l with
  | nil => intro s h; exact h
  | cons x t ih => intro s h; exact ih (hf _ _ h)

@[simp ↓] theorem kept_foldl_fst {α β : Type} {a : State} {f : State × β → α → State × β} (hf : ∀ b x, Kept a b.1 → Kept a (f b x).1) :
    ∀ {l : List α} {s : State × β}, Kept a s.1 → Kept a (l.foldl f s).1 := by
  intro l
  induction l with
  | nil => intro s h; exact h
  | cons x t ih => intro s h; exact ih (hf _ _ h)

@[simp ↓] theorem kept_foldl_snd {α β : Type} {a : State} {f : β × State → α → β × State} (hf : ∀ b x, Kept a b.2 → Kept a (f b x).2) :
    ∀ {l : List α} {s : β × State}, Kept a s.2 → Kept a (l.foldl f s).2 := by
  intro l
  induction l with
  | nil => intro s h; exact h
  | cons x t ih => intro s h; exact ih (hf _ _ h)


/-- A memory changed to a canonical one. -/
@[simp ↓] theorem Kept.setMem {a s : State} {m : Mem} (h : Kept a s) (hm : s.mem.wf → m.wf) : Kept a (s.setMem m) :=
  ⟨fun w => hm (h.mem w), h.part, h.pending⟩

/-- The state of a pair. -/
theorem Kept.snd {β : Type} {a t : State} {x : β × State} {y : β} (h : x = (y, t)) (hk : Kept a x.2) : Kept a t := by subst h; exact hk

end Sys2Proof.Machine
end

