-- ==== Sys2Proof/Laws/Kept/Regs.lean ====
section
/-!
SUPPORT. No operation of Machine/Regs.lean breaks what `Kept` says.
-/

namespace Sys2Proof.Machine

@[simp ↓] theorem State.setHoldSeq_kept {k0 s : State} (hk : Kept k0 s) (x : Nat) :
    Kept k0 (s.setHoldSeq x) := by
  exact hk.of_eq (Eq.refl _) (Eq.refl _) (Eq.refl _)

@[simp ↓] theorem State.setParks_kept {k0 s : State} (hk : Kept k0 s) (x : List Park) :
    Kept k0 (s.setParks x) := by
  exact hk.of_eq (Eq.refl _) (Eq.refl _) (Eq.refl _)

@[simp ↓] theorem State.setFreeCtr_kept {k0 s : State} (hk : Kept k0 s) (x : Nat) :
    Kept k0 (s.setFreeCtr x) := by
  exact hk.of_eq (Eq.refl _) (Eq.refl _) (Eq.refl _)

@[simp ↓] theorem State.setPages_kept {k0 s : State} (hk : Kept k0 s) (x : AMap PageHdr) :
    Kept k0 (s.setPages x) := by
  exact hk.of_eq (Eq.refl _) (Eq.refl _) (Eq.refl _)

@[simp ↓] theorem State.setLatch_kept {k0 s : State} (hk : Kept k0 s) (x : AMap Word) :
    Kept k0 (s.setLatch x) := by
  exact hk.of_eq (Eq.refl _) (Eq.refl _) (Eq.refl _)

@[simp ↓] theorem State.setSes_kept {k0 s : State} (hk : Kept k0 s) (x : AMap Se) :
    Kept k0 (s.setSes x) := by
  exact hk.of_eq (Eq.refl _) (Eq.refl _) (Eq.refl _)

@[simp ↓] theorem State.setStarted_kept {k0 s : State} (hk : Kept k0 s) (x : List Started) :
    Kept k0 (s.setStarted x) := by
  exact hk.of_eq (Eq.refl _) (Eq.refl _) (Eq.refl _)

@[simp ↓] theorem State.setEvq_kept {k0 s : State} (hk : Kept k0 s) (x : EvQ) :
    Kept k0 (s.setEvq x) := by
  exact hk.of_eq (Eq.refl _) (Eq.refl _) (Eq.refl _)

@[simp ↓] theorem State.setWxs_kept {k0 s : State} (hk : Kept k0 s) (x : AMap WaxingSlot) :
    Kept k0 (s.setWxs x) := by
  exact hk.of_eq (Eq.refl _) (Eq.refl _) (Eq.refl _)

@[simp ↓] theorem State.setUp_kept {k0 s : State} (hk : Kept k0 s) (x : List Nat) :
    Kept k0 (s.setUp x) := by
  exact hk.of_eq (Eq.refl _) (Eq.refl _) (Eq.refl _)

@[simp ↓] theorem State.setOut_kept {k0 s : State} (hk : Kept k0 s) (x : List Output) :
    Kept k0 (s.setOut x) := by
  exact hk.of_eq (Eq.refl _) (Eq.refl _) (Eq.refl _)

@[simp ↓] theorem State.setResets_kept {k0 s : State} (hk : Kept k0 s) (x : List Rst) :
    Kept k0 (s.setResets x) := by
  exact hk.of_eq (Eq.refl _) (Eq.refl _) (Eq.refl _)

@[simp ↓] theorem State.setEpochs_kept {k0 s : State} (hk : Kept k0 s) (x : AMap Word) :
    Kept k0 (s.setEpochs x) := by
  exact hk.of_eq (Eq.refl _) (Eq.refl _) (Eq.refl _)

@[simp ↓] theorem State.setHolds_kept {k0 s : State} (hk : Kept k0 s) (x : AMap Hold) :
    Kept k0 (s.setHolds x) := by
  exact hk.of_eq (Eq.refl _) (Eq.refl _) (Eq.refl _)

@[simp ↓] theorem State.setSlots_kept {k0 s : State} (hk : Kept k0 s) (x : AMap Slot) :
    Kept k0 (s.setSlots x) := by
  exact hk.of_eq (Eq.refl _) (Eq.refl _) (Eq.refl _)

@[simp ↓] theorem State.setInfs_kept {k0 s : State} (hk : Kept k0 s) (x : AMap InfSlot) :
    Kept k0 (s.setInfs x) := by
  exact hk.of_eq (Eq.refl _) (Eq.refl _) (Eq.refl _)

@[simp ↓] theorem State.setQueues_kept {k0 s : State} (hk : Kept k0 s) (x : AMap Queue) :
    Kept k0 (s.setQueues x) := by
  exact hk.of_eq (Eq.refl _) (Eq.refl _) (Eq.refl _)

@[simp ↓] theorem State.setHearths_kept {k0 s : State} (hk : Kept k0 s) (x : AMap Hearth) :
    Kept k0 (s.setHearths x) := by
  exact hk.of_eq (Eq.refl _) (Eq.refl _) (Eq.refl _)

@[simp ↓] theorem State.setNowUs_kept {k0 s : State} (hk : Kept k0 s) (x : Nat) :
    Kept k0 (s.setNowUs x) := by
  exact hk.of_eq (Eq.refl _) (Eq.refl _) (Eq.refl _)

@[simp ↓] theorem State.setImages_kept {k0 s : State} (hk : Kept k0 s) (x : List Image) :
    Kept k0 (s.setImages x) := by
  exact hk.of_eq (Eq.refl _) (Eq.refl _) (Eq.refl _)

@[simp ↓] theorem State.wr_kept {k0 s : State} (hk : Kept k0 s) (page off : Nat) (v : Word) :
    Kept k0 (s.wr page off v) := by
  exact hk.of_eq (Eq.refl _) (Eq.refl _) (Eq.refl _)

@[simp ↓] theorem State.wrPending_kept {k0 s : State} (hk : Kept k0 s) (page off : Nat) (chk v : Word) :
    Kept k0 (s.wrPending page off chk v) := by
  exact hk.of_eq (Eq.refl _) (Eq.refl _) (Eq.refl _)

@[simp ↓] theorem State.setForce_kept {k0 s : State} (hk : Kept k0 s) (page off : Nat) (v : Word) :
    Kept k0 (s.setForce page off v) := by
  exact hk.of_eq (Eq.refl _) (Eq.refl _) (Eq.refl _)

@[simp ↓] theorem State.wr64_kept {k0 s : State} (hk : Kept k0 s) (page off : Nat) (n : Nat) :
    Kept k0 (s.wr64 page off n) := by
  unfold State.wr64
  simp +contextual (maxDischargeDepth := 99) [hk]

@[simp ↓] theorem State.bump_kept {k0 s : State} (hk : Kept k0 s) (page off n : Nat) :
    Kept k0 (s.bump page off n) := by
  unfold State.bump
  simp +contextual (maxDischargeDepth := 99) [hk]

@[simp ↓] theorem State.setHdr_kept {k0 s : State} (hk : Kept k0 s) (page : Nat) (h : PageHdr) :
    Kept k0 (s.setHdr page h) := by
  exact hk.of_eq (Eq.refl _) (Eq.refl _) (Eq.refl _)

@[simp ↓] theorem State.setSe_kept {k0 s : State} (hk : Kept k0 s) (p : Nat) (x : Se) :
    Kept k0 (s.setSe p x) := by
  exact hk.of_eq (Eq.refl _) (Eq.refl _) (Eq.refl _)

@[simp ↓] theorem State.setSlot_kept {k0 s : State} (hk : Kept k0 s) (n : Nat) (x : Slot) :
    Kept k0 (s.setSlot n x) := by
  exact hk.of_eq (Eq.refl _) (Eq.refl _) (Eq.refl _)

@[simp ↓] theorem State.setHold_kept {k0 s : State} (hk : Kept k0 s) (n : Nat) (x : Hold) :
    Kept k0 (s.setHold n x) := by
  exact hk.of_eq (Eq.refl _) (Eq.refl _) (Eq.refl _)

@[simp ↓] theorem State.setInf_kept {k0 s : State} (hk : Kept k0 s) (n : Nat) (x : InfSlot) :
    Kept k0 (s.setInf n x) := by
  exact hk.of_eq (Eq.refl _) (Eq.refl _) (Eq.refl _)

@[simp ↓] theorem State.setWx_kept {k0 s : State} (hk : Kept k0 s) (n : Nat) (x : WaxingSlot) :
    Kept k0 (s.setWx n x) := by
  exact hk.of_eq (Eq.refl _) (Eq.refl _) (Eq.refl _)

@[simp ↓] theorem State.setHearth_kept {k0 s : State} (hk : Kept k0 s) (n : Nat) (x : Hearth) :
    Kept k0 (s.setHearth n x) := by
  exact hk.of_eq (Eq.refl _) (Eq.refl _) (Eq.refl _)

@[simp ↓] theorem State.setPt_kept {k0 s : State} (hk : Kept k0 s) (n : Nat) (x : Pt) :
    Kept k0 (s.setPt n x) := by
  exact hk.of_eq (Eq.refl _) (Eq.refl _) (Eq.refl _)

@[simp ↓] theorem State.setQueue_kept {k0 s : State} (hk : Kept k0 s) (n : Nat) (x : Queue) :
    Kept k0 (s.setQueue n x) := by
  exact hk.of_eq (Eq.refl _) (Eq.refl _) (Eq.refl _)

@[simp ↓] theorem State.setSem_kept {k0 s : State} (hk : Kept k0 s) (n : Nat) (x : Sem) :
    Kept k0 (s.setSem n x) := by
  exact hk.of_eq (Eq.refl _) (Eq.refl _) (Eq.refl _)

@[simp ↓] theorem State.setLink_kept {k0 s : State} (hk : Kept k0 s) (n : Nat) (x : Link) :
    Kept k0 (s.setLink n x) := by
  exact hk.of_eq (Eq.refl _) (Eq.refl _) (Eq.refl _)

@[simp ↓] theorem State.setRegion_kept {k0 s : State} (hk : Kept k0 s) (n : Nat) (x : Region) :
    Kept k0 (s.setRegion n x) := by
  exact hk.of_eq (Eq.refl _) (Eq.refl _) (Eq.refl _)

@[simp ↓] theorem State.setHeld_kept {k0 s : State} (hk : Kept k0 s) (n : Nat) (x : HeldRecs) :
    Kept k0 (s.setHeld n x) := by
  exact hk.of_eq (Eq.refl _) (Eq.refl _) (Eq.refl _)

@[simp ↓] theorem State.setReply_kept {k0 s : State} (hk : Kept k0 s) (r : Reply) :
    Kept k0 (s.setReply r) := by
  exact hk.of_eq (Eq.refl _) (Eq.refl _) (Eq.refl _)

@[simp ↓] theorem State.emit_kept {k0 s : State} (hk : Kept k0 s) (o : Output) :
    Kept k0 (s.emit o) := by
  unfold State.emit
  simp +contextual (maxDischargeDepth := 99) [hk]

@[simp ↓] theorem State.setMc_kept {k0 s : State} (hk : Kept k0 s) (x : Mc) :
    Kept k0 (s.setMc x) := by
  exact hk.of_eq (Eq.refl _) (Eq.refl _) (Eq.refl _)

@[simp ↓] theorem State.setLift_kept {k0 s : State} (hk : Kept k0 s) (x : Lift) :
    Kept k0 (s.setLift x) := by
  exact hk.of_eq (Eq.refl _) (Eq.refl _) (Eq.refl _)

@[simp ↓] theorem State.setFab_kept {k0 s : State} (hk : Kept k0 s) (x : Fabric) :
    Kept k0 (s.setFab x) := by
  exact hk.of_eq (Eq.refl _) (Eq.refl _) (Eq.refl _)

@[simp ↓] theorem State.setFbx_kept {k0 s : State} (hk : Kept k0 s) (x : Fbx) :
    Kept k0 (s.setFbx x) := by
  exact hk.of_eq (Eq.refl _) (Eq.refl _) (Eq.refl _)

@[simp ↓] theorem State.setMeter_kept {k0 s : State} (hk : Kept k0 s) (x : Meter) :
    Kept k0 (s.setMeter x) := by
  exact hk.of_eq (Eq.refl _) (Eq.refl _) (Eq.refl _)

@[simp ↓] theorem State.setHost_kept {k0 s : State} (hk : Kept k0 s) (x : HostSt) :
    Kept k0 (s.setHost x) := by
  exact hk.of_eq (Eq.refl _) (Eq.refl _) (Eq.refl _)

@[simp ↓] theorem State.setWax_kept {k0 s : State} (hk : Kept k0 s) (x : WaxEng) :
    Kept k0 (s.setWax x) := by
  exact hk.of_eq (Eq.refl _) (Eq.refl _) (Eq.refl _)

@[simp ↓] theorem State.pick_kept {k0 s : State} (hk : Kept k0 s) (n : Nat) :
    Kept k0 (s.pick n).2 := by
  unfold State.pick
  simp +contextual (maxDischargeDepth := 99) [hk]

@[simp ↓] theorem State.pickOf_kept {k0 s : State} (hk : Kept k0 s) (l : List Nat) :
    Kept k0 (s.pickOf l).2 := by
  unfold State.pickOf; split <;> simp [hk]

end Sys2Proof.Machine
end

