-- ==== Sys2Proof/Laws/Kept/Flags.lean ====
section
/-!
SUPPORT. No operation of Machine/Flags.lean breaks what `Kept` says.
-/

namespace Sys2Proof.Machine

@[simp ↓] theorem State.sendVector_kept {k0 s : State} (hk : Kept k0 s) (v : Nat) :
    Kept k0 (s.sendVector v) := by
  unfold State.sendVector
  simp +contextual (maxDischargeDepth := 99) [hk]

@[simp ↓] theorem State.sendMsi_kept {k0 s : State} (hk : Kept k0 s) (page : Nat) :
    Kept k0 (s.sendMsi page) := by
  unfold State.sendMsi
  simp +contextual (maxDischargeDepth := 99) [hk]

@[simp ↓] theorem State.raise_kept {k0 s : State} (hk : Kept k0 s) (page bit : Nat) :
    Kept k0 (s.raise page bit) := by
  unfold State.raise
  simp +contextual (maxDischargeDepth := 99) [hk]

@[simp ↓] theorem State.resend_kept {k0 s : State} (hk : Kept k0 s) (page : Nat) :
    Kept k0 (s.resend page) := by
  unfold State.resend
  simp +contextual (maxDischargeDepth := 99) [hk]

@[simp ↓] theorem State.refuse_kept {k0 s : State} (hk : Kept k0 s) (page reason : Nat) :
    Kept k0 (s.refuse page reason) := by
  unfold State.refuse
  simp +contextual (maxDischargeDepth := 99) [hk]

@[simp ↓] theorem State.flushPba_kept {k0 s : State} (hk : Kept k0 s)  :
    Kept k0 (s.flushPba) := by
  unfold State.flushPba
  split
  · refine kept_foldl (fun b x hb => ?_) hk
    simp (maxDischargeDepth := 99) [hb]
  · exact hk

@[simp ↓] theorem State.snapshot_kept {k0 s : State} (hk : Kept k0 s) (page off : Nat) :
    Kept k0 (s.snapshot page off) := by
  unfold State.snapshot
  simp +contextual (maxDischargeDepth := 99) [hk]

end Sys2Proof.Machine
end

