-- ==== Sys2Proof/Laws/Kept/Ops.lean ====
section
/-!
SUPPORT. No operation of Machine/Ops.lean breaks what `Kept` says.
-/

namespace Sys2Proof.Machine

@[simp ↓] theorem State.setPage_kept {k0 s : State} (hk : Kept k0 s) (n : Nat) (e : PageEnt) :
    Kept k0 (s.setPage n e) := by
  exact hk.setMem (fun w => ⟨w.1, w.2.1, AMap.wf_put _ _ w.2.2⟩)

@[simp ↓] theorem State.poke_kept {k0 s : State} (hk : Kept k0 s) (dua : Nat) (data : List Byte) (l1 : Nat) :
    Kept k0 (s.poke dua data l1) := by
  induction l1 generalizing s dua data with
  | zero => exact hk
  | succ n ih =>
    unfold State.poke
    split
    · exact hk
    · dsimp only
      apply ih
      refine hk.setMem (fun w => ⟨?_, AMap.wf_put _ _ w.2.1, w.2.2⟩)
      simp only [Mem.putLine]
      refine AMap.wf_putList _ _ ?_
      split
      · exact w.1
      · exact AMap.wf_putList _ _ w.1

@[simp ↓] theorem State.storeRaw_kept {k0 s : State} (hk : Kept k0 s) (dua : Nat) (data : List Byte) :
    Kept k0 (s.storeRaw dua data) := by
  unfold State.storeRaw
  simp +contextual (maxDischargeDepth := 99) [hk]

@[simp ↓] theorem State.want_kept {k0 s : State} (hk : Kept k0 s) (n : Nat) :
    Kept k0 (s.want n) := by
  unfold State.want
  simp +contextual (maxDischargeDepth := 99) [hk]

@[simp ↓] theorem State.translate_kept {k0 s : State} (hk : Kept k0 s) (who n tier frame : Nat) :
    Kept k0 (s.translate who n tier frame) := by
  unfold State.translate
  simp +contextual (maxDischargeDepth := 99) [hk]

@[simp ↓] theorem State.touchPage_kept {k0 s : State} (hk : Kept k0 s) (who : Option Nat) (n : Nat) :
    Kept k0 (s.touchPage who n) := by
  unfold State.touchPage
  try dsimp only
  repeat' (first | with_reducible assumption | (simp +contextual (maxDischargeDepth := 99) [*]; done) | (simp (maxDischargeDepth := 99) [State.load_ok ‹_› ‹_›]; done) | (simp (maxDischargeDepth := 99) [State.store_ok ‹_› ‹_›]; done) | (have hz := Kept.snd (a := k0) ‹_ = (_, _)› (by simp (maxDischargeDepth := 99) [‹Kept _ _›]); simp (maxDischargeDepth := 99) [hz]; done) | with_reducible refine State.onTaken_kept (by with_reducible assumption) _ _ (fun b x hb => ?_) | with_reducible refine State.withWrite_kept (by with_reducible assumption) _ _ (fun b r hb => ?_) | with_reducible refine kept_foldl (fun b x hb => ?_) ?_ | with_reducible refine kept_foldl_fst (fun b x hb => ?_) ?_ | with_reducible refine kept_foldl_snd (fun b x hb => ?_) ?_ | split)

@[simp ↓] theorem State.touchRange_kept {k0 s : State} (hk : Kept k0 s) (who : MemWho) (dua len : Nat) :
    Kept k0 (s.touchRange who dua len) := by
  unfold State.touchRange
  simp +contextual (maxDischargeDepth := 99) [hk]

@[simp ↓] theorem State.wantRange_kept {k0 s : State} (hk : Kept k0 s) (dua len : Nat) :
    Kept k0 (s.wantRange dua len) := by
  unfold State.wantRange
  simp +contextual (maxDischargeDepth := 99) [hk]

@[simp ↓] theorem State.waitChunks_kept {k0 s : State} (hk : Kept k0 s) (dua len : Nat) :
    Kept k0 (s.waitChunks dua len) := by
  unfold State.waitChunks
  try dsimp only
  repeat' (first | with_reducible assumption | (simp +contextual (maxDischargeDepth := 99) [*]; done) | (simp (maxDischargeDepth := 99) [State.load_ok ‹_› ‹_›]; done) | (simp (maxDischargeDepth := 99) [State.store_ok ‹_› ‹_›]; done) | (have hz := Kept.snd (a := k0) ‹_ = (_, _)› (by simp (maxDischargeDepth := 99) [‹Kept _ _›]); simp (maxDischargeDepth := 99) [hz]; done) | with_reducible refine State.onTaken_kept (by with_reducible assumption) _ _ (fun b x hb => ?_) | with_reducible refine State.withWrite_kept (by with_reducible assumption) _ _ (fun b r hb => ?_) | with_reducible refine kept_foldl (fun b x hb => ?_) ?_ | with_reducible refine kept_foldl_fst (fun b x hb => ?_) ?_ | with_reducible refine kept_foldl_snd (fun b x hb => ?_) ?_ | split)

@[simp ↓] theorem State.allocLine_kept {k0 s : State} (hk : Kept k0 s) (line : Nat) :
    Kept k0 (s.allocLine line) := by
  unfold State.allocLine
  try dsimp only
  repeat' (first | with_reducible assumption | (simp +contextual (maxDischargeDepth := 99) [*]; done) | (simp (maxDischargeDepth := 99) [State.load_ok ‹_› ‹_›]; done) | (simp (maxDischargeDepth := 99) [State.store_ok ‹_› ‹_›]; done) | (have hz := Kept.snd (a := k0) ‹_ = (_, _)› (by simp (maxDischargeDepth := 99) [‹Kept _ _›]); simp (maxDischargeDepth := 99) [hz]; done) | with_reducible refine State.onTaken_kept (by with_reducible assumption) _ _ (fun b x hb => ?_) | with_reducible refine State.withWrite_kept (by with_reducible assumption) _ _ (fun b r hb => ?_) | with_reducible refine kept_foldl (fun b x hb => ?_) ?_ | with_reducible refine kept_foldl_fst (fun b x hb => ?_) ?_ | with_reducible refine kept_foldl_snd (fun b x hb => ?_) ?_ | split)

@[simp ↓] theorem State.cacheLine_kept {k0 s : State} (hk : Kept k0 s) (line : Nat) :
    Kept k0 (s.cacheLine line) := by
  unfold State.cacheLine
  simp +contextual (maxDischargeDepth := 99) [hk]

@[simp ↓] theorem State.prefetchLine_kept {k0 s : State} (hk : Kept k0 s) (line : Nat) :
    Kept k0 (s.prefetchLine line) := by
  unfold State.prefetchLine
  simp +contextual (maxDischargeDepth := 99) [hk]

@[simp ↓] theorem State.streamLine_kept {k0 s : State} (hk : Kept k0 s) (h line : Nat) :
    Kept k0 (s.streamLine h line) := by
  unfold State.streamLine
  simp +contextual (maxDischargeDepth := 99) [hk]

@[simp ↓] theorem State.bridgeLine_kept {k0 s : State} (hk : Kept k0 s) (h line : Nat) (isRead : Bool) :
    Kept k0 (s.bridgeLine h line isRead) := by
  unfold State.bridgeLine
  simp +contextual (maxDischargeDepth := 99) [hk]

@[simp ↓] theorem State.cacheRange_kept {k0 s : State} (hk : Kept k0 s) (who : MemWho) (dua len : Nat) (isRead : Bool) :
    Kept k0 (s.cacheRange who dua len isRead) := by
  unfold State.cacheRange
  repeat' (first | with_reducible assumption | (simp +contextual (maxDischargeDepth := 99) [*]; done) | (simp (maxDischargeDepth := 99) [State.load_ok ‹_› ‹_›]; done) | (simp (maxDischargeDepth := 99) [State.store_ok ‹_› ‹_›]; done) | with_reducible refine State.onTaken_kept (by with_reducible assumption) _ _ (fun b x hb => ?_) | with_reducible refine State.withWrite_kept (by with_reducible assumption) _ _ (fun b r hb => ?_) | with_reducible refine kept_foldl (fun b x hb => ?_) ?_ | with_reducible refine kept_foldl_fst (fun b x hb => ?_) ?_ | with_reducible refine kept_foldl_snd (fun b x hb => ?_) ?_ | split)

@[simp ↓] theorem State.demand_kept {k0 s : State} (hk : Kept k0 s) (who : MemWho) (dua len : Nat) (isRead : Bool) :
    Kept k0 (s.demand who dua len isRead) := by
  unfold State.demand
  simp +contextual (maxDischargeDepth := 99) [hk]

theorem State.load_kept {k0 s : State} (hk : Kept k0 s) (who : MemWho) (dua len : Nat) :
    ∀ {x t}, s.load who dua len = .ok (x, t) → Kept k0 t := by
  unfold State.load
  intro x t ht
  split at ht
  · cases ht; exact hk
  · split at ht
    · cases ht
    · dsimp only at ht
      split at ht
      · cases ht
      · cases ht; simp (maxDischargeDepth := 99) [hk]

theorem State.store_kept {k0 s : State} (hk : Kept k0 s) (who : MemWho) (dua : Nat) (data : List Byte) :
    ∀ {t}, s.store who dua data = .ok t → Kept k0 t := by
  unfold State.store
  intro t ht
  split at ht
  · cases ht; exact hk
  · split at ht
    · cases ht
    · dsimp only at ht
      split at ht
      · cases ht
      · cases ht; simp (maxDischargeDepth := 99) [hk]

@[simp ↓] theorem State.storeTry_kept {k0 s : State} (hk : Kept k0 s) (who : MemWho) (dua : Nat) (data : List Byte) :
    Kept k0 (s.storeTry who dua data) := by
  unfold State.storeTry
  split
  · exact State.store_kept hk _ _ _ ‹_›
  · exact hk

@[simp ↓] theorem State.produce_kept {k0 s : State} (hk : Kept k0 s) (who : MemWho) (r : Ring) (data : List Byte) :
    Kept k0 (s.produce who r data) := by
  unfold State.produce
  simp +contextual (maxDischargeDepth := 99) [hk]

@[simp ↓] theorem State.consume_kept {k0 s : State} (hk : Kept k0 s) (who : MemWho) (r : Ring) :
    Kept k0 (s.consume who r).2 := by
  unfold State.consume
  dsimp only
  split
  · have := State.load_kept hk _ _ _ ‹_›
    simp (maxDischargeDepth := 99) [this]
  · simp (maxDischargeDepth := 99) [hk]

@[simp ↓] theorem State.putComp_kept {k0 s : State} (hk : Kept k0 s) (qp : Nat) (c : CRec) :
    Kept k0 (s.putComp qp c) := by
  unfold State.putComp
  simp +contextual (maxDischargeDepth := 99) [hk]

@[simp ↓] theorem State.complete_kept {k0 s : State} (hk : Kept k0 s) (qp : Nat) (c : CRec) :
    Kept k0 (s.complete qp c) := by
  unfold State.complete
  simp +contextual (maxDischargeDepth := 99) [hk]

@[simp ↓] theorem State.putErr_kept {k0 s : State} (hk : Kept k0 s) (qp : Nat) (e : ERec) :
    Kept k0 (s.putErr qp e) := by
  unfold State.putErr
  simp +contextual (maxDischargeDepth := 99) [hk]

@[simp ↓] theorem State.report_kept {k0 s : State} (hk : Kept k0 s) (qp : Nat) (e : ERec) :
    Kept k0 (s.report qp e) := by
  unfold State.report
  simp +contextual (maxDischargeDepth := 99) [hk]

@[simp ↓] theorem State.drainComp_kept {k0 s : State} (hk : Kept k0 s) (qp : Nat) (l1 : List CRec) :
    Kept k0 (s.drainComp qp l1) := by
  induction l1 generalizing s with
  | nil => simp (maxDischargeDepth := 99) [State.drainComp, hk]
  | cons c cs ih =>
    unfold State.drainComp
    split
    · exact ih (by simp (maxDischargeDepth := 99) [hk])
    · simp (maxDischargeDepth := 99) [hk]

@[simp ↓] theorem State.drainErr_kept {k0 s : State} (hk : Kept k0 s) (qp : Nat) (l1 : List ERec) :
    Kept k0 (s.drainErr qp l1) := by
  induction l1 generalizing s with
  | nil => simp (maxDischargeDepth := 99) [State.drainErr, hk]
  | cons c cs ih =>
    unfold State.drainErr
    split
    · exact ih (by simp (maxDischargeDepth := 99) [hk])
    · simp (maxDischargeDepth := 99) [hk]

@[simp ↓] theorem State.setCmd_kept {k0 s : State} (hk : Kept k0 s) (c : Started) :
    Kept k0 (s.setCmd c) := by
  unfold State.setCmd
  simp +contextual (maxDischargeDepth := 99) [hk]

@[simp ↓] theorem State.dropCmd_kept {k0 s : State} (hk : Kept k0 s) (c : Started) :
    Kept k0 (s.dropCmd c) := by
  unfold State.dropCmd
  simp +contextual (maxDischargeDepth := 99) [hk]

@[simp ↓] theorem State.breach_kept {k0 s : State} (hk : Kept k0 s) (law page off bits index : Nat) :
    Kept k0 (s.breach law page off bits index) := by
  unfold State.breach
  simp +contextual (maxDischargeDepth := 99) [hk]

@[simp ↓] theorem State.checkLink_kept {k0 s : State} (hk : Kept k0 s) (n : Nat) :
    Kept k0 (s.checkLink n) := by
  unfold State.checkLink
  simp +contextual (maxDischargeDepth := 99) [hk]

@[simp ↓] theorem State.checkQueue_kept {k0 s : State} (hk : Kept k0 s) (n : Nat) :
    Kept k0 (s.checkQueue n) := by
  unfold State.checkQueue
  simp +contextual (maxDischargeDepth := 99) [hk]

@[simp ↓] theorem State.checkFetch_kept {k0 s : State} (hk : Kept k0 s)  :
    Kept k0 (s.checkFetch) := by
  unfold State.checkFetch
  simp +contextual (maxDischargeDepth := 99) [hk]

@[simp ↓] theorem State.checkSem_kept {k0 s : State} (hk : Kept k0 s) (n : Nat) :
    Kept k0 (s.checkSem n) := by
  unfold State.checkSem
  simp +contextual (maxDischargeDepth := 99) [hk]

@[simp ↓] theorem State.tokenMismatch_kept {k0 s : State} (hk : Kept k0 s) (p : Nat) :
    Kept k0 (s.tokenMismatch p) := by
  unfold State.tokenMismatch
  simp +contextual (maxDischargeDepth := 99) [hk]

@[simp ↓] theorem State.auditLink_kept {k0 s : State} (hk : Kept k0 s) (n : Nat) :
    Kept k0 (s.auditLink n) := by
  unfold State.auditLink
  simp +contextual (maxDischargeDepth := 99) [hk]

@[simp ↓] theorem State.auditQueue_kept {k0 s : State} (hk : Kept k0 s) (n : Nat) :
    Kept k0 (s.auditQueue n) := by
  unfold State.auditQueue
  simp +contextual (maxDischargeDepth := 99) [hk]

@[simp ↓] theorem State.auditFetch_kept {k0 s : State} (hk : Kept k0 s)  :
    Kept k0 (s.auditFetch) := by
  unfold State.auditFetch
  simp +contextual (maxDischargeDepth := 99) [hk]

@[simp ↓] theorem State.auditSem_kept {k0 s : State} (hk : Kept k0 s) (n : Nat) :
    Kept k0 (s.auditSem n) := by
  unfold State.auditSem
  simp +contextual (maxDischargeDepth := 99) [hk]

@[simp ↓] theorem State.settleQueue_kept {k0 s : State} (hk : Kept k0 s) (n : Nat) :
    Kept k0 (s.settleQueue n) := by
  unfold State.settleQueue
  simp +contextual (maxDischargeDepth := 99) [hk]

@[simp ↓] theorem State.finish_kept {k0 s : State} (hk : Kept k0 s) (c : Started) (status : Nat) (i : EndInfo) :
    Kept k0 (s.finish c status i) := by
  unfold State.finish
  simp +contextual (maxDischargeDepth := 99) [hk]

@[simp ↓] theorem State.endCmd_kept {k0 s : State} (hk : Kept k0 s) (c : Started) (status : Nat) (i : EndInfo) :
    Kept k0 (s.endCmd c status i) := by
  unfold State.endCmd
  simp +contextual (maxDischargeDepth := 99) [hk]

@[simp ↓] theorem State.refuseCmd_kept {k0 s : State} (hk : Kept k0 s) (c : Started) (reason : Nat) (i : EndInfo) :
    Kept k0 (s.refuseCmd c reason i) := by
  unfold State.refuseCmd
  simp +contextual (maxDischargeDepth := 99) [hk]

@[simp ↓] theorem State.endByKey_kept {k0 s : State} (hk : Kept k0 s) (k : Nat × Nat × Nat × Nat) (status : Nat) (i : EndInfo) :
    Kept k0 (s.endByKey k status i) := by
  unfold State.endByKey
  repeat' (first | with_reducible assumption | (simp +contextual (maxDischargeDepth := 99) [*]; done) | with_reducible refine kept_foldl (fun b x hb => ?_) ?_ | with_reducible refine kept_foldl_fst (fun b x hb => ?_) ?_ | with_reducible refine kept_foldl_snd (fun b x hb => ?_) ?_ | split)

@[simp ↓] theorem State.rewriteShard_kept {k0 s : State} (hk : Kept k0 s) (dua : Nat) :
    Kept k0 (s.rewriteShard dua) := by
  unfold State.rewriteShard
  try dsimp only
  repeat' (first | with_reducible assumption | (simp +contextual (maxDischargeDepth := 99) [*]; done) | (simp (maxDischargeDepth := 99) [State.load_ok ‹_› ‹_›]; done) | (simp (maxDischargeDepth := 99) [State.store_ok ‹_› ‹_›]; done) | (have hz := Kept.snd (a := k0) ‹_ = (_, _)› (by simp (maxDischargeDepth := 99) [‹Kept _ _›]); simp (maxDischargeDepth := 99) [hz]; done) | with_reducible refine State.onTaken_kept (by with_reducible assumption) _ _ (fun b x hb => ?_) | with_reducible refine State.withWrite_kept (by with_reducible assumption) _ _ (fun b r hb => ?_) | with_reducible refine kept_foldl (fun b x hb => ?_) ?_ | with_reducible refine kept_foldl_fst (fun b x hb => ?_) ?_ | with_reducible refine kept_foldl_snd (fun b x hb => ?_) ?_ | split)

@[simp ↓] theorem State.failCmd_kept {k0 s : State} (hk : Kept k0 s) (c : Started) (e : Nat ⊕ Nat) (dua : Nat) :
    Kept k0 (s.failCmd c e dua) := by
  unfold State.failCmd
  repeat' (first | with_reducible assumption | (simp +contextual (maxDischargeDepth := 99) [*]; done) | with_reducible refine kept_foldl (fun b x hb => ?_) ?_ | with_reducible refine kept_foldl_fst (fun b x hb => ?_) ?_ | with_reducible refine kept_foldl_snd (fun b x hb => ?_) ?_ | split)

@[simp ↓] theorem State.reportCtx_kept {k0 s : State} (hk : Kept k0 s) (p kind status reason : Nat) (i : EndInfo) :
    Kept k0 (s.reportCtx p kind status reason i) := by
  unfold State.reportCtx
  simp +contextual (maxDischargeDepth := 99) [hk]

@[simp ↓] theorem State.pickFrame_kept {k0 s : State} (hk : Kept k0 s) (tier : Nat) :
    Kept k0 (s.pickFrame tier).2 := by
  unfold State.pickFrame
  simp +contextual (maxDischargeDepth := 99) [hk]

@[simp ↓] theorem State.checkFrames_kept {k0 s : State} (hk : Kept k0 s)  :
    Kept k0 (s.checkFrames) := by
  unfold State.checkFrames
  simp +contextual (maxDischargeDepth := 99) [hk]

@[simp ↓] theorem State.stageOut_kept {k0 s : State} (hk : Kept k0 s) (p j layer : Nat) (gradient : Bool) :
    Kept k0 (s.stageOut p j layer gradient) := by
  unfold State.stageOut
  try dsimp only
  repeat' (first | with_reducible assumption | (simp +contextual (maxDischargeDepth := 99) [*]; done) | (simp (maxDischargeDepth := 99) [State.load_ok ‹_› ‹_›]; done) | (simp (maxDischargeDepth := 99) [State.store_ok ‹_› ‹_›]; done) | (have hz := Kept.snd (a := k0) ‹_ = (_, _)› (by simp (maxDischargeDepth := 99) [‹Kept _ _›]); simp (maxDischargeDepth := 99) [hz]; done) | with_reducible refine State.onTaken_kept (by with_reducible assumption) _ _ (fun b x hb => ?_) | with_reducible refine State.withWrite_kept (by with_reducible assumption) _ _ (fun b r hb => ?_) | with_reducible refine kept_foldl (fun b x hb => ?_) ?_ | with_reducible refine kept_foldl_fst (fun b x hb => ?_) ?_ | with_reducible refine kept_foldl_snd (fun b x hb => ?_) ?_ | split)

end Sys2Proof.Machine
end

