-- ==== Sys2Proof/Laws/Kept/Queues.lean ====
section
/-!
SUPPORT. No operation of Machine/Queues.lean breaks what `Kept` says.
-/

namespace Sys2Proof.Machine

theorem State.load_ok {k0 s t : State} {who : MemWho} {dua len : Nat} {b : List Byte} (h : s.load who dua len = .ok (b, t)) (hk : Kept k0 s) :
    Kept k0 t := State.load_kept hk _ _ _ h

theorem State.store_ok {k0 s t : State} {who : MemWho} {dua : Nat} {data : List Byte} (h : s.store who dua data = .ok t) (hk : Kept k0 s) :
    Kept k0 t := State.store_kept hk _ _ _ h

theorem State.chooseAt_kept {k0 s : State} (hk : Kept k0 s) (eng prio : Nat) :
    ∀ {x y t}, s.chooseAt eng prio = some (x, y, t) → Kept k0 t := by
  unfold State.chooseAt
  intro x y t ht
  dsimp only at ht
  split at ht
  · cases ht
  · split at ht
    · cases ht
    · cases ht; simp [hk]

theorem State.choose_kept {k0 s : State} (hk : Kept k0 s) (eng : Nat) :
    ∀ {x y t}, s.choose eng = some (x, y, t) → Kept k0 t := by
  unfold State.choose
  intro x y t ht
  split at ht
  · cases ht; exact State.chooseAt_kept hk _ _ ‹_›
  · split at ht
    · cases ht; exact State.chooseAt_kept hk _ _ ‹_›
    · split at ht
      · cases ht; exact State.chooseAt_kept hk _ _ ‹_›
      · exact State.chooseAt_kept hk _ _ ht

@[simp ↓] theorem State.popBell_kept {k0 s : State} (hk : Kept k0 s) (eng : Nat) :
    Kept k0 (s.popBell eng) := by
  unfold State.popBell
  simp +contextual (maxDischargeDepth := 99) [hk]

@[simp ↓] theorem State.stopQueue_kept {k0 s : State} (hk : Kept k0 s) (qp n : Nat) :
    Kept k0 (s.stopQueue qp n) := by
  unfold State.stopQueue
  simp +contextual (maxDischargeDepth := 99) [hk]

@[simp ↓] theorem State.takeRecord_kept {k0 s : State} (hk : Kept k0 s) (qp eng q : Nat) (r : List Byte) :
    Kept k0 (s.takeRecord qp eng q r) := by
  unfold State.takeRecord
  try dsimp only
  repeat' (first | with_reducible assumption | (simp +contextual (maxDischargeDepth := 99) [*]; done) | (simp (maxDischargeDepth := 99) [State.load_ok ‹_› ‹_›]; done) | (simp (maxDischargeDepth := 99) [State.store_ok ‹_› ‹_›]; done) | with_reducible refine State.onTaken_kept (by with_reducible assumption) _ _ (fun b x hb => ?_) | with_reducible refine State.withWrite_kept (by with_reducible assumption) _ _ (fun b r hb => ?_) | with_reducible refine kept_foldl (fun b x hb => ?_) ?_ | with_reducible refine kept_foldl_fst (fun b x hb => ?_) ?_ | with_reducible refine kept_foldl_snd (fun b x hb => ?_) ?_ | split)

@[simp ↓] theorem State.startNext_kept {k0 s : State} (hk : Kept k0 s) (eng : Nat) :
    Kept k0 (s.startNext eng) := by
  unfold State.startNext
  split
  · exact hk
  · have h1 := State.choose_kept hk _ ‹_›
    dsimp only
    split
    · have h2 := State.load_kept h1 _ _ _ ‹_›
      simp [h2]
    · simp (maxDischargeDepth := 9) [h1]
    · simp (maxDischargeDepth := 9) [h1]

theorem execCommandStart_kept {k0 s : State} (hk : Kept k0 s) (eng : Fin 5) :
    ∀ {s1}, execCommandStart eng s = .next s1 → Kept k0 s1 := by
  intro s1 ht; unfold execCommandStart at ht; simp only [Host.Outcome.next.injEq] at ht; subst ht
  simp +contextual (maxDischargeDepth := 99) [hk]

@[simp ↓] theorem State.tailError_kept {k0 s : State} (hk : Kept k0 s) (qp eng q : Nat) (v : Word) :
    Kept k0 (s.tailError qp eng q v) := by
  unfold State.tailError
  simp +contextual (maxDischargeDepth := 99) [hk]

@[simp ↓] theorem State.checkTail_kept {k0 s : State} (hk : Kept k0 s) (qp eng q : Nat) :
    Kept k0 (s.checkTail qp eng q) := by
  unfold State.checkTail
  simp +contextual (maxDischargeDepth := 99) [hk]

@[simp ↓] theorem State.pushBell_kept {k0 s : State} (hk : Kept k0 s) (eng n : Nat) (popNow : Bool) :
    Kept k0 (s.pushBell eng n popNow) := by
  unfold State.pushBell
  simp +contextual (maxDischargeDepth := 99) [hk]

@[simp ↓] theorem State.writeTail_kept {k0 s : State} (hk : Kept k0 s) (qp eng q : Nat) (v : Word) (popNow : Bool) :
    Kept k0 (s.writeTail qp eng q v popNow) := by
  unfold State.writeTail
  simp +contextual (maxDischargeDepth := 99) [hk]

@[simp ↓] theorem State.writeQcfg_kept {k0 s : State} (hk : Kept k0 s) (qp eng q : Nat) (v : Word) :
    Kept k0 (s.writeQcfg qp eng q v) := by
  unfold State.writeQcfg
  try simp only
  repeat' (first | with_reducible assumption | split | (simp +contextual (maxDischargeDepth := 99) [*]; done) | (simp (maxDischargeDepth := 99) [State.load_ok ‹_› ‹_›]; done) | (simp (maxDischargeDepth := 99) [State.store_ok ‹_› ‹_›]; done) | with_reducible refine State.onTaken_kept (by with_reducible assumption) _ _ (fun b x hb => ?_) | with_reducible refine State.withWrite_kept (by with_reducible assumption) _ _ (fun b r hb => ?_) | with_reducible refine kept_foldl (fun b x hb => ?_) ?_ | with_reducible refine kept_foldl_fst (fun b x hb => ?_) ?_ | with_reducible refine kept_foldl_snd (fun b x hb => ?_) ?_)

@[simp ↓] theorem State.restartQueue_kept {k0 s : State} (hk : Kept k0 s) (qp eng q : Nat) :
    Kept k0 (s.restartQueue qp eng q) := by
  unfold State.restartQueue
  simp +contextual (maxDischargeDepth := 99) [hk]

@[simp ↓] theorem State.undefineDst_kept {k0 s : State} (hk : Kept k0 s) (c : Started) :
    Kept k0 (s.undefineDst c) := by
  unfold State.undefineDst
  repeat' (first | with_reducible assumption | (simp +contextual (maxDischargeDepth := 99) [*]; done) | (simp (maxDischargeDepth := 99) [State.load_ok ‹_› ‹_›]; done) | (simp (maxDischargeDepth := 99) [State.store_ok ‹_› ‹_›]; done) | with_reducible refine State.onTaken_kept (by with_reducible assumption) _ _ (fun b x hb => ?_) | with_reducible refine State.withWrite_kept (by with_reducible assumption) _ _ (fun b r hb => ?_) | with_reducible refine kept_foldl (fun b x hb => ?_) ?_ | with_reducible refine kept_foldl_fst (fun b x hb => ?_) ?_ | with_reducible refine kept_foldl_snd (fun b x hb => ?_) ?_ | split)

@[simp ↓] theorem State.freeTag_kept {k0 s : State} (hk : Kept k0 s) (f : Fetch) :
    Kept k0 (s.freeTag f) := by
  unfold State.freeTag
  repeat' (first | with_reducible assumption | (simp +contextual (maxDischargeDepth := 99) [*]; done) | (simp (maxDischargeDepth := 99) [State.load_ok ‹_› ‹_›]; done) | (simp (maxDischargeDepth := 99) [State.store_ok ‹_› ‹_›]; done) | with_reducible refine State.onTaken_kept (by with_reducible assumption) _ _ (fun b x hb => ?_) | with_reducible refine State.withWrite_kept (by with_reducible assumption) _ _ (fun b r hb => ?_) | with_reducible refine kept_foldl (fun b x hb => ?_) ?_ | with_reducible refine kept_foldl_fst (fun b x hb => ?_) ?_ | with_reducible refine kept_foldl_snd (fun b x hb => ?_) ?_ | split)

@[simp ↓] theorem State.dropFetch_kept {k0 s : State} (hk : Kept k0 s) (f : Fetch) :
    Kept k0 (s.dropFetch f) := by
  unfold State.dropFetch
  simp +contextual (maxDischargeDepth := 99) [hk]

@[simp ↓] theorem State.releaseWaxing_kept {k0 s : State} (hk : Kept k0 s) (w : Nat) :
    Kept k0 (s.releaseWaxing w) := by
  unfold State.releaseWaxing
  try dsimp only
  repeat' (first | with_reducible assumption | (simp +contextual (maxDischargeDepth := 99) [*]; done) | (simp (maxDischargeDepth := 99) [State.load_ok ‹_› ‹_›]; done) | (simp (maxDischargeDepth := 99) [State.store_ok ‹_› ‹_›]; done) | with_reducible refine State.onTaken_kept (by with_reducible assumption) _ _ (fun b x hb => ?_) | with_reducible refine State.withWrite_kept (by with_reducible assumption) _ _ (fun b r hb => ?_) | with_reducible refine kept_foldl (fun b x hb => ?_) ?_ | with_reducible refine kept_foldl_fst (fun b x hb => ?_) ?_ | with_reducible refine kept_foldl_snd (fun b x hb => ?_) ?_ | split)

@[simp ↓] theorem State.withdrawFetch_kept {k0 s : State} (hk : Kept k0 s) (f : Fetch) :
    Kept k0 (s.withdrawFetch f) := by
  unfold State.withdrawFetch
  try dsimp only
  repeat' (first | with_reducible assumption | (simp +contextual (maxDischargeDepth := 99) [*]; done) | (simp (maxDischargeDepth := 99) [State.load_ok ‹_› ‹_›]; done) | (simp (maxDischargeDepth := 99) [State.store_ok ‹_› ‹_›]; done) | (have hz := Kept.snd (a := k0) ‹_ = (_, _)› (by simp (maxDischargeDepth := 99) [‹Kept _ _›]); simp (maxDischargeDepth := 99) [hz]; done) | with_reducible refine State.onTaken_kept (by with_reducible assumption) _ _ (fun b x hb => ?_) | with_reducible refine State.withWrite_kept (by with_reducible assumption) _ _ (fun b r hb => ?_) | with_reducible refine kept_foldl (fun b x hb => ?_) ?_ | with_reducible refine kept_foldl_fst (fun b x hb => ?_) ?_ | with_reducible refine kept_foldl_snd (fun b x hb => ?_) ?_ | split)

@[simp ↓] theorem State.withdraw_kept {k0 s : State} (hk : Kept k0 s) (c : Started) :
    Kept k0 (s.withdraw c) := by
  unfold State.withdraw
  simp +contextual (maxDischargeDepth := 99) [hk]

@[simp ↓] theorem State.abortCmd_kept {k0 s : State} (hk : Kept k0 s) (c : Started) :
    Kept k0 (s.abortCmd c) := by
  unfold State.abortCmd
  simp +contextual (maxDischargeDepth := 99) [hk]

@[simp ↓] theorem State.teardownQueue_kept {k0 s : State} (hk : Kept k0 s) (c : Started) :
    Kept k0 (s.teardownQueue c) := by
  unfold State.teardownQueue
  simp +contextual (maxDischargeDepth := 99) [hk]

theorem execCommandHang_kept {k0 s : State} (hk : Kept k0 s) (c : CmdRef) :
    ∀ {s1}, execCommandHang c s = .next s1 → Kept k0 s1 := by
  intro s1 ht; unfold execCommandHang at ht; simp only [Host.Outcome.next.injEq] at ht; subst ht
  repeat' (first | with_reducible assumption | (simp +contextual (maxDischargeDepth := 99) [*]; done) | (simp (maxDischargeDepth := 99) [State.load_ok ‹_› ‹_›]; done) | (simp (maxDischargeDepth := 99) [State.store_ok ‹_› ‹_›]; done) | (have hz := Kept.snd (a := k0) ‹_ = (_, _)› (by simp (maxDischargeDepth := 99) [‹Kept _ _›]); simp (maxDischargeDepth := 99) [hz]; done) | with_reducible refine State.onTaken_kept (by with_reducible assumption) _ _ (fun b x hb => ?_) | with_reducible refine State.withWrite_kept (by with_reducible assumption) _ _ (fun b r hb => ?_) | with_reducible refine kept_foldl (fun b x hb => ?_) ?_ | with_reducible refine kept_foldl_fst (fun b x hb => ?_) ?_ | with_reducible refine kept_foldl_snd (fun b x hb => ?_) ?_ | split)

end Sys2Proof.Machine
end

