-- ==== Sys2Proof/Laws/Kept/Access.lean ====
section
/-!
SUPPORT. No operation of Machine/Access.lean breaks what `Kept` says.
-/

namespace Sys2Proof.Machine

/-- A gate that answers with a state that keeps what `Kept` says. -/
def Gate.Keeps (k0 : State) : Gate → Prop
  | .absent => True
  | .answered s => Kept k0 s
  | .void s => Kept k0 s
  | .pass s _ => Kept k0 s

theorem State.requester_keeps {k0 s : State} (hk : Kept k0 s) (o : Origin) (w : Bool) : (s.requester o w).Keeps k0 := by
  unfold State.requester
  dsimp only
  repeat' split
  all_goals first | trivial | exact hk | exact State.setReply_kept hk _ | exact State.setReply_kept (State.bump_kept hk _ _ _) _

theorem State.gate_keeps {k0 s : State} (hk : Kept k0 s) (r : Req) (off : Nat) (w : Bool) : (s.gate r off w).Keeps k0 := by
  unfold State.gate
  dsimp only
  repeat' split
  all_goals first | exact hk | exact State.setReply_kept hk _

theorem State.access_keeps {k0 s : State} (hk : Kept k0 s) (o : Origin) (off : Nat) (w : Bool) : (s.access o off w).Keeps k0 := by
  have h := State.requester_keeps hk o w
  unfold State.access
  split
  · trivial
  · rename_i heq; rw [heq] at h; exact h
  · rename_i heq; rw [heq] at h; exact h
  · rename_i heq; rw [heq] at h; exact State.gate_keeps h _ _ _

theorem Gate.serve_kept {k0 s : State} (hk : Kept k0 s) {g : Gate} (hg : g.Keeps k0) {f : State → Req → State}
    (hf : ∀ (b : State) (r : Req), Kept k0 b → Kept k0 (f b r)) : Kept k0 (g.serve s f) := by
  cases g with
  | absent => exact hk
  | answered t => exact hg
  | void t => exact hg
  | pass t r => exact hf _ _ hg

@[simp ↓] theorem State.withWrite_kept {k0 s : State} (hk : Kept k0 s) (o : Origin) (off : Nat) {f : State → Req → State}
    (hf : ∀ (b : State) (r : Req), Kept k0 b → Kept k0 (f b r)) : Kept k0 (s.withWrite o off f) :=
  Gate.serve_kept hk (State.access_keeps hk _ _ _) (fun _ _ hb => hf _ _ (State.setReply_kept hb _))

@[simp ↓] theorem State.withRead_kept {k0 s : State} (hk : Kept k0 s) (o : Origin) (off : Nat) {f : State → Req → State}
    (hf : ∀ (b : State) (r : Req), Kept k0 b → Kept k0 (f b r)) : Kept k0 (s.withRead o off f) :=
  Gate.serve_kept hk (State.access_keeps hk _ _ _) hf

@[simp ↓] theorem State.serveGate_kept {k0 s : State} (hk : Kept k0 s) (r : Req) (off : Nat) (w : Bool) {f : State → Req → State}
    (hf : ∀ (b : State) (r : Req), Kept k0 b → Kept k0 (f b r)) : Kept k0 ((s.gate r off w).serve s f) :=
  Gate.serve_kept hk (State.gate_keeps hk _ _ _) hf

@[simp ↓] theorem State.serveRequester_kept {k0 s : State} (hk : Kept k0 s) (o : Origin) (w : Bool) {f : State → Req → State}
    (hf : ∀ (b : State) (r : Req), Kept k0 b → Kept k0 (f b r)) : Kept k0 ((s.requester o w).serve s f) :=
  Gate.serve_kept hk (State.requester_keeps hk _ _) hf

end Sys2Proof.Machine
end

