-- ==== Sys2Proof/Laws/Kept/Checks.lean ====
section
/-!
SUPPORT. No operation of Machine/Checks.lean breaks what `Kept` says.
-/

namespace Sys2Proof.Machine

@[simp ↓] theorem State.applyVals_kept {k0 s : State} (hk : Kept k0 s) (page : Nat) (vals : List (Nat × Word)) :
    Kept k0 (s.applyVals page vals) := by
  unfold State.applyVals
  simp +contextual (maxDischargeDepth := 99) [hk]

@[simp ↓] theorem State.giveHearth_kept {k0 s : State} (hk : Kept k0 s) (p l : Nat) :
    Kept k0 (s.giveHearth p l) := by
  unfold State.giveHearth
  simp +contextual (maxDischargeDepth := 99) [hk]

@[simp ↓] theorem State.enablePt_kept {k0 s : State} (hk : Kept k0 s) (p : Nat) (a : PtForce) :
    Kept k0 (s.enablePt p a) := by
  unfold State.enablePt
  simp +contextual (maxDischargeDepth := 99) [hk]

@[simp ↓] theorem State.checkOutcome_kept {k0 s : State} (hk : Kept k0 s) (page : Nat) (snap : List (Nat × Word)) :
    Kept k0 (s.checkOutcome page snap) := by
  unfold State.checkOutcome
  repeat' (first | with_reducible assumption | (simp +contextual (maxDischargeDepth := 99) [*]; done) | (simp (maxDischargeDepth := 99) [State.load_ok ‹_› ‹_›]; done) | (simp (maxDischargeDepth := 99) [State.store_ok ‹_› ‹_›]; done) | with_reducible refine State.onTaken_kept (by with_reducible assumption) _ _ (fun b x hb => ?_) | with_reducible refine State.withWrite_kept (by with_reducible assumption) _ _ (fun b r hb => ?_) | with_reducible refine kept_foldl (fun b x hb => ?_) ?_ | with_reducible refine kept_foldl_fst (fun b x hb => ?_) ?_ | with_reducible refine kept_foldl_snd (fun b x hb => ?_) ?_ | split)

end Sys2Proof.Machine
end

