-- ==== Sys2Proof/Laws/Kept/Resid.lean ====
section
/-!
SUPPORT. No operation of Machine/Resid.lean breaks what `Kept` says.
-/

namespace Sys2Proof.Machine

@[simp ↓] theorem State.pickFree_kept {k0 s : State} (hk : Kept k0 s) (total : Nat) (used : List Nat) :
    Kept k0 (s.pickFree total used).2 := by
  unfold State.pickFree
  simp +contextual (maxDischargeDepth := 99) [hk]

@[simp ↓] theorem State.mapHolds_kept {k0 s : State} (hk : Kept k0 s) (f : Hold → Hold) :
    Kept k0 (s.mapHolds f) := by
  unfold State.mapHolds
  simp +contextual (maxDischargeDepth := 99) [hk]

@[simp ↓] theorem State.mapSlots_kept {k0 s : State} (hk : Kept k0 s) (f : Slot → Slot) :
    Kept k0 (s.mapSlots f) := by
  unfold State.mapSlots
  simp +contextual (maxDischargeDepth := 99) [hk]

@[simp ↓] theorem State.mapInfs_kept {k0 s : State} (hk : Kept k0 s) (f : InfSlot → InfSlot) :
    Kept k0 (s.mapInfs f) := by
  unfold State.mapInfs
  simp +contextual (maxDischargeDepth := 99) [hk]

@[simp ↓] theorem State.mapWxs_kept {k0 s : State} (hk : Kept k0 s) (f : WaxingSlot → WaxingSlot) :
    Kept k0 (s.mapWxs f) := by
  unfold State.mapWxs
  simp +contextual (maxDischargeDepth := 99) [hk]

@[simp ↓] theorem State.mapQueues_kept {k0 s : State} (hk : Kept k0 s) (f : Nat → Queue → Queue) :
    Kept k0 (s.mapQueues f) := by
  unfold State.mapQueues
  simp +contextual (maxDischargeDepth := 99) [hk]

@[simp ↓] theorem State.mapFetches_kept {k0 s : State} (hk : Kept k0 s) (f : Fetch → Fetch) :
    Kept k0 (s.mapFetches f) := by
  unfold State.mapFetches
  simp +contextual (maxDischargeDepth := 99) [hk]

@[simp ↓] theorem State.mapParks_kept {k0 s : State} (hk : Kept k0 s) (f : Park → Park) :
    Kept k0 (s.mapParks f) := by
  unfold State.mapParks
  simp +contextual (maxDischargeDepth := 99) [hk]

@[simp ↓] theorem State.dropWaxLines_kept {k0 s : State} (hk : Kept k0 s) (n : Nat) :
    Kept k0 (s.dropWaxLines n) := by
  unfold State.dropWaxLines
  simp +contextual (maxDischargeDepth := 99) [hk]

@[simp ↓] theorem State.freeInf_kept {k0 s : State} (hk : Kept k0 s) (n : Nat) :
    Kept k0 (s.freeInf n) := by
  unfold State.freeInf
  simp +contextual (maxDischargeDepth := 99) [hk]

@[simp ↓] theorem State.takeInf_kept {k0 s : State} (hk : Kept k0 s) (p : Nat) :
    Kept k0 (s.takeInf p).2 := by
  unfold State.takeInf
  dsimp only
  split
  · simp [hk]
  · split <;> simp [hk]

@[simp ↓] theorem State.sweepPoisoned_kept {k0 s : State} (hk : Kept k0 s)  :
    Kept k0 (s.sweepPoisoned) := by
  unfold State.sweepPoisoned
  simp +contextual (maxDischargeDepth := 99) [hk]

@[simp ↓] theorem State.returnPage_kept {k0 s : State} (hk : Kept k0 s) (p dua : Nat) :
    Kept k0 (s.returnPage p dua) := by
  unfold State.returnPage
  simp +contextual (maxDischargeDepth := 99) [hk]

@[simp ↓] theorem State.returnPages_kept {k0 s : State} (hk : Kept k0 s) (p : Nat) (l : List Nat) :
    Kept k0 (s.returnPages p l) := by
  unfold State.returnPages
  simp +contextual (maxDischargeDepth := 99) [hk]

@[simp ↓] theorem State.wantPages_kept {k0 s : State} (hk : Kept k0 s) (pages : AMap KvPage) (trace : List Nat) :
    Kept k0 (s.wantPages pages trace) := by
  unfold State.wantPages
  simp +contextual (maxDischargeDepth := 99) [hk]

@[simp ↓] theorem State.holdLow_kept {k0 s : State} (hk : Kept k0 s) (p before : Nat) :
    Kept k0 (s.holdLow p before) := by
  unfold State.holdLow
  simp +contextual (maxDischargeDepth := 99) [hk]

@[simp ↓] theorem State.freeHold_kept {k0 s : State} (hk : Kept k0 s) (h : Nat) :
    Kept k0 (s.freeHold h) := by
  unfold State.freeHold
  simp +contextual (maxDischargeDepth := 99) [hk]

@[simp ↓] theorem State.unreserve_kept {k0 s : State} (hk : Kept k0 s) (h : Nat) :
    Kept k0 (s.unreserve h) := by
  unfold State.unreserve
  simp +contextual (maxDischargeDepth := 99) [hk]

@[simp ↓] theorem State.freeSlot_kept {k0 s : State} (hk : Kept k0 s) (n : Nat) :
    Kept k0 (s.freeSlot n) := by
  unfold State.freeSlot
  simp +contextual (maxDischargeDepth := 99) [hk]

@[simp ↓] theorem State.faultSlot_kept {k0 s : State} (hk : Kept k0 s) (n reason : Nat) (dua : Option Nat) :
    Kept k0 (s.faultSlot n reason dua) := by
  unfold State.faultSlot
  simp +contextual (maxDischargeDepth := 99) [hk]

end Sys2Proof.Machine
end

