-- ==== Sys2Proof/Laws/Kept/Assemble.lean ====
section
/-!
SUPPORT. No operation of Machine/Assemble.lean breaks what `Kept` says.
-/

namespace Sys2Proof.Machine

@[simp ↓] theorem State.enterAssemble_kept {k0 s : State} (hk : Kept k0 s) (p : Nat) :
    Kept k0 (s.enterAssemble p) := by
  unfold State.enterAssemble
  simp +contextual (maxDischargeDepth := 99) [hk]

theorem execStrideStart_kept {k0 s : State} (hk : Kept k0 s) (p : PartId) :
    ∀ {s1}, execStrideStart p s = .next s1 → Kept k0 s1 := by
  intro s1 ht; unfold execStrideStart at ht; simp only [Host.Outcome.next.injEq] at ht; subst ht
  simp +contextual (maxDischargeDepth := 99) [hk]

@[simp ↓] theorem State.writeEntry_kept {k0 s : State} (hk : Kept k0 s) (n i : Nat) (b : List Byte) :
    Kept k0 (s.writeEntry n i b) := by
  unfold State.writeEntry
  simp +contextual (maxDischargeDepth := 99) [hk]

@[simp ↓] theorem State.writeTable_kept {k0 s : State} (hk : Kept k0 s) (n : Nat) (old new : AMap KvPage) :
    Kept k0 (s.writeTable n old new) := by
  unfold State.writeTable
  simp +contextual (maxDischargeDepth := 99) [hk]

@[simp ↓] theorem State.admitPark_kept {k0 s : State} (hk : Kept k0 s) (k : Park) :
    Kept k0 (s.admitPark k) := by
  unfold State.admitPark
  try dsimp only
  repeat' (first | with_reducible assumption | (simp +contextual (maxDischargeDepth := 99) [*]; done) | (simp (maxDischargeDepth := 99) [State.load_ok ‹_› ‹_›]; done) | (simp (maxDischargeDepth := 99) [State.store_ok ‹_› ‹_›]; done) | (have hz := Kept.snd (a := k0) ‹_ = (_, _)› (by simp (maxDischargeDepth := 99) [‹Kept _ _›]); simp (maxDischargeDepth := 99) [hz]; done) | with_reducible refine State.onTaken_kept (by with_reducible assumption) _ _ (fun b x hb => ?_) | with_reducible refine State.withWrite_kept (by with_reducible assumption) _ _ (fun b r hb => ?_) | with_reducible refine kept_foldl (fun b x hb => ?_) ?_ | with_reducible refine kept_foldl_fst (fun b x hb => ?_) ?_ | with_reducible refine kept_foldl_snd (fun b x hb => ?_) ?_ | split)

@[simp ↓] theorem State.admitAll_kept {k0 s : State} (hk : Kept k0 s) (p : Nat) (l1 : List Park) :
    Kept k0 (s.admitAll p l1) := by
  induction l1 generalizing s with
  | nil => exact hk
  | cons k ks ih =>
    unfold State.admitAll
    split
    · exact ih hk
    · split
      · exact ih (by simp (maxDischargeDepth := 99) [hk])
      · split
        · exact hk
        · exact ih hk

@[simp ↓] theorem State.takePage_kept {k0 s : State} (hk : Kept k0 s) (p : Nat) :
    Kept k0 (s.takePage p).2 := by
  unfold State.takePage
  simp +contextual (maxDischargeDepth := 99) [hk]

@[simp ↓] theorem State.takePagesFor_kept {k0 s : State} (hk : Kept k0 s) (sl n : Nat) (sampled : Bool) :
    Kept k0 (s.takePagesFor sl n sampled) := by
  unfold State.takePagesFor
  simp +contextual (maxDischargeDepth := 99) [hk]

@[simp ↓] theorem State.leaveOut_kept {k0 s : State} (hk : Kept k0 s) (p n : Nat) :
    Kept k0 (s.leaveOut p n) := by
  unfold State.leaveOut
  simp +contextual (maxDischargeDepth := 99) [hk]

@[simp ↓] theorem State.addRow_kept {k0 s : State} (hk : Kept k0 s) (p : Nat) (r : Rows) :
    Kept k0 (s.addRow p r) := by
  unfold State.addRow
  simp +contextual (maxDischargeDepth := 99) [hk]

@[simp ↓] theorem State.bindSlot_kept {k0 s : State} (hk : Kept k0 s) (sl : Nat) :
    Kept k0 (s.bindSlot sl) := by
  unfold State.bindSlot
  try dsimp only
  repeat' (first | with_reducible assumption | (simp +contextual (maxDischargeDepth := 99) [*]; done) | (simp (maxDischargeDepth := 99) [State.load_ok ‹_› ‹_›]; done) | (simp (maxDischargeDepth := 99) [State.store_ok ‹_› ‹_›]; done) | with_reducible refine State.onTaken_kept (by with_reducible assumption) _ _ (fun b x hb => ?_) | with_reducible refine State.withWrite_kept (by with_reducible assumption) _ _ (fun b r hb => ?_) | with_reducible refine kept_foldl (fun b x hb => ?_) ?_ | with_reducible refine kept_foldl_fst (fun b x hb => ?_) ?_ | with_reducible refine kept_foldl_snd (fun b x hb => ?_) ?_ | split)

@[simp ↓] theorem State.decodeRows_kept {k0 s : State} (hk : Kept k0 s) (p : Nat) :
    Kept k0 (s.decodeRows p) := by
  unfold State.decodeRows
  simp +contextual (maxDischargeDepth := 99) [hk]

@[simp ↓] theorem State.promptRows_kept {k0 s : State} (hk : Kept k0 s) (p limit : Nat) :
    Kept k0 (s.promptRows p limit) := by
  unfold State.promptRows
  simp +contextual (maxDischargeDepth := 99) [hk]

@[simp ↓] theorem State.placeReady_kept {k0 s : State} (hk : Kept k0 s) (p : Nat) :
    Kept k0 (s.placeReady p) := by
  unfold State.placeReady
  simp +contextual (maxDischargeDepth := 99) [hk]

@[simp ↓] theorem State.trainRowsUpTo_kept {k0 s : State} (hk : Kept k0 s) (p limit : Nat) :
    Kept k0 (s.trainRowsUpTo p limit) := by
  unfold State.trainRowsUpTo
  try dsimp only
  repeat' (first | with_reducible assumption | (simp +contextual (maxDischargeDepth := 99) [*]; done) | (simp (maxDischargeDepth := 99) [State.load_ok ‹_› ‹_›]; done) | (simp (maxDischargeDepth := 99) [State.store_ok ‹_› ‹_›]; done) | with_reducible refine State.onTaken_kept (by with_reducible assumption) _ _ (fun b x hb => ?_) | with_reducible refine State.withWrite_kept (by with_reducible assumption) _ _ (fun b r hb => ?_) | with_reducible refine kept_foldl (fun b x hb => ?_) ?_ | with_reducible refine kept_foldl_fst (fun b x hb => ?_) ?_ | with_reducible refine kept_foldl_snd (fun b x hb => ?_) ?_ | split)

@[simp ↓] theorem State.storeDeadlines_kept {k0 s : State} (hk : Kept k0 s) (m : Manifest) :
    Kept k0 (s.storeDeadlines m) := by
  unfold State.storeDeadlines
  simp +contextual (maxDischargeDepth := 99) [hk]

@[simp ↓] theorem State.writeDeadlines_kept {k0 s : State} (hk : Kept k0 s)  :
    Kept k0 (s.writeDeadlines) := by
  unfold State.writeDeadlines
  repeat' (first | with_reducible assumption | (simp +contextual (maxDischargeDepth := 99) [*]; done) | (simp (maxDischargeDepth := 99) [State.load_ok ‹_› ‹_›]; done) | (simp (maxDischargeDepth := 99) [State.store_ok ‹_› ‹_›]; done) | with_reducible refine State.onTaken_kept (by with_reducible assumption) _ _ (fun b x hb => ?_) | with_reducible refine State.withWrite_kept (by with_reducible assumption) _ _ (fun b r hb => ?_) | with_reducible refine kept_foldl (fun b x hb => ?_) ?_ | with_reducible refine kept_foldl_fst (fun b x hb => ?_) ?_ | with_reducible refine kept_foldl_snd (fun b x hb => ?_) ?_ | split)

@[simp ↓] theorem State.buildRows_kept {k0 s : State} (hk : Kept k0 s) (p : Nat) :
    Kept k0 (s.buildRows p) := by
  unfold State.buildRows
  simp +contextual (maxDischargeDepth := 99) [hk]

@[simp ↓] theorem State.fixScale_kept {k0 s : State} (hk : Kept k0 s) (p dua : Nat) :
    Kept k0 (s.fixScale p dua) := by
  unfold State.fixScale
  simp +contextual (maxDischargeDepth := 99) [hk]

@[simp ↓] theorem State.leaveAssemble_kept {k0 s : State} (hk : Kept k0 s) (p : Nat) :
    Kept k0 (s.leaveAssemble p) := by
  unfold State.leaveAssemble
  simp +contextual (maxDischargeDepth := 99) [hk]

end Sys2Proof.Machine
end

