-- ==== Sys2Proof/Laws/Kept/Sample.lean ====
section
/-!
SUPPORT. No operation of Machine/Sample.lean breaks what `Kept` says.
-/

namespace Sys2Proof.Machine

@[simp ↓] theorem State.addCnt_kept {k0 s : State} (hk : Kept k0 s) (p rec_ : Nat) (c : RecCnt) :
    Kept k0 (s.addCnt p rec_ c) := by
  unfold State.addCnt
  simp +contextual (maxDischargeDepth := 99) [hk]

@[simp ↓] theorem State.drawAll_kept {k0 s : State} (hk : Kept k0 s) (p : Nat) (rows : List RowLogits) :
    Kept k0 (s.drawAll p rows) := by
  unfold State.drawAll
  repeat' (first | with_reducible assumption | (simp +contextual (maxDischargeDepth := 99) [*]; done) | (simp (maxDischargeDepth := 99) [State.load_ok ‹_› ‹_›]; done) | (simp (maxDischargeDepth := 99) [State.store_ok ‹_› ‹_›]; done) | with_reducible refine State.onTaken_kept (by with_reducible assumption) _ _ (fun b x hb => ?_) | with_reducible refine State.withWrite_kept (by with_reducible assumption) _ _ (fun b r hb => ?_) | with_reducible refine kept_foldl (fun b x hb => ?_) ?_ | with_reducible refine kept_foldl_fst (fun b x hb => ?_) ?_ | with_reducible refine kept_foldl_snd (fun b x hb => ?_) ?_ | split)

@[simp ↓] theorem State.coefAll_kept {k0 s : State} (hk : Kept k0 s) (p : Nat) (train : List TrainLogits) :
    Kept k0 (s.coefAll p train) := by
  unfold State.coefAll
  repeat' (first | with_reducible assumption | (simp +contextual (maxDischargeDepth := 99) [*]; done) | (simp (maxDischargeDepth := 99) [State.load_ok ‹_› ‹_›]; done) | (simp (maxDischargeDepth := 99) [State.store_ok ‹_› ‹_›]; done) | with_reducible refine State.onTaken_kept (by with_reducible assumption) _ _ (fun b x hb => ?_) | with_reducible refine State.withWrite_kept (by with_reducible assumption) _ _ (fun b r hb => ?_) | with_reducible refine kept_foldl (fun b x hb => ?_) ?_ | with_reducible refine kept_foldl_fst (fun b x hb => ?_) ?_ | with_reducible refine kept_foldl_snd (fun b x hb => ?_) ?_ | split)

theorem execSampleDone_kept {k0 s : State} (hk : Kept k0 s) (p : PartId) (rows : List RowLogits) (train : List TrainLogits) :
    ∀ {s1}, execSampleDone p rows train s = .next s1 → Kept k0 s1 := by
  intro s1 ht; unfold execSampleDone at ht; simp only [Host.Outcome.next.injEq] at ht; subst ht
  simp +contextual (maxDischargeDepth := 99) [hk]

end Sys2Proof.Machine
end

