-- ==== Sys2Proof/Laws/Kept/Layers.lean ====
section
/-!
SUPPORT. No operation of Machine/Layers.lean breaks what `Kept` says.
-/

namespace Sys2Proof.Machine

@[simp ↓] theorem State.addCount_kept {k0 s : State} (hk : Kept k0 s) (who : MemWho) (dua n : Nat) :
    Kept k0 (s.addCount who dua n) := by
  unfold State.addCount
  split
  · simp [State.load_kept hk _ _ _ ‹_›]
  · exact hk

@[simp ↓] theorem State.countRerun_kept {k0 s : State} (hk : Kept k0 s) (l : Nat) :
    Kept k0 (s.countRerun l) := by
  unfold State.countRerun
  simp +contextual (maxDischargeDepth := 99) [hk]

@[simp ↓] theorem State.kvWrite_kept {k0 s : State} (hk : Kept k0 s) (p : Nat) (pages : AMap KvPage) (gen l first pos n : Nat) :
    Kept k0 (s.kvWrite p pages gen l first pos n) := by
  unfold State.kvWrite
  simp +contextual (maxDischargeDepth := 99) [hk]

@[simp ↓] theorem State.countKv_kept {k0 s : State} (hk : Kept k0 s) (p : Nat) (pages : AMap KvPage) (l upTo : Nat) :
    Kept k0 (s.countKv p pages l upTo) := by
  unfold State.countKv
  simp +contextual (maxDischargeDepth := 99) [hk]

@[simp ↓] theorem State.failHold_kept {k0 s : State} (hk : Kept k0 s) (h reason dua : Nat) :
    Kept k0 (s.failHold h reason dua) := by
  unfold State.failHold
  simp +contextual (maxDischargeDepth := 99) [hk]

@[simp ↓] theorem State.kvRow_kept {k0 s : State} (hk : Kept k0 s) (p l first : Nat) (r : Rows) :
    Kept k0 (s.kvRow p l first r) := by
  unfold State.kvRow
  try dsimp only
  repeat' (first | with_reducible assumption | (simp +contextual (maxDischargeDepth := 99) [*]; done) | (simp (maxDischargeDepth := 99) [State.load_ok ‹_› ‹_›]; done) | (simp (maxDischargeDepth := 99) [State.store_ok ‹_› ‹_›]; done) | (have hz := Kept.snd (a := k0) ‹_ = (_, _)› (by simp (maxDischargeDepth := 99) [‹Kept _ _›]); simp (maxDischargeDepth := 99) [hz]; done) | with_reducible refine State.onTaken_kept (by with_reducible assumption) _ _ (fun b x hb => ?_) | with_reducible refine State.withWrite_kept (by with_reducible assumption) _ _ (fun b r hb => ?_) | with_reducible refine kept_foldl (fun b x hb => ?_) ?_ | with_reducible refine kept_foldl_fst (fun b x hb => ?_) ?_ | with_reducible refine kept_foldl_snd (fun b x hb => ?_) ?_ | split)

@[simp ↓] theorem State.discardLayer_kept {k0 s : State} (hk : Kept k0 s) (p l : Nat) :
    Kept k0 (s.discardLayer p l) := by
  unfold State.discardLayer
  simp +contextual (maxDischargeDepth := 99) [hk]

@[simp ↓] theorem State.freeBuf_kept {k0 s : State} (hk : Kept k0 s) (l use : Nat) :
    Kept k0 (s.freeBuf l use) := by
  unfold State.freeBuf
  simp +contextual (maxDischargeDepth := 99) [hk]

@[simp ↓] theorem State.freeUnused_kept {k0 s : State} (hk : Kept k0 s)  :
    Kept k0 (s.freeUnused) := by
  unfold State.freeUnused
  simp +contextual (maxDischargeDepth := 99) [hk]

@[simp ↓] theorem State.startRerun_kept {k0 s : State} (hk : Kept k0 s) (p l : Nat) :
    Kept k0 (s.startRerun p l) := by
  unfold State.startRerun
  simp +contextual (maxDischargeDepth := 99) [hk]

@[simp ↓] theorem State.endLayer_kept {k0 s : State} (hk : Kept k0 s) (p l : Nat) (routes : List RowRoute) (inputs : List RowInput) :
    Kept k0 (s.endLayer p l routes inputs) := by
  unfold State.endLayer
  simp +contextual (maxDischargeDepth := 99) [hk]

@[simp ↓] theorem State.sweepReads_kept {k0 s : State} (hk : Kept k0 s) (p l : Nat) :
    Kept k0 (s.sweepReads p l) := by
  unfold State.sweepReads
  try dsimp only
  repeat' (first | with_reducible assumption | (simp +contextual (maxDischargeDepth := 99) [*]; done) | (simp (maxDischargeDepth := 99) [State.load_ok ‹_› ‹_›]; done) | (simp (maxDischargeDepth := 99) [State.store_ok ‹_› ‹_›]; done) | (have hz := Kept.snd (a := k0) ‹_ = (_, _)› (by simp (maxDischargeDepth := 99) [‹Kept _ _›]); simp (maxDischargeDepth := 99) [hz]; done) | with_reducible refine State.onTaken_kept (by with_reducible assumption) _ _ (fun b x hb => ?_) | with_reducible refine State.withWrite_kept (by with_reducible assumption) _ _ (fun b r hb => ?_) | with_reducible refine kept_foldl (fun b x hb => ?_) ?_ | with_reducible refine kept_foldl_fst (fun b x hb => ?_) ?_ | with_reducible refine kept_foldl_snd (fun b x hb => ?_) ?_ | split)

@[simp ↓] theorem State.startGradRerun_kept {k0 s : State} (hk : Kept k0 s) (p l : Nat) :
    Kept k0 (s.startGradRerun p l) := by
  unfold State.startGradRerun
  simp +contextual (maxDischargeDepth := 99) [hk]

@[simp ↓] theorem State.endSweepStep_kept {k0 s : State} (hk : Kept k0 s) (p l : Nat) :
    Kept k0 (s.endSweepStep p l) := by
  unfold State.endSweepStep
  simp +contextual (maxDischargeDepth := 99) [hk]

theorem execLayerDone_kept {k0 s : State} (hk : Kept k0 s) (p : PartId) (layer : Nat) (routes : List RowRoute) (inputs : List RowInput) :
    ∀ {s1}, execLayerDone p layer s routes inputs = .next s1 → Kept k0 s1 := by
  intro s1 ht; unfold execLayerDone at ht; simp only [Host.Outcome.next.injEq] at ht; subst ht
  simp +contextual (maxDischargeDepth := 99) [hk]

theorem execForwardSweepDone_kept {k0 s : State} (hk : Kept k0 s) (p : PartId) :
    ∀ {s1}, execForwardSweepDone p s = .next s1 → Kept k0 s1 := by
  intro s1 ht; unfold execForwardSweepDone at ht; simp only [Host.Outcome.next.injEq] at ht; subst ht
  simp +contextual (maxDischargeDepth := 99) [hk]

@[simp ↓] theorem State.detour_kept {k0 s : State} (hk : Kept k0 s) (p : Nat) (ds : List Detour) :
    Kept k0 (s.detour p ds) := by
  unfold State.detour
  simp +contextual (maxDischargeDepth := 99) [hk]

@[simp ↓] theorem State.substituteAll_kept {k0 s : State} (hk : Kept k0 s) (p l : Nat) (routes : List RowRoute) :
    Kept k0 (s.substituteAll p l routes) := by
  unfold State.substituteAll
  simp +contextual (maxDischargeDepth := 99) [hk]

@[simp ↓] theorem State.dropAll_kept {k0 s : State} (hk : Kept k0 s) (p l : Nat) (routes : List RowRoute) :
    Kept k0 (s.dropAll p l routes) := by
  unfold State.dropAll
  simp +contextual (maxDischargeDepth := 99) [hk]

theorem execDeadlineExpiry_kept {k0 s : State} (hk : Kept k0 s) (p : PartId) (layer : Nat) (routes : List RowRoute) :
    ∀ {s1}, execDeadlineExpiry p layer routes s = .next s1 → Kept k0 s1 := by
  intro s1 ht; unfold execDeadlineExpiry at ht; simp only [Host.Outcome.next.injEq] at ht; subst ht
  simp +contextual (maxDischargeDepth := 99) [hk]

theorem execDetourWaitExpiry_kept {k0 s : State} (hk : Kept k0 s) (p : PartId) (layer : Nat) :
    ∀ {s1}, execDetourWaitExpiry p layer s = .next s1 → Kept k0 s1 := by
  intro s1 ht; unfold execDetourWaitExpiry at ht; simp only [Host.Outcome.next.injEq] at ht; subst ht
  repeat' (first | with_reducible assumption | (simp +contextual (maxDischargeDepth := 99) [*]; done) | (simp (maxDischargeDepth := 99) [State.load_ok ‹_› ‹_›]; done) | (simp (maxDischargeDepth := 99) [State.store_ok ‹_› ‹_›]; done) | (have hz := Kept.snd (a := k0) ‹_ = (_, _)› (by simp (maxDischargeDepth := 99) [‹Kept _ _›]); simp (maxDischargeDepth := 99) [hz]; done) | with_reducible refine State.onTaken_kept (by with_reducible assumption) _ _ (fun b x hb => ?_) | with_reducible refine State.withWrite_kept (by with_reducible assumption) _ _ (fun b r hb => ?_) | with_reducible refine kept_foldl (fun b x hb => ?_) ?_ | with_reducible refine kept_foldl_fst (fun b x hb => ?_) ?_ | with_reducible refine kept_foldl_snd (fun b x hb => ?_) ?_ | split)

@[simp ↓] theorem State.keepBanks_kept {k0 s : State} (hk : Kept k0 s) (p : Nat) :
    Kept k0 (s.keepBanks p) := by
  unfold State.keepBanks
  simp +contextual (maxDischargeDepth := 99) [hk]

@[simp ↓] theorem State.accumulate_kept {k0 s : State} (hk : Kept k0 s) (p : Nat) (site : List SiteGrad) (clip : List ClipGrad) :
    Kept k0 (s.accumulate p site clip) := by
  unfold State.accumulate
  repeat' (first | with_reducible assumption | (simp +contextual (maxDischargeDepth := 99) [*]; done) | (simp (maxDischargeDepth := 99) [State.load_ok ‹_› ‹_›]; done) | (simp (maxDischargeDepth := 99) [State.store_ok ‹_› ‹_›]; done) | with_reducible refine State.onTaken_kept (by with_reducible assumption) _ _ (fun b x hb => ?_) | with_reducible refine State.withWrite_kept (by with_reducible assumption) _ _ (fun b r hb => ?_) | with_reducible refine kept_foldl (fun b x hb => ?_) ?_ | with_reducible refine kept_foldl_fst (fun b x hb => ?_) ?_ | with_reducible refine kept_foldl_snd (fun b x hb => ?_) ?_ | split)

@[simp ↓] theorem State.passOn_kept {k0 s : State} (hk : Kept k0 s) (p : Nat) (site : List SiteGrad) :
    Kept k0 (s.passOn p site) := by
  unfold State.passOn
  simp +contextual (maxDischargeDepth := 99) [hk]

@[simp ↓] theorem State.endSegment_kept {k0 s : State} (hk : Kept k0 s) (p : Nat) (site : List SiteGrad) (clip : List ClipGrad) (logits carry : List SweepVec) :
    Kept k0 (s.endSegment p site clip logits carry) := by
  unfold State.endSegment
  simp +contextual (maxDischargeDepth := 99) [hk]

theorem execSegmentDone_kept {k0 s : State} (hk : Kept k0 s) (p : PartId) (site : List SiteGrad) (clip : List ClipGrad) (logits carry : List SweepVec) :
    ∀ {s1}, execSegmentDone p site clip logits s carry = .next s1 → Kept k0 s1 := by
  intro s1 ht; unfold execSegmentDone at ht; simp only [Host.Outcome.next.injEq] at ht; subst ht
  simp +contextual (maxDischargeDepth := 99) [hk]

end Sys2Proof.Machine
end

