-- ==== Sys2Proof/Laws/Kept/Update.lean ====
section
/-!
SUPPORT. No operation of Machine/Update.lean breaks what `Kept` says.
-/

namespace Sys2Proof.Machine

@[simp ↓] theorem State.putStep_kept {k0 s : State} (hk : Kept k0 s) (p : Nat) (r : List Byte) :
    Kept k0 (s.putStep p r) := by
  unfold State.putStep
  simp +contextual (maxDischargeDepth := 99) [hk]

@[simp ↓] theorem State.drainSteps_kept {k0 s : State} (hk : Kept k0 s) (p : Nat) (l1 : List (List Byte)) :
    Kept k0 (s.drainSteps p l1) := by
  induction l1 generalizing s with
  | nil => simp [State.drainSteps, hk]
  | cons r rs ih =>
    unfold State.drainSteps
    split
    · exact ih (by simp [hk])
    · simp [hk]

@[simp ↓] theorem State.stepRecord_kept {k0 s : State} (hk : Kept k0 s) (p : Nat) (b : List Byte) :
    Kept k0 (s.stepRecord p b) := by
  unfold State.stepRecord
  simp +contextual (maxDischargeDepth := 99) [hk]

@[simp ↓] theorem State.storeLow_kept {k0 s : State} (hk : Kept k0 s) (before : Nat) :
    Kept k0 (s.storeLow before) := by
  unfold State.storeLow
  simp +contextual (maxDischargeDepth := 99) [hk]

@[simp ↓] theorem State.queueSave_kept {k0 s : State} (hk : Kept k0 s) (wax : Nat) (r : WaxRec) :
    Kept k0 (s.queueSave wax r) := by
  unfold State.queueSave
  simp +contextual (maxDischargeDepth := 99) [hk]

@[simp ↓] theorem State.settleReserved_kept {k0 s : State} (hk : Kept k0 s) (w : Nat) :
    Kept k0 (s.settleReserved w) := by
  unfold State.settleReserved
  try dsimp only
  repeat' (first | with_reducible assumption | (simp +contextual (maxDischargeDepth := 99) [*]; done) | (simp (maxDischargeDepth := 99) [State.load_ok ‹_› ‹_›]; done) | (simp (maxDischargeDepth := 99) [State.store_ok ‹_› ‹_›]; done) | with_reducible refine State.onTaken_kept (by with_reducible assumption) _ _ (fun b x hb => ?_) | with_reducible refine State.withWrite_kept (by with_reducible assumption) _ _ (fun b r hb => ?_) | with_reducible refine kept_foldl (fun b x hb => ?_) ?_ | with_reducible refine kept_foldl_fst (fun b x hb => ?_) ?_ | with_reducible refine kept_foldl_snd (fun b x hb => ?_) ?_ | split)

theorem State.commitSlot_kept {k0 s : State} (hk : Kept k0 s) (w : Nat) (r : WaxRec) :
    ∀ {t}, s.commitSlot w r = some t → Kept k0 t := by
  have h : Kept k0 (match (s.wxOf w).reservedSlot with | some n => (some n, s) | none => s.takeInf (s.wxOf w).owner).2 := by
    split
    · exact hk
    · exact State.takeInf_kept hk _
  unfold State.commitSlot
  intro t ht
  dsimp only at ht
  split at ht
  · cases ht
  · cases ht
    exact State.setWx_kept (State.setInf_kept h _ _) _ _

@[simp ↓] theorem State.takeStep_kept {k0 s : State} (hk : Kept k0 s) (p w : Nat) (b : Bank) :
    Kept k0 (s.takeStep p w b) := by
  unfold State.takeStep
  dsimp only
  split
  · simp [hk]
  · split
    · split
      · simp [State.commitSlot_kept hk _ _ ‹_›]
      · simp [hk]
    · simp [hk]

end Sys2Proof.Machine
end

