-- ==== Sys2Proof/Laws/Kept/Holds.lean ====
section
/-!
SUPPORT. No operation of Machine/Holds.lean breaks what `Kept` says.
-/

namespace Sys2Proof.Machine

@[simp ↓] theorem State.dropHold_kept {k0 s : State} (hk : Kept k0 s) (h : Nat) :
    Kept k0 (s.dropHold h) := by
  unfold State.dropHold
  simp +contextual (maxDischargeDepth := 99) [hk]

@[simp ↓] theorem State.tooLong_kept {k0 s : State} (hk : Kept k0 s) (h : Nat) :
    Kept k0 (s.tooLong h) := by
  unfold State.tooLong
  simp +contextual (maxDischargeDepth := 99) [hk]

@[simp ↓] theorem State.makeReady_kept {k0 s : State} (hk : Kept k0 s) (h : Nat) (adv : F32) :
    Kept k0 (s.makeReady h adv) := by
  unfold State.makeReady
  simp +contextual (maxDischargeDepth := 99) [hk]

@[simp ↓] theorem State.resolveGroup_kept {k0 s : State} (hk : Kept k0 s) (p : Nat) (g : GroupInst) :
    Kept k0 (s.resolveGroup p g) := by
  unfold State.resolveGroup
  try dsimp only
  repeat' (first | with_reducible assumption | (simp +contextual (maxDischargeDepth := 99) [*]; done) | (simp (maxDischargeDepth := 99) [State.load_ok ‹_› ‹_›]; done) | (simp (maxDischargeDepth := 99) [State.store_ok ‹_› ‹_›]; done) | with_reducible refine State.onTaken_kept (by with_reducible assumption) _ _ (fun b x hb => ?_) | with_reducible refine State.withWrite_kept (by with_reducible assumption) _ _ (fun b r hb => ?_) | with_reducible refine kept_foldl (fun b x hb => ?_) ?_ | with_reducible refine kept_foldl_fst (fun b x hb => ?_) ?_ | with_reducible refine kept_foldl_snd (fun b x hb => ?_) ?_ | split)

@[simp ↓] theorem State.resolveGroups_kept {k0 s : State} (hk : Kept k0 s) (p : Nat) :
    Kept k0 (s.resolveGroups p) := by
  unfold State.resolveGroups
  simp +contextual (maxDischargeDepth := 99) [hk]

@[simp ↓] theorem State.expireHolds_kept {k0 s : State} (hk : Kept k0 s) (p : Nat) :
    Kept k0 (s.expireHolds p) := by
  unfold State.expireHolds
  simp +contextual (maxDischargeDepth := 99) [hk]

@[simp ↓] theorem State.joinGroup_kept {k0 s : State} (hk : Kept k0 s) (h : Nat) :
    Kept k0 (s.joinGroup h).1 := by
  unfold State.joinGroup
  try dsimp only
  repeat' (first | with_reducible assumption | (simp +contextual (maxDischargeDepth := 99) [*]; done) | (simp (maxDischargeDepth := 99) [State.load_ok ‹_› ‹_›]; done) | (simp (maxDischargeDepth := 99) [State.store_ok ‹_› ‹_›]; done) | with_reducible refine State.onTaken_kept (by with_reducible assumption) _ _ (fun b x hb => ?_) | with_reducible refine State.withWrite_kept (by with_reducible assumption) _ _ (fun b r hb => ?_) | with_reducible refine kept_foldl (fun b x hb => ?_) ?_ | with_reducible refine kept_foldl_fst (fun b x hb => ?_) ?_ | with_reducible refine kept_foldl_snd (fun b x hb => ?_) ?_ | split)

@[simp ↓] theorem State.leaveSlot_kept {k0 s : State} (hk : Kept k0 s) (n why : Nat) :
    Kept k0 (s.leaveSlot n why) := by
  unfold State.leaveSlot
  try dsimp only
  repeat' (first | with_reducible assumption | (simp +contextual (maxDischargeDepth := 99) [*]; done) | (simp (maxDischargeDepth := 99) [State.load_ok ‹_› ‹_›]; done) | (simp (maxDischargeDepth := 99) [State.store_ok ‹_› ‹_›]; done) | with_reducible refine State.onTaken_kept (by with_reducible assumption) _ _ (fun b x hb => ?_) | with_reducible refine State.withWrite_kept (by with_reducible assumption) _ _ (fun b r hb => ?_) | with_reducible refine kept_foldl (fun b x hb => ?_) ?_ | with_reducible refine kept_foldl_fst (fun b x hb => ?_) ?_ | with_reducible refine kept_foldl_snd (fun b x hb => ?_) ?_ | split)

@[simp ↓] theorem State.untrainNow_kept {k0 s : State} (hk : Kept k0 s) (w : Nat) :
    Kept k0 (s.untrainNow w) := by
  unfold State.untrainNow
  try dsimp only
  repeat' (first | with_reducible assumption | (simp +contextual (maxDischargeDepth := 99) [*]; done) | (simp (maxDischargeDepth := 99) [State.load_ok ‹_› ‹_›]; done) | (simp (maxDischargeDepth := 99) [State.store_ok ‹_› ‹_›]; done) | with_reducible refine State.onTaken_kept (by with_reducible assumption) _ _ (fun b x hb => ?_) | with_reducible refine State.withWrite_kept (by with_reducible assumption) _ _ (fun b r hb => ?_) | with_reducible refine kept_foldl (fun b x hb => ?_) ?_ | with_reducible refine kept_foldl_fst (fun b x hb => ?_) ?_ | with_reducible refine kept_foldl_snd (fun b x hb => ?_) ?_ | split)

@[simp ↓] theorem State.closeCohort_kept {k0 s : State} (hk : Kept k0 s) (p : Nat) :
    Kept k0 (s.closeCohort p) := by
  unfold State.closeCohort
  repeat' (first | with_reducible assumption | (simp +contextual (maxDischargeDepth := 99) [*]; done) | (simp (maxDischargeDepth := 99) [State.load_ok ‹_› ‹_›]; done) | (simp (maxDischargeDepth := 99) [State.store_ok ‹_› ‹_›]; done) | with_reducible refine State.onTaken_kept (by with_reducible assumption) _ _ (fun b x hb => ?_) | with_reducible refine State.withWrite_kept (by with_reducible assumption) _ _ (fun b r hb => ?_) | with_reducible refine kept_foldl (fun b x hb => ?_) ?_ | with_reducible refine kept_foldl_fst (fun b x hb => ?_) ?_ | with_reducible refine kept_foldl_snd (fun b x hb => ?_) ?_ | split)

@[simp ↓] theorem State.applyOutcome_kept {k0 s : State} (hk : Kept k0 s) (p w : Nat) :
    Kept k0 (s.applyOutcome p w) := by
  unfold State.applyOutcome
  try dsimp only
  repeat' (first | with_reducible assumption | (simp +contextual (maxDischargeDepth := 99) [*]; done) | (simp (maxDischargeDepth := 99) [State.load_ok ‹_› ‹_›]; done) | (simp (maxDischargeDepth := 99) [State.store_ok ‹_› ‹_›]; done) | with_reducible refine State.onTaken_kept (by with_reducible assumption) _ _ (fun b x hb => ?_) | with_reducible refine State.withWrite_kept (by with_reducible assumption) _ _ (fun b r hb => ?_) | with_reducible refine kept_foldl (fun b x hb => ?_) ?_ | with_reducible refine kept_foldl_fst (fun b x hb => ?_) ?_ | with_reducible refine kept_foldl_snd (fun b x hb => ?_) ?_ | split)

@[simp ↓] theorem State.dueStep_kept {k0 s : State} (hk : Kept k0 s) (p w : Nat) :
    Kept k0 (s.dueStep p w) := by
  unfold State.dueStep
  simp +contextual (maxDischargeDepth := 99) [hk]

@[simp ↓] theorem State.freeLong_kept {k0 s : State} (hk : Kept k0 s) (p : Nat) :
    Kept k0 (s.freeLong p) := by
  unfold State.freeLong
  simp +contextual (maxDischargeDepth := 99) [hk]

@[simp ↓] theorem State.cycleWrap_kept {k0 s : State} (hk : Kept k0 s) (p : Nat) :
    Kept k0 (s.cycleWrap p) := by
  unfold State.cycleWrap
  simp +contextual (maxDischargeDepth := 99) [hk]

@[simp ↓] theorem State.advancePhase_kept {k0 s : State} (hk : Kept k0 s) (p : Nat) :
    Kept k0 (s.advancePhase p) := by
  unfold State.advancePhase
  simp +contextual (maxDischargeDepth := 99) [hk]

end Sys2Proof.Machine
end

