-- ==== Sys2Proof/Laws/Kept/Boundary.lean ====
section
/-!
SUPPORT. No operation of Machine/Boundary.lean breaks what `Kept` says.
-/

namespace Sys2Proof.Machine

@[simp ↓] theorem State.writeTokens_kept {k0 s : State} (hk : Kept k0 s) (p : Nat) :
    Kept k0 (s.writeTokens p) := by
  unfold State.writeTokens
  simp +contextual (maxDischargeDepth := 99) [hk]

@[simp ↓] theorem State.updateScales_kept {k0 s : State} (hk : Kept k0 s) (p : Nat) :
    Kept k0 (s.updateScales p) := by
  unfold State.updateScales
  refine kept_foldl (fun b x hb => ?_) hk
  split
  · simp [State.load_kept hb _ _ _ ‹_›]
  · exact hb

@[simp ↓] theorem State.traceAdd_kept {k0 s : State} (hk : Kept k0 s) (n : Nat) (ts : List Trace) :
    Kept k0 (s.traceAdd n ts) := by
  unfold State.traceAdd
  simp +contextual (maxDischargeDepth := 99) [hk]

@[simp ↓] theorem State.advanceRow_kept {k0 s : State} (hk : Kept k0 s) (p : Nat) (fr : Nat × Rows) :
    Kept k0 (s.advanceRow p fr) := by
  unfold State.advanceRow
  simp +contextual (maxDischargeDepth := 99) [hk]

@[simp ↓] theorem State.keepToken_kept {k0 s : State} (hk : Kept k0 s) (m : Sample) :
    Kept k0 (s.keepToken m) := by
  unfold State.keepToken
  simp +contextual (maxDischargeDepth := 99) [hk]

@[simp ↓] theorem State.slotRequest_kept {k0 s : State} (hk : Kept k0 s) (r : BReq) (gone : List Nat) :
    Kept k0 (s.slotRequest r gone) := by
  unfold State.slotRequest
  repeat' (first | with_reducible assumption | (simp +contextual (maxDischargeDepth := 99) [*]; done) | (simp (maxDischargeDepth := 99) [State.load_ok ‹_› ‹_›]; done) | (simp (maxDischargeDepth := 99) [State.store_ok ‹_› ‹_›]; done) | with_reducible refine State.onTaken_kept (by with_reducible assumption) _ _ (fun b x hb => ?_) | with_reducible refine State.withWrite_kept (by with_reducible assumption) _ _ (fun b r hb => ?_) | with_reducible refine kept_foldl (fun b x hb => ?_) ?_ | with_reducible refine kept_foldl_fst (fun b x hb => ?_) ?_ | with_reducible refine kept_foldl_snd (fun b x hb => ?_) ?_ | split)

@[simp ↓] theorem State.slotRequests_kept {k0 s : State} (hk : Kept k0 s) (rs : List BReq) (gone : List Nat) :
    Kept k0 (s.slotRequests rs gone) := by
  unfold State.slotRequests
  repeat' (first | with_reducible assumption | (simp +contextual (maxDischargeDepth := 99) [*]; done) | (simp (maxDischargeDepth := 99) [State.load_ok ‹_› ‹_›]; done) | (simp (maxDischargeDepth := 99) [State.store_ok ‹_› ‹_›]; done) | with_reducible refine State.onTaken_kept (by with_reducible assumption) _ _ (fun b x hb => ?_) | with_reducible refine State.withWrite_kept (by with_reducible assumption) _ _ (fun b r hb => ?_) | with_reducible refine kept_foldl (fun b x hb => ?_) ?_ | with_reducible refine kept_foldl_fst (fun b x hb => ?_) ?_ | with_reducible refine kept_foldl_snd (fun b x hb => ?_) ?_ | split)

@[simp ↓] theorem State.holdRequest_kept {k0 s : State} (hk : Kept k0 s) (p : Nat) (r : BReq) :
    Kept k0 (s.holdRequest p r) := by
  unfold State.holdRequest
  repeat' (first | with_reducible assumption | (simp +contextual (maxDischargeDepth := 99) [*]; done) | (simp (maxDischargeDepth := 99) [State.load_ok ‹_› ‹_›]; done) | (simp (maxDischargeDepth := 99) [State.store_ok ‹_› ‹_›]; done) | with_reducible refine State.onTaken_kept (by with_reducible assumption) _ _ (fun b x hb => ?_) | with_reducible refine State.withWrite_kept (by with_reducible assumption) _ _ (fun b r hb => ?_) | with_reducible refine kept_foldl (fun b x hb => ?_) ?_ | with_reducible refine kept_foldl_fst (fun b x hb => ?_) ?_ | with_reducible refine kept_foldl_snd (fun b x hb => ?_) ?_ | split)

@[simp ↓] theorem State.landRefreshes_kept {k0 s : State} (hk : Kept k0 s) (p : Nat) :
    Kept k0 (s.landRefreshes p) := by
  unfold State.landRefreshes
  simp +contextual (maxDischargeDepth := 99) [hk]

@[simp ↓] theorem State.applyRequests_kept {k0 s : State} (hk : Kept k0 s) (p : Nat) (gone : List Nat) :
    Kept k0 (s.applyRequests p gone) := by
  unfold State.applyRequests
  simp +contextual (maxDischargeDepth := 99) [hk]

@[simp ↓] theorem State.clearHearth_kept {k0 s : State} (hk : Kept k0 s) (n : Nat) :
    Kept k0 (s.clearHearth n) := by
  unfold State.clearHearth
  simp +contextual (maxDischargeDepth := 99) [hk]

@[simp ↓] theorem State.dropFailed_kept {k0 s : State} (hk : Kept k0 s) (p : Nat) :
    Kept k0 (s.dropFailed p) := by
  unfold State.dropFailed
  simp +contextual (maxDischargeDepth := 99) [hk]

@[simp ↓] theorem State.takeHearths_kept {k0 s : State} (hk : Kept k0 s) (p : Nat) :
    Kept k0 (s.takeHearths p) := by
  unfold State.takeHearths
  simp +contextual (maxDischargeDepth := 99) [hk]

@[simp ↓] theorem State.applyResize_kept {k0 s : State} (hk : Kept k0 s) (p : Nat) :
    Kept k0 (s.applyResize p) := by
  unfold State.applyResize
  repeat' (first | with_reducible assumption | (simp +contextual (maxDischargeDepth := 99) [*]; done) | (simp (maxDischargeDepth := 99) [State.load_ok ‹_› ‹_›]; done) | (simp (maxDischargeDepth := 99) [State.store_ok ‹_› ‹_›]; done) | with_reducible refine State.onTaken_kept (by with_reducible assumption) _ _ (fun b x hb => ?_) | with_reducible refine State.withWrite_kept (by with_reducible assumption) _ _ (fun b r hb => ?_) | with_reducible refine kept_foldl (fun b x hb => ?_) ?_ | with_reducible refine kept_foldl_fst (fun b x hb => ?_) ?_ | with_reducible refine kept_foldl_snd (fun b x hb => ?_) ?_ | split)

@[simp ↓] theorem State.stopBudgets_kept {k0 s : State} (hk : Kept k0 s) (p : Nat) :
    Kept k0 (s.stopBudgets p) := by
  unfold State.stopBudgets
  simp +contextual (maxDischargeDepth := 99) [hk]

@[simp ↓] theorem State.startBudgets_kept {k0 s : State} (hk : Kept k0 s) (p : Nat) :
    Kept k0 (s.startBudgets p) := by
  unfold State.startBudgets
  simp +contextual (maxDischargeDepth := 99) [hk]

@[simp ↓] theorem State.takeFreeze_kept {k0 s : State} (hk : Kept k0 s) (p : Nat) :
    Kept k0 (s.takeFreeze p) := by
  unfold State.takeFreeze
  simp +contextual (maxDischargeDepth := 99) [hk]

@[simp ↓] theorem State.freezeAtBoundary_kept {k0 s : State} (hk : Kept k0 s) (p : Nat) :
    Kept k0 (s.freezeAtBoundary p) := by
  unfold State.freezeAtBoundary
  simp +contextual (maxDischargeDepth := 99) [hk]

@[simp ↓] theorem State.stopFreezeBudget_kept {k0 s : State} (hk : Kept k0 s) (p : Nat) :
    Kept k0 (s.stopFreezeBudget p) := by
  unfold State.stopFreezeBudget
  simp +contextual (maxDischargeDepth := 99) [hk]

@[simp ↓] theorem State.startFreezeBudget_kept {k0 s : State} (hk : Kept k0 s) (p : Nat) :
    Kept k0 (s.startFreezeBudget p) := by
  unfold State.startFreezeBudget
  try dsimp only
  repeat' (first | with_reducible assumption | (simp +contextual (maxDischargeDepth := 99) [*]; done) | (simp (maxDischargeDepth := 99) [State.load_ok ‹_› ‹_›]; done) | (simp (maxDischargeDepth := 99) [State.store_ok ‹_› ‹_›]; done) | with_reducible refine State.onTaken_kept (by with_reducible assumption) _ _ (fun b x hb => ?_) | with_reducible refine State.withWrite_kept (by with_reducible assumption) _ _ (fun b r hb => ?_) | with_reducible refine kept_foldl (fun b x hb => ?_) ?_ | with_reducible refine kept_foldl_fst (fun b x hb => ?_) ?_ | with_reducible refine kept_foldl_snd (fun b x hb => ?_) ?_ | split)

@[simp ↓] theorem State.bankStop_kept {k0 s : State} (hk : Kept k0 s) (p : Nat) :
    Kept k0 (s.bankStop p) := by
  unfold State.bankStop
  simp +contextual (maxDischargeDepth := 99) [hk]

@[simp ↓] theorem State.resumeBanked_kept {k0 s : State} (hk : Kept k0 s) (p : Nat) :
    Kept k0 (s.resumeBanked p) := by
  unfold State.resumeBanked
  simp +contextual (maxDischargeDepth := 99) [hk]

@[simp ↓] theorem State.applyOrder_kept {k0 s : State} (hk : Kept k0 s) (p : Nat) :
    Kept k0 (s.applyOrder p) := by
  unfold State.applyOrder
  simp +contextual (maxDischargeDepth := 99) [hk]

@[simp ↓] theorem State.applyProgram_kept {k0 s : State} (hk : Kept k0 s) (p : Nat) :
    Kept k0 (s.applyProgram p) := by
  unfold State.applyProgram
  try dsimp only
  repeat' (first | with_reducible assumption | (simp +contextual (maxDischargeDepth := 99) [*]; done) | (simp (maxDischargeDepth := 99) [State.load_ok ‹_› ‹_›]; done) | (simp (maxDischargeDepth := 99) [State.store_ok ‹_› ‹_›]; done) | with_reducible refine State.onTaken_kept (by with_reducible assumption) _ _ (fun b x hb => ?_) | with_reducible refine State.withWrite_kept (by with_reducible assumption) _ _ (fun b r hb => ?_) | with_reducible refine kept_foldl (fun b x hb => ?_) ?_ | with_reducible refine kept_foldl_fst (fun b x hb => ?_) ?_ | with_reducible refine kept_foldl_snd (fun b x hb => ?_) ?_ | split)

@[simp ↓] theorem State.applySeVals_kept {k0 s : State} (hk : Kept k0 s) (p : Nat) :
    Kept k0 (s.applySeVals p) := by
  unfold State.applySeVals
  simp +contextual (maxDischargeDepth := 99) [hk]

@[simp ↓] theorem State.agePages_kept {k0 s : State} (hk : Kept k0 s) (p : Nat) :
    Kept k0 (s.agePages p) := by
  unfold State.agePages
  refine hk.setMem (fun w => ⟨w.1, w.2.1, ?_⟩)
  dsimp only
  exact AMap.wf_mapAll _ w.2.2

@[simp ↓] theorem State.boundaryWork_kept {k0 s : State} (hk : Kept k0 s) (p : Nat) :
    Kept k0 (s.boundaryWork p) := by
  unfold State.boundaryWork
  simp +contextual (maxDischargeDepth := 99) [hk]

@[simp ↓] theorem State.leaveBoundary_kept {k0 s : State} (hk : Kept k0 s) (p : Nat) :
    Kept k0 (s.leaveBoundary p) := by
  unfold State.leaveBoundary
  simp +contextual (maxDischargeDepth := 99) [hk]

@[simp ↓] theorem State.ringWaits_kept {k0 s : State} (hk : Kept k0 s) (p : Nat) :
    Kept k0 (s.ringWaits p) := by
  unfold State.ringWaits
  simp +contextual (maxDischargeDepth := 99) [hk]

@[simp ↓] theorem State.tryLeave_kept {k0 s : State} (hk : Kept k0 s) (p : Nat) :
    Kept k0 (s.tryLeave p) := by
  unfold State.tryLeave
  simp +contextual (maxDischargeDepth := 99) [hk]

@[simp ↓] theorem State.boundaryEnd_kept {k0 s : State} (hk : Kept k0 s) (p : Nat) :
    Kept k0 (s.boundaryEnd p) := by
  unfold State.boundaryEnd
  simp +contextual (maxDischargeDepth := 99) [hk]

theorem execStrideBoundary_kept {k0 s : State} (hk : Kept k0 s) (p : PartId) :
    ∀ {s1}, execStrideBoundary p s = .next s1 → Kept k0 s1 := by
  intro s1 ht; unfold execStrideBoundary at ht; simp only [Host.Outcome.next.injEq] at ht; subst ht
  simp +contextual (maxDischargeDepth := 99) [hk]

theorem execAssembleDone_kept {k0 s : State} (hk : Kept k0 s) (p : PartId) :
    ∀ {s1}, execAssembleDone p s = .next s1 → Kept k0 s1 := by
  intro s1 ht; unfold execAssembleDone at ht; simp only [Host.Outcome.next.injEq] at ht; subst ht
  simp +contextual (maxDischargeDepth := 99) [hk]

@[simp ↓] theorem State.tearStride_kept {k0 s : State} (hk : Kept k0 s) (p : Nat) :
    Kept k0 (s.tearStride p) := by
  unfold State.tearStride
  simp +contextual (maxDischargeDepth := 99) [hk]

@[simp ↓] theorem State.strideHangRec_kept {k0 s : State} (hk : Kept k0 s) (p detail : Nat) :
    Kept k0 (s.strideHangRec p detail) := by
  unfold State.strideHangRec
  simp +contextual (maxDischargeDepth := 99) [hk]

theorem execStrideHang_kept {k0 s : State} (hk : Kept k0 s) (p : PartId) :
    ∀ {s1}, execStrideHang p s = .next s1 → Kept k0 s1 := by
  intro s1 ht; unfold execStrideHang at ht; simp only [Host.Outcome.next.injEq] at ht; subst ht
  simp +contextual (maxDischargeDepth := 99) [hk]

@[simp ↓] theorem State.writeStrideCtrl_kept {k0 s : State} (hk : Kept k0 s) (p : Nat) (v : Word) :
    Kept k0 (s.writeStrideCtrl p v) := by
  unfold State.writeStrideCtrl
  simp +contextual (maxDischargeDepth := 99) [hk]

theorem execStrideCtrlWrite_kept {k0 s : State} (hk : Kept k0 s) (o : Origin) (p : PartId) (v : Word) :
    ∀ {s1}, execStrideCtrlWrite o p v s = .next s1 → Kept k0 s1 := by
  intro s1 ht; unfold execStrideCtrlWrite at ht; simp only [Host.Outcome.next.injEq] at ht; subst ht
  simp +contextual (maxDischargeDepth := 99) [hk]

end Sys2Proof.Machine
end

