-- ==== Sys2Proof/Laws/Kept/SeOps.lean ====
section
/-!
SUPPORT. No operation of Machine/SeOps.lean breaks what `Kept` says.
-/

namespace Sys2Proof.Machine

@[simp ↓] theorem State.onTaken_kept {k0 s : State} (hk : Kept k0 s) (c : CmdRef) (opcode : Nat) {f : State → Started → State}
    (hf : ∀ (b : State) (x : Started), Kept k0 b → Kept k0 (f b x)) : Kept k0 (s.onTaken c opcode f) := by
  unfold State.onTaken
  split
  · exact hf _ _ hk
  · exact hk

theorem execNop_kept {k0 s : State} (hk : Kept k0 s) (c : CmdRef) :
    ∀ {s1}, execNop c s = .next s1 → Kept k0 s1 := by
  intro s1 ht; unfold execNop at ht; simp only [Host.Outcome.next.injEq] at ht; subst ht
  simp +contextual (maxDischargeDepth := 99) [hk]

theorem execFence_kept {k0 s : State} (hk : Kept k0 s) (c : CmdRef) :
    ∀ {s1}, execFence c s = .next s1 → Kept k0 s1 := by
  intro s1 ht; unfold execFence at ht; simp only [Host.Outcome.next.injEq] at ht; subst ht
  simp +contextual (maxDischargeDepth := 99) [hk]

@[simp ↓] theorem State.putSem_kept {k0 s : State} (hk : Kept k0 s) (n : Nat) (m : Sem) :
    Kept k0 (s.putSem n m) := by
  unfold State.putSem
  simp +contextual (maxDischargeDepth := 99) [hk]

@[simp ↓] theorem State.trySemWait_kept {k0 s : State} (hk : Kept k0 s) (x : Started) :
    Kept k0 (s.trySemWait x) := by
  unfold State.trySemWait
  try dsimp only
  repeat' (first | with_reducible assumption | (simp +contextual (maxDischargeDepth := 99) [*]; done) | (simp (maxDischargeDepth := 99) [State.load_ok ‹_› ‹_›]; done) | (simp (maxDischargeDepth := 99) [State.store_ok ‹_› ‹_›]; done) | with_reducible refine State.onTaken_kept (by with_reducible assumption) _ _ (fun b x hb => ?_) | with_reducible refine State.withWrite_kept (by with_reducible assumption) _ _ (fun b r hb => ?_) | with_reducible refine kept_foldl (fun b x hb => ?_) ?_ | with_reducible refine kept_foldl_fst (fun b x hb => ?_) ?_ | with_reducible refine kept_foldl_snd (fun b x hb => ?_) ?_ | split)

theorem execSemWait_kept {k0 s : State} (hk : Kept k0 s) (c : CmdRef) :
    ∀ {s1}, execSemWait c s = .next s1 → Kept k0 s1 := by
  intro s1 ht; unfold execSemWait at ht; simp only [Host.Outcome.next.injEq] at ht; subst ht
  simp +contextual (maxDischargeDepth := 99) [hk]

theorem State.tryRinkWait_kept {k0 s t : State} (hk : Kept k0 s) {w : RinkWait} (h : s.tryRinkWait w = some t) : Kept k0 t := by
  unfold State.tryRinkWait at h
  obtain ⟨m, -, rfl⟩ := Option.map_eq_some_iff.mp h
  simp (maxDischargeDepth := 99) [hk]

@[simp ↓] theorem State.wakeRink_kept {k0 s : State} (hk : Kept k0 s) (n : Nat) : Kept k0 (s.wakeRink n) := by
  unfold State.wakeRink
  refine kept_foldl (fun b w hb => ?_) hk
  split
  · next h => simp (maxDischargeDepth := 99) [State.tryRinkWait_kept hb h]
  · exact hb

@[simp ↓] theorem State.dropSignal_kept {k0 s : State} (hk : Kept k0 s)  :
    Kept k0 (s.dropSignal) := by
  unfold State.dropSignal
  simp +contextual (maxDischargeDepth := 99) [hk]

@[simp ↓] theorem State.endBarrier_kept {k0 s : State} (hk : Kept k0 s) (n status : Nat) (at_ : List Nat) :
    Kept k0 (s.endBarrier n status at_) := by
  unfold State.endBarrier
  simp +contextual (maxDischargeDepth := 99) [hk]

@[simp ↓] theorem State.arriveBarrier_kept {k0 s : State} (hk : Kept k0 s) (n src : Nat) (members : List Nat) :
    Kept k0 (s.arriveBarrier n src members) := by
  unfold State.arriveBarrier
  simp +contextual (maxDischargeDepth := 99) [hk]

@[simp ↓] theorem State.rinkDo_kept {k0 s : State} (hk : Kept k0 s) (src : Nat) (epoch : Word) (op : RinkOp) :
    Kept k0 (s.rinkDo src epoch op) := by
  unfold State.rinkDo
  split
  · split
    · simp (maxDischargeDepth := 99) [hk]
    · split
      · simp (maxDischargeDepth := 99) [hk]
      · dsimp only
        split
        · next h => exact State.tryRinkWait_kept hk h
        · simp (maxDischargeDepth := 99) [hk]
  · dsimp only
    repeat' (first | (simp (maxDischargeDepth := 99) [hk]; done) | split)
  · simp (maxDischargeDepth := 99) [hk]

theorem execSemSignal_kept {k0 s : State} (hk : Kept k0 s) (c : CmdRef) :
    ∀ {s1}, execSemSignal c s = .next s1 → Kept k0 s1 := by
  intro s1 ht; unfold execSemSignal at ht; simp only [Host.Outcome.next.injEq] at ht; subst ht
  repeat' (first | with_reducible assumption | (simp +contextual (maxDischargeDepth := 99) [*]; done) | (simp (maxDischargeDepth := 99) [State.load_ok ‹_› ‹_›]; done) | (simp (maxDischargeDepth := 99) [State.store_ok ‹_› ‹_›]; done) | (have hz := Kept.snd (a := k0) ‹_ = (_, _)› (by simp (maxDischargeDepth := 99) [‹Kept _ _›]); simp (maxDischargeDepth := 99) [hz]; done) | with_reducible refine State.onTaken_kept (by with_reducible assumption) _ _ (fun b x hb => ?_) | with_reducible refine State.withWrite_kept (by with_reducible assumption) _ _ (fun b r hb => ?_) | with_reducible refine kept_foldl (fun b x hb => ?_) ?_ | with_reducible refine kept_foldl_fst (fun b x hb => ?_) ?_ | with_reducible refine kept_foldl_snd (fun b x hb => ?_) ?_ | split)

@[simp ↓] theorem State.openFetch_kept {k0 s : State} (hk : Kept k0 s) (p wax version : Nat) (k : FetchKind) (cmd : Option (Nat × Nat × Nat × Nat)) :
    Kept k0 (s.openFetch p wax version k cmd).2 := by
  unfold State.openFetch
  simp +contextual (maxDischargeDepth := 99) [hk]

@[simp ↓] theorem State.parkFetch_kept {k0 s : State} (hk : Kept k0 s) (p wax : Nat) :
    Kept k0 (s.parkFetch p wax).2 := by
  unfold State.parkFetch
  split
  · exact hk
  · split <;> simp [hk]

@[simp ↓] theorem State.parkJoin_kept {k0 s : State} (hk : Kept k0 s) (x : Started) (d : JoinDesc) :
    Kept k0 (s.parkJoin x d) := by
  unfold State.parkJoin
  simp +contextual (maxDischargeDepth := 99) [hk]

theorem execJoin_kept {k0 s : State} (hk : Kept k0 s) (c : CmdRef) : ∀ {s1}, execJoin c s = .next s1 → Kept k0 s1 := by
  intro s1 ht; unfold execJoin at ht; simp only [Host.Outcome.next.injEq] at ht; subst ht
  refine State.onTaken_kept hk _ _ (fun b x hb => ?_)
  split
  · simp (maxDischargeDepth := 99) [hb]
  try dsimp only
  split
  · simp (maxDischargeDepth := 99) [hb]
  · next h1 =>
    have k1 := State.load_ok h1 hb
    split
    · simp (maxDischargeDepth := 99) [k1]
    · split
      · simp (maxDischargeDepth := 99) [k1]
      · next h2 => have k2 := State.load_ok h2 k1; simp (maxDischargeDepth := 99) [k2]

@[simp ↓] theorem State.addRequest_kept {k0 s : State} (hk : Kept k0 s) (p : Nat) (x : Started) (k : ReqKind) (target gen : Nat) :
    Kept k0 (s.addRequest p x k target gen) := by
  unfold State.addRequest
  simp +contextual (maxDischargeDepth := 99) [hk]

@[simp ↓] theorem State.slotCmd_kept {k0 s : State} (hk : Kept k0 s) (x : Started) (k : ReqKind) (ok : SlotSt → Bool) :
    Kept k0 (s.slotCmd x k ok) := by
  unfold State.slotCmd
  repeat' (first | with_reducible assumption | (simp +contextual (maxDischargeDepth := 99) [*]; done) | (simp (maxDischargeDepth := 99) [State.load_ok ‹_› ‹_›]; done) | (simp (maxDischargeDepth := 99) [State.store_ok ‹_› ‹_›]; done) | with_reducible refine State.onTaken_kept (by with_reducible assumption) _ _ (fun b x hb => ?_) | with_reducible refine State.withWrite_kept (by with_reducible assumption) _ _ (fun b r hb => ?_) | with_reducible refine kept_foldl (fun b x hb => ?_) ?_ | with_reducible refine kept_foldl_fst (fun b x hb => ?_) ?_ | with_reducible refine kept_foldl_snd (fun b x hb => ?_) ?_ | split)

theorem execLeave_kept {k0 s : State} (hk : Kept k0 s) (c : CmdRef) :
    ∀ {s1}, execLeave c s = .next s1 → Kept k0 s1 := by
  intro s1 ht; unfold execLeave at ht; simp only [Host.Outcome.next.injEq] at ht; subst ht
  simp +contextual (maxDischargeDepth := 99) [hk]

theorem execSuspend_kept {k0 s : State} (hk : Kept k0 s) (c : CmdRef) :
    ∀ {s1}, execSuspend c s = .next s1 → Kept k0 s1 := by
  intro s1 ht; unfold execSuspend at ht; simp only [Host.Outcome.next.injEq] at ht; subst ht
  simp +contextual (maxDischargeDepth := 99) [hk]

theorem execResume_kept {k0 s : State} (hk : Kept k0 s) (c : CmdRef) :
    ∀ {s1}, execResume c s = .next s1 → Kept k0 s1 := by
  intro s1 ht; unfold execResume at ht; simp only [Host.Outcome.next.injEq] at ht; subst ht
  simp +contextual (maxDischargeDepth := 99) [hk]

theorem execReward_kept {k0 s : State} (hk : Kept k0 s) (c : CmdRef) :
    ∀ {s1}, execReward c s = .next s1 → Kept k0 s1 := by
  intro s1 ht; unfold execReward at ht; simp only [Host.Outcome.next.injEq] at ht; subst ht
  simp +contextual (maxDischargeDepth := 99) [hk]

theorem execGroupClose_kept {k0 s : State} (hk : Kept k0 s) (c : CmdRef) :
    ∀ {s1}, execGroupClose c s = .next s1 → Kept k0 s1 := by
  intro s1 ht; unfold execGroupClose at ht; simp only [Host.Outcome.next.injEq] at ht; subst ht
  simp +contextual (maxDischargeDepth := 99) [hk]

theorem execProgramSet_kept {k0 s : State} (hk : Kept k0 s) (c : CmdRef) (layout : Option Layout) :
    ∀ {s1}, execProgramSet c s layout = .next s1 → Kept k0 s1 := by
  intro s1 ht; unfold execProgramSet at ht; simp only [Host.Outcome.next.injEq] at ht; subst ht
  repeat' (first | with_reducible assumption | (simp +contextual (maxDischargeDepth := 99) [*]; done) | (simp (maxDischargeDepth := 99) [State.load_ok ‹_› ‹_›]; done) | (simp (maxDischargeDepth := 99) [State.store_ok ‹_› ‹_›]; done) | (have hz := Kept.snd (a := k0) ‹_ = (_, _)› (by simp (maxDischargeDepth := 99) [‹Kept _ _›]); simp (maxDischargeDepth := 99) [hz]; done) | with_reducible refine State.onTaken_kept (by with_reducible assumption) _ _ (fun b x hb => ?_) | with_reducible refine State.withWrite_kept (by with_reducible assumption) _ _ (fun b r hb => ?_) | with_reducible refine kept_foldl (fun b x hb => ?_) ?_ | with_reducible refine kept_foldl_fst (fun b x hb => ?_) ?_ | with_reducible refine kept_foldl_snd (fun b x hb => ?_) ?_ | split)

end Sys2Proof.Machine
end

