-- ==== Sys2Proof/Laws/Kept/CopyOps.lean ====
section
/-!
SUPPORT. No operation of Machine/CopyOps.lean breaks what `Kept` says.
-/

namespace Sys2Proof.Machine

@[simp ↓] theorem State.copyOut_kept {k0 s : State} (hk : Kept k0 s) (x : Started) (dst : Nat) (data : List Byte) :
    Kept k0 (s.copyOut x dst data) := by
  unfold State.copyOut
  split
  · simp [hk]
  · simp [State.store_kept hk _ _ _ ‹_›]

theorem execCopy_kept {k0 s : State} (hk : Kept k0 s) (c : CmdRef) :
    ∀ {s1}, execCopy c s = .next s1 → Kept k0 s1 := by
  intro s1 ht; unfold execCopy at ht; simp only [Host.Outcome.next.injEq] at ht; subst ht
  repeat' (first | with_reducible assumption | (simp +contextual (maxDischargeDepth := 99) [*]; done) | (simp (maxDischargeDepth := 99) [State.load_ok ‹_› ‹_›]; done) | (simp (maxDischargeDepth := 99) [State.store_ok ‹_› ‹_›]; done) | with_reducible refine State.onTaken_kept (by with_reducible assumption) _ _ (fun b x hb => ?_) | with_reducible refine State.withWrite_kept (by with_reducible assumption) _ _ (fun b r hb => ?_) | with_reducible refine kept_foldl (fun b x hb => ?_) ?_ | with_reducible refine kept_foldl_fst (fun b x hb => ?_) ?_ | with_reducible refine kept_foldl_snd (fun b x hb => ?_) ?_ | split)

theorem execFill_kept {k0 s : State} (hk : Kept k0 s) (c : CmdRef) :
    ∀ {s1}, execFill c s = .next s1 → Kept k0 s1 := by
  intro s1 ht; unfold execFill at ht; simp only [Host.Outcome.next.injEq] at ht; subst ht
  simp +contextual (maxDischargeDepth := 99) [hk]

end Sys2Proof.Machine
end

