-- ==== Sys2Proof/Laws/Kept/LfOps.lean ====
section
/-!
SUPPORT. No operation of Machine/LfOps.lean breaks what `Kept` says.
-/

namespace Sys2Proof.Machine

@[simp ↓] theorem State.markBad_kept {k0 s : State} (hk : Kept k0 s) (m : Manifest) (n : Nat) :
    Kept k0 (s.markBad m n) := by
  unfold State.markBad
  simp +contextual (maxDischargeDepth := 99) [hk]

@[simp ↓] theorem State.mismatch_kept {k0 s : State} (hk : Kept k0 s) (m : Manifest) (key n : Nat) :
    Kept k0 (s.mismatch m key n).1 := by
  unfold State.mismatch
  repeat' (first | with_reducible assumption | (simp +contextual (maxDischargeDepth := 99) [*]; done) | (simp (maxDischargeDepth := 99) [State.load_ok ‹_› ‹_›]; done) | (simp (maxDischargeDepth := 99) [State.store_ok ‹_› ‹_›]; done) | with_reducible refine State.onTaken_kept (by with_reducible assumption) _ _ (fun b x hb => ?_) | with_reducible refine State.withWrite_kept (by with_reducible assumption) _ _ (fun b r hb => ?_) | with_reducible refine kept_foldl (fun b x hb => ?_) ?_ | with_reducible refine kept_foldl_fst (fun b x hb => ?_) ?_ | with_reducible refine kept_foldl_snd (fun b x hb => ?_) ?_ | split)

@[simp ↓] theorem State.placeBase_kept {k0 s : State} (hk : Kept k0 s) (n : Nat) :
    Kept k0 (s.placeBase n) := by
  unfold State.placeBase
  simp +contextual (maxDischargeDepth := 99) [hk]

theorem execBaseLoad_kept {k0 s : State} (hk : Kept k0 s) (c : CmdRef) (badShards : List Nat) :
    ∀ {s1}, execBaseLoad c badShards s = .next s1 → Kept k0 s1 := by
  intro s1 ht; unfold execBaseLoad at ht; simp only [Host.Outcome.next.injEq] at ht; subst ht
  repeat' (first | with_reducible assumption | (simp +contextual (maxDischargeDepth := 99) [*]; done) | (simp (maxDischargeDepth := 99) [State.load_ok ‹_› ‹_›]; done) | (simp (maxDischargeDepth := 99) [State.store_ok ‹_› ‹_›]; done) | (have hz := Kept.snd (a := k0) ‹_ = (_, _)› (by simp (maxDischargeDepth := 99) [‹Kept _ _›]); simp (maxDischargeDepth := 99) [hz]; done) | with_reducible refine State.onTaken_kept (by with_reducible assumption) _ _ (fun b x hb => ?_) | with_reducible refine State.withWrite_kept (by with_reducible assumption) _ _ (fun b r hb => ?_) | with_reducible refine kept_foldl (fun b x hb => ?_) ?_ | with_reducible refine kept_foldl_fst (fun b x hb => ?_) ?_ | with_reducible refine kept_foldl_snd (fun b x hb => ?_) ?_ | split)

@[simp ↓] theorem State.loadBase_kept {k0 s : State} (hk : Kept k0 s)  :
    Kept k0 (s.loadBase) := by
  unfold State.loadBase
  simp +contextual (maxDischargeDepth := 99) [hk]

theorem execBaseUnload_kept {k0 s : State} (hk : Kept k0 s) (c : CmdRef) :
    ∀ {s1}, execBaseUnload c s = .next s1 → Kept k0 s1 := by
  intro s1 ht; unfold execBaseUnload at ht; simp only [Host.Outcome.next.injEq] at ht; subst ht
  simp +contextual (maxDischargeDepth := 99) [hk]

@[simp ↓] theorem State.unloadBase_kept {k0 s : State} (hk : Kept k0 s) : Kept k0 s.unloadBase := by
  unfold State.unloadBase
  exact Kept.of_eq (hk.setMem (m := { s.mem with pmap := s.mem.pmap.filter (fun e => e.2.owner != 62), tlb := _, cache := _ })
    (fun w => ⟨w.1, w.2.1, AMap.wf_filter _ w.2.2⟩)) rfl rfl rfl

@[simp ↓] theorem State.startFill_kept {k0 s : State} (hk : Kept k0 s) (w : FillWant) :
    Kept k0 (s.startFill w) := by
  unfold State.startFill
  try dsimp only
  repeat' (first | with_reducible assumption | (simp +contextual (maxDischargeDepth := 99) [*]; done) | (simp (maxDischargeDepth := 99) [State.load_ok ‹_› ‹_›]; done) | (simp (maxDischargeDepth := 99) [State.store_ok ‹_› ‹_›]; done) | (have hz := Kept.snd (a := k0) ‹_ = (_, _)› (by simp (maxDischargeDepth := 99) [‹Kept _ _›]); simp (maxDischargeDepth := 99) [hz]; done) | with_reducible refine State.onTaken_kept (by with_reducible assumption) _ _ (fun b x hb => ?_) | with_reducible refine State.withWrite_kept (by with_reducible assumption) _ _ (fun b r hb => ?_) | with_reducible refine kept_foldl (fun b x hb => ?_) ?_ | with_reducible refine kept_foldl_fst (fun b x hb => ?_) ?_ | with_reducible refine kept_foldl_snd (fun b x hb => ?_) ?_ | split)

theorem execLiftFillStart_kept {k0 s : State} (hk : Kept k0 s)  :
    ∀ {s1}, execLiftFillStart s = .next s1 → Kept k0 s1 := by
  intro s1 ht; unfold execLiftFillStart at ht; simp only [Host.Outcome.next.injEq] at ht; subst ht
  repeat' (first | with_reducible assumption | (simp +contextual (maxDischargeDepth := 99) [*]; done) | (simp (maxDischargeDepth := 99) [State.load_ok ‹_› ‹_›]; done) | (simp (maxDischargeDepth := 99) [State.store_ok ‹_› ‹_›]; done) | (have hz := Kept.snd (a := k0) ‹_ = (_, _)› (by simp (maxDischargeDepth := 99) [‹Kept _ _›]); simp (maxDischargeDepth := 99) [hz]; done) | with_reducible refine State.onTaken_kept (by with_reducible assumption) _ _ (fun b x hb => ?_) | with_reducible refine State.withWrite_kept (by with_reducible assumption) _ _ (fun b r hb => ?_) | with_reducible refine kept_foldl (fun b x hb => ?_) ?_ | with_reducible refine kept_foldl_fst (fun b x hb => ?_) ?_ | with_reducible refine kept_foldl_snd (fun b x hb => ?_) ?_ | split)

@[simp ↓] theorem State.releaseWaits_kept {k0 s : State} (hk : Kept k0 s) (l : Nat) :
    Kept k0 (s.releaseWaits l) := by
  unfold State.releaseWaits
  simp +contextual (maxDischargeDepth := 99) [hk]

@[simp ↓] theorem State.countLanded_kept {k0 s : State} (hk : Kept k0 s) (l bytes : Nat) :
    Kept k0 (s.countLanded l bytes) := by
  unfold State.countLanded
  simp +contextual (maxDischargeDepth := 99) [hk]

@[simp ↓] theorem State.landExpert_kept {k0 s : State} (hk : Kept k0 s) (m : Manifest) (l e bytes : Nat) :
    Kept k0 (s.landExpert m l e bytes) := by
  unfold State.landExpert
  simp +contextual (maxDischargeDepth := 99) [hk]

theorem execExpertLanded_kept {k0 s : State} (hk : Kept k0 s) (layer expert : Nat) (digestOk : Bool) :
    ∀ {s1}, execExpertLanded layer expert digestOk s = .next s1 → Kept k0 s1 := by
  intro s1 ht; unfold execExpertLanded at ht; simp only [Host.Outcome.next.injEq] at ht; subst ht
  repeat' (first | with_reducible assumption | (simp +contextual (maxDischargeDepth := 99) [*]; done) | (simp (maxDischargeDepth := 99) [State.load_ok ‹_› ‹_›]; done) | (simp (maxDischargeDepth := 99) [State.store_ok ‹_› ‹_›]; done) | (have hz := Kept.snd (a := k0) ‹_ = (_, _)› (by simp (maxDischargeDepth := 99) [‹Kept _ _›]); simp (maxDischargeDepth := 99) [hz]; done) | with_reducible refine State.onTaken_kept (by with_reducible assumption) _ _ (fun b x hb => ?_) | with_reducible refine State.withWrite_kept (by with_reducible assumption) _ _ (fun b r hb => ?_) | with_reducible refine kept_foldl (fun b x hb => ?_) ?_ | with_reducible refine kept_foldl_fst (fun b x hb => ?_) ?_ | with_reducible refine kept_foldl_snd (fun b x hb => ?_) ?_ | split)

theorem execPatrolPassStart_kept {k0 s : State} (hk : Kept k0 s)  :
    ∀ {s1}, execPatrolPassStart s = .next s1 → Kept k0 s1 := by
  intro s1 ht; unfold execPatrolPassStart at ht; simp only [Host.Outcome.next.injEq] at ht; subst ht
  simp +contextual (maxDischargeDepth := 99) [hk]

@[simp ↓] theorem State.patrolNext_kept {k0 s : State} (hk : Kept k0 s) (m : Manifest) :
    Kept k0 (s.patrolNext m) := by
  unfold State.patrolNext
  simp +contextual (maxDischargeDepth := 99) [hk]

theorem execPatrolShardChecked_kept {k0 s : State} (hk : Kept k0 s) (digestOk : Bool) :
    ∀ {s1}, execPatrolShardChecked digestOk s = .next s1 → Kept k0 s1 := by
  intro s1 ht; unfold execPatrolShardChecked at ht; simp only [Host.Outcome.next.injEq] at ht; subst ht
  repeat' (first | with_reducible assumption | (simp +contextual (maxDischargeDepth := 99) [*]; done) | (simp (maxDischargeDepth := 99) [State.load_ok ‹_› ‹_›]; done) | (simp (maxDischargeDepth := 99) [State.store_ok ‹_› ‹_›]; done) | (have hz := Kept.snd (a := k0) ‹_ = (_, _)› (by simp (maxDischargeDepth := 99) [‹Kept _ _›]); simp (maxDischargeDepth := 99) [hz]; done) | with_reducible refine State.onTaken_kept (by with_reducible assumption) _ _ (fun b x hb => ?_) | with_reducible refine State.withWrite_kept (by with_reducible assumption) _ _ (fun b r hb => ?_) | with_reducible refine kept_foldl (fun b x hb => ?_) ?_ | with_reducible refine kept_foldl_fst (fun b x hb => ?_) ?_ | with_reducible refine kept_foldl_snd (fun b x hb => ?_) ?_ | split)

@[simp ↓] theorem State.instGo_kept {k0 s : State} (hk : Kept k0 s)  :
    Kept k0 (s.instGo) := by
  unfold State.instGo
  simp +contextual (maxDischargeDepth := 99) [hk]

theorem execInstGo_kept {k0 s : State} (hk : Kept k0 s) (o : Origin) :
    ∀ {s1}, execInstGo o s = .next s1 → Kept k0 s1 := by
  intro s1 ht; unfold execInstGo at ht; simp only [Host.Outcome.next.injEq] at ht; subst ht
  simp +contextual (maxDischargeDepth := 99) [hk]

@[simp ↓] theorem State.shardWritten_kept {k0 s : State} (hk : Kept k0 s) (n : Nat) (pass scaleFF : Bool) :
    Kept k0 (s.shardWritten n pass scaleFF) := by
  unfold State.shardWritten
  simp +contextual (maxDischargeDepth := 99) [hk]

theorem execInstShardWritten_kept {k0 s : State} (hk : Kept k0 s) (shard : Nat) (digestOk scaleFF : Bool) :
    ∀ {s1}, execInstShardWritten shard digestOk scaleFF s = .next s1 → Kept k0 s1 := by
  intro s1 ht; unfold execInstShardWritten at ht; simp only [Host.Outcome.next.injEq] at ht; subst ht
  repeat' (first | with_reducible assumption | (simp +contextual (maxDischargeDepth := 99) [*]; done) | (simp (maxDischargeDepth := 99) [State.load_ok ‹_› ‹_›]; done) | (simp (maxDischargeDepth := 99) [State.store_ok ‹_› ‹_›]; done) | (have hz := Kept.snd (a := k0) ‹_ = (_, _)› (by simp (maxDischargeDepth := 99) [‹Kept _ _›]); simp (maxDischargeDepth := 99) [hz]; done) | with_reducible refine State.onTaken_kept (by with_reducible assumption) _ _ (fun b x hb => ?_) | with_reducible refine State.withWrite_kept (by with_reducible assumption) _ _ (fun b r hb => ?_) | with_reducible refine kept_foldl (fun b x hb => ?_) ?_ | with_reducible refine kept_foldl_fst (fun b x hb => ?_) ?_ | with_reducible refine kept_foldl_snd (fun b x hb => ?_) ?_ | split)

theorem execInstDone_kept {k0 s : State} (hk : Kept k0 s)  :
    ∀ {s1}, execInstDone s = .next s1 → Kept k0 s1 := by
  intro s1 ht; unfold execInstDone at ht; simp only [Host.Outcome.next.injEq] at ht; subst ht
  simp +contextual (maxDischargeDepth := 99) [hk]

theorem execHoldBudgetExpiry_kept {k0 s : State} (hk : Kept k0 s) (hold : Nat) :
    ∀ {s1}, execHoldBudgetExpiry hold s = .next s1 → Kept k0 s1 := by
  intro s1 ht; unfold execHoldBudgetExpiry at ht; simp only [Host.Outcome.next.injEq] at ht; subst ht
  simp +contextual (maxDischargeDepth := 99) [hk]

end Sys2Proof.Machine
end

