-- ==== Sys2Proof/Laws/Kept/Tick.lean ====
section
/-!
SUPPORT. No operation of Machine/Tick.lean breaks what `Kept` says.
-/

namespace Sys2Proof.Machine

@[simp ↓] theorem State.tickPart_kept {k0 s : State} (hk : Kept k0 s) (p : Nat) :
    Kept k0 (s.tickPart p) := by
  unfold State.tickPart
  simp +contextual (maxDischargeDepth := 99) [hk]

@[simp ↓] theorem State.tickLift_kept {k0 s : State} (hk : Kept k0 s)  :
    Kept k0 (s.tickLift) := by
  unfold State.tickLift
  simp +contextual (maxDischargeDepth := 99) [hk]

@[simp ↓] theorem State.tickPatrol_kept {k0 s : State} (hk : Kept k0 s)  :
    Kept k0 (s.tickPatrol) := by
  unfold State.tickPatrol
  simp +contextual (maxDischargeDepth := 99) [hk]

@[simp ↓] theorem State.tickCopies_kept {k0 s : State} (hk : Kept k0 s)  :
    Kept k0 (s.tickCopies) := by
  unfold State.tickCopies
  simp +contextual (maxDischargeDepth := 99) [hk]

@[simp ↓] theorem State.auditCycle_kept {k0 s : State} (hk : Kept k0 s)  :
    Kept k0 (s.auditCycle) := by
  unfold State.auditCycle
  simp +contextual (maxDischargeDepth := 99) [hk]

@[simp ↓] theorem State.tick_kept {k0 s : State} (hk : Kept k0 s)  :
    Kept k0 (s.tick) := by
  unfold State.tick
  simp +contextual (maxDischargeDepth := 99) [hk]

end Sys2Proof.Machine
end

