-- ==== Sys2Proof/Laws/Kept/Collectives.lean ====
section
/-!
SUPPORT. No operation of Machine/Collectives.lean breaks what `Kept` says.
-/

namespace Sys2Proof.Machine

@[simp ↓] theorem State.collective_kept {k0 s : State} (hk : Kept k0 s) (c : CmdRef) (opcode : Nat) (srcLen : Group → Nat → Nat) (f : CollFn) :
    Kept k0 (s.collective c opcode srcLen f) := by
  unfold State.collective
  try dsimp only
  repeat' (first | with_reducible assumption | (simp +contextual (maxDischargeDepth := 99) [*]; done) | (simp (maxDischargeDepth := 99) [State.load_ok ‹_› ‹_›]; done) | (simp (maxDischargeDepth := 99) [State.store_ok ‹_› ‹_›]; done) | (simp (maxDischargeDepth := 99) [State.store_ok ‹_ = Except.ok _› (State.load_ok ‹_ = Except.ok (_, _)› ‹_›)]; done) | (simp (maxDischargeDepth := 99) [State.load_ok ‹State.load _ _ _ _ = Except.ok (_, _)› (State.load_ok ‹State.load _ _ _ _ = Except.ok (_, _)› ‹Kept _ _›)]; done) | (have hz := Kept.snd (a := k0) ‹_ = (_, _)› (by simp (maxDischargeDepth := 99) [‹Kept _ _›]); simp (maxDischargeDepth := 99) [hz]; done) | with_reducible refine State.onTaken_kept (by with_reducible assumption) _ _ (fun b x hb => ?_) | with_reducible refine State.withWrite_kept (by with_reducible assumption) _ _ (fun b r hb => ?_) | with_reducible refine kept_foldl (fun b x hb => ?_) ?_ | with_reducible refine kept_foldl_fst (fun b x hb => ?_) ?_ | with_reducible refine kept_foldl_snd (fun b x hb => ?_) ?_ | split)

theorem execAllReduce_kept {k0 s : State} (hk : Kept k0 s) (c : CmdRef) (inputs : List (List F32)) :
    ∀ {s1}, execAllReduce c inputs s = .next s1 → Kept k0 s1 := by
  intro s1 ht; unfold execAllReduce at ht; simp only [Host.Outcome.next.injEq] at ht; subst ht
  simp +contextual (maxDischargeDepth := 99) [hk]

theorem execReduceScatter_kept {k0 s : State} (hk : Kept k0 s) (c : CmdRef) (inputs : List (List F32)) :
    ∀ {s1}, execReduceScatter c inputs s = .next s1 → Kept k0 s1 := by
  intro s1 ht; unfold execReduceScatter at ht; simp only [Host.Outcome.next.injEq] at ht; subst ht
  simp +contextual (maxDischargeDepth := 99) [hk]

theorem execAllGather_kept {k0 s : State} (hk : Kept k0 s) (c : CmdRef) (inputs : List (List Byte)) :
    ∀ {s1}, execAllGather c inputs s = .next s1 → Kept k0 s1 := by
  intro s1 ht; unfold execAllGather at ht; simp only [Host.Outcome.next.injEq] at ht; subst ht
  simp +contextual (maxDischargeDepth := 99) [hk]

theorem execBroadcast_kept {k0 s : State} (hk : Kept k0 s) (c : CmdRef) (data : List Byte) :
    ∀ {s1}, execBroadcast c data s = .next s1 → Kept k0 s1 := by
  intro s1 ht; unfold execBroadcast at ht; simp only [Host.Outcome.next.injEq] at ht; subst ht
  simp +contextual (maxDischargeDepth := 99) [hk]

theorem execAllToAll_kept {k0 s : State} (hk : Kept k0 s) (c : CmdRef) (inputs : List (List Byte)) :
    ∀ {s1}, execAllToAll c inputs s = .next s1 → Kept k0 s1 := by
  intro s1 ht; unfold execAllToAll at ht; simp only [Host.Outcome.next.injEq] at ht; subst ht
  simp +contextual (maxDischargeDepth := 99) [hk]

@[simp ↓] theorem State.internalRec_kept {k0 s : State} (hk : Kept k0 s) (p status reason : Nat) :
    Kept k0 (s.internalRec p status reason) := by
  unfold State.internalRec
  simp +contextual (maxDischargeDepth := 99) [hk]

@[simp ↓] theorem State.putGroup_kept {k0 s : State} (hk : Kept k0 s) (g : Group) :
    Kept k0 (s.putGroup g) := by
  unfold State.putGroup
  simp +contextual (maxDischargeDepth := 99) [hk]

@[simp ↓] theorem State.applyNext_kept {k0 s : State} (hk : Kept k0 s) (id : Nat) :
    Kept k0 (s.applyNext id) := by
  unfold State.applyNext
  repeat' (first | with_reducible assumption | (simp +contextual (maxDischargeDepth := 99) [*]; done) | (simp (maxDischargeDepth := 99) [State.load_ok ‹_› ‹_›]; done) | (simp (maxDischargeDepth := 99) [State.store_ok ‹_› ‹_›]; done) | with_reducible refine State.onTaken_kept (by with_reducible assumption) _ _ (fun b x hb => ?_) | with_reducible refine State.withWrite_kept (by with_reducible assumption) _ _ (fun b r hb => ?_) | with_reducible refine kept_foldl (fun b x hb => ?_) ?_ | with_reducible refine kept_foldl_fst (fun b x hb => ?_) ?_ | with_reducible refine kept_foldl_snd (fun b x hb => ?_) ?_ | split)

@[simp ↓] theorem State.setOutcome_kept {k0 s : State} (hk : Kept k0 s) (c : Commit) (commit : Bool) :
    Kept k0 (s.setOutcome c commit) := by
  unfold State.setOutcome
  try dsimp only
  repeat' (first | with_reducible assumption | (simp +contextual (maxDischargeDepth := 99) [*]; done) | (simp (maxDischargeDepth := 99) [State.load_ok ‹_› ‹_›]; done) | (simp (maxDischargeDepth := 99) [State.store_ok ‹_› ‹_›]; done) | with_reducible refine State.onTaken_kept (by with_reducible assumption) _ _ (fun b x hb => ?_) | with_reducible refine State.withWrite_kept (by with_reducible assumption) _ _ (fun b r hb => ?_) | with_reducible refine kept_foldl (fun b x hb => ?_) ?_ | with_reducible refine kept_foldl_fst (fun b x hb => ?_) ?_ | with_reducible refine kept_foldl_snd (fun b x hb => ?_) ?_ | split)

@[simp ↓] theorem State.decide__kept {k0 s : State} (hk : Kept k0 s) (c : Commit) :
    Kept k0 (s.decide_ c) := by
  unfold State.decide_
  repeat' (first | with_reducible assumption | (simp +contextual (maxDischargeDepth := 99) [*]; done) | (simp (maxDischargeDepth := 99) [State.load_ok ‹_› ‹_›]; done) | (simp (maxDischargeDepth := 99) [State.store_ok ‹_› ‹_›]; done) | with_reducible refine State.onTaken_kept (by with_reducible assumption) _ _ (fun b x hb => ?_) | with_reducible refine State.withWrite_kept (by with_reducible assumption) _ _ (fun b r hb => ?_) | with_reducible refine kept_foldl (fun b x hb => ?_) ?_ | with_reducible refine kept_foldl_fst (fun b x hb => ?_) ?_ | with_reducible refine kept_foldl_snd (fun b x hb => ?_) ?_ | split)

@[simp ↓] theorem State.setCommit_kept {k0 s : State} (hk : Kept k0 s) (c : Commit) :
    Kept k0 (s.setCommit c) := by
  unfold State.setCommit
  simp +contextual (maxDischargeDepth := 99) [hk]

@[simp ↓] theorem State.reduceRefused_kept {k0 s : State} (hk : Kept k0 s) (p w status reason : Nat) :
    Kept k0 (s.reduceRefused p w status reason) := by
  unfold State.reduceRefused
  simp +contextual (maxDischargeDepth := 99) [hk]

@[simp ↓] theorem State.prepareStep_kept {k0 s : State} (hk : Kept k0 s) (p w : Nat) (g : Group) (step : Nat) (b : Bank) (ins : List BankIn) :
    Kept k0 (s.prepareStep p w g step b ins) := by
  unfold State.prepareStep
  simp +contextual (maxDischargeDepth := 99) [hk]

theorem execClReduce_kept {k0 s : State} (hk : Kept k0 s) (p : PartId) (wax group gen step : Nat) (inputs : List BankIn) :
    ∀ {s1}, execClReduce p wax group gen step inputs s = .next s1 → Kept k0 s1 := by
  intro s1 ht; unfold execClReduce at ht; simp only [Host.Outcome.next.injEq] at ht; subst ht
  repeat' (first | with_reducible assumption | (simp +contextual (maxDischargeDepth := 99) [*]; done) | (simp (maxDischargeDepth := 99) [State.load_ok ‹_› ‹_›]; done) | (simp (maxDischargeDepth := 99) [State.store_ok ‹_› ‹_›]; done) | with_reducible refine State.onTaken_kept (by with_reducible assumption) _ _ (fun b x hb => ?_) | with_reducible refine State.withWrite_kept (by with_reducible assumption) _ _ (fun b r hb => ?_) | with_reducible refine kept_foldl (fun b x hb => ?_) ?_ | with_reducible refine kept_foldl_fst (fun b x hb => ?_) ?_ | with_reducible refine kept_foldl_snd (fun b x hb => ?_) ?_ | split)

theorem execPreparedReceived_kept {k0 s : State} (hk : Kept k0 s) (group step rank : Nat) (digest : BitVec 256) :
    ∀ {s1}, execPreparedReceived group step rank digest s = .next s1 → Kept k0 s1 := by
  intro s1 ht; unfold execPreparedReceived at ht; simp only [Host.Outcome.next.injEq] at ht; subst ht
  repeat' (first | with_reducible assumption | (simp +contextual (maxDischargeDepth := 99) [*]; done) | (simp (maxDischargeDepth := 99) [State.load_ok ‹_› ‹_›]; done) | (simp (maxDischargeDepth := 99) [State.store_ok ‹_› ‹_›]; done) | with_reducible refine State.onTaken_kept (by with_reducible assumption) _ _ (fun b x hb => ?_) | with_reducible refine State.withWrite_kept (by with_reducible assumption) _ _ (fun b r hb => ?_) | with_reducible refine kept_foldl (fun b x hb => ?_) ?_ | with_reducible refine kept_foldl_fst (fun b x hb => ?_) ?_ | with_reducible refine kept_foldl_snd (fun b x hb => ?_) ?_ | split)

theorem execOutcomeReceived_kept {k0 s : State} (hk : Kept k0 s) (group step : Nat) (commit : Bool) :
    ∀ {s1}, execOutcomeReceived group step commit s = .next s1 → Kept k0 s1 := by
  intro s1 ht; unfold execOutcomeReceived at ht; simp only [Host.Outcome.next.injEq] at ht; subst ht
  repeat' (first | with_reducible assumption | (simp +contextual (maxDischargeDepth := 99) [*]; done) | (simp (maxDischargeDepth := 99) [State.load_ok ‹_› ‹_›]; done) | (simp (maxDischargeDepth := 99) [State.store_ok ‹_› ‹_›]; done) | with_reducible refine State.onTaken_kept (by with_reducible assumption) _ _ (fun b x hb => ?_) | with_reducible refine State.withWrite_kept (by with_reducible assumption) _ _ (fun b r hb => ?_) | with_reducible refine kept_foldl (fun b x hb => ?_) ?_ | with_reducible refine kept_foldl_fst (fun b x hb => ?_) ?_ | with_reducible refine kept_foldl_snd (fun b x hb => ?_) ?_ | split)

theorem execCommitTimeout_kept {k0 s : State} (hk : Kept k0 s) (group step : Nat) :
    ∀ {s1}, execCommitTimeout group step s = .next s1 → Kept k0 s1 := by
  intro s1 ht; unfold execCommitTimeout at ht; simp only [Host.Outcome.next.injEq] at ht; subst ht
  repeat' (first | with_reducible assumption | (simp +contextual (maxDischargeDepth := 99) [*]; done) | (simp (maxDischargeDepth := 99) [State.load_ok ‹_› ‹_›]; done) | (simp (maxDischargeDepth := 99) [State.store_ok ‹_› ‹_›]; done) | with_reducible refine State.onTaken_kept (by with_reducible assumption) _ _ (fun b x hb => ?_) | with_reducible refine State.withWrite_kept (by with_reducible assumption) _ _ (fun b r hb => ?_) | with_reducible refine kept_foldl (fun b x hb => ?_) ?_ | with_reducible refine kept_foldl_fst (fun b x hb => ?_) ?_ | with_reducible refine kept_foldl_snd (fun b x hb => ?_) ?_ | split)

theorem execOutcomeQueryReceived_kept {k0 s : State} (hk : Kept k0 s) (group step rank : Nat) :
    ∀ {s1}, execOutcomeQueryReceived group step rank s = .next s1 → Kept k0 s1 := by
  intro s1 ht; unfold execOutcomeQueryReceived at ht; simp only [Host.Outcome.next.injEq] at ht; subst ht
  simp +contextual (maxDischargeDepth := 99) [hk]

@[simp ↓] theorem State.abandonCommit_kept {k0 s : State} (hk : Kept k0 s) (c : Commit) :
    Kept k0 (s.abandonCommit c) := by
  unfold State.abandonCommit
  repeat' (first | with_reducible assumption | (simp +contextual (maxDischargeDepth := 99) [*]; done) | (simp (maxDischargeDepth := 99) [State.load_ok ‹_› ‹_›]; done) | (simp (maxDischargeDepth := 99) [State.store_ok ‹_› ‹_›]; done) | with_reducible refine State.onTaken_kept (by with_reducible assumption) _ _ (fun b x hb => ?_) | with_reducible refine State.withWrite_kept (by with_reducible assumption) _ _ (fun b r hb => ?_) | with_reducible refine kept_foldl (fun b x hb => ?_) ?_ | with_reducible refine kept_foldl_fst (fun b x hb => ?_) ?_ | with_reducible refine kept_foldl_snd (fun b x hb => ?_) ?_ | split)

theorem execSilenceTimeout_kept {k0 s : State} (hk : Kept k0 s) (fabric : Nat) :
    ∀ {s1}, execSilenceTimeout fabric s = .next s1 → Kept k0 s1 := by
  intro s1 ht; unfold execSilenceTimeout at ht; simp only [Host.Outcome.next.injEq] at ht; subst ht
  simp +contextual (maxDischargeDepth := 99) [hk]

@[simp ↓] theorem State.abandonSem_kept {k0 s : State} (hk : Kept k0 s) (n : Nat) :
    Kept k0 (s.abandonSem n) := by
  unfold State.abandonSem
  simp +contextual (maxDischargeDepth := 99) [hk]

@[simp ↓] theorem State.abandonSems_kept {k0 s : State} (hk : Kept k0 s) (f : Sem → Bool) :
    Kept k0 (s.abandonSems f) := by
  unfold State.abandonSems
  simp +contextual (maxDischargeDepth := 99) [hk]

theorem execQuarantineReceived_kept {k0 s : State} (hk : Kept k0 s) (epoch : Word) :
    ∀ {s1}, execQuarantineReceived epoch s = .next s1 → Kept k0 s1 := by
  intro s1 ht; unfold execQuarantineReceived at ht; simp only [Host.Outcome.next.injEq] at ht; subst ht
  simp +contextual (maxDischargeDepth := 99) [hk]

@[simp ↓] theorem State.writeGroup_kept {k0 s : State} (hk : Kept k0 s) (id : Nat) (x : GroupSpec) :
    Kept k0 (s.writeGroup id x) := by
  unfold State.writeGroup
  try dsimp only
  repeat' (first | with_reducible assumption | (simp +contextual (maxDischargeDepth := 99) [*]; done) | (simp (maxDischargeDepth := 99) [State.load_ok ‹_› ‹_›]; done) | (simp (maxDischargeDepth := 99) [State.store_ok ‹_› ‹_›]; done) | (simp (maxDischargeDepth := 99) [State.store_ok ‹_ = Except.ok _› (State.load_ok ‹_ = Except.ok (_, _)› ‹_›)]; done) | (simp (maxDischargeDepth := 99) [State.load_ok ‹State.load _ _ _ _ = Except.ok (_, _)› (State.load_ok ‹State.load _ _ _ _ = Except.ok (_, _)› ‹Kept _ _›)]; done) | (have hz := Kept.snd (a := k0) ‹_ = (_, _)› (by simp (maxDischargeDepth := 99) [‹Kept _ _›]); simp (maxDischargeDepth := 99) [hz]; done) | with_reducible refine State.onTaken_kept (by with_reducible assumption) _ _ (fun b x hb => ?_) | with_reducible refine State.withWrite_kept (by with_reducible assumption) _ _ (fun b r hb => ?_) | with_reducible refine kept_foldl (fun b x hb => ?_) ?_ | with_reducible refine kept_foldl_fst (fun b x hb => ?_) ?_ | with_reducible refine kept_foldl_snd (fun b x hb => ?_) ?_ | split)

theorem execGroupSet_kept {k0 s : State} (hk : Kept k0 s) (c : CmdRef) :
    ∀ {s1}, execGroupSet c s = .next s1 → Kept k0 s1 := by
  intro s1 ht; unfold execGroupSet at ht; simp only [Host.Outcome.next.injEq] at ht; subst ht
  refine State.onTaken_kept hk _ _ (fun b x hb => ?_)
  split
  · simp [hb]
  · split
    · simp [hb]
    · have h1 := State.load_ok ‹_› hb
      split
      · simp [h1]
      · split
        · simp [h1]
        · have h2 := State.load_ok ‹_› h1
          split <;> simp [h2]

@[simp ↓] theorem State.loseMember_kept {k0 s : State} (hk : Kept k0 s) (f : Nat) :
    Kept k0 (s.loseMember f) := by
  unfold State.loseMember
  simp +contextual (maxDischargeDepth := 99) [hk]

@[simp ↓] theorem State.setPeer_kept {k0 s : State} (hk : Kept k0 s) (f : Nat) (e : Word) :
    Kept k0 (s.setPeer f e) := by
  unfold State.setPeer
  simp +contextual (maxDischargeDepth := 99) [hk]

theorem execPeerSet_kept {k0 s : State} (hk : Kept k0 s) (c : CmdRef) :
    ∀ {s1}, execPeerSet c s = .next s1 → Kept k0 s1 := by
  intro s1 ht; unfold execPeerSet at ht; simp only [Host.Outcome.next.injEq] at ht; subst ht
  simp +contextual (maxDischargeDepth := 99) [hk]

theorem execChimneySend_kept {k0 s : State} (hk : Kept k0 s) (c : CmdRef) : ∀ {s1}, execChimneySend c s = .next s1 → Kept k0 s1 := by
  intro s1 ht; unfold execChimneySend at ht; simp only [Host.Outcome.next.injEq] at ht; subst ht
  refine State.onTaken_kept hk _ _ (fun b x hb => ?_)
  try dsimp only
  split
  · exact State.refuseCmd_kept hb _ _ _
  split
  · exact State.failCmd_kept hb _ _ _
  next h =>
  have h1 := State.load_ok h hb
  split
  · exact State.refuseCmd_kept h1 _ _ _
  split
  · exact State.refuseCmd_kept h1 _ _ _
  split
  · exact State.endCmd_kept h1 _ _ _
  · exact State.setCmd_kept (kept_foldl (fun b i hb => kept_foldl (fun b i hb => State.emit_kept hb _) hb) h1) _

@[simp ↓] theorem State.chimneyPass_kept {k0 s : State} (hk : Kept k0 s) (n : Nat) :
    Kept k0 (s.chimneyPass n) := by
  unfold State.chimneyPass
  try dsimp only
  repeat' (first | with_reducible assumption | (simp +contextual (maxDischargeDepth := 99) [*]; done) | (simp (maxDischargeDepth := 99) [State.load_ok ‹_› ‹_›]; done) | (simp (maxDischargeDepth := 99) [State.store_ok ‹_› ‹_›]; done) | with_reducible refine State.onTaken_kept (by with_reducible assumption) _ _ (fun b x hb => ?_) | with_reducible refine State.withWrite_kept (by with_reducible assumption) _ _ (fun b r hb => ?_) | with_reducible refine kept_foldl (fun b x hb => ?_) ?_ | with_reducible refine kept_foldl_fst (fun b x hb => ?_) ?_ | with_reducible refine kept_foldl_snd (fun b x hb => ?_) ?_ | split)

@[simp ↓] theorem State.chimneyBad_kept {k0 s : State} (hk : Kept k0 s) (n : Nat) (children : List Nat) :
    Kept k0 (s.chimneyBad n children) := by
  unfold State.chimneyBad
  simp +contextual (maxDischargeDepth := 99) [hk]

theorem execChimneyChunkArrived_kept {k0 s : State} (hk : Kept k0 s) (shard : Nat) (children : List Nat) (last digestOk bad : Bool) :
    ∀ {s1}, execChimneyChunkArrived shard children last digestOk bad s = .next s1 → Kept k0 s1 := by
  intro s1 ht; unfold execChimneyChunkArrived at ht; simp only [Host.Outcome.next.injEq] at ht; subst ht
  simp +contextual (maxDischargeDepth := 99) [hk]

end Sys2Proof.Machine
end

