-- ==== Sys2Proof/Laws/Kept/EndOps.lean ====
section
/-!
SUPPORT. No operation of Machine/EndOps.lean breaks what `Kept` says.
-/

namespace Sys2Proof.Machine

@[simp ↓] theorem State.retryCmd_kept {k0 s : State} (hk : Kept k0 s) (x : Started) :
    Kept k0 (s.retryCmd x) := by
  unfold State.retryCmd
  simp +contextual (maxDischargeDepth := 99) [hk]

@[simp ↓] theorem State.endOk_kept {k0 s : State} (hk : Kept k0 s) (x : Started) :
    Kept k0 (s.endOk x) := by
  unfold State.endOk
  simp +contextual (maxDischargeDepth := 99) [hk]

@[simp ↓] theorem State.endRunning_kept {k0 s : State} (hk : Kept k0 s) (x : Started) (how : EndHow) :
    Kept k0 (s.endRunning x how) := by
  unfold State.endRunning
  repeat' (first | with_reducible assumption | (simp +contextual (maxDischargeDepth := 99) [*]; done) | (simp (maxDischargeDepth := 99) [State.load_ok ‹_› ‹_›]; done) | (simp (maxDischargeDepth := 99) [State.store_ok ‹_› ‹_›]; done) | with_reducible refine State.onTaken_kept (by with_reducible assumption) _ _ (fun b x hb => ?_) | with_reducible refine State.withWrite_kept (by with_reducible assumption) _ _ (fun b r hb => ?_) | with_reducible refine kept_foldl (fun b x hb => ?_) ?_ | with_reducible refine kept_foldl_fst (fun b x hb => ?_) ?_ | with_reducible refine kept_foldl_snd (fun b x hb => ?_) ?_ | split)

@[simp ↓] theorem State.dropLate_kept {k0 s : State} (hk : Kept k0 s) (k : Nat × Nat × Nat × Nat) :
    Kept k0 (s.dropLate k) := by
  unfold State.dropLate
  simp +contextual (maxDischargeDepth := 99) [hk]

theorem execCommandEnd_kept {k0 s : State} (hk : Kept k0 s) (c : CmdRef) (how : EndHow) :
    ∀ {s1}, execCommandEnd c how s = .next s1 → Kept k0 s1 := by
  intro s1 ht; unfold execCommandEnd at ht; simp only [Host.Outcome.next.injEq] at ht; subst ht
  repeat' (first | with_reducible assumption | (simp +contextual (maxDischargeDepth := 99) [*]; done) | (simp (maxDischargeDepth := 99) [State.load_ok ‹_› ‹_›]; done) | (simp (maxDischargeDepth := 99) [State.store_ok ‹_› ‹_›]; done) | with_reducible refine State.onTaken_kept (by with_reducible assumption) _ _ (fun b x hb => ?_) | with_reducible refine State.withWrite_kept (by with_reducible assumption) _ _ (fun b r hb => ?_) | with_reducible refine kept_foldl (fun b x hb => ?_) ?_ | with_reducible refine kept_foldl_fst (fun b x hb => ?_) ?_ | with_reducible refine kept_foldl_snd (fun b x hb => ?_) ?_ | split)

end Sys2Proof.Machine
end

