-- ==== Sys2Proof/Laws/Kept/QueueCmds.lean ====
section
/-!
SUPPORT. No operation of Machine/QueueCmds.lean breaks what `Kept` says.
-/

namespace Sys2Proof.Machine

theorem execQtailDoorbell_kept {k0 s : State} (hk : Kept k0 s) (o : Origin) (page : QPage) (eng : Fin 5) (q : Fin 8) (v : Word) (popNow : Bool) :
    ∀ {s1}, execQtailDoorbell o page eng q v popNow s = .next s1 → Kept k0 s1 := by
  intro s1 ht; unfold execQtailDoorbell at ht; simp only [Host.Outcome.next.injEq] at ht; subst ht
  simp +contextual (maxDischargeDepth := 99) [hk]

theorem execQcfgEnable_kept {k0 s : State} (hk : Kept k0 s) (o : Origin) (page : QPage) (eng : Fin 5) (q : Fin 8) (v : Word) :
    ∀ {s1}, execQcfgEnable o page eng q v s = .next s1 → Kept k0 s1 := by
  intro s1 ht; unfold execQcfgEnable at ht; simp only [Host.Outcome.next.injEq] at ht; subst ht
  simp +contextual (maxDischargeDepth := 99) [hk]

theorem execQcfgDisable_kept {k0 s : State} (hk : Kept k0 s) (o : Origin) (page : QPage) (eng : Fin 5) (q : Fin 8) (v : Word) :
    ∀ {s1}, execQcfgDisable o page eng q v s = .next s1 → Kept k0 s1 := by
  intro s1 ht; unfold execQcfgDisable at ht; simp only [Host.Outcome.next.injEq] at ht; subst ht
  simp +contextual (maxDischargeDepth := 99) [hk]

theorem execQcfgStart_kept {k0 s : State} (hk : Kept k0 s) (o : Origin) (page : QPage) (eng : Fin 5) (q : Fin 8) :
    ∀ {s1}, execQcfgStart o page eng q s = .next s1 → Kept k0 s1 := by
  intro s1 ht; unfold execQcfgStart at ht; simp only [Host.Outcome.next.injEq] at ht; subst ht
  simp +contextual (maxDischargeDepth := 99) [hk]

theorem execHeldRecordsWritten_kept {k0 s : State} (hk : Kept k0 s) (page : QPage) :
    ∀ {s1}, execHeldRecordsWritten page s = .next s1 → Kept k0 s1 := by
  intro s1 ht; unfold execHeldRecordsWritten at ht; simp only [Host.Outcome.next.injEq] at ht; subst ht
  simp +contextual (maxDischargeDepth := 99) [hk]

end Sys2Proof.Machine
end

