-- ==== Sys2Proof/Laws/Kept/Memory.lean ====
section
/-!
SUPPORT. No operation of Machine/Memory.lean breaks what `Kept` says.
-/

namespace Sys2Proof.Machine

@[simp ↓] theorem State.faultSlotsAt_kept {k0 s : State} (hk : Kept k0 s) (a : Nat) :
    Kept k0 (s.faultSlotsAt a) := by
  unfold State.faultSlotsAt
  simp +contextual (maxDischargeDepth := 99) [hk]

@[simp ↓] theorem State.failHoldsAt_kept {k0 s : State} (hk : Kept k0 s) (a : Nat) :
    Kept k0 (s.failHoldsAt a) := by
  unfold State.failHoldsAt
  simp +contextual (maxDischargeDepth := 99) [hk]

@[simp ↓] theorem State.poisonInf_kept {k0 s : State} (hk : Kept k0 s) (n a : Nat) :
    Kept k0 (s.poisonInf n a) := by
  unfold State.poisonInf
  simp +contextual (maxDischargeDepth := 99) [hk]

@[simp ↓] theorem State.tagFailAt_kept {k0 s : State} (hk : Kept k0 s) (line : Nat) :
    Kept k0 (s.tagFailAt line) := by
  unfold State.tagFailAt
  try dsimp only
  repeat' (first | with_reducible assumption | (simp +contextual (maxDischargeDepth := 99) [*]; done) | (simp (maxDischargeDepth := 99) [State.load_ok ‹_› ‹_›]; done) | (simp (maxDischargeDepth := 99) [State.store_ok ‹_› ‹_›]; done) | with_reducible refine State.onTaken_kept (by with_reducible assumption) _ _ (fun b x hb => ?_) | with_reducible refine State.withWrite_kept (by with_reducible assumption) _ _ (fun b r hb => ?_) | with_reducible refine kept_foldl (fun b x hb => ?_) ?_ | with_reducible refine kept_foldl_fst (fun b x hb => ?_) ?_ | with_reducible refine kept_foldl_snd (fun b x hb => ?_) ?_ | split)

@[simp ↓] theorem State.poisonLine_kept {k0 s : State} (hk : Kept k0 s) (line : Nat) :
    Kept k0 (s.poisonLine line) := by
  unfold State.poisonLine
  try dsimp only
  repeat' (first | with_reducible assumption | (simp +contextual (maxDischargeDepth := 99) [*]; done) | (simp (maxDischargeDepth := 99) [State.load_ok ‹_› ‹_›]; done) | (simp (maxDischargeDepth := 99) [State.store_ok ‹_› ‹_›]; done) | (simp (maxDischargeDepth := 99) [State.store_ok ‹_ = Except.ok _› (State.load_ok ‹_ = Except.ok (_, _)› ‹_›)]; done) | (simp (maxDischargeDepth := 99) [State.load_ok ‹State.load _ _ _ _ = Except.ok (_, _)› (State.load_ok ‹State.load _ _ _ _ = Except.ok (_, _)› ‹Kept _ _›)]; done) | (have hz := Kept.snd (a := k0) ‹_ = (_, _)› (by simp (maxDischargeDepth := 99) [‹Kept _ _›]); simp (maxDischargeDepth := 99) [hz]; done) | (simp +contextual (maxDischargeDepth := 99) [*, Mem.wf]; done) | with_reducible refine State.onTaken_kept (by with_reducible assumption) _ _ (fun b x hb => ?_) | with_reducible refine State.withWrite_kept (by with_reducible assumption) _ _ (fun b r hb => ?_) | with_reducible refine kept_foldl (fun b x hb => ?_) ?_ | with_reducible refine kept_foldl_fst (fun b x hb => ?_) ?_ | with_reducible refine kept_foldl_snd (fun b x hb => ?_) ?_ | split)

@[simp ↓] theorem State.vaultRead_kept {k0 s : State} (hk : Kept k0 s) (dua len : Nat) :
    Kept k0 (s.vaultRead dua len) := by
  unfold State.vaultRead
  simp +contextual (maxDischargeDepth := 99) [hk]

@[simp ↓] theorem State.readMem_kept {k0 s : State} (hk : Kept k0 s) (who : MemWho) (dua len : Nat) (macOk : Bool) :
    Kept k0 (s.readMem who dua len macOk) := by
  unfold State.readMem
  try dsimp only
  repeat' (first | with_reducible assumption | (simp +contextual (maxDischargeDepth := 99) [*]; done) | (simp (maxDischargeDepth := 99) [State.load_ok ‹_› ‹_›]; done) | (simp (maxDischargeDepth := 99) [State.store_ok ‹_› ‹_›]; done) | with_reducible refine State.onTaken_kept (by with_reducible assumption) _ _ (fun b x hb => ?_) | with_reducible refine State.withWrite_kept (by with_reducible assumption) _ _ (fun b r hb => ?_) | with_reducible refine kept_foldl (fun b x hb => ?_) ?_ | with_reducible refine kept_foldl_fst (fun b x hb => ?_) ?_ | with_reducible refine kept_foldl_snd (fun b x hb => ?_) ?_ | split)

@[simp ↓] theorem State.memRead_kept {k0 s : State} (hk : Kept k0 s) (who : MemWho) (dua len : Nat) (macOk : Bool) :
    Kept k0 (s.memRead who dua len macOk) := by
  unfold State.memRead
  repeat' (first | with_reducible assumption | (simp +contextual (maxDischargeDepth := 99) [*]; done) | (simp (maxDischargeDepth := 99) [State.load_ok ‹_› ‹_›]; done) | (simp (maxDischargeDepth := 99) [State.store_ok ‹_› ‹_›]; done) | with_reducible refine State.onTaken_kept (by with_reducible assumption) _ _ (fun b x hb => ?_) | with_reducible refine State.withWrite_kept (by with_reducible assumption) _ _ (fun b r hb => ?_) | with_reducible refine kept_foldl (fun b x hb => ?_) ?_ | with_reducible refine kept_foldl_fst (fun b x hb => ?_) ?_ | with_reducible refine kept_foldl_snd (fun b x hb => ?_) ?_ | split)

@[simp ↓] theorem State.writeMem_kept {k0 s : State} (hk : Kept k0 s) (who : MemWho) (dua : Nat) (data : List Byte) (macOk : Bool) :
    Kept k0 (s.writeMem who dua data macOk) := by
  unfold State.writeMem
  try dsimp only
  repeat' (first | with_reducible assumption | (simp +contextual (maxDischargeDepth := 99) [*]; done) | (simp (maxDischargeDepth := 99) [State.load_ok ‹_› ‹_›]; done) | (simp (maxDischargeDepth := 99) [State.store_ok ‹_› ‹_›]; done) | (simp (maxDischargeDepth := 99) [State.store_ok ‹_ = Except.ok _› (State.load_ok ‹_ = Except.ok (_, _)› ‹_›)]; done) | (simp (maxDischargeDepth := 99) [State.load_ok ‹State.load _ _ _ _ = Except.ok (_, _)› (State.load_ok ‹State.load _ _ _ _ = Except.ok (_, _)› ‹Kept _ _›)]; done) | (have hz := Kept.snd (a := k0) ‹_ = (_, _)› (by simp (maxDischargeDepth := 99) [‹Kept _ _›]); simp (maxDischargeDepth := 99) [hz]; done) | (simp +contextual (maxDischargeDepth := 99) [*, Mem.wf]; done) | with_reducible refine State.onTaken_kept (by with_reducible assumption) _ _ (fun b x hb => ?_) | with_reducible refine State.withWrite_kept (by with_reducible assumption) _ _ (fun b r hb => ?_) | with_reducible refine kept_foldl (fun b x hb => ?_) ?_ | with_reducible refine kept_foldl_fst (fun b x hb => ?_) ?_ | with_reducible refine kept_foldl_snd (fun b x hb => ?_) ?_ | split)

@[simp ↓] theorem State.memWrite_kept {k0 s : State} (hk : Kept k0 s) (who : MemWho) (dua : Nat) (data : List Byte) (macOk : Bool) :
    Kept k0 (s.memWrite who dua data macOk) := by
  unfold State.memWrite
  try dsimp only
  repeat' (first | with_reducible assumption | (simp +contextual (maxDischargeDepth := 99) [*]; done) | (simp (maxDischargeDepth := 99) [State.load_ok ‹_› ‹_›]; done) | (simp (maxDischargeDepth := 99) [State.store_ok ‹_› ‹_›]; done) | (simp (maxDischargeDepth := 99) [State.store_ok ‹_ = Except.ok _› (State.load_ok ‹_ = Except.ok (_, _)› ‹_›)]; done) | (simp (maxDischargeDepth := 99) [State.load_ok ‹State.load _ _ _ _ = Except.ok (_, _)› (State.load_ok ‹State.load _ _ _ _ = Except.ok (_, _)› ‹Kept _ _›)]; done) | (have hz := Kept.snd (a := k0) ‹_ = (_, _)› (by simp (maxDischargeDepth := 99) [‹Kept _ _›]); simp (maxDischargeDepth := 99) [hz]; done) | (simp +contextual (maxDischargeDepth := 99) [*, Mem.wf]; done) | with_reducible refine State.onTaken_kept (by with_reducible assumption) _ _ (fun b x hb => ?_) | with_reducible refine State.withWrite_kept (by with_reducible assumption) _ _ (fun b r hb => ?_) | with_reducible refine kept_foldl (fun b x hb => ?_) ?_ | with_reducible refine kept_foldl_fst (fun b x hb => ?_) ?_ | with_reducible refine kept_foldl_snd (fun b x hb => ?_) ?_ | split)

@[simp ↓] theorem State.startMigration_kept {k0 s : State} (hk : Kept k0 s) (page tier : Nat) :
    Kept k0 (s.startMigration page tier) := by
  unfold State.startMigration
  simp +contextual (maxDischargeDepth := 99) [hk]

theorem execPageDemote_kept {k0 s : State} (hk : Kept k0 s) (page : Nat) :
    ∀ {s1}, execPageDemote page s = .next s1 → Kept k0 s1 := by
  intro s1 ht; unfold execPageDemote at ht; simp only [Host.Outcome.next.injEq] at ht; subst ht
  simp +contextual (maxDischargeDepth := 99) [hk]

theorem execPagePromote_kept {k0 s : State} (hk : Kept k0 s) (page : Nat) :
    ∀ {s1}, execPagePromote page s = .next s1 → Kept k0 s1 := by
  intro s1 ht; unfold execPagePromote at ht; simp only [Host.Outcome.next.injEq] at ht; subst ht
  simp +contextual (maxDischargeDepth := 99) [hk]

theorem execMigrationSwitch_kept {k0 s : State} (hk : Kept k0 s) (page : Nat) :
    ∀ {s1}, execMigrationSwitch page s = .next s1 → Kept k0 s1 := by
  intro s1 ht; unfold execMigrationSwitch at ht; simp only [Host.Outcome.next.injEq] at ht; subst ht
  repeat' (first | with_reducible assumption | (simp +contextual (maxDischargeDepth := 99) [*]; done) | (simp (maxDischargeDepth := 99) [State.load_ok ‹_› ‹_›]; done) | (simp (maxDischargeDepth := 99) [State.store_ok ‹_› ‹_›]; done) | with_reducible refine State.onTaken_kept (by with_reducible assumption) _ _ (fun b x hb => ?_) | with_reducible refine State.withWrite_kept (by with_reducible assumption) _ _ (fun b r hb => ?_) | with_reducible refine kept_foldl (fun b x hb => ?_) ?_ | with_reducible refine kept_foldl_fst (fun b x hb => ?_) ?_ | with_reducible refine kept_foldl_snd (fun b x hb => ?_) ?_ | split)

@[simp ↓] theorem State.zeroRegion_kept {k0 s : State} (hk : Kept k0 s) (r : Region) :
    Kept k0 (s.zeroRegion r) := by
  unfold State.zeroRegion
  try dsimp only
  repeat' (first | with_reducible assumption | (simp +contextual (maxDischargeDepth := 99) [*]; done) | (simp (maxDischargeDepth := 99) [State.load_ok ‹_› ‹_›]; done) | (simp (maxDischargeDepth := 99) [State.store_ok ‹_› ‹_›]; done) | (simp (maxDischargeDepth := 99) [State.store_ok ‹_ = Except.ok _› (State.load_ok ‹_ = Except.ok (_, _)› ‹_›)]; done) | (simp (maxDischargeDepth := 99) [State.load_ok ‹State.load _ _ _ _ = Except.ok (_, _)› (State.load_ok ‹State.load _ _ _ _ = Except.ok (_, _)› ‹Kept _ _›)]; done) | (have hz := Kept.snd (a := k0) ‹_ = (_, _)› (by simp (maxDischargeDepth := 99) [‹Kept _ _›]); simp (maxDischargeDepth := 99) [hz]; done) | (simp +contextual (maxDischargeDepth := 99) [*, Mem.wf]; done) | with_reducible refine State.onTaken_kept (by with_reducible assumption) _ _ (fun b x hb => ?_) | with_reducible refine State.withWrite_kept (by with_reducible assumption) _ _ (fun b r hb => ?_) | with_reducible refine kept_foldl (fun b x hb => ?_) ?_ | with_reducible refine kept_foldl_fst (fun b x hb => ?_) ?_ | with_reducible refine kept_foldl_snd (fun b x hb => ?_) ?_ | split)

theorem execRegionZeroFillDone_kept {k0 s : State} (hk : Kept k0 s) (region : Nat) :
    ∀ {s1}, execRegionZeroFillDone region s = .next s1 → Kept k0 s1 := by
  intro s1 ht; unfold execRegionZeroFillDone at ht; simp only [Host.Outcome.next.injEq] at ht; subst ht
  simp +contextual (maxDischargeDepth := 99) [hk]

theorem execWaxReloadDone_kept {k0 s : State} (hk : Kept k0 s) (slot : Nat) (ok : Bool) :
    ∀ {s1}, execWaxReloadDone slot ok s = .next s1 → Kept k0 s1 := by
  intro s1 ht; unfold execWaxReloadDone at ht; simp only [Host.Outcome.next.injEq] at ht; subst ht
  repeat' (first | with_reducible assumption | (simp +contextual (maxDischargeDepth := 99) [*]; done) | (simp (maxDischargeDepth := 99) [State.load_ok ‹_› ‹_›]; done) | (simp (maxDischargeDepth := 99) [State.store_ok ‹_› ‹_›]; done) | with_reducible refine State.onTaken_kept (by with_reducible assumption) _ _ (fun b x hb => ?_) | with_reducible refine State.withWrite_kept (by with_reducible assumption) _ _ (fun b r hb => ?_) | with_reducible refine kept_foldl (fun b x hb => ?_) ?_ | with_reducible refine kept_foldl_fst (fun b x hb => ?_) ?_ | with_reducible refine kept_foldl_snd (fun b x hb => ?_) ?_ | split)

@[simp ↓] theorem State.renewShard_kept {k0 s : State} (hk : Kept k0 s) (n : Nat) :
    Kept k0 (s.renewShard n) := by
  unfold State.renewShard
  try dsimp only
  repeat' (first | with_reducible assumption | (simp +contextual (maxDischargeDepth := 99) [*]; done) | (simp (maxDischargeDepth := 99) [State.load_ok ‹_› ‹_›]; done) | (simp (maxDischargeDepth := 99) [State.store_ok ‹_› ‹_›]; done) | (simp (maxDischargeDepth := 99) [State.store_ok ‹_ = Except.ok _› (State.load_ok ‹_ = Except.ok (_, _)› ‹_›)]; done) | (simp (maxDischargeDepth := 99) [State.load_ok ‹State.load _ _ _ _ = Except.ok (_, _)› (State.load_ok ‹State.load _ _ _ _ = Except.ok (_, _)› ‹Kept _ _›)]; done) | (have hz := Kept.snd (a := k0) ‹_ = (_, _)› (by simp (maxDischargeDepth := 99) [‹Kept _ _›]); simp (maxDischargeDepth := 99) [hz]; done) | (simp +contextual (maxDischargeDepth := 99) [*, Mem.wf]; done) | with_reducible refine State.onTaken_kept (by with_reducible assumption) _ _ (fun b x hb => ?_) | with_reducible refine State.withWrite_kept (by with_reducible assumption) _ _ (fun b r hb => ?_) | with_reducible refine kept_foldl (fun b x hb => ?_) ?_ | with_reducible refine kept_foldl_fst (fun b x hb => ?_) ?_ | with_reducible refine kept_foldl_snd (fun b x hb => ?_) ?_ | split)

theorem execBaseShardRewritten_kept {k0 s : State} (hk : Kept k0 s) (dua : Nat) (ok : Bool) :
    ∀ {s1}, execBaseShardRewritten dua ok s = .next s1 → Kept k0 s1 := by
  intro s1 ht; unfold execBaseShardRewritten at ht; simp only [Host.Outcome.next.injEq] at ht; subst ht
  repeat' (first | with_reducible assumption | (simp +contextual (maxDischargeDepth := 99) [*]; done) | (simp (maxDischargeDepth := 99) [State.load_ok ‹_› ‹_›]; done) | (simp (maxDischargeDepth := 99) [State.store_ok ‹_› ‹_›]; done) | (simp (maxDischargeDepth := 99) [State.store_ok ‹_ = Except.ok _› (State.load_ok ‹_ = Except.ok (_, _)› ‹_›)]; done) | (simp (maxDischargeDepth := 99) [State.load_ok ‹State.load _ _ _ _ = Except.ok (_, _)› (State.load_ok ‹State.load _ _ _ _ = Except.ok (_, _)› ‹Kept _ _›)]; done) | (have hz := Kept.snd (a := k0) ‹_ = (_, _)› (by simp (maxDischargeDepth := 99) [‹Kept _ _›]); simp (maxDischargeDepth := 99) [hz]; done) | (simp +contextual (maxDischargeDepth := 99) [*, Mem.wf]; done) | with_reducible refine State.onTaken_kept (by with_reducible assumption) _ _ (fun b x hb => ?_) | with_reducible refine State.withWrite_kept (by with_reducible assumption) _ _ (fun b r hb => ?_) | with_reducible refine kept_foldl (fun b x hb => ?_) ?_ | with_reducible refine kept_foldl_fst (fun b x hb => ?_) ?_ | with_reducible refine kept_foldl_snd (fun b x hb => ?_) ?_ | split)

end Sys2Proof.Machine
end

