-- ==== Sys2Proof/Laws/Kept/Flue.lean ====
section
/-!
SUPPORT. No operation of Machine/Flue.lean breaks what `Kept` says.
-/

namespace Sys2Proof.Machine

@[simp ↓] theorem State.stepTx_kept {k0 s : State} (hk : Kept k0 s) (f : Flit) :
    Kept k0 (s.stepTx f) := by
  unfold State.stepTx
  simp +contextual (maxDischargeDepth := 99) [hk]

@[simp ↓] theorem State.leave_kept {k0 s : State} (hk : Kept k0 s) (n : Nat) (w : Waiting) :
    Kept k0 (s.leave n w) := by
  unfold State.leave
  simp +contextual (maxDischargeDepth := 99) [hk]

@[simp ↓] theorem State.serveLink_kept {k0 : State} (k : Nat) (n : Nat) : ∀ {s : State}, Kept k0 s → Kept k0 (State.serveLink k s n) := by
  induction k with
  | zero => intro s hk; exact hk
  | succ k ih =>
    intro s hk
    unfold State.serveLink
    dsimp only
    split
    · exact hk
    · split
      · exact hk
      · exact ih (State.leave_kept (State.setLink_kept hk _ _) _ _)

@[simp ↓] theorem State.pump_kept {k0 s : State} (hk : Kept k0 s) (n : Nat) :
    Kept k0 (s.pump n) := by
  unfold State.pump
  try dsimp only
  repeat' (first | with_reducible assumption | (simp +contextual (maxDischargeDepth := 99) [*]; done) | (simp (maxDischargeDepth := 99) [State.load_ok ‹_› ‹_›]; done) | (simp (maxDischargeDepth := 99) [State.store_ok ‹_› ‹_›]; done) | (simp (maxDischargeDepth := 99) [State.store_ok ‹_ = Except.ok _› (State.load_ok ‹_ = Except.ok (_, _)› ‹_›)]; done) | (simp (maxDischargeDepth := 99) [State.load_ok ‹State.load _ _ _ _ = Except.ok (_, _)› (State.load_ok ‹State.load _ _ _ _ = Except.ok (_, _)› ‹Kept _ _›)]; done) | (have hz := Kept.snd (a := k0) ‹_ = (_, _)› (by simp (maxDischargeDepth := 99) [‹Kept _ _›]); simp (maxDischargeDepth := 99) [hz]; done) | (simp +contextual (maxDischargeDepth := 99) [*, Mem.wf]; done) | with_reducible refine State.onTaken_kept (by with_reducible assumption) _ _ (fun b x hb => ?_) | with_reducible refine State.withWrite_kept (by with_reducible assumption) _ _ (fun b r hb => ?_) | with_reducible refine kept_foldl (fun b x hb => ?_) ?_ | with_reducible refine kept_foldl_fst (fun b x hb => ?_) ?_ | with_reducible refine kept_foldl_snd (fun b x hb => ?_) ?_ | split)

@[simp ↓] theorem State.enqueue_kept {k0 s : State} (hk : Kept k0 s) (n : Nat) (w : Waiting) :
    Kept k0 (s.enqueue n w) := by
  unfold State.enqueue
  simp +contextual (maxDischargeDepth := 99) [hk]

theorem execFlitSend_kept {k0 s : State} (hk : Kept k0 s) (link : LinkId) (f : Flit) :
    ∀ {s1}, execFlitSend link f s = .next s1 → Kept k0 s1 := by
  intro s1 ht; unfold execFlitSend at ht; simp only [Host.Outcome.next.injEq] at ht; subst ht
  repeat' (first | with_reducible assumption | (simp +contextual (maxDischargeDepth := 99) [*]; done) | (simp (maxDischargeDepth := 99) [State.load_ok ‹_› ‹_›]; done) | (simp (maxDischargeDepth := 99) [State.store_ok ‹_› ‹_›]; done) | (simp (maxDischargeDepth := 99) [State.store_ok ‹_ = Except.ok _› (State.load_ok ‹_ = Except.ok (_, _)› ‹_›)]; done) | (simp (maxDischargeDepth := 99) [State.load_ok ‹State.load _ _ _ _ = Except.ok (_, _)› (State.load_ok ‹State.load _ _ _ _ = Except.ok (_, _)› ‹Kept _ _›)]; done) | (have hz := Kept.snd (a := k0) ‹_ = (_, _)› (by simp (maxDischargeDepth := 99) [‹Kept _ _›]); simp (maxDischargeDepth := 99) [hz]; done) | (simp +contextual (maxDischargeDepth := 99) [*, Mem.wf]; done) | with_reducible refine State.onTaken_kept (by with_reducible assumption) _ _ (fun b x hb => ?_) | with_reducible refine State.withWrite_kept (by with_reducible assumption) _ _ (fun b r hb => ?_) | with_reducible refine kept_foldl (fun b x hb => ?_) ?_ | with_reducible refine kept_foldl_fst (fun b x hb => ?_) ?_ | with_reducible refine kept_foldl_snd (fun b x hb => ?_) ?_ | split)

@[simp ↓] theorem State.giveCredit_kept {k0 s : State} (hk : Kept k0 s) (n vc : Nat) :
    Kept k0 (s.giveCredit n vc) := by
  unfold State.giveCredit
  simp +contextual (maxDischargeDepth := 99) [hk]

@[simp ↓] theorem State.deliver_kept {k0 s : State} (hk : Kept k0 s) (e : Nat × Flit) :
    Kept k0 (s.deliver e) := by
  unfold State.deliver
  try dsimp only
  repeat' (first | with_reducible assumption | (simp +contextual (maxDischargeDepth := 99) [*]; done) | (simp (maxDischargeDepth := 99) [State.load_ok ‹_› ‹_›]; done) | (simp (maxDischargeDepth := 99) [State.store_ok ‹_› ‹_›]; done) | (simp (maxDischargeDepth := 99) [State.store_ok ‹_ = Except.ok _› (State.load_ok ‹_ = Except.ok (_, _)› ‹_›)]; done) | (simp (maxDischargeDepth := 99) [State.load_ok ‹State.load _ _ _ _ = Except.ok (_, _)› (State.load_ok ‹State.load _ _ _ _ = Except.ok (_, _)› ‹Kept _ _›)]; done) | (have hz := Kept.snd (a := k0) ‹_ = (_, _)› (by simp (maxDischargeDepth := 99) [‹Kept _ _›]); simp (maxDischargeDepth := 99) [hz]; done) | (simp +contextual (maxDischargeDepth := 99) [*, Mem.wf]; done) | with_reducible refine State.onTaken_kept (by with_reducible assumption) _ _ (fun b x hb => ?_) | with_reducible refine State.withWrite_kept (by with_reducible assumption) _ _ (fun b r hb => ?_) | with_reducible refine kept_foldl (fun b x hb => ?_) ?_ | with_reducible refine kept_foldl_fst (fun b x hb => ?_) ?_ | with_reducible refine kept_foldl_snd (fun b x hb => ?_) ?_ | split)

@[simp ↓] theorem State.fillBuf_kept {k0 s : State} (hk : Kept k0 s) (k vc : Nat) (f : Nat → Nat) :
    Kept k0 (s.fillBuf k vc f) := by
  unfold State.fillBuf
  simp +contextual (maxDischargeDepth := 99) [hk]

@[simp ↓] theorem State.acceptFlit_kept {k0 s : State} (hk : Kept k0 s) (n : Nat) (f : Flit) :
    Kept k0 (s.acceptFlit n f) := by
  unfold State.acceptFlit
  simp +contextual (maxDischargeDepth := 99) [hk]

theorem execFlitReceived_kept {k0 s : State} (hk : Kept k0 s) (link : LinkId) (f : Flit) :
    ∀ {s1}, execFlitReceived link f s = .next s1 → Kept k0 s1 := by
  intro s1 ht; unfold execFlitReceived at ht; simp only [Host.Outcome.next.injEq] at ht; subst ht
  repeat' (first | with_reducible assumption | (simp +contextual (maxDischargeDepth := 99) [*]; done) | (simp (maxDischargeDepth := 99) [State.load_ok ‹_› ‹_›]; done) | (simp (maxDischargeDepth := 99) [State.store_ok ‹_› ‹_›]; done) | (simp (maxDischargeDepth := 99) [State.store_ok ‹_ = Except.ok _› (State.load_ok ‹_ = Except.ok (_, _)› ‹_›)]; done) | (simp (maxDischargeDepth := 99) [State.load_ok ‹State.load _ _ _ _ = Except.ok (_, _)› (State.load_ok ‹State.load _ _ _ _ = Except.ok (_, _)› ‹Kept _ _›)]; done) | (have hz := Kept.snd (a := k0) ‹_ = (_, _)› (by simp (maxDischargeDepth := 99) [‹Kept _ _›]); simp (maxDischargeDepth := 99) [hz]; done) | (simp +contextual (maxDischargeDepth := 99) [*, Mem.wf]; done) | with_reducible refine State.onTaken_kept (by with_reducible assumption) _ _ (fun b x hb => ?_) | with_reducible refine State.withWrite_kept (by with_reducible assumption) _ _ (fun b r hb => ?_) | with_reducible refine kept_foldl (fun b x hb => ?_) ?_ | with_reducible refine kept_foldl_fst (fun b x hb => ?_) ?_ | with_reducible refine kept_foldl_snd (fun b x hb => ?_) ?_ | split)

theorem execCreditReturn_kept {k0 s : State} (hk : Kept k0 s) (link : LinkId) (vc : Fin 4) (n : Nat) :
    ∀ {s1}, execCreditReturn link vc n s = .next s1 → Kept k0 s1 := by
  intro s1 ht; unfold execCreditReturn at ht; simp only [Host.Outcome.next.injEq] at ht; subst ht
  simp +contextual (maxDischargeDepth := 99) [hk]

@[simp ↓] theorem State.moveFlit_kept {k0 s : State} (hk : Kept k0 s) (w : Waiting) :
    Kept k0 (s.moveFlit w) := by
  unfold State.moveFlit
  try dsimp only
  repeat' (first | with_reducible assumption | (simp +contextual (maxDischargeDepth := 99) [*]; done) | (simp (maxDischargeDepth := 99) [State.load_ok ‹_› ‹_›]; done) | (simp (maxDischargeDepth := 99) [State.store_ok ‹_› ‹_›]; done) | (simp (maxDischargeDepth := 99) [State.store_ok ‹_ = Except.ok _› (State.load_ok ‹_ = Except.ok (_, _)› ‹_›)]; done) | (simp (maxDischargeDepth := 99) [State.load_ok ‹State.load _ _ _ _ = Except.ok (_, _)› (State.load_ok ‹State.load _ _ _ _ = Except.ok (_, _)› ‹Kept _ _›)]; done) | (have hz := Kept.snd (a := k0) ‹_ = (_, _)› (by simp (maxDischargeDepth := 99) [‹Kept _ _›]); simp (maxDischargeDepth := 99) [hz]; done) | (simp +contextual (maxDischargeDepth := 99) [*, Mem.wf]; done) | with_reducible refine State.onTaken_kept (by with_reducible assumption) _ _ (fun b x hb => ?_) | with_reducible refine State.withWrite_kept (by with_reducible assumption) _ _ (fun b r hb => ?_) | with_reducible refine kept_foldl (fun b x hb => ?_) ?_ | with_reducible refine kept_foldl_fst (fun b x hb => ?_) ?_ | with_reducible refine kept_foldl_snd (fun b x hb => ?_) ?_ | split)

theorem execReplayTimeout_kept {k0 s : State} (hk : Kept k0 s) (link : LinkId) :
    ∀ {s1}, execReplayTimeout link s = .next s1 → Kept k0 s1 := by
  intro s1 ht; unfold execReplayTimeout at ht; simp only [Host.Outcome.next.injEq] at ht; subst ht
  repeat' (first | with_reducible assumption | (simp +contextual (maxDischargeDepth := 99) [*]; done) | (simp (maxDischargeDepth := 99) [State.load_ok ‹_› ‹_›]; done) | (simp (maxDischargeDepth := 99) [State.store_ok ‹_› ‹_›]; done) | with_reducible refine State.onTaken_kept (by with_reducible assumption) _ _ (fun b x hb => ?_) | with_reducible refine State.withWrite_kept (by with_reducible assumption) _ _ (fun b r hb => ?_) | with_reducible refine kept_foldl (fun b x hb => ?_) ?_ | with_reducible refine kept_foldl_fst (fun b x hb => ?_) ?_ | with_reducible refine kept_foldl_snd (fun b x hb => ?_) ?_ | split)

@[simp ↓] theorem State.loseDest_kept {k0 s : State} (hk : Kept k0 s) (f : Nat) :
    Kept k0 (s.loseDest f) := by
  unfold State.loseDest
  simp +contextual (maxDischargeDepth := 99) [hk]

@[simp ↓] theorem State.linkDown_kept {k0 s : State} (hk : Kept k0 s) (n : Nat) :
    Kept k0 (s.linkDown n) := by
  unfold State.linkDown
  try dsimp only
  repeat' (first | with_reducible assumption | (simp +contextual (maxDischargeDepth := 99) [*]; done) | (simp (maxDischargeDepth := 99) [State.load_ok ‹_› ‹_›]; done) | (simp (maxDischargeDepth := 99) [State.store_ok ‹_› ‹_›]; done) | with_reducible refine State.onTaken_kept (by with_reducible assumption) _ _ (fun b x hb => ?_) | with_reducible refine State.withWrite_kept (by with_reducible assumption) _ _ (fun b r hb => ?_) | with_reducible refine kept_foldl (fun b x hb => ?_) ?_ | with_reducible refine kept_foldl_fst (fun b x hb => ?_) ?_ | with_reducible refine kept_foldl_snd (fun b x hb => ?_) ?_ | split)

theorem execLinkIdleTimeout_kept {k0 s : State} (hk : Kept k0 s) (link : LinkId) :
    ∀ {s1}, execLinkIdleTimeout link s = .next s1 → Kept k0 s1 := by
  intro s1 ht; unfold execLinkIdleTimeout at ht; simp only [Host.Outcome.next.injEq] at ht; subst ht
  simp +contextual (maxDischargeDepth := 99) [hk]

theorem execLinkTrained_kept {k0 s : State} (hk : Kept k0 s) (link : LinkId) (lanes : Nat) (peer : Nat) :
    ∀ {s1}, execLinkTrained link lanes peer s = .next s1 → Kept k0 s1 := by
  intro s1 ht; unfold execLinkTrained at ht; simp only [Host.Outcome.next.injEq] at ht; subst ht
  simp +contextual (maxDischargeDepth := 99) [hk]

end Sys2Proof.Machine
end

