-- ==== Sys2Proof/Laws/Kept/Reset.lean ====
section
/-!
SUPPORT. No operation of Machine/Reset.lean breaks what `Kept` says.
-/

namespace Sys2Proof.Machine

@[simp ↓] theorem State.clearPage_kept {k0 s : State} (hk : Kept k0 s) (page : Nat) : Kept k0 (s.clearPage page) :=
  hk.of_eq rfl rfl rfl

@[simp ↓] theorem State.resetPage_kept {k0 s : State} (hk : Kept k0 s) (page : Nat) :
    Kept k0 (s.resetPage page) := by
  unfold State.resetPage
  try dsimp only
  repeat' (first | with_reducible assumption | (simp +contextual (maxDischargeDepth := 99) [*]; done) | (simp (maxDischargeDepth := 99) [State.load_ok ‹_› ‹_›]; done) | (simp (maxDischargeDepth := 99) [State.store_ok ‹_› ‹_›]; done) | (simp (maxDischargeDepth := 99) [State.store_ok ‹_ = Except.ok _› (State.load_ok ‹_ = Except.ok (_, _)› ‹_›)]; done) | (simp (maxDischargeDepth := 99) [State.load_ok ‹State.load _ _ _ _ = Except.ok (_, _)› (State.load_ok ‹State.load _ _ _ _ = Except.ok (_, _)› ‹Kept _ _›)]; done) | (have hz := Kept.snd (a := k0) ‹_ = (_, _)› (by simp (maxDischargeDepth := 99) [‹Kept _ _›]); simp (maxDischargeDepth := 99) [hz]; done) | (simp +contextual (maxDischargeDepth := 99) [*, Mem.wf]; done) | with_reducible refine State.onTaken_kept (by with_reducible assumption) _ _ (fun b x hb => ?_) | with_reducible refine State.withWrite_kept (by with_reducible assumption) _ _ (fun b r hb => ?_) | with_reducible refine kept_foldl (fun b x hb => ?_) ?_ | with_reducible refine kept_foldl_fst (fun b x hb => ?_) ?_ | with_reducible refine kept_foldl_snd (fun b x hb => ?_) ?_ | split)

@[simp ↓] theorem State.setFence_kept {k0 s : State} (hk : Kept k0 s) (page : Nat) (v : Bool) :
    Kept k0 (s.setFence page v) := by
  unfold State.setFence
  simp +contextual (maxDischargeDepth := 99) [hk]

@[simp ↓] theorem State.abandonDomain_kept {k0 s : State} (hk : Kept k0 s) (d : Nat) :
    Kept k0 (s.abandonDomain d) := by
  unfold State.abandonDomain
  simp +contextual (maxDischargeDepth := 99) [hk]

@[simp ↓] theorem State.settleIdle_kept {k0 s : State} (hk : Kept k0 s) (p : Nat) :
    Kept k0 (s.settleIdle p) := by
  unfold State.settleIdle
  simp +contextual (maxDischargeDepth := 99) [hk]

@[simp ↓] theorem State.setPlace_kept {k0 s : State} (hk : Kept k0 s) (n : Nat) (e : Place) :
    Kept k0 (s.setPlace n e) := by
  unfold State.setPlace
  simp +contextual (maxDischargeDepth := 99) [hk]

@[simp ↓] theorem State.clearPlaces_kept {k0 s : State} (hk : Kept k0 s) (f : Place → Bool) :
    Kept k0 (s.clearPlaces f) := by
  unfold State.clearPlaces
  simp +contextual (maxDischargeDepth := 99) [hk]

@[simp ↓] theorem State.connFails_kept {k0 s : State} (hk : Kept k0 s) (port cls : Nat) :
    Kept k0 (s.connFails port cls) := by
  unfold State.connFails
  repeat' (first | with_reducible assumption | (simp +contextual (maxDischargeDepth := 99) [*]; done) | (simp (maxDischargeDepth := 99) [State.load_ok ‹_› ‹_›]; done) | (simp (maxDischargeDepth := 99) [State.store_ok ‹_› ‹_›]; done) | with_reducible refine State.onTaken_kept (by with_reducible assumption) _ _ (fun b x hb => ?_) | with_reducible refine State.withWrite_kept (by with_reducible assumption) _ _ (fun b r hb => ?_) | with_reducible refine kept_foldl (fun b x hb => ?_) ?_ | with_reducible refine kept_foldl_fst (fun b x hb => ?_) ?_ | with_reducible refine kept_foldl_snd (fun b x hb => ?_) ?_ | split)

@[simp ↓] theorem State.breakConn_kept {k0 s : State} (hk : Kept k0 s) (port cls : Nat) :
    Kept k0 (s.breakConn port cls) := by
  unfold State.breakConn
  simp +contextual (maxDischargeDepth := 99) [hk]

@[simp ↓] theorem State.enterBanking_kept {k0 s : State} (hk : Kept k0 s) (cause : Nat) :
    Kept k0 (s.enterBanking cause) := by
  unfold State.enterBanking
  simp +contextual (maxDischargeDepth := 99) [hk]

@[simp ↓] theorem State.resetHearth_kept {k0 s : State} (hk : Kept k0 s) (h : Nat) :
    Kept k0 (s.resetHearth h) := by
  unfold State.resetHearth
  repeat' (first | with_reducible assumption | (simp +contextual (maxDischargeDepth := 99) [*]; done) | (simp (maxDischargeDepth := 99) [State.load_ok ‹_› ‹_›]; done) | (simp (maxDischargeDepth := 99) [State.store_ok ‹_› ‹_›]; done) | with_reducible refine State.onTaken_kept (by with_reducible assumption) _ _ (fun b x hb => ?_) | with_reducible refine State.withWrite_kept (by with_reducible assumption) _ _ (fun b r hb => ?_) | with_reducible refine kept_foldl (fun b x hb => ?_) ?_ | with_reducible refine kept_foldl_fst (fun b x hb => ?_) ?_ | with_reducible refine kept_foldl_snd (fun b x hb => ?_) ?_ | split)

@[simp ↓] theorem State.resetHearths_kept {k0 s : State} (hk : Kept k0 s) (l : List Nat) :
    Kept k0 (s.resetHearths l) := by
  unfold State.resetHearths
  simp +contextual (maxDischargeDepth := 99) [hk]

@[simp ↓] theorem State.resetQuad_kept {k0 s : State} (hk : Kept k0 s) (q : Nat) :
    Kept k0 (s.resetQuad q) := by
  unfold State.resetQuad
  simp +contextual (maxDischargeDepth := 99) [hk]

@[simp ↓] theorem State.resetSePage_kept {k0 s : State} (hk : Kept k0 s) (p : Nat) :
    Kept k0 (s.resetSePage p) := by
  unfold State.resetSePage
  simp +contextual (maxDischargeDepth := 99) [hk]

@[simp ↓] theorem State.resetQueue_kept {k0 s : State} (hk : Kept k0 s) (p i : Nat) :
    Kept k0 (s.resetQueue p i) := by
  unfold State.resetQueue
  simp +contextual (maxDischargeDepth := 99) [hk]

@[simp ↓] theorem State.resetPartition_kept {k0 s : State} (hk : Kept k0 s) (p : Nat) :
    Kept k0 (s.resetPartition p) := by
  unfold State.resetPartition
  simp +contextual (maxDischargeDepth := 99) [hk]

@[simp ↓] theorem State.resetLift_kept {k0 s : State} (hk : Kept k0 s)  :
    Kept k0 (s.resetLift) := by
  unfold State.resetLift
  simp +contextual (maxDischargeDepth := 99) [hk]

@[simp ↓] theorem State.resetFb_kept {k0 s : State} (hk : Kept k0 s)  :
    Kept k0 (s.resetFb) := by
  unfold State.resetFb
  simp +contextual (maxDischargeDepth := 99) [hk]

@[simp ↓] theorem State.resetMc_kept {k0 s : State} (hk : Kept k0 s)  :
    Kept k0 (s.resetMc) := by
  unfold State.resetMc
  simp +contextual (maxDischargeDepth := 99) [hk]

@[simp ↓] theorem State.resetHi_kept {k0 s : State} (hk : Kept k0 s)  :
    Kept k0 (s.resetHi) := by
  unfold State.resetHi
  simp +contextual (maxDischargeDepth := 99) [hk]

@[simp ↓] theorem State.resetPort_kept {k0 s : State} (hk : Kept k0 s) (n : Nat) :
    Kept k0 (s.resetPort n) := by
  unfold State.resetPort
  simp +contextual (maxDischargeDepth := 99) [hk]

@[simp ↓] theorem State.resetFlue_kept {k0 s : State} (hk : Kept k0 s) (n : Nat) :
    Kept k0 (s.resetFlue n) := by
  unfold State.resetFlue
  simp +contextual (maxDischargeDepth := 99) [hk]

@[simp ↓] theorem State.resetMeter_kept {k0 s : State} (hk : Kept k0 s)  :
    Kept k0 (s.resetMeter) := by
  unfold State.resetMeter
  simp +contextual (maxDischargeDepth := 99) [hk]

@[simp ↓] theorem State.wipeModule_kept {k0 s : State} (hk : Kept k0 s) : Kept k0 s.wipeModule := by
  have h : Kept k0 (modulePages.foldl (fun (s : State) n => s.clearPage n) s) := kept_foldl (fun _ _ h => State.clearPage_kept h _) hk
  unfold State.wipeModule
  revert h
  generalize modulePages.foldl (fun (s : State) n => s.clearPage n) s = t
  intro h
  exact ⟨fun _ => ⟨AMap.wf_nil _, AMap.wf_nil _, AMap.wf_nil _⟩, h.part, h.pending⟩

@[simp ↓] theorem State.resetModule_kept {k0 s : State} (hk : Kept k0 s) (cause : Nat) :
    Kept k0 (s.resetModule cause) := by
  unfold State.resetModule
  simp +contextual (maxDischargeDepth := 99) [hk]

@[simp ↓] theorem State.resetDomain_kept {k0 s : State} (hk : Kept k0 s) (d cause : Nat) :
    Kept k0 (s.resetDomain d cause) := by
  unfold State.resetDomain
  simp +contextual (maxDischargeDepth := 99) [hk]

@[simp ↓] theorem State.draw_kept {k0 s : State} (hk : Kept k0 s)  :
    Kept k0 (s.draw).2 := by
  unfold State.draw
  simp +contextual (maxDischargeDepth := 99) [hk]

@[simp ↓] theorem State.drawKeys_kept {k0 s : State} (hk : Kept k0 s)  :
    Kept k0 (s.drawKeys).2 := by
  unfold State.drawKeys
  simp +contextual (maxDischargeDepth := 99) [hk]

@[simp ↓] theorem State.stepRegions_kept {k0 s : State} (hk : Kept k0 s) (f : Region → Bool) :
    Kept k0 (s.stepRegions f) := by
  unfold State.stepRegions
  simp +contextual (maxDischargeDepth := 99) [hk]

@[simp ↓] theorem State.ashState_kept {k0 s : State} (hk : Kept k0 s) (p : Nat) :
    Kept k0 (s.ashState p) := by
  unfold State.ashState
  simp +contextual (maxDischargeDepth := 99) [hk]

@[simp ↓] theorem State.owesResponse_kept {k0 s : State} (hk : Kept k0 s) (c : Started) :
    Kept k0 (s.owesResponse c) := by
  unfold State.owesResponse
  simp +contextual (maxDischargeDepth := 99) [hk]

@[simp ↓] theorem State.noteReset_kept {k0 s : State} (hk : Kept k0 s) (d cause : Nat) :
    Kept k0 (s.noteReset d cause) := by
  unfold State.noteReset
  simp +contextual (maxDischargeDepth := 99) [hk]

@[simp ↓] theorem State.auditTokens_kept {k0 s : State} (hk : Kept k0 s) (p : Nat) :
    Kept k0 (s.auditTokens p) := by
  unfold State.auditTokens
  simp +contextual (maxDischargeDepth := 99) [hk]

@[simp ↓] theorem State.auditDomain_kept {k0 s : State} (hk : Kept k0 s) (d : Nat) :
    Kept k0 (s.auditDomain d) := by
  unfold State.auditDomain
  simp +contextual (maxDischargeDepth := 99) [hk]

@[simp ↓] theorem State.carryOut_kept {k0 s : State} (hk : Kept k0 s) (d cause : Nat) :
    Kept k0 (s.carryOut d cause) := by
  unfold State.carryOut
  simp +contextual (maxDischargeDepth := 99) [hk]

@[simp ↓] theorem State.startReset_kept {k0 s : State} (hk : Kept k0 s) (d cause : Nat) :
    Kept k0 (s.startReset d cause) := by
  unfold State.startReset
  simp +contextual (maxDischargeDepth := 99) [hk]

@[simp ↓] theorem State.requestReset_kept {k0 s : State} (hk : Kept k0 s) (d cause : Nat) :
    Kept k0 (s.requestReset d cause) := by
  unfold State.requestReset
  simp +contextual (maxDischargeDepth := 99) [hk]

@[simp ↓] theorem State.settleDrains_kept {k0 s : State} (hk : Kept k0 s)  :
    Kept k0 (s.settleDrains) := by
  unfold State.settleDrains
  simp +contextual (maxDischargeDepth := 99) [hk]

@[simp ↓] theorem State.stepEpoch_kept {k0 s : State} (hk : Kept k0 s) (d : Nat) :
    Kept k0 (s.stepEpoch d) := by
  unfold State.stepEpoch
  simp +contextual (maxDischargeDepth := 99) [hk]

@[simp ↓] theorem State.stepEpochs_kept {k0 s : State} (hk : Kept k0 s) (d : Nat) :
    Kept k0 (s.stepEpochs d) := by
  unfold State.stepEpochs
  simp +contextual (maxDischargeDepth := 99) [hk]

@[simp ↓] theorem State.startCheck_kept {k0 s : State} (hk : Kept k0 s) (page : Nat) :
    Kept k0 (s.startCheck page) := by
  unfold State.startCheck
  simp +contextual (maxDischargeDepth := 99) [hk]

@[simp ↓] theorem State.liftFence_kept {k0 s : State} (hk : Kept k0 s) (page : Nat) :
    Kept k0 (s.liftFence page) := by
  unfold State.liftFence
  simp +contextual (maxDischargeDepth := 99) [hk]

@[simp ↓] theorem State.alignTicks_kept {k0 s : State} (hk : Kept k0 s)  :
    Kept k0 (s.alignTicks) := by
  unfold State.alignTicks
  simp +contextual (maxDischargeDepth := 99) [hk]

@[simp ↓] theorem State.releaseDomain_kept {k0 s : State} (hk : Kept k0 s) (d : Nat) :
    Kept k0 (s.releaseDomain d) := by
  unfold State.releaseDomain
  simp +contextual (maxDischargeDepth := 99) [hk]

end Sys2Proof.Machine
end

