-- ==== Sys2Proof/Laws/Kept/Hearths.lean ====
section
/-!
SUPPORT. No operation of Machine/Hearths.lean breaks what `Kept` says.
-/

namespace Sys2Proof.Machine

theorem State.readRanges_kept {k0 : State} (who : MemWho) (p : Nat) (d : Bool) (l : List (Nat × Nat)) :
    ∀ {s t b}, Kept k0 s → s.readRanges who p d l = .ok (b, t) → Kept k0 t := by
  induction l with
  | nil => intro s t b hk h; unfold State.readRanges at h; cases h; exact hk
  | cons x xs ih =>
    intro s t b hk h
    unfold State.readRanges at h
    split at h
    · cases h
    · next b1 s1 h1 =>
      have k1 : Kept k0 (if d then s1 else s) := kept_ite (State.load_ok h1 hk) hk
      split at h
      · cases h
      · next h2 => cases h; exact ih k1 h2

theorem State.readLines_kept {k0 : State} (who : MemWho) (p : Nat) (d : Bool) (l : List (Nat × Nat)) :
    ∀ {s t b}, Kept k0 s → s.readLines who p d l = .ok (b, t) → Kept k0 t := by
  induction l with
  | nil => intro s t b hk h; unfold State.readLines at h; cases h; exact hk
  | cons x xs ih =>
    intro s t b hk h
    unfold State.readLines at h
    split at h
    · cases h
    · next b1 s1 h1 =>
      split at h
      · cases h
      · next h2 => cases h; exact ih (State.readRanges_kept who p d _ hk h1) h2

@[simp ↓] theorem State.hearthCycles_kept {k0 s : State} (hk : Kept k0 s) (h off n : Nat) (tally : Bool) :
    Kept k0 (s.hearthCycles h off n tally) := by
  unfold State.hearthCycles
  simp +contextual (maxDischargeDepth := 99) [hk]

@[simp ↓] theorem State.stageSlot_kept {k0 s : State} (hk : Kept k0 s) (n : Nat) (slot : Fin 2) (f : FillReq) (d : StageData) :
    Kept k0 (s.stageSlot n slot f d) := by
  unfold State.stageSlot
  simp +contextual (maxDischargeDepth := 99) [hk]

theorem execStagingFillDone_kept {k0 s : State} (hk : Kept k0 s) (h : HearthId) (slot : Fin 2) (f : FillReq) :
    ∀ {s1}, execStagingFillDone h slot f s = .next s1 → Kept k0 s1 := by
  intro s1 ht; unfold execStagingFillDone at ht; simp only [Host.Outcome.next.injEq] at ht; subst ht
  split
  · exact hk
  · refine kept_ite hk ?_
    generalize (if (s.hearth h.val).nextSlot == decide (slot.val = 0) then (s.hearth h.val).endFront else s.hearth h.val) = y
    split
    · exact State.tagFailAt_kept hk _
    · exact hk
    · next h1 =>
      have k1 := State.readLines_kept _ _ _ _ (State.setHearth_kept hk _ _) h1
      split
      · exact State.tagFailAt_kept hk _
      · exact hk
      · next h2 => exact State.stageSlot_kept (State.readLines_kept _ _ _ _ k1 h2) _ _ _ _

@[simp ↓] theorem State.openAcc_kept {k0 s : State} (hk : Kept k0 s) (n : Nat) (h : PassHdr) :
    Kept k0 (s.openAcc n h) := by
  unfold State.openAcc
  simp +contextual (maxDischargeDepth := 99) [hk]

@[simp ↓] theorem State.markElems_kept {k0 s : State} (hk : Kept k0 s) (h : PassHdr) (kind row : Nat) (is : List Nat) :
    Kept k0 (s.markElems h kind row is) := by
  unfold State.markElems
  simp +contextual (maxDischargeDepth := 99) [hk]

@[simp ↓] theorem State.countVec_kept {k0 s : State} (hk : Kept k0 s) (h : PassHdr) (row : Nat) (fed : List Fed) (grads : List (Nat × Cnt)) (sums : List FR) :
    Kept k0 (s.countVec h row fed grads sums) := by
  unfold State.countVec
  simp +contextual (maxDischargeDepth := 99) [hk]

@[simp ↓] theorem State.keepClipped_kept {k0 s : State} (hk : Kept k0 s) (h : PassHdr) (x : VecIn) (fed : List Fed) :
    Kept k0 (s.keepClipped h x fed) := by
  unfold State.keepClipped
  simp +contextual (maxDischargeDepth := 99) [hk]

@[simp ↓] theorem State.issueVec_kept {k0 s : State} (hk : Kept k0 s) (n : Nat) (d : StageData) (x : VecIn) :
    Kept k0 (s.issueVec n d x) := by
  unfold State.issueVec
  simp +contextual (maxDischargeDepth := 99) [hk]

theorem execVectorIssue_kept {k0 s : State} (hk : Kept k0 s) (h : HearthId) (x : VecIn) :
    ∀ {s1}, execVectorIssue h x s = .next s1 → Kept k0 s1 := by
  intro s1 ht; unfold execVectorIssue at ht; simp only [Host.Outcome.next.injEq] at ht; subst ht
  repeat' (first | with_reducible assumption | (simp +contextual (maxDischargeDepth := 99) [*]; done) | (simp (maxDischargeDepth := 99) [State.load_ok ‹_› ‹_›]; done) | (simp (maxDischargeDepth := 99) [State.store_ok ‹_› ‹_›]; done) | with_reducible refine State.onTaken_kept (by with_reducible assumption) _ _ (fun b x hb => ?_) | with_reducible refine State.withWrite_kept (by with_reducible assumption) _ _ (fun b r hb => ?_) | with_reducible refine kept_foldl (fun b x hb => ?_) ?_ | with_reducible refine kept_foldl_fst (fun b x hb => ?_) ?_ | with_reducible refine kept_foldl_snd (fun b x hb => ?_) ?_ | split)

@[simp ↓] theorem State.closePass_kept {k0 s : State} (hk : Kept k0 s) (n : Nat) :
    Kept k0 (s.closePass n) := by
  unfold State.closePass
  try dsimp only
  repeat' (first | with_reducible assumption | (simp +contextual (maxDischargeDepth := 99) [*]; done) | (simp (maxDischargeDepth := 99) [State.load_ok ‹_› ‹_›]; done) | (simp (maxDischargeDepth := 99) [State.store_ok ‹_› ‹_›]; done) | with_reducible refine State.onTaken_kept (by with_reducible assumption) _ _ (fun b x hb => ?_) | with_reducible refine State.withWrite_kept (by with_reducible assumption) _ _ (fun b r hb => ?_) | with_reducible refine kept_foldl (fun b x hb => ?_) ?_ | with_reducible refine kept_foldl_fst (fun b x hb => ?_) ?_ | with_reducible refine kept_foldl_snd (fun b x hb => ?_) ?_ | split)

theorem execFrontStart_kept {k0 s : State} (hk : Kept k0 s) (h : HearthId) :
    ∀ {s1}, execFrontStart h s = .next s1 → Kept k0 s1 := by
  intro s1 ht; unfold execFrontStart at ht; simp only [Host.Outcome.next.injEq] at ht; subst ht
  repeat' (first | with_reducible assumption | (simp +contextual (maxDischargeDepth := 99) [*]; done) | (simp (maxDischargeDepth := 99) [State.load_ok ‹_› ‹_›]; done) | (simp (maxDischargeDepth := 99) [State.store_ok ‹_› ‹_›]; done) | with_reducible refine State.onTaken_kept (by with_reducible assumption) _ _ (fun b x hb => ?_) | with_reducible refine State.withWrite_kept (by with_reducible assumption) _ _ (fun b r hb => ?_) | with_reducible refine kept_foldl (fun b x hb => ?_) ?_ | with_reducible refine kept_foldl_fst (fun b x hb => ?_) ?_ | with_reducible refine kept_foldl_snd (fun b x hb => ?_) ?_ | split)

@[simp ↓] theorem State.putResult_kept {k0 s : State} (hk : Kept k0 s) (n : Nat) (q : PendSum) (dst : DrainDst) (r : Drained) :
    Kept k0 (s.putResult n q dst r) := by
  unfold State.putResult
  try dsimp only
  repeat' (first | with_reducible assumption | (simp +contextual (maxDischargeDepth := 99) [*]; done) | (simp (maxDischargeDepth := 99) [State.load_ok ‹_› ‹_›]; done) | (simp (maxDischargeDepth := 99) [State.store_ok ‹_› ‹_›]; done) | (simp (maxDischargeDepth := 99) [State.store_ok ‹_ = Except.ok _› (State.load_ok ‹_ = Except.ok (_, _)› ‹_›)]; done) | (simp (maxDischargeDepth := 99) [State.load_ok ‹State.load _ _ _ _ = Except.ok (_, _)› (State.load_ok ‹State.load _ _ _ _ = Except.ok (_, _)› ‹Kept _ _›)]; done) | (have hz := Kept.snd (a := k0) ‹_ = (_, _)› (by simp (maxDischargeDepth := 99) [‹Kept _ _›]); simp (maxDischargeDepth := 99) [hz]; done) | (simp +contextual (maxDischargeDepth := 99) [*, Mem.wf]; done) | with_reducible refine State.onTaken_kept (by with_reducible assumption) _ _ (fun b x hb => ?_) | with_reducible refine State.withWrite_kept (by with_reducible assumption) _ _ (fun b r hb => ?_) | with_reducible refine kept_foldl (fun b x hb => ?_) ?_ | with_reducible refine kept_foldl_fst (fun b x hb => ?_) ?_ | with_reducible refine kept_foldl_snd (fun b x hb => ?_) ?_ | split)

@[simp ↓] theorem State.drainLookup_kept {k0 s : State} (hk : Kept k0 s) (n : Nat) (l : WaxLine) :
    Kept k0 (s.drainLookup n l).1 := by
  unfold State.drainLookup
  try dsimp only
  repeat' (first | with_reducible assumption | (simp +contextual (maxDischargeDepth := 99) [*]; done) | (simp (maxDischargeDepth := 99) [State.load_ok ‹_› ‹_›]; done) | (simp (maxDischargeDepth := 99) [State.store_ok ‹_› ‹_›]; done) | with_reducible refine State.onTaken_kept (by with_reducible assumption) _ _ (fun b x hb => ?_) | with_reducible refine State.withWrite_kept (by with_reducible assumption) _ _ (fun b r hb => ?_) | with_reducible refine kept_foldl (fun b x hb => ?_) ?_ | with_reducible refine kept_foldl_fst (fun b x hb => ?_) ?_ | with_reducible refine kept_foldl_snd (fun b x hb => ?_) ?_ | split)

@[simp ↓] theorem State.keepSite_kept {k0 s : State} (hk : Kept k0 s) (q : PendSum) (xs : List F32) :
    Kept k0 (s.keepSite q xs) := by
  unfold State.keepSite
  try dsimp only
  repeat' (first | with_reducible assumption | (simp +contextual (maxDischargeDepth := 99) [*]; done) | (simp (maxDischargeDepth := 99) [State.load_ok ‹_› ‹_›]; done) | (simp (maxDischargeDepth := 99) [State.store_ok ‹_› ‹_›]; done) | (simp (maxDischargeDepth := 99) [State.store_ok ‹_ = Except.ok _› (State.load_ok ‹_ = Except.ok (_, _)› ‹_›)]; done) | (simp (maxDischargeDepth := 99) [State.load_ok ‹State.load _ _ _ _ = Except.ok (_, _)› (State.load_ok ‹State.load _ _ _ _ = Except.ok (_, _)› ‹Kept _ _›)]; done) | (have hz := Kept.snd (a := k0) ‹_ = (_, _)› (by simp (maxDischargeDepth := 99) [‹Kept _ _›]); simp (maxDischargeDepth := 99) [hz]; done) | (simp +contextual (maxDischargeDepth := 99) [*, Mem.wf]; done) | with_reducible refine State.onTaken_kept (by with_reducible assumption) _ _ (fun b x hb => ?_) | with_reducible refine State.withWrite_kept (by with_reducible assumption) _ _ (fun b r hb => ?_) | with_reducible refine kept_foldl (fun b x hb => ?_) ?_ | with_reducible refine kept_foldl_fst (fun b x hb => ?_) ?_ | with_reducible refine kept_foldl_snd (fun b x hb => ?_) ?_ | split)

@[simp ↓] theorem State.takeCombine_kept {k0 s : State} (hk : Kept k0 s) (q : PendSum) :
    Kept k0 (s.takeCombine q).2 := by
  unfold State.takeCombine
  simp +contextual (maxDischargeDepth := 99) [hk]

@[simp ↓] theorem State.keepKv_kept {k0 s : State} (hk : Kept k0 s) (q : PendSum) (r : Drained) :
    Kept k0 (s.keepKv q r) := by
  unfold State.keepKv
  simp +contextual (maxDischargeDepth := 99) [hk]

@[simp ↓] theorem State.drainOut_kept {k0 s : State} (hk : Kept k0 s) (n : Nat) (q : PendSum) (form : Nat) (more : Bool) (dst : DrainDst) (line : Option WaxLine) (a : RowSums) (d1 : RecCnt) :
    Kept k0 (s.drainOut n q form more dst line a d1) := by
  unfold State.drainOut
  simp +contextual (maxDischargeDepth := 99) [hk]

@[simp ↓] theorem State.drainRow_kept {k0 s : State} (hk : Kept k0 s) (n : Nat) (q : PendSum) (form : Nat) (more : Bool) (dst : DrainDst) :
    Kept k0 (s.drainRow n q form more dst) := by
  unfold State.drainRow
  try dsimp only
  repeat' (first | with_reducible assumption | (simp +contextual (maxDischargeDepth := 99) [*]; done) | (simp (maxDischargeDepth := 99) [State.load_ok ‹_› ‹_›]; done) | (simp (maxDischargeDepth := 99) [State.store_ok ‹_› ‹_›]; done) | (simp (maxDischargeDepth := 99) [State.store_ok ‹_ = Except.ok _› (State.load_ok ‹_ = Except.ok (_, _)› ‹_›)]; done) | (simp (maxDischargeDepth := 99) [State.load_ok ‹State.load _ _ _ _ = Except.ok (_, _)› (State.load_ok ‹State.load _ _ _ _ = Except.ok (_, _)› ‹Kept _ _›)]; done) | (have hz := Kept.snd (a := k0) ‹_ = (_, _)› (by simp (maxDischargeDepth := 99) [‹Kept _ _›]); simp (maxDischargeDepth := 99) [hz]; done) | (simp +contextual (maxDischargeDepth := 99) [*, Mem.wf]; done) | with_reducible refine State.onTaken_kept (by with_reducible assumption) _ _ (fun b x hb => ?_) | with_reducible refine State.withWrite_kept (by with_reducible assumption) _ _ (fun b r hb => ?_) | with_reducible refine kept_foldl (fun b x hb => ?_) ?_ | with_reducible refine kept_foldl_fst (fun b x hb => ?_) ?_ | with_reducible refine kept_foldl_snd (fun b x hb => ?_) ?_ | split)

theorem execDrainRow_kept {k0 s : State} (hk : Kept k0 s) (h : HearthId) (row : Nat) (form : Fin 3) (more : Bool) (dst : DrainDst) :
    ∀ {s1}, execDrainRow h row form s more dst = .next s1 → Kept k0 s1 := by
  intro s1 ht; unfold execDrainRow at ht; simp only [Host.Outcome.next.injEq] at ht; subst ht
  repeat' (first | with_reducible assumption | (simp +contextual (maxDischargeDepth := 99) [*]; done) | (simp (maxDischargeDepth := 99) [State.load_ok ‹_› ‹_›]; done) | (simp (maxDischargeDepth := 99) [State.store_ok ‹_› ‹_›]; done) | (simp (maxDischargeDepth := 99) [State.store_ok ‹_ = Except.ok _› (State.load_ok ‹_ = Except.ok (_, _)› ‹_›)]; done) | (simp (maxDischargeDepth := 99) [State.load_ok ‹State.load _ _ _ _ = Except.ok (_, _)› (State.load_ok ‹State.load _ _ _ _ = Except.ok (_, _)› ‹Kept _ _›)]; done) | (have hz := Kept.snd (a := k0) ‹_ = (_, _)› (by simp (maxDischargeDepth := 99) [‹Kept _ _›]); simp (maxDischargeDepth := 99) [hz]; done) | (simp +contextual (maxDischargeDepth := 99) [*, Mem.wf]; done) | with_reducible refine State.onTaken_kept (by with_reducible assumption) _ _ (fun b x hb => ?_) | with_reducible refine State.withWrite_kept (by with_reducible assumption) _ _ (fun b r hb => ?_) | with_reducible refine kept_foldl (fun b x hb => ?_) ?_ | with_reducible refine kept_foldl_fst (fun b x hb => ?_) ?_ | with_reducible refine kept_foldl_snd (fun b x hb => ?_) ?_ | split)

theorem execWaxLineLanded_kept {k0 s : State} (hk : Kept k0 s) (h : HearthId) (index : Nat) :
    ∀ {s1}, execWaxLineLanded h index s = .next s1 → Kept k0 s1 := by
  intro s1 ht; unfold execWaxLineLanded at ht; simp only [Host.Outcome.next.injEq] at ht; subst ht
  repeat' (first | with_reducible assumption | (simp +contextual (maxDischargeDepth := 99) [*]; done) | (simp (maxDischargeDepth := 99) [State.load_ok ‹_› ‹_›]; done) | (simp (maxDischargeDepth := 99) [State.store_ok ‹_› ‹_›]; done) | with_reducible refine State.onTaken_kept (by with_reducible assumption) _ _ (fun b x hb => ?_) | with_reducible refine State.withWrite_kept (by with_reducible assumption) _ _ (fun b r hb => ?_) | with_reducible refine kept_foldl (fun b x hb => ?_) ?_ | with_reducible refine kept_foldl_fst (fun b x hb => ?_) ?_ | with_reducible refine kept_foldl_snd (fun b x hb => ?_) ?_ | split)

@[simp ↓] theorem State.closeTile_kept {k0 s : State} (hk : Kept k0 s) (p : Nat) (t : TileRun) :
    Kept k0 (s.closeTile p t) := by
  unfold State.closeTile
  try dsimp only
  repeat' (first | with_reducible assumption | (simp +contextual (maxDischargeDepth := 99) [*]; done) | (simp (maxDischargeDepth := 99) [State.load_ok ‹_› ‹_›]; done) | (simp (maxDischargeDepth := 99) [State.store_ok ‹_› ‹_›]; done) | (simp (maxDischargeDepth := 99) [State.store_ok ‹_ = Except.ok _› (State.load_ok ‹_ = Except.ok (_, _)› ‹_›)]; done) | (simp (maxDischargeDepth := 99) [State.load_ok ‹State.load _ _ _ _ = Except.ok (_, _)› (State.load_ok ‹State.load _ _ _ _ = Except.ok (_, _)› ‹Kept _ _›)]; done) | (have hz := Kept.snd (a := k0) ‹_ = (_, _)› (by simp (maxDischargeDepth := 99) [‹Kept _ _›]); simp (maxDischargeDepth := 99) [hz]; done) | (simp +contextual (maxDischargeDepth := 99) [*, Mem.wf]; done) | with_reducible refine State.onTaken_kept (by with_reducible assumption) _ _ (fun b x hb => ?_) | with_reducible refine State.withWrite_kept (by with_reducible assumption) _ _ (fun b r hb => ?_) | with_reducible refine kept_foldl (fun b x hb => ?_) ?_ | with_reducible refine kept_foldl_fst (fun b x hb => ?_) ?_ | with_reducible refine kept_foldl_snd (fun b x hb => ?_) ?_ | split)

theorem execTileComplete_kept {k0 s : State} (hk : Kept k0 s) (t : TileRun) :
    ∀ {s1}, execTileComplete t s = .next s1 → Kept k0 s1 := by
  intro s1 ht; unfold execTileComplete at ht; simp only [Host.Outcome.next.injEq] at ht; subst ht
  repeat' (first | with_reducible assumption | (simp +contextual (maxDischargeDepth := 99) [*]; done) | (simp (maxDischargeDepth := 99) [State.load_ok ‹_› ‹_›]; done) | (simp (maxDischargeDepth := 99) [State.store_ok ‹_› ‹_›]; done) | with_reducible refine State.onTaken_kept (by with_reducible assumption) _ _ (fun b x hb => ?_) | with_reducible refine State.withWrite_kept (by with_reducible assumption) _ _ (fun b r hb => ?_) | with_reducible refine kept_foldl (fun b x hb => ?_) ?_ | with_reducible refine kept_foldl_fst (fun b x hb => ?_) ?_ | with_reducible refine kept_foldl_snd (fun b x hb => ?_) ?_ | split)

end Sys2Proof.Machine
end

