-- ==== Sys2Proof/Laws/Kept/Partitions.lean ====
section
/-!
SUPPORT. No operation of Machine/Partitions.lean breaks what `Kept` says.
-/

namespace Sys2Proof.Machine

@[simp ↓] theorem State.beginAsh_kept {k0 s : State} (hk : Kept k0 s) (p : Nat) :
    Kept k0 (s.beginAsh p) := by
  unfold State.beginAsh
  simp +contextual (maxDischargeDepth := 99) [hk]

@[simp ↓] theorem State.startAshout_kept {k0 s : State} (hk : Kept k0 s) (p : Nat) :
    Kept k0 (s.startAshout p) := by
  unfold State.startAshout
  simp +contextual (maxDischargeDepth := 99) [hk]

@[simp ↓] theorem State.dropPages_kept {k0 s : State} (hk : Kept k0 s) (p : Nat) :
    Kept k0 (s.dropPages p) := by
  unfold State.dropPages
  try dsimp only
  repeat' (first | with_reducible assumption | (simp +contextual (maxDischargeDepth := 99) [*]; done) | (simp (maxDischargeDepth := 99) [State.load_ok ‹_› ‹_›]; done) | (simp (maxDischargeDepth := 99) [State.store_ok ‹_› ‹_›]; done) | (simp (maxDischargeDepth := 99) [State.store_ok ‹_ = Except.ok _› (State.load_ok ‹_ = Except.ok (_, _)› ‹_›)]; done) | (simp (maxDischargeDepth := 99) [State.load_ok ‹State.load _ _ _ _ = Except.ok (_, _)› (State.load_ok ‹State.load _ _ _ _ = Except.ok (_, _)› ‹Kept _ _›)]; done) | (have hz := Kept.snd (a := k0) ‹_ = (_, _)› (by simp (maxDischargeDepth := 99) [‹Kept _ _›]); simp (maxDischargeDepth := 99) [hz]; done) | (simp +contextual (maxDischargeDepth := 99) [*, Mem.wf]; done) | with_reducible refine State.onTaken_kept (by with_reducible assumption) _ _ (fun b x hb => ?_) | with_reducible refine State.withWrite_kept (by with_reducible assumption) _ _ (fun b r hb => ?_) | with_reducible refine kept_foldl (fun b x hb => ?_) ?_ | with_reducible refine kept_foldl_fst (fun b x hb => ?_) ?_ | with_reducible refine kept_foldl_snd (fun b x hb => ?_) ?_ | split)

@[simp ↓] theorem State.zeroFrames_kept {k0 s : State} (hk : Kept k0 s) (p : Nat) :
    Kept k0 (s.zeroFrames p) := by
  unfold State.zeroFrames
  try dsimp only
  repeat' (first | with_reducible assumption | (simp +contextual (maxDischargeDepth := 99) [*]; done) | (simp (maxDischargeDepth := 99) [State.load_ok ‹_› ‹_›]; done) | (simp (maxDischargeDepth := 99) [State.store_ok ‹_› ‹_›]; done) | (simp (maxDischargeDepth := 99) [State.store_ok ‹_ = Except.ok _› (State.load_ok ‹_ = Except.ok (_, _)› ‹_›)]; done) | (simp (maxDischargeDepth := 99) [State.load_ok ‹State.load _ _ _ _ = Except.ok (_, _)› (State.load_ok ‹State.load _ _ _ _ = Except.ok (_, _)› ‹Kept _ _›)]; done) | (have hz := Kept.snd (a := k0) ‹_ = (_, _)› (by simp (maxDischargeDepth := 99) [‹Kept _ _›]); simp (maxDischargeDepth := 99) [hz]; done) | (simp +contextual (maxDischargeDepth := 99) [*, Mem.wf]; done) | with_reducible refine State.onTaken_kept (by with_reducible assumption) _ _ (fun b x hb => ?_) | with_reducible refine State.withWrite_kept (by with_reducible assumption) _ _ (fun b r hb => ?_) | with_reducible refine kept_foldl (fun b x hb => ?_) ?_ | with_reducible refine kept_foldl_fst (fun b x hb => ?_) ?_ | with_reducible refine kept_foldl_snd (fun b x hb => ?_) ?_ | split)

@[simp ↓] theorem State.cryptoErase_kept {k0 s : State} (hk : Kept k0 s) (p : Nat) :
    Kept k0 (s.cryptoErase p) := by
  unfold State.cryptoErase
  simp +contextual (maxDischargeDepth := 99) [hk]

theorem execAshoutDone_kept {k0 s : State} (hk : Kept k0 s) (p : PartId) :
    ∀ {s1}, execAshoutDone p s = .next s1 → Kept k0 s1 := by
  intro s1 ht; unfold execAshoutDone at ht; simp only [Host.Outcome.next.injEq] at ht; subst ht
  simp +contextual (maxDischargeDepth := 99) [hk]

@[simp ↓] theorem State.setFreeze_kept {k0 s : State} (hk : Kept k0 s) (p : Nat) :
    Kept k0 (s.setFreeze p) := by
  unfold State.setFreeze
  simp +contextual (maxDischargeDepth := 99) [hk]

@[simp ↓] theorem State.reopenFetches_kept {k0 s : State} (hk : Kept k0 s) (p : Nat) :
    Kept k0 (s.reopenFetches p) := by
  unfold State.reopenFetches
  exact State.setParks_kept (kept_foldl_fst (fun _ _ h => State.parkFetch_kept h _ _) (State.setParks_kept hk _)) _

@[simp ↓] theorem State.clearFreeze_kept {k0 s : State} (hk : Kept k0 s) (p : Nat) :
    Kept k0 (s.clearFreeze p) := by
  unfold State.clearFreeze
  simp +contextual (maxDischargeDepth := 99) [hk]

theorem execFreezeBudgetExpiry_kept {k0 s : State} (hk : Kept k0 s) (p : PartId) :
    ∀ {s1}, execFreezeBudgetExpiry p s = .next s1 → Kept k0 s1 := by
  intro s1 ht; unfold execFreezeBudgetExpiry at ht; simp only [Host.Outcome.next.injEq] at ht; subst ht
  simp +contextual (maxDischargeDepth := 99) [hk]

@[simp ↓] theorem State.writeEnable_kept {k0 s : State} (hk : Kept k0 s) (page : Nat) :
    Kept k0 (s.writeEnable page) := by
  unfold State.writeEnable
  simp +contextual (maxDischargeDepth := 99) [hk]

@[simp ↓] theorem State.writeDisable_kept {k0 s : State} (hk : Kept k0 s) (page : Nat) :
    Kept k0 (s.writeDisable page) := by
  unfold State.writeDisable
  simp +contextual (maxDischargeDepth := 99) [hk]

@[simp ↓] theorem State.ptCtrl_kept {k0 s : State} (hk : Kept k0 s) (p : Nat) (v : Word) :
    Kept k0 (s.ptCtrl p v) := by
  unfold State.ptCtrl
  simp +contextual (maxDischargeDepth := 99) [hk]

@[simp ↓] theorem State.applyCtrl_kept {k0 s : State} (hk : Kept k0 s) (page : Nat) (v : Word) :
    Kept k0 (s.applyCtrl page v) := by
  unfold State.applyCtrl
  try simp only
  repeat' (first | with_reducible assumption | split | (simp +contextual (maxDischargeDepth := 99) [*]; done) | (simp (maxDischargeDepth := 99) [State.load_ok ‹_› ‹_›]; done) | (simp (maxDischargeDepth := 99) [State.store_ok ‹_› ‹_›]; done) | with_reducible refine State.onTaken_kept (by with_reducible assumption) _ _ (fun b x hb => ?_) | with_reducible refine State.withRead_kept (by with_reducible assumption) _ _ (fun b r hb => ?_) | with_reducible refine State.withWrite_kept (by with_reducible assumption) _ _ (fun b r hb => ?_) | with_reducible refine kept_foldl (fun b x hb => ?_) ?_ | with_reducible refine kept_foldl_fst (fun b x hb => ?_) ?_ | with_reducible refine kept_foldl_snd (fun b x hb => ?_) ?_)

@[simp ↓] theorem State.writeCtrl_kept {k0 s : State} (hk : Kept k0 s) (page : Nat) (v : Word) :
    Kept k0 (s.writeCtrl page v) := by
  unfold State.writeCtrl
  simp +contextual (maxDischargeDepth := 99) [hk]

@[simp ↓] theorem State.ctrlBy_kept {k0 s : State} (hk : Kept k0 s) (o : Origin) (page : Nat) (f : PageHdr → Word) :
    Kept k0 (s.ctrlBy o page f) := by
  unfold State.ctrlBy
  simp +contextual (maxDischargeDepth := 99) [hk]

theorem execPtFreezeSet_kept {k0 s : State} (hk : Kept k0 s) (o : Origin) (p : PartId) :
    ∀ {s1}, execPtFreezeSet o p s = .next s1 → Kept k0 s1 := by
  intro s1 ht; unfold execPtFreezeSet at ht; simp only [Host.Outcome.next.injEq] at ht; subst ht
  simp +contextual (maxDischargeDepth := 99) [hk]

theorem execPtFreezeClear_kept {k0 s : State} (hk : Kept k0 s) (o : Origin) (p : PartId) :
    ∀ {s1}, execPtFreezeClear o p s = .next s1 → Kept k0 s1 := by
  intro s1 ht; unfold execPtFreezeClear at ht; simp only [Host.Outcome.next.injEq] at ht; subst ht
  simp +contextual (maxDischargeDepth := 99) [hk]

theorem execPtAshout_kept {k0 s : State} (hk : Kept k0 s) (o : Origin) (p : PartId) :
    ∀ {s1}, execPtAshout o p s = .next s1 → Kept k0 s1 := by
  intro s1 ht; unfold execPtAshout at ht; simp only [Host.Outcome.next.injEq] at ht; subst ht
  simp +contextual (maxDischargeDepth := 99) [hk]

@[simp ↓] theorem State.resizeGo_kept {k0 s : State} (hk : Kept k0 s) (p : Nat) :
    Kept k0 (s.resizeGo p) := by
  unfold State.resizeGo
  try dsimp only
  repeat' (first | with_reducible assumption | (simp +contextual (maxDischargeDepth := 99) [*]; done) | (simp (maxDischargeDepth := 99) [State.load_ok ‹_› ‹_›]; done) | (simp (maxDischargeDepth := 99) [State.store_ok ‹_› ‹_›]; done) | with_reducible refine State.onTaken_kept (by with_reducible assumption) _ _ (fun b x hb => ?_) | with_reducible refine State.withRead_kept (by with_reducible assumption) _ _ (fun b r hb => ?_) | with_reducible refine State.withWrite_kept (by with_reducible assumption) _ _ (fun b r hb => ?_) | with_reducible refine kept_foldl (fun b x hb => ?_) ?_ | with_reducible refine kept_foldl_fst (fun b x hb => ?_) ?_ | with_reducible refine kept_foldl_snd (fun b x hb => ?_) ?_ | split)

theorem execPtResizeGo_kept {k0 s : State} (hk : Kept k0 s) (o : Origin) (p : PartId) :
    ∀ {s1}, execPtResizeGo o p s = .next s1 → Kept k0 s1 := by
  intro s1 ht; unfold execPtResizeGo at ht; simp only [Host.Outcome.next.injEq] at ht; subst ht
  simp +contextual (maxDischargeDepth := 99) [hk]

theorem execHearthTransitDone_kept {k0 s : State} (hk : Kept k0 s) (h : HearthId) :
    ∀ {s1}, execHearthTransitDone h s = .next s1 → Kept k0 s1 := by
  intro s1 ht; unfold execHearthTransitDone at ht; simp only [Host.Outcome.next.injEq] at ht; subst ht
  try simp only
  repeat' (first | with_reducible assumption | split | (simp +contextual (maxDischargeDepth := 99) [*]; done) | (simp (maxDischargeDepth := 99) [State.load_ok ‹_› ‹_›]; done) | (simp (maxDischargeDepth := 99) [State.store_ok ‹_› ‹_›]; done) | with_reducible refine State.onTaken_kept (by with_reducible assumption) _ _ (fun b x hb => ?_) | with_reducible refine State.withRead_kept (by with_reducible assumption) _ _ (fun b r hb => ?_) | with_reducible refine State.withWrite_kept (by with_reducible assumption) _ _ (fun b r hb => ?_) | with_reducible refine kept_foldl (fun b x hb => ?_) ?_ | with_reducible refine kept_foldl_fst (fun b x hb => ?_) ?_ | with_reducible refine kept_foldl_snd (fun b x hb => ?_) ?_)

@[simp ↓] theorem State.saveGo_kept {k0 s : State} (hk : Kept k0 s) (p : Nat) :
    Kept k0 (s.saveGo p) := by
  unfold State.saveGo
  try dsimp only
  repeat' (first | with_reducible assumption | (simp +contextual (maxDischargeDepth := 99) [*]; done) | (simp (maxDischargeDepth := 99) [State.load_ok ‹_› ‹_›]; done) | (simp (maxDischargeDepth := 99) [State.store_ok ‹_› ‹_›]; done) | with_reducible refine State.onTaken_kept (by with_reducible assumption) _ _ (fun b x hb => ?_) | with_reducible refine State.withRead_kept (by with_reducible assumption) _ _ (fun b r hb => ?_) | with_reducible refine State.withWrite_kept (by with_reducible assumption) _ _ (fun b r hb => ?_) | with_reducible refine kept_foldl (fun b x hb => ?_) ?_ | with_reducible refine kept_foldl_fst (fun b x hb => ?_) ?_ | with_reducible refine kept_foldl_snd (fun b x hb => ?_) ?_ | split)

theorem execImageSave_kept {k0 s : State} (hk : Kept k0 s) (o : Origin) (p : PartId) :
    ∀ {s1}, execImageSave o p s = .next s1 → Kept k0 s1 := by
  intro s1 ht; unfold execImageSave at ht; simp only [Host.Outcome.next.injEq] at ht; subst ht
  simp +contextual (maxDischargeDepth := 99) [hk]

@[simp ↓] theorem State.imageEnd_kept {k0 s : State} (hk : Kept k0 s) (p result reason : Nat) :
    Kept k0 (s.imageEnd p result reason) := by
  unfold State.imageEnd
  simp +contextual (maxDischargeDepth := 99) [hk]

theorem State.storeImage_kept {k0 s : State} (hk : Kept k0 s) (p : Nat) (bytes : List Byte) :
    ∀ {t}, s.storeImage p bytes = .ok t → Kept k0 t := by
  unfold State.storeImage
  intro t ht
  split at ht
  · have h1 := State.store_ok ‹_› hk
    simp only [Except.ok.injEq] at ht
    subst ht
    exact State.bump_kept (State.setImages_kept (State.setFreeCtr_kept h1 _) _) _ _ _
  · cases ht
  · cases ht

theorem State.writeImage_kept {k0 s : State} (hk : Kept k0 s) (p : Nat) :
    ∀ {t}, s.writeImage p = .ok t → Kept k0 t := by
  exact State.storeImage_kept hk _ _

theorem execImageSaveDone_kept {k0 s : State} (hk : Kept k0 s) (p : PartId) (ok : Bool) :
    ∀ {s1}, execImageSaveDone p ok s = .next s1 → Kept k0 s1 := by
  intro s1 ht; unfold execImageSaveDone at ht; simp only [Host.Outcome.next.injEq] at ht; subst ht
  have hb : Kept k0 (s.setPt p.val { s.pt p.val with st := .frozen }) := State.setPt_kept hk _ _
  refine kept_ite hk (kept_ite (State.imageEnd_kept hb _ _ _) (kept_ite (kept_ite (State.imageEnd_kept hb _ _ _) hk)
    (kept_ite (State.imageEnd_kept hb _ _ _) ?_)))
  split
  · exact State.imageEnd_kept (State.writeImage_kept hb _ ‹_›) _ _ _
  · exact State.imageEnd_kept hb _ _ _

@[simp ↓] theorem State.restoreGo_kept {k0 s : State} (hk : Kept k0 s) (p : Nat) :
    Kept k0 (s.restoreGo p) := by
  unfold State.restoreGo
  repeat' (first | with_reducible assumption | (simp +contextual (maxDischargeDepth := 99) [*]; done) | (simp (maxDischargeDepth := 99) [State.load_ok ‹_› ‹_›]; done) | (simp (maxDischargeDepth := 99) [State.store_ok ‹_› ‹_›]; done) | with_reducible refine State.onTaken_kept (by with_reducible assumption) _ _ (fun b x hb => ?_) | with_reducible refine State.withRead_kept (by with_reducible assumption) _ _ (fun b r hb => ?_) | with_reducible refine State.withWrite_kept (by with_reducible assumption) _ _ (fun b r hb => ?_) | with_reducible refine kept_foldl (fun b x hb => ?_) ?_ | with_reducible refine kept_foldl_fst (fun b x hb => ?_) ?_ | with_reducible refine kept_foldl_snd (fun b x hb => ?_) ?_ | split)

theorem execImageRestore_kept {k0 s : State} (hk : Kept k0 s) (o : Origin) (p : PartId) :
    ∀ {s1}, execImageRestore o p s = .next s1 → Kept k0 s1 := by
  intro s1 ht; unfold execImageRestore at ht; simp only [Host.Outcome.next.injEq] at ht; subst ht
  simp +contextual (maxDischargeDepth := 99) [hk]

@[simp ↓] theorem State.restoreRegs_kept {k0 s : State} (hk : Kept k0 s) (p : Nat) (i : Image) :
    Kept k0 (s.restoreRegs p i) := by
  unfold State.restoreRegs
  simp +contextual (maxDischargeDepth := 99) [hk]

@[simp ↓] theorem State.freshNumbers_kept {k0 s : State} (hk : Kept k0 s) (total : Nat) (used olds : List Nat) :
    Kept k0 (s.freshNumbers total used olds).2 := by
  unfold State.freshNumbers
  simp +contextual (maxDischargeDepth := 99) [hk]

@[simp ↓] theorem State.restorePage_kept {k0 s : State} (hk : Kept k0 s) (p : Nat) (e : Nat × PageEnt) :
    Kept k0 (s.restorePage p e) := by
  unfold State.restorePage
  try dsimp only
  repeat' (first | with_reducible assumption | (simp +contextual (maxDischargeDepth := 99) [*]; done) | (simp (maxDischargeDepth := 99) [State.load_ok ‹_› ‹_›]; done) | (simp (maxDischargeDepth := 99) [State.store_ok ‹_› ‹_›]; done) | (simp (maxDischargeDepth := 99) [State.store_ok ‹_ = Except.ok _› (State.load_ok ‹_ = Except.ok (_, _)› ‹_›)]; done) | (simp (maxDischargeDepth := 99) [State.load_ok ‹State.load _ _ _ _ = Except.ok (_, _)› (State.load_ok ‹State.load _ _ _ _ = Except.ok (_, _)› ‹Kept _ _›)]; done) | (have hz := Kept.snd (a := k0) ‹_ = (_, _)› (by simp (maxDischargeDepth := 99) [‹Kept _ _›]); simp (maxDischargeDepth := 99) [hz]; done) | (simp +contextual (maxDischargeDepth := 99) [*, Mem.wf]; done) | with_reducible refine State.onTaken_kept (by with_reducible assumption) _ _ (fun b x hb => ?_) | with_reducible refine State.withWrite_kept (by with_reducible assumption) _ _ (fun b r hb => ?_) | with_reducible refine kept_foldl (fun b x hb => ?_) ?_ | with_reducible refine kept_foldl_fst (fun b x hb => ?_) ?_ | with_reducible refine kept_foldl_snd (fun b x hb => ?_) ?_ | split)

@[simp ↓] theorem State.regenEntries_kept {k0 s : State} (hk : Kept k0 s) (p : Nat) (pages : AMap KvPage) (old new : Nat) :
    Kept k0 (s.regenEntries p pages old new) := by
  unfold State.regenEntries
  simp +contextual (maxDischargeDepth := 99) [hk]

@[simp ↓] theorem State.remapOf_kept {k0 s : State} (hk : Kept k0 s) (i : Image) :
    Kept k0 (s.remapOf i).2 := by
  unfold State.remapOf
  simp +contextual (maxDischargeDepth := 99) [hk]

@[simp ↓] theorem State.restoreSlot_kept {k0 s : State} (hk : Kept k0 s) (p : Nat) (m : Remap) (e : Nat × Slot) :
    Kept k0 (s.restoreSlot p m e) := by
  unfold State.restoreSlot
  simp +contextual (maxDischargeDepth := 99) [hk]

@[simp ↓] theorem State.restoreHold_kept {k0 s : State} (hk : Kept k0 s) (p : Nat) (m : Remap) (e : Nat × Hold) :
    Kept k0 (s.restoreHold p m e) := by
  unfold State.restoreHold
  simp +contextual (maxDischargeDepth := 99) [hk]

@[simp ↓] theorem State.restoreInf_kept {k0 s : State} (hk : Kept k0 s) (p : Nat) (m : Remap) (e : Nat × InfSlot) :
    Kept k0 (s.restoreInf p m e) := by
  unfold State.restoreInf
  simp +contextual (maxDischargeDepth := 99) [hk]

@[simp ↓] theorem State.restoreWx_kept {k0 s : State} (hk : Kept k0 s) (p : Nat) (m : Remap) (e : Nat × WaxingSlot) :
    Kept k0 (s.restoreWx p m e) := by
  unfold State.restoreWx
  simp +contextual (maxDischargeDepth := 99) [hk]

@[simp ↓] theorem State.restoreOverlays_kept {k0 s : State} (hk : Kept k0 s) (p : Nat) (i : Image) :
    Kept k0 (s.restoreOverlays p i) := by
  unfold State.restoreOverlays
  simp +contextual (maxDischargeDepth := 99) [hk]

@[simp ↓] theorem State.applyImage_kept {k0 s : State} (hk : Kept k0 s) (p : Nat) (i : Image) (dua : Nat) :
    Kept k0 (s.applyImage p i dua) := by
  unfold State.applyImage
  simp +contextual (maxDischargeDepth := 99) [hk]

theorem execImageRestoreDone_kept {k0 s : State} (hk : Kept k0 s) (p : PartId) (chunksOk : Bool) :
    ∀ {s1}, execImageRestoreDone p chunksOk s = .next s1 → Kept k0 s1 := by
  intro s1 ht; unfold execImageRestoreDone at ht; simp only [Host.Outcome.next.injEq] at ht; subst ht
  repeat' (first | with_reducible assumption | (simp +contextual (maxDischargeDepth := 99) [*]; done) | (simp (maxDischargeDepth := 99) [State.load_ok ‹_› ‹_›]; done) | (simp (maxDischargeDepth := 99) [State.store_ok ‹_› ‹_›]; done) | with_reducible refine State.onTaken_kept (by with_reducible assumption) _ _ (fun b x hb => ?_) | with_reducible refine State.withRead_kept (by with_reducible assumption) _ _ (fun b r hb => ?_) | with_reducible refine State.withWrite_kept (by with_reducible assumption) _ _ (fun b r hb => ?_) | with_reducible refine kept_foldl (fun b x hb => ?_) ?_ | with_reducible refine kept_foldl_fst (fun b x hb => ?_) ?_ | with_reducible refine kept_foldl_snd (fun b x hb => ?_) ?_ | split)

@[simp ↓] theorem State.mapStatus_kept {k0 s : State} (hk : Kept k0 s) (p done reason : Nat) :
    Kept k0 (s.mapStatus p done reason) := by
  unfold State.mapStatus
  simp +contextual (maxDischargeDepth := 99) [hk]

@[simp ↓] theorem State.mapOne_kept {k0 s : State} (hk : Kept k0 s) (p : Nat) (r : MapReq) (page : Nat) :
    Kept k0 (s.mapOne p r page) := by
  unfold State.mapOne
  simp +contextual (maxDischargeDepth := 99) [hk]

@[simp ↓] theorem State.mapRun_kept {k0 s : State} (hk : Kept k0 s) (p : Nat) (r : MapReq) (l1 : Nat) :
    Kept k0 (s.mapRun p r l1) := by
  induction l1 generalizing s with
  | zero => simp (maxDischargeDepth := 9) [State.mapRun, hk]
  | succ n ih =>
    unfold State.mapRun
    dsimp only
    split
    · simp (maxDischargeDepth := 9) [hk]
    · split
      · simp [hk]
      · exact ih (by simp (maxDischargeDepth := 9) [hk])

@[simp ↓] theorem State.writeMapCtrl_kept {k0 s : State} (hk : Kept k0 s) (p : Nat) (v : Word) :
    Kept k0 (s.writeMapCtrl p v) := by
  unfold State.writeMapCtrl
  simp +contextual (maxDischargeDepth := 99) [hk]

theorem execMapGo_kept {k0 s : State} (hk : Kept k0 s) (o : Origin) (p : PartId) (v : Word) :
    ∀ {s1}, execMapGo o p v s = .next s1 → Kept k0 s1 := by
  intro s1 ht; unfold execMapGo at ht; simp only [Host.Outcome.next.injEq] at ht; subst ht
  simp +contextual (maxDischargeDepth := 99) [hk]

theorem execMapDone_kept {k0 s : State} (hk : Kept k0 s) (p : PartId) :
    ∀ {s1}, execMapDone p s = .next s1 → Kept k0 s1 := by
  intro s1 ht; unfold execMapDone at ht; simp only [Host.Outcome.next.injEq] at ht; subst ht
  repeat' (first | with_reducible assumption | (simp +contextual (maxDischargeDepth := 99) [*]; done) | (simp (maxDischargeDepth := 99) [State.load_ok ‹_› ‹_›]; done) | (simp (maxDischargeDepth := 99) [State.store_ok ‹_› ‹_›]; done) | with_reducible refine State.onTaken_kept (by with_reducible assumption) _ _ (fun b x hb => ?_) | with_reducible refine State.withRead_kept (by with_reducible assumption) _ _ (fun b r hb => ?_) | with_reducible refine State.withWrite_kept (by with_reducible assumption) _ _ (fun b r hb => ?_) | with_reducible refine kept_foldl (fun b x hb => ?_) ?_ | with_reducible refine kept_foldl_fst (fun b x hb => ?_) ?_ | with_reducible refine kept_foldl_snd (fun b x hb => ?_) ?_ | split)

@[simp ↓] theorem State.writeMb_kept {k0 s : State} (hk : Kept k0 s) (p off : Nat) (r : Req) (v : Word) :
    Kept k0 (s.writeMb p off r v) := by
  unfold State.writeMb
  simp +contextual (maxDischargeDepth := 99) [hk]

theorem execMbT2mProdWrite_kept {k0 s : State} (hk : Kept k0 s) (o : Origin) (p : PartId) (v : Word) :
    ∀ {s1}, execMbT2mProdWrite o p v s = .next s1 → Kept k0 s1 := by
  intro s1 ht; unfold execMbT2mProdWrite at ht; simp only [Host.Outcome.next.injEq] at ht; subst ht
  simp +contextual (maxDischargeDepth := 99) [hk]

theorem execMbM2tProdWrite_kept {k0 s : State} (hk : Kept k0 s) (o : Origin) (p : PartId) (v : Word) :
    ∀ {s1}, execMbM2tProdWrite o p v s = .next s1 → Kept k0 s1 := by
  intro s1 ht; unfold execMbM2tProdWrite at ht; simp only [Host.Outcome.next.injEq] at ht; subst ht
  simp +contextual (maxDischargeDepth := 99) [hk]

end Sys2Proof.Machine
end

