-- ==== Sys2Proof/Laws/Kept/Firebox.lean ====
section
/-!
SUPPORT. No operation of Machine/Firebox.lean breaks what `Kept` says.
-/

namespace Sys2Proof.Machine

@[simp ↓] theorem State.fbEnd_kept {k0 s : State} (hk : Kept k0 s) (reason : Nat) (handle : Option Nat) :
    Kept k0 (s.fbEnd reason handle) := by
  unfold State.fbEnd
  repeat' (first | with_reducible assumption | (simp +contextual (maxDischargeDepth := 99) [*]; done) | (simp (maxDischargeDepth := 99) [State.load_ok ‹_› ‹_›]; done) | (simp (maxDischargeDepth := 99) [State.store_ok ‹_› ‹_›]; done) | with_reducible refine State.onTaken_kept (by with_reducible assumption) _ _ (fun b x hb => ?_) | with_reducible refine State.withWrite_kept (by with_reducible assumption) _ _ (fun b r hb => ?_) | with_reducible refine kept_foldl (fun b x hb => ?_) ?_ | with_reducible refine kept_foldl_fst (fun b x hb => ?_) ?_ | with_reducible refine kept_foldl_snd (fun b x hb => ?_) ?_ | split)

@[simp ↓] theorem State.fbServe_kept {k0 s : State} (hk : Kept k0 s) (code : Nat) {f : State → FbReq → State}
    (hf : ∀ (b : State) (r : FbReq), Kept k0 b → Kept k0 (f b r)) : Kept k0 (s.fbServe code f) := by
  unfold State.fbServe
  split
  · exact hk
  · repeat' split
    all_goals first | exact hk | exact State.fbEnd_kept hk _ _ | exact hf _ _ hk

@[simp ↓] theorem State.refuseRandom_kept {k0 s : State} (hk : Kept k0 s) (l1 : Nat) :
    Kept k0 (s.refuseRandom l1) := by
  induction l1 generalizing s with
  | zero => exact hk
  | succ n ih =>
    unfold State.refuseRandom
    split
    · split
      · exact ih (by simp [hk])
      · exact hk
    · exact hk

theorem execFbRequestTimeout_kept {k0 s : State} (hk : Kept k0 s)  :
    ∀ {s1}, execFbRequestTimeout s = .next s1 → Kept k0 s1 := by
  intro s1 ht; unfold execFbRequestTimeout at ht; simp only [Host.Outcome.next.injEq] at ht; subst ht
  repeat' (first | with_reducible assumption | (simp +contextual (maxDischargeDepth := 99) [*]; done) | (simp (maxDischargeDepth := 99) [State.load_ok ‹_› ‹_›]; done) | (simp (maxDischargeDepth := 99) [State.store_ok ‹_› ‹_›]; done) | with_reducible refine State.onTaken_kept (by with_reducible assumption) _ _ (fun b x hb => ?_) | with_reducible refine State.withWrite_kept (by with_reducible assumption) _ _ (fun b r hb => ?_) | with_reducible refine kept_foldl (fun b x hb => ?_) ?_ | with_reducible refine kept_foldl_fst (fun b x hb => ?_) ?_ | with_reducible refine kept_foldl_snd (fun b x hb => ?_) ?_ | split)

@[simp ↓] theorem State.setSession_kept {k0 s : State} (hk : Kept k0 s) (n : Nat) (x : Option Session) :
    Kept k0 (s.setSession n x) := by
  unfold State.setSession
  simp +contextual (maxDischargeDepth := 99) [hk]

@[simp ↓] theorem State.withInput_kept {k0 s : State} (hk : Kept k0 s) (r : FbReq) (i : FbInput) {f : State → State}
    (hf : ∀ b : State, Kept k0 b → Kept k0 (f b)) : Kept k0 (s.withInput r i f) := by
  unfold State.withInput
  split
  · simp [hk]
  · simp [hk]
  · dsimp only
    split
    · exact hf _ (by simp [hk])
    · simp [hk]

@[simp ↓] theorem State.setBaseKey_kept {k0 s : State} (hk : Kept k0 s) (k : Option (BitVec 256)) :
    Kept k0 (s.setBaseKey k) := by
  unfold State.setBaseKey
  simp +contextual (maxDischargeDepth := 99) [hk]

@[simp ↓] theorem State.keyOp_kept {k0 s : State} (hk : Kept k0 s)  :
    Kept k0 (s.keyOp) := by
  unfold State.keyOp
  simp +contextual (maxDischargeDepth := 99) [hk]

@[simp ↓] theorem State.attest_kept {k0 s : State} (hk : Kept k0 s) (r : FbReq) :
    Kept k0 (s.attest r) := by
  unfold State.attest
  split
  · simp [hk]
  · simp [hk]
  · have h1 := State.load_ok ‹_› hk
    split
    · simp [hk]
    · have h2 := Kept.snd ‹_› (State.pickOf_kept h1 _)
      have h3 := State.draw_kept h2
      dsimp only
      split
      · simp [hk]
      · split
        · simp [hk]
        · simp [hk]
        · have h4 := State.store_ok ‹_› h3
          simp (maxDischargeDepth := 9) [h4]

theorem execAttest_kept {k0 s : State} (hk : Kept k0 s)  :
    ∀ {s1}, execAttest s = .next s1 → Kept k0 s1 := by
  intro s1 ht; unfold execAttest at ht; simp only [Host.Outcome.next.injEq] at ht; subst ht
  simp +contextual (maxDischargeDepth := 99) [hk]

theorem execSessionExpiry_kept {k0 s : State} (hk : Kept k0 s) (session : Fin 16) :
    ∀ {s1}, execSessionExpiry session s = .next s1 → Kept k0 s1 := by
  intro s1 ht; unfold execSessionExpiry at ht; simp only [Host.Outcome.next.injEq] at ht; subst ht
  repeat' (first | with_reducible assumption | (simp +contextual (maxDischargeDepth := 99) [*]; done) | (simp (maxDischargeDepth := 99) [State.load_ok ‹_› ‹_›]; done) | (simp (maxDischargeDepth := 99) [State.store_ok ‹_› ‹_›]; done) | with_reducible refine State.onTaken_kept (by with_reducible assumption) _ _ (fun b x hb => ?_) | with_reducible refine State.withWrite_kept (by with_reducible assumption) _ _ (fun b r hb => ?_) | with_reducible refine kept_foldl (fun b x hb => ?_) ?_ | with_reducible refine kept_foldl_fst (fun b x hb => ?_) ?_ | with_reducible refine kept_foldl_snd (fun b x hb => ?_) ?_ | split)

@[simp ↓] theorem State.openBase_kept {k0 s : State} (hk : Kept k0 s) (m : Manifest) (k : BitVec 256) :
    Kept k0 (s.openBase m k) := by
  unfold State.openBase
  simp +contextual (maxDischargeDepth := 99) [hk]

@[simp ↓] theorem State.installOpen_kept {k0 s : State} (hk : Kept k0 s) (i : FbInput) :
    Kept k0 (s.installOpen i) := by
  unfold State.installOpen
  repeat' (first | with_reducible assumption | (simp +contextual (maxDischargeDepth := 99) [*]; done) | (simp (maxDischargeDepth := 99) [State.load_ok ‹_› ‹_›]; done) | (simp (maxDischargeDepth := 99) [State.store_ok ‹_› ‹_›]; done) | with_reducible refine State.onTaken_kept (by with_reducible assumption) _ _ (fun b x hb => ?_) | with_reducible refine State.withWrite_kept (by with_reducible assumption) _ _ (fun b r hb => ?_) | with_reducible refine kept_foldl (fun b x hb => ?_) ?_ | with_reducible refine kept_foldl_fst (fun b x hb => ?_) ?_ | with_reducible refine kept_foldl_snd (fun b x hb => ?_) ?_ | split)

theorem execInstallOpen_kept {k0 s : State} (hk : Kept k0 s) (input : FbInput) :
    ∀ {s1}, execInstallOpen input s = .next s1 → Kept k0 s1 := by
  intro s1 ht; unfold execInstallOpen at ht; simp only [Host.Outcome.next.injEq] at ht; subst ht
  simp +contextual (maxDischargeDepth := 99) [hk]

@[simp ↓] theorem State.installClose_kept {k0 s : State} (hk : Kept k0 s)  :
    Kept k0 (s.installClose) := by
  unfold State.installClose
  simp +contextual (maxDischargeDepth := 99) [hk]

theorem execInstallClose_kept {k0 s : State} (hk : Kept k0 s)  :
    ∀ {s1}, execInstallClose s = .next s1 → Kept k0 s1 := by
  intro s1 ht; unfold execInstallClose at ht; simp only [Host.Outcome.next.injEq] at ht; subst ht
  simp +contextual (maxDischargeDepth := 99) [hk]

@[simp ↓] theorem State.mcIssues_kept {k0 s : State} (hk : Kept k0 s)  :
    Kept k0 (s.mcIssues) := by
  unfold State.mcIssues
  simp +contextual (maxDischargeDepth := 99) [hk]

@[simp ↓] theorem State.keyRelease_kept {k0 s : State} (hk : Kept k0 s) (k : BitVec 256) :
    Kept k0 (s.keyRelease k) := by
  unfold State.keyRelease
  repeat' (first | with_reducible assumption | (simp +contextual (maxDischargeDepth := 99) [*]; done) | (simp (maxDischargeDepth := 99) [State.load_ok ‹_› ‹_›]; done) | (simp (maxDischargeDepth := 99) [State.store_ok ‹_› ‹_›]; done) | with_reducible refine State.onTaken_kept (by with_reducible assumption) _ _ (fun b x hb => ?_) | with_reducible refine State.withWrite_kept (by with_reducible assumption) _ _ (fun b r hb => ?_) | with_reducible refine kept_foldl (fun b x hb => ?_) ?_ | with_reducible refine kept_foldl_fst (fun b x hb => ?_) ?_ | with_reducible refine kept_foldl_snd (fun b x hb => ?_) ?_ | split)

theorem execKeyRelease_kept {k0 s : State} (hk : Kept k0 s) (input : FbInput) :
    ∀ {s1}, execKeyRelease input s = .next s1 → Kept k0 s1 := by
  intro s1 ht; unfold execKeyRelease at ht; simp only [Host.Outcome.next.injEq] at ht; subst ht
  simp +contextual (maxDischargeDepth := 99) [hk]

@[simp ↓] theorem State.unwrapBase_kept {k0 s : State} (hk : Kept k0 s)  :
    Kept k0 (s.unwrapBase) := by
  unfold State.unwrapBase
  repeat' (first | with_reducible assumption | (simp +contextual (maxDischargeDepth := 99) [*]; done) | (simp (maxDischargeDepth := 99) [State.load_ok ‹_› ‹_›]; done) | (simp (maxDischargeDepth := 99) [State.store_ok ‹_› ‹_›]; done) | with_reducible refine State.onTaken_kept (by with_reducible assumption) _ _ (fun b x hb => ?_) | with_reducible refine State.withWrite_kept (by with_reducible assumption) _ _ (fun b r hb => ?_) | with_reducible refine kept_foldl (fun b x hb => ?_) ?_ | with_reducible refine kept_foldl_fst (fun b x hb => ?_) ?_ | with_reducible refine kept_foldl_snd (fun b x hb => ?_) ?_ | split)

@[simp ↓] theorem State.setKey_kept {k0 s : State} (hk : Kept k0 s) (i : Nat) (k : KeyEnt) :
    Kept k0 (s.setKey i k) := by
  unfold State.setKey
  simp +contextual (maxDischargeDepth := 99) [hk]

@[simp ↓] theorem State.keyPlace_kept {k0 s : State} (hk : Kept k0 s) (out : Bool) (account : Nat) :
    Kept k0 (s.keyPlace out account).2 := by
  unfold State.keyPlace
  split <;> simp [hk]

theorem State.installKey_kept {k0 s : State} (hk : Kept k0 s) (out : Bool) (account : Nat) (k : BitVec 256) :
    ∀ {x t}, s.installKey out account k = .ok (x, t) → Kept k0 t := by
  unfold State.installKey
  intro x t ht
  split at ht
  · cases ht
  · split at ht
    · cases ht
    · have h1 := Kept.snd ‹_› (State.keyPlace_kept hk _ _)
      cases ht
      simp (maxDischargeDepth := 9) [h1]

@[simp ↓] theorem State.keyEnd_kept {k0 s : State} (hk : Kept k0 s) {x : Except Nat (Nat × State)}
    (hx : ∀ {h t}, x = .ok (h, t) → Kept k0 t) : Kept k0 (s.keyEnd x) := by
  unfold State.keyEnd
  split
  · simp [hx rfl]
  · simp [hk]

theorem execAccountKeySet_kept {k0 s : State} (hk : Kept k0 s) (input : FbInput) :
    ∀ {s1}, execAccountKeySet input s = .next s1 → Kept k0 s1 := by
  intro s1 ht; unfold execAccountKeySet at ht; simp only [Host.Outcome.next.injEq] at ht; subst ht
  exact State.fbServe_kept hk _ (fun _ _ h => State.withInput_kept h _ _ (fun _ h => State.keyEnd_kept h (State.installKey_kept h _ _ _)))

theorem execAccountKeyCreate_kept {k0 s : State} (hk : Kept k0 s)  :
    ∀ {s1}, execAccountKeyCreate s = .next s1 → Kept k0 s1 := by
  intro s1 ht; unfold execAccountKeyCreate at ht; simp only [Host.Outcome.next.injEq] at ht; subst ht
  exact State.fbServe_kept hk _ (fun _ _ h => State.keyEnd_kept h (State.installKey_kept (State.draw_kept h) _ _ _))

theorem execExportKeySet_kept {k0 s : State} (hk : Kept k0 s) (input : FbInput) :
    ∀ {s1}, execExportKeySet input s = .next s1 → Kept k0 s1 := by
  intro s1 ht; unfold execExportKeySet at ht; simp only [Host.Outcome.next.injEq] at ht; subst ht
  exact State.fbServe_kept hk _ (fun _ _ h => State.withInput_kept h _ _ (fun _ h => State.keyEnd_kept h (State.installKey_kept h _ _ _)))

@[simp ↓] theorem State.keyDelete_kept {k0 s : State} (hk : Kept k0 s) (h : Nat) :
    Kept k0 (s.keyDelete h) := by
  unfold State.keyDelete
  repeat' (first | with_reducible assumption | (simp +contextual (maxDischargeDepth := 99) [*]; done) | (simp (maxDischargeDepth := 99) [State.load_ok ‹_› ‹_›]; done) | (simp (maxDischargeDepth := 99) [State.store_ok ‹_› ‹_›]; done) | with_reducible refine State.onTaken_kept (by with_reducible assumption) _ _ (fun b x hb => ?_) | with_reducible refine State.withWrite_kept (by with_reducible assumption) _ _ (fun b r hb => ?_) | with_reducible refine kept_foldl (fun b x hb => ?_) ?_ | with_reducible refine kept_foldl_fst (fun b x hb => ?_) ?_ | with_reducible refine kept_foldl_snd (fun b x hb => ?_) ?_ | split)

theorem execKeyDelete_kept {k0 s : State} (hk : Kept k0 s)  :
    ∀ {s1}, execKeyDelete s = .next s1 → Kept k0 s1 := by
  intro s1 ht; unfold execKeyDelete at ht; simp only [Host.Outcome.next.injEq] at ht; subst ht
  simp +contextual (maxDischargeDepth := 99) [hk]

@[simp ↓] theorem State.sendKey_kept {k0 s : State} (hk : Kept k0 s) (r : FbReq) (p : PeerReport) :
    Kept k0 (s.sendKey r p) := by
  unfold State.sendKey
  repeat' (first | with_reducible assumption | (simp +contextual (maxDischargeDepth := 99) [*]; done) | (simp (maxDischargeDepth := 99) [State.load_ok ‹_› ‹_›]; done) | (simp (maxDischargeDepth := 99) [State.store_ok ‹_› ‹_›]; done) | with_reducible refine State.onTaken_kept (by with_reducible assumption) _ _ (fun b x hb => ?_) | with_reducible refine State.withWrite_kept (by with_reducible assumption) _ _ (fun b r hb => ?_) | with_reducible refine kept_foldl (fun b x hb => ?_) ?_ | with_reducible refine kept_foldl_fst (fun b x hb => ?_) ?_ | with_reducible refine kept_foldl_snd (fun b x hb => ?_) ?_ | split)

theorem execKeyTransfer_kept {k0 s : State} (hk : Kept k0 s) (report : PeerReport) :
    ∀ {s1}, execKeyTransfer report s = .next s1 → Kept k0 s1 := by
  intro s1 ht; unfold execKeyTransfer at ht; simp only [Host.Outcome.next.injEq] at ht; subst ht
  simp +contextual (maxDischargeDepth := 99) [hk]

theorem execPeerKeyReceived_kept {k0 s : State} (hk : Kept k0 s) (k : PeerKey) :
    ∀ {s1}, execPeerKeyReceived k s = .next s1 → Kept k0 s1 := by
  intro s1 ht; unfold execPeerKeyReceived at ht; simp only [Host.Outcome.next.injEq] at ht; subst ht
  refine kept_ite hk (kept_ite (by simp [hk]) (kept_ite ?_ (by simp [hk])))
  split
  · exact State.installKey_kept hk _ _ _ ‹_›
  · exact hk

@[simp ↓] theorem State.regionSet_kept {k0 s : State} (hk : Kept k0 s) (a : RegionArgs) :
    Kept k0 (s.regionSet a) := by
  unfold State.regionSet
  refine kept_ite (by simp [hk]) (kept_ite (by simp [hk]) (kept_ite (by simp [hk]) ?_))
  split
  · refine kept_ite (by simp [hk]) ?_
    split
    · simp [hk]
    · have h1 := Kept.snd ‹_› (State.pickOf_kept hk _)
      simp (maxDischargeDepth := 9) [h1]
  · exact kept_ite (by simp [hk]) (kept_ite (by simp [hk]) (by simp [hk]))

theorem execRegionSet_kept {k0 s : State} (hk : Kept k0 s) (r : RegionArgs) :
    ∀ {s1}, execRegionSet r s = .next s1 → Kept k0 s1 := by
  intro s1 ht; unfold execRegionSet at ht; simp only [Host.Outcome.next.injEq] at ht; subst ht
  simp +contextual (maxDischargeDepth := 99) [hk]

@[simp ↓] theorem State.floorCommit_kept {k0 s : State} (hk : Kept k0 s) (t : Nat) :
    Kept k0 (s.floorCommit t) := by
  unfold State.floorCommit
  simp +contextual (maxDischargeDepth := 99) [hk]

theorem execFloorCommit_kept {k0 s : State} (hk : Kept k0 s)  :
    ∀ {s1}, execFloorCommit s = .next s1 → Kept k0 s1 := by
  intro s1 ht; unfold execFloorCommit at ht; simp only [Host.Outcome.next.injEq] at ht; subst ht
  simp +contextual (maxDischargeDepth := 99) [hk]

@[simp ↓] theorem State.trngFail_kept {k0 s : State} (hk : Kept k0 s)  :
    Kept k0 (s.trngFail) := by
  unfold State.trngFail
  simp +contextual (maxDischargeDepth := 99) [hk]

theorem execTrngStart_kept {k0 s : State} (hk : Kept k0 s)  :
    ∀ {s1}, execTrngStart s = .next s1 → Kept k0 s1 := by
  intro s1 ht; unfold execTrngStart at ht; simp only [Host.Outcome.next.injEq] at ht; subst ht
  simp +contextual (maxDischargeDepth := 99) [hk]

theorem execTrngTestsDone_kept {k0 s : State} (hk : Kept k0 s) (pass : Bool) :
    ∀ {s1}, execTrngTestsDone pass s = .next s1 → Kept k0 s1 := by
  intro s1 ht; unfold execTrngTestsDone at ht; simp only [Host.Outcome.next.injEq] at ht; subst ht
  simp +contextual (maxDischargeDepth := 99) [hk]

@[simp ↓] theorem State.openDebug_kept {k0 s : State} (hk : Kept k0 s)  :
    Kept k0 (s.openDebug) := by
  unfold State.openDebug
  simp +contextual (maxDischargeDepth := 99) [hk]

theorem execTrngConditioned_kept {k0 s : State} (hk : Kept k0 s)  :
    ∀ {s1}, execTrngConditioned s = .next s1 → Kept k0 s1 := by
  intro s1 ht; unfold execTrngConditioned at ht; simp only [Host.Outcome.next.injEq] at ht; subst ht
  simp +contextual (maxDischargeDepth := 99) [hk]

theorem execTrngContinuousFail_kept {k0 s : State} (hk : Kept k0 s)  :
    ∀ {s1}, execTrngContinuousFail s = .next s1 → Kept k0 s1 := by
  intro s1 ht; unfold execTrngContinuousFail at ht; simp only [Host.Outcome.next.injEq] at ht; subst ht
  simp +contextual (maxDischargeDepth := 99) [hk]

theorem execDebugUnlock_kept {k0 s : State} (hk : Kept k0 s) (tokenOk : Bool) :
    ∀ {s1}, execDebugUnlock tokenOk s = .next s1 → Kept k0 s1 := by
  intro s1 ht; unfold execDebugUnlock at ht; simp only [Host.Outcome.next.injEq] at ht; subst ht
  simp +contextual (maxDischargeDepth := 99) [hk]

end Sys2Proof.Machine
end

