-- ==== Sys2Proof/Laws/Kept/Recovery.lean ====
section
/-!
SUPPORT. No operation of Machine/Recovery.lean breaks what `Kept` says.
-/

namespace Sys2Proof.Machine

@[simp ↓] theorem State.writeResetCtrl_kept {k0 s : State} (hk : Kept k0 s) (v : Word) :
    Kept k0 (s.writeResetCtrl v) := by
  unfold State.writeResetCtrl
  simp +contextual (maxDischargeDepth := 99) [hk]

theorem execResetRequest_kept {k0 s : State} (hk : Kept k0 s) (o : Option Origin) (domain cause : Nat) :
    ∀ {s1}, execResetRequest o domain cause s = .next s1 → Kept k0 s1 := by
  intro s1 ht; unfold execResetRequest at ht; simp only [Host.Outcome.next.injEq] at ht; subst ht
  repeat' (first | with_reducible assumption | (simp +contextual (maxDischargeDepth := 99) [*]; done) | (simp (maxDischargeDepth := 99) [State.load_ok ‹_› ‹_›]; done) | (simp (maxDischargeDepth := 99) [State.store_ok ‹_› ‹_›]; done) | with_reducible refine State.onTaken_kept (by with_reducible assumption) _ _ (fun b x hb => ?_) | with_reducible refine State.withRead_kept (by with_reducible assumption) _ _ (fun b r hb => ?_) | with_reducible refine State.withWrite_kept (by with_reducible assumption) _ _ (fun b r hb => ?_) | with_reducible refine kept_foldl (fun b x hb => ?_) ?_ | with_reducible refine kept_foldl_fst (fun b x hb => ?_) ?_ | with_reducible refine kept_foldl_snd (fun b x hb => ?_) ?_ | split)

theorem execDamperDrainTimeout_kept {k0 s : State} (hk : Kept k0 s) (domain : Nat) :
    ∀ {s1}, execDamperDrainTimeout domain s = .next s1 → Kept k0 s1 := by
  intro s1 ht; unfold execDamperDrainTimeout at ht; simp only [Host.Outcome.next.injEq] at ht; subst ht
  repeat' (first | with_reducible assumption | (simp +contextual (maxDischargeDepth := 99) [*]; done) | (simp (maxDischargeDepth := 99) [State.load_ok ‹_› ‹_›]; done) | (simp (maxDischargeDepth := 99) [State.store_ok ‹_› ‹_›]; done) | with_reducible refine State.onTaken_kept (by with_reducible assumption) _ _ (fun b x hb => ?_) | with_reducible refine State.withRead_kept (by with_reducible assumption) _ _ (fun b r hb => ?_) | with_reducible refine State.withWrite_kept (by with_reducible assumption) _ _ (fun b r hb => ?_) | with_reducible refine kept_foldl (fun b x hb => ?_) ?_ | with_reducible refine kept_foldl_fst (fun b x hb => ?_) ?_ | with_reducible refine kept_foldl_snd (fun b x hb => ?_) ?_ | split)

theorem execDomainRelease_kept {k0 s : State} (hk : Kept k0 s) (domain : Nat) :
    ∀ {s1}, execDomainRelease domain s = .next s1 → Kept k0 s1 := by
  intro s1 ht; unfold execDomainRelease at ht; simp only [Host.Outcome.next.injEq] at ht; subst ht
  simp +contextual (maxDischargeDepth := 99) [hk]

@[simp ↓] theorem State.loseHost_kept {k0 s : State} (hk : Kept k0 s)  :
    Kept k0 (s.loseHost) := by
  unfold State.loseHost
  simp +contextual (maxDischargeDepth := 99) [hk]

theorem execUncorrectableError_kept {k0 s : State} (hk : Kept k0 s) (e : ErrSite) :
    ∀ {s1}, execUncorrectableError e s = .next s1 → Kept k0 s1 := by
  intro s1 ht; unfold execUncorrectableError at ht; simp only [Host.Outcome.next.injEq] at ht; subst ht
  repeat' (first | with_reducible assumption | (simp +contextual (maxDischargeDepth := 99) [*]; done) | (simp (maxDischargeDepth := 99) [State.load_ok ‹_› ‹_›]; done) | (simp (maxDischargeDepth := 99) [State.store_ok ‹_› ‹_›]; done) | with_reducible refine State.onTaken_kept (by with_reducible assumption) _ _ (fun b x hb => ?_) | with_reducible refine State.withRead_kept (by with_reducible assumption) _ _ (fun b r hb => ?_) | with_reducible refine State.withWrite_kept (by with_reducible assumption) _ _ (fun b r hb => ?_) | with_reducible refine kept_foldl (fun b x hb => ?_) ?_ | with_reducible refine kept_foldl_fst (fun b x hb => ?_) ?_ | with_reducible refine kept_foldl_snd (fun b x hb => ?_) ?_ | split)

theorem execCorrectableError_kept {k0 s : State} (hk : Kept k0 s) (slice : Option (Fin 8)) :
    ∀ {s1}, execCorrectableError s slice = .next s1 → Kept k0 s1 := by
  intro s1 ht; unfold execCorrectableError at ht; simp only [Host.Outcome.next.injEq] at ht; subst ht
  repeat' (first | with_reducible assumption | (simp +contextual (maxDischargeDepth := 99) [*]; done) | (simp (maxDischargeDepth := 99) [State.load_ok ‹_› ‹_›]; done) | (simp (maxDischargeDepth := 99) [State.store_ok ‹_› ‹_›]; done) | (simp (maxDischargeDepth := 99) [State.store_ok ‹_ = Except.ok _› (State.load_ok ‹_ = Except.ok (_, _)› ‹_›)]; done) | (simp (maxDischargeDepth := 99) [State.load_ok ‹State.load _ _ _ _ = Except.ok (_, _)› (State.load_ok ‹State.load _ _ _ _ = Except.ok (_, _)› ‹Kept _ _›)]; done) | (have hz := Kept.snd (a := k0) ‹_ = (_, _)› (by simp (maxDischargeDepth := 99) [‹Kept _ _›]); simp (maxDischargeDepth := 99) [hz]; done) | (simp +contextual (maxDischargeDepth := 99) [*, Mem.wf]; done) | with_reducible refine State.onTaken_kept (by with_reducible assumption) _ _ (fun b x hb => ?_) | with_reducible refine State.withWrite_kept (by with_reducible assumption) _ _ (fun b r hb => ?_) | with_reducible refine kept_foldl (fun b x hb => ?_) ?_ | with_reducible refine kept_foldl_fst (fun b x hb => ?_) ?_ | with_reducible refine kept_foldl_snd (fun b x hb => ?_) ?_ | split)

theorem execTeardownWatchdog_kept {k0 s : State} (hk : Kept k0 s) (eng : Fin 5) (p : PartId) :
    ∀ {s1}, execTeardownWatchdog eng p s = .next s1 → Kept k0 s1 := by
  intro s1 ht; unfold execTeardownWatchdog at ht; simp only [Host.Outcome.next.injEq] at ht; subst ht
  simp +contextual (maxDischargeDepth := 99) [hk]

theorem execHearthSelftestFail_kept {k0 s : State} (hk : Kept k0 s) (h : HearthId) :
    ∀ {s1}, execHearthSelftestFail h s = .next s1 → Kept k0 s1 := by
  intro s1 ht; unfold execHearthSelftestFail at ht; simp only [Host.Outcome.next.injEq] at ht; subst ht
  simp +contextual (maxDischargeDepth := 99) [hk]

@[simp ↓] theorem State.writeSemCfg_kept {k0 s : State} (hk : Kept k0 s) (v : Word) :
    Kept k0 (s.writeSemCfg v) := by
  unfold State.writeSemCfg
  simp +contextual (maxDischargeDepth := 99) [hk]

theorem execSemCfgWrite_kept {k0 s : State} (hk : Kept k0 s) (o : Origin) (v : Word) :
    ∀ {s1}, execSemCfgWrite o v s = .next s1 → Kept k0 s1 := by
  intro s1 ht; unfold execSemCfgWrite at ht; simp only [Host.Outcome.next.injEq] at ht; subst ht
  simp +contextual (maxDischargeDepth := 99) [hk]

theorem execHostLinkDrop_kept {k0 s : State} (hk : Kept k0 s)  :
    ∀ {s1}, execHostLinkDrop s = .next s1 → Kept k0 s1 := by
  intro s1 ht; unfold execHostLinkDrop at ht; simp only [Host.Outcome.next.injEq] at ht; subst ht
  simp +contextual (maxDischargeDepth := 99) [hk]

@[simp ↓] theorem State.heartbeat_kept {k0 s : State} (hk : Kept k0 s)  :
    Kept k0 (s.heartbeat) := by
  unfold State.heartbeat
  simp +contextual (maxDischargeDepth := 99) [hk]

theorem execHostHbWrite_kept {k0 s : State} (hk : Kept k0 s) (o : Origin) :
    ∀ {s1}, execHostHbWrite o s = .next s1 → Kept k0 s1 := by
  intro s1 ht; unfold execHostHbWrite at ht; simp only [Host.Outcome.next.injEq] at ht; subst ht
  simp +contextual (maxDischargeDepth := 99) [hk]

theorem execHeartbeatTimeout_kept {k0 s : State} (hk : Kept k0 s)  :
    ∀ {s1}, execHeartbeatTimeout s = .next s1 → Kept k0 s1 := by
  intro s1 ht; unfold execHeartbeatTimeout at ht; simp only [Host.Outcome.next.injEq] at ht; subst ht
  simp +contextual (maxDischargeDepth := 99) [hk]

theorem execBankingComplete_kept {k0 s : State} (hk : Kept k0 s)  :
    ∀ {s1}, execBankingComplete s = .next s1 → Kept k0 s1 := by
  intro s1 ht; unfold execBankingComplete at ht; simp only [Host.Outcome.next.injEq] at ht; subst ht
  simp +contextual (maxDischargeDepth := 99) [hk]

@[simp ↓] theorem State.bindPasids_kept {k0 s : State} (hk : Kept k0 s)  :
    Kept k0 (s.bindPasids) := by
  unfold State.bindPasids
  simp +contextual (maxDischargeDepth := 99) [hk]

@[simp ↓] theorem State.dropCoherent_kept {k0 s : State} (hk : Kept k0 s)  :
    Kept k0 (s.dropCoherent) := by
  unfold State.dropCoherent
  try dsimp only
  repeat' (first | with_reducible assumption | (simp +contextual (maxDischargeDepth := 99) [*]; done) | (simp (maxDischargeDepth := 99) [State.load_ok ‹_› ‹_›]; done) | (simp (maxDischargeDepth := 99) [State.store_ok ‹_› ‹_›]; done) | (simp (maxDischargeDepth := 99) [State.store_ok ‹_ = Except.ok _› (State.load_ok ‹_ = Except.ok (_, _)› ‹_›)]; done) | (simp (maxDischargeDepth := 99) [State.load_ok ‹State.load _ _ _ _ = Except.ok (_, _)› (State.load_ok ‹State.load _ _ _ _ = Except.ok (_, _)› ‹Kept _ _›)]; done) | (have hz := Kept.snd (a := k0) ‹_ = (_, _)› (by simp (maxDischargeDepth := 99) [‹Kept _ _›]); simp (maxDischargeDepth := 99) [hz]; done) | (simp +contextual (maxDischargeDepth := 99) [*, Mem.wf]; done) | with_reducible refine State.onTaken_kept (by with_reducible assumption) _ _ (fun b x hb => ?_) | with_reducible refine State.withWrite_kept (by with_reducible assumption) _ _ (fun b r hb => ?_) | with_reducible refine kept_foldl (fun b x hb => ?_) ?_ | with_reducible refine kept_foldl_fst (fun b x hb => ?_) ?_ | with_reducible refine kept_foldl_snd (fun b x hb => ?_) ?_ | split)

@[simp ↓] theorem State.stopQueues_kept {k0 s : State} (hk : Kept k0 s)  :
    Kept k0 (s.stopQueues) := by
  unfold State.stopQueues
  simp +contextual (maxDischargeDepth := 99) [hk]

@[simp ↓] theorem State.bankPolicy_kept {k0 s : State} (hk : Kept k0 s) (p : Nat) :
    Kept k0 (s.bankPolicy p) := by
  unfold State.bankPolicy
  repeat' (first | with_reducible assumption | (simp +contextual (maxDischargeDepth := 99) [*]; done) | (simp (maxDischargeDepth := 99) [State.load_ok ‹_› ‹_›]; done) | (simp (maxDischargeDepth := 99) [State.store_ok ‹_› ‹_›]; done) | with_reducible refine State.onTaken_kept (by with_reducible assumption) _ _ (fun b x hb => ?_) | with_reducible refine State.withRead_kept (by with_reducible assumption) _ _ (fun b r hb => ?_) | with_reducible refine State.withWrite_kept (by with_reducible assumption) _ _ (fun b r hb => ?_) | with_reducible refine kept_foldl (fun b x hb => ?_) ?_ | with_reducible refine kept_foldl_fst (fun b x hb => ?_) ?_ | with_reducible refine kept_foldl_snd (fun b x hb => ?_) ?_ | split)

@[simp ↓] theorem State.adopt_kept {k0 s : State} (hk : Kept k0 s)  :
    Kept k0 (s.adopt) := by
  unfold State.adopt
  simp +contextual (maxDischargeDepth := 99) [hk]

@[simp ↓] theorem State.writeAdopt_kept {k0 s : State} (hk : Kept k0 s) (v : Word) :
    Kept k0 (s.writeAdopt v) := by
  unfold State.writeAdopt
  simp +contextual (maxDischargeDepth := 99) [hk]

theorem execAdoptGo_kept {k0 s : State} (hk : Kept k0 s) (o : Origin) (v : Word) :
    ∀ {s1}, execAdoptGo o v s = .next s1 → Kept k0 s1 := by
  intro s1 ht; unfold execAdoptGo at ht; simp only [Host.Outcome.next.injEq] at ht; subst ht
  simp +contextual (maxDischargeDepth := 99) [hk]

@[simp ↓] theorem State.fallBack_kept {k0 s : State} (hk : Kept k0 s) (reason : Nat) :
    Kept k0 (s.fallBack reason) := by
  unfold State.fallBack
  simp +contextual (maxDischargeDepth := 99) [hk]

@[simp ↓] theorem State.loadBundle_kept {k0 s : State} (hk : Kept k0 s)  :
    Kept k0 (s.loadBundle) := by
  unfold State.loadBundle
  try dsimp only
  repeat' (first | with_reducible assumption | (simp +contextual (maxDischargeDepth := 99) [*]; done) | (simp (maxDischargeDepth := 99) [State.load_ok ‹_› ‹_›]; done) | (simp (maxDischargeDepth := 99) [State.store_ok ‹_› ‹_›]; done) | (simp (maxDischargeDepth := 99) [State.store_ok ‹_ = Except.ok _› (State.load_ok ‹_ = Except.ok (_, _)› ‹_›)]; done) | (simp (maxDischargeDepth := 99) [State.load_ok ‹State.load _ _ _ _ = Except.ok (_, _)› (State.load_ok ‹State.load _ _ _ _ = Except.ok (_, _)› ‹Kept _ _›)]; done) | (have hz := Kept.snd (a := k0) ‹_ = (_, _)› (by simp (maxDischargeDepth := 99) [‹Kept _ _›]); simp (maxDischargeDepth := 99) [hz]; done) | (simp +contextual (maxDischargeDepth := 99) [*, Mem.wf]; done) | with_reducible refine State.onTaken_kept (by with_reducible assumption) _ _ (fun b x hb => ?_) | with_reducible refine State.withWrite_kept (by with_reducible assumption) _ _ (fun b r hb => ?_) | with_reducible refine kept_foldl (fun b x hb => ?_) ?_ | with_reducible refine kept_foldl_fst (fun b x hb => ?_) ?_ | with_reducible refine kept_foldl_snd (fun b x hb => ?_) ?_ | split)

@[simp ↓] theorem State.mcUp_kept {k0 s : State} (hk : Kept k0 s)  :
    Kept k0 (s.mcUp) := by
  unfold State.mcUp
  simp +contextual (maxDischargeDepth := 99) [hk]

@[simp ↓] theorem State.boot_kept {k0 s : State} (hk : Kept k0 s) (up : Bool) :
    Kept k0 (s.boot up) := by
  unfold State.boot
  simp +contextual (maxDischargeDepth := 99) [hk]

theorem execMcBoot_kept {k0 s : State} (hk : Kept k0 s)  :
    ∀ {s1}, execMcBoot s = .next s1 → Kept k0 s1 := by
  intro s1 ht; unfold execMcBoot at ht; simp only [Host.Outcome.next.injEq] at ht; subst ht
  simp +contextual (maxDischargeDepth := 99) [hk]

theorem execBootTimeout_kept {k0 s : State} (hk : Kept k0 s)  :
    ∀ {s1}, execBootTimeout s = .next s1 → Kept k0 s1 := by
  intro s1 ht; unfold execBootTimeout at ht; simp only [Host.Outcome.next.injEq] at ht; subst ht
  simp +contextual (maxDischargeDepth := 99) [hk]

@[simp ↓] theorem State.commitFw_kept {k0 s : State} (hk : Kept k0 s)  :
    Kept k0 (s.commitFw) := by
  unfold State.commitFw
  simp +contextual (maxDischargeDepth := 99) [hk]

@[simp ↓] theorem State.switchFw_kept {k0 s : State} (hk : Kept k0 s)  :
    Kept k0 (s.switchFw) := by
  unfold State.switchFw
  simp +contextual (maxDischargeDepth := 99) [hk]

theorem execFwCommit_kept {k0 s : State} (hk : Kept k0 s) (o : Origin) :
    ∀ {s1}, execFwCommit o s = .next s1 → Kept k0 s1 := by
  intro s1 ht; unfold execFwCommit at ht; simp only [Host.Outcome.next.injEq] at ht; subst ht
  simp +contextual (maxDischargeDepth := 99) [hk]

theorem execFwSwitch_kept {k0 s : State} (hk : Kept k0 s) (o : Origin) :
    ∀ {s1}, execFwSwitch o s = .next s1 → Kept k0 s1 := by
  intro s1 ht; unfold execFwSwitch at ht; simp only [Host.Outcome.next.injEq] at ht; subst ht
  simp +contextual (maxDischargeDepth := 99) [hk]

theorem execRecoveryImageWrite_kept {k0 s : State} (hk : Kept k0 s) (slotB : Bool) (img : FwImage) :
    ∀ {s1}, execRecoveryImageWrite slotB img s = .next s1 → Kept k0 s1 := by
  intro s1 ht; unfold execRecoveryImageWrite at ht; simp only [Host.Outcome.next.injEq] at ht; subst ht
  repeat' (first | with_reducible assumption | (simp +contextual (maxDischargeDepth := 99) [*]; done) | (simp (maxDischargeDepth := 99) [State.load_ok ‹_› ‹_›]; done) | (simp (maxDischargeDepth := 99) [State.store_ok ‹_› ‹_›]; done) | with_reducible refine State.onTaken_kept (by with_reducible assumption) _ _ (fun b x hb => ?_) | with_reducible refine State.withRead_kept (by with_reducible assumption) _ _ (fun b r hb => ?_) | with_reducible refine State.withWrite_kept (by with_reducible assumption) _ _ (fun b r hb => ?_) | with_reducible refine kept_foldl (fun b x hb => ?_) ?_ | with_reducible refine kept_foldl_fst (fun b x hb => ?_) ?_ | with_reducible refine kept_foldl_snd (fun b x hb => ?_) ?_ | split)

theorem execFirmwareUpdate_kept {k0 s : State} (hk : Kept k0 s) (slotB : Bool) (img : FwImage) :
    ∀ {s1}, execFirmwareUpdate slotB img s = .next s1 → Kept k0 s1 := by
  intro s1 ht; unfold execFirmwareUpdate at ht; simp only [Host.Outcome.next.injEq] at ht; subst ht
  repeat' (first | with_reducible assumption | (simp +contextual (maxDischargeDepth := 99) [*]; done) | (simp (maxDischargeDepth := 99) [State.load_ok ‹_› ‹_›]; done) | (simp (maxDischargeDepth := 99) [State.store_ok ‹_› ‹_›]; done) | with_reducible refine State.onTaken_kept (by with_reducible assumption) _ _ (fun b x hb => ?_) | with_reducible refine State.withRead_kept (by with_reducible assumption) _ _ (fun b r hb => ?_) | with_reducible refine State.withWrite_kept (by with_reducible assumption) _ _ (fun b r hb => ?_) | with_reducible refine kept_foldl (fun b x hb => ?_) ?_ | with_reducible refine kept_foldl_fst (fun b x hb => ?_) ?_ | with_reducible refine kept_foldl_snd (fun b x hb => ?_) ?_ | split)

theorem execSettingsUpdate_kept {k0 s : State} (hk : Kept k0 s) (st : Settings) :
    ∀ {s1}, execSettingsUpdate st s = .next s1 → Kept k0 s1 := by
  intro s1 ht; unfold execSettingsUpdate at ht; simp only [Host.Outcome.next.injEq] at ht; subst ht
  simp +contextual (maxDischargeDepth := 99) [hk]

end Sys2Proof.Machine
end

