-- ==== Sys2Proof/Laws/Kept/HostNet.lean ====
section
/-!
SUPPORT. No operation of Machine/HostNet.lean breaks what `Kept` says.
-/

namespace Sys2Proof.Machine

theorem execHostLinkTrained_kept {k0 s : State} (hk : Kept k0 s) (mode width : Nat) :
    ∀ {s1}, execHostLinkTrained mode width s = .next s1 → Kept k0 s1 := by
  intro s1 ht; unfold execHostLinkTrained at ht; simp only [Host.Outcome.next.injEq] at ht; subst ht
  simp +contextual (maxDischargeDepth := 99) [hk]

theorem execHostReset_kept {k0 s : State} (hk : Kept k0 s)  :
    ∀ {s1}, execHostReset s = .next s1 → Kept k0 s1 := by
  intro s1 ht; unfold execHostReset at ht; simp only [Host.Outcome.next.injEq] at ht; subst ht
  simp +contextual (maxDischargeDepth := 99) [hk]

@[simp ↓] theorem State.placeRefused_kept {k0 s : State} (hk : Kept k0 s)  :
    Kept k0 (s.placeRefused) := by
  unfold State.placeRefused
  simp +contextual (maxDischargeDepth := 99) [hk]

@[simp ↓] theorem State.bar2_kept {k0 s : State} (hk : Kept k0 s) (pasid : Option (BitVec 20)) (rid : BitVec 16) (part : Option Nat) (driver : Bool) (dua len : Nat) (write : Option (List Byte)) :
    Kept k0 (s.bar2 pasid rid part driver dua len write) := by
  unfold State.bar2
  try dsimp only
  repeat' (first | with_reducible assumption | (simp +contextual (maxDischargeDepth := 99) [*]; done) | (simp (maxDischargeDepth := 99) [State.load_ok ‹_› ‹_›]; done) | (simp (maxDischargeDepth := 99) [State.store_ok ‹_› ‹_›]; done) | with_reducible refine State.onTaken_kept (by with_reducible assumption) _ _ (fun b x hb => ?_) | with_reducible refine State.withRead_kept (by with_reducible assumption) _ _ (fun b r hb => ?_) | with_reducible refine State.withWrite_kept (by with_reducible assumption) _ _ (fun b r hb => ?_) | with_reducible refine kept_foldl (fun b x hb => ?_) ?_ | with_reducible refine kept_foldl_fst (fun b x hb => ?_) ?_ | with_reducible refine kept_foldl_snd (fun b x hb => ?_) ?_ | split)

theorem execBar2Access_kept {k0 s : State} (hk : Kept k0 s) (o : Origin) (dua len : Nat) (write : Option (List Byte)) :
    ∀ {s1}, execBar2Access o dua len write s = .next s1 → Kept k0 s1 := by
  intro s1 ht; unfold execBar2Access at ht; simp only [Host.Outcome.next.injEq] at ht; subst ht
  repeat' (first | with_reducible assumption | (simp +contextual (maxDischargeDepth := 99) [*]; done) | (simp (maxDischargeDepth := 99) [State.load_ok ‹_› ‹_›]; done) | (simp (maxDischargeDepth := 99) [State.store_ok ‹_› ‹_›]; done) | (simp (maxDischargeDepth := 99) [State.store_ok ‹_ = Except.ok _› (State.load_ok ‹_ = Except.ok (_, _)› ‹_›)]; done) | (simp (maxDischargeDepth := 99) [State.load_ok ‹State.load _ _ _ _ = Except.ok (_, _)› (State.load_ok ‹State.load _ _ _ _ = Except.ok (_, _)› ‹Kept _ _›)]; done) | (have hz := Kept.snd (a := k0) ‹_ = (_, _)› (by simp (maxDischargeDepth := 99) [‹Kept _ _›]); simp (maxDischargeDepth := 99) [hz]; done) | (simp +contextual (maxDischargeDepth := 99) [*, Mem.wf]; done) | with_reducible refine State.onTaken_kept (by with_reducible assumption) _ _ (fun b x hb => ?_) | with_reducible refine State.withWrite_kept (by with_reducible assumption) _ _ (fun b r hb => ?_) | with_reducible refine kept_foldl (fun b x hb => ?_) ?_ | with_reducible refine kept_foldl_fst (fun b x hb => ?_) ?_ | with_reducible refine kept_foldl_snd (fun b x hb => ?_) ?_ | split)

@[simp ↓] theorem State.placeFail_kept {k0 s : State} (hk : Kept k0 s) (r : Nat) :
    Kept k0 (s.placeFail r) := by
  unfold State.placeFail
  simp +contextual (maxDischargeDepth := 99) [hk]

@[simp ↓] theorem State.writePlaceCtrl_kept {k0 s : State} (hk : Kept k0 s) (v : Word) :
    Kept k0 (s.writePlaceCtrl v) := by
  unfold State.writePlaceCtrl
  try simp only
  repeat' (first | with_reducible assumption | split | (simp +contextual (maxDischargeDepth := 99) [*]; done) | (simp (maxDischargeDepth := 99) [State.load_ok ‹_› ‹_›]; done) | (simp (maxDischargeDepth := 99) [State.store_ok ‹_› ‹_›]; done) | with_reducible refine State.onTaken_kept (by with_reducible assumption) _ _ (fun b x hb => ?_) | with_reducible refine State.withRead_kept (by with_reducible assumption) _ _ (fun b r hb => ?_) | with_reducible refine State.withWrite_kept (by with_reducible assumption) _ _ (fun b r hb => ?_) | with_reducible refine kept_foldl (fun b x hb => ?_) ?_ | with_reducible refine kept_foldl_fst (fun b x hb => ?_) ?_ | with_reducible refine kept_foldl_snd (fun b x hb => ?_) ?_)

theorem execPlaceSet_kept {k0 s : State} (hk : Kept k0 s) (o : Origin) (index : BitVec 12) :
    ∀ {s1}, execPlaceSet o index s = .next s1 → Kept k0 s1 := by
  intro s1 ht; unfold execPlaceSet at ht; simp only [Host.Outcome.next.injEq] at ht; subst ht
  simp +contextual (maxDischargeDepth := 99) [hk]

theorem execPlaceClear_kept {k0 s : State} (hk : Kept k0 s) (o : Origin) (index : BitVec 12) :
    ∀ {s1}, execPlaceClear o index s = .next s1 → Kept k0 s1 := by
  intro s1 ht; unfold execPlaceClear at ht; simp only [Host.Outcome.next.injEq] at ht; subst ht
  simp +contextual (maxDischargeDepth := 99) [hk]

theorem execNetworkLinkTrained_kept {k0 s : State} (hk : Kept k0 s) (port : PortId) (half : Bool) :
    ∀ {s1}, execNetworkLinkTrained port half s = .next s1 → Kept k0 s1 := by
  intro s1 ht; unfold execNetworkLinkTrained at ht; simp only [Host.Outcome.next.injEq] at ht; subst ht
  simp +contextual (maxDischargeDepth := 99) [hk]

theorem execNetworkLinkDown_kept {k0 s : State} (hk : Kept k0 s) (port : PortId) :
    ∀ {s1}, execNetworkLinkDown port s = .next s1 → Kept k0 s1 := by
  intro s1 ht; unfold execNetworkLinkDown at ht; simp only [Host.Outcome.next.injEq] at ht; subst ht
  simp +contextual (maxDischargeDepth := 99) [hk]

theorem execRdmaIncoming_kept {k0 s : State} (hk : Kept k0 s) (port : PortId) :
    ∀ {s1}, execRdmaIncoming port s = .next s1 → Kept k0 s1 := by
  intro s1 ht; unfold execRdmaIncoming at ht; simp only [Host.Outcome.next.injEq] at ht; subst ht
  simp +contextual (maxDischargeDepth := 99) [hk]

@[simp ↓] theorem State.writeConnQpn_kept {k0 s : State} (hk : Kept k0 s) (port : Nat) (v : Word) :
    Kept k0 (s.writeConnQpn port v) := by
  unfold State.writeConnQpn
  simp +contextual (maxDischargeDepth := 99) [hk]

theorem execConnConnect_kept {k0 s : State} (hk : Kept k0 s) (o : Origin) (port : PortId) (qpn : BitVec 24) :
    ∀ {s1}, execConnConnect o port qpn s = .next s1 → Kept k0 s1 := by
  intro s1 ht; unfold execConnConnect at ht; simp only [Host.Outcome.next.injEq] at ht; subst ht
  simp +contextual (maxDischargeDepth := 99) [hk]

theorem execConnBroken_kept {k0 s : State} (hk : Kept k0 s) (port : PortId) (cls : Fin 3) :
    ∀ {s1}, execConnBroken port cls s = .next s1 → Kept k0 s1 := by
  intro s1 ht; unfold execConnBroken at ht; simp only [Host.Outcome.next.injEq] at ht; subst ht
  simp +contextual (maxDischargeDepth := 99) [hk]

@[simp ↓] theorem State.pushStart_kept {k0 s : State} (hk : Kept k0 s) (port : Nat) :
    Kept k0 (s.pushStart port) := by
  unfold State.pushStart
  simp +contextual (maxDischargeDepth := 99) [hk]

theorem execPushGo_kept {k0 s : State} (hk : Kept k0 s) (o : Origin) (port : PortId) :
    ∀ {s1}, execPushGo o port s = .next s1 → Kept k0 s1 := by
  intro s1 ht; unfold execPushGo at ht; simp only [Host.Outcome.next.injEq] at ht; subst ht
  simp +contextual (maxDischargeDepth := 99) [hk]

@[simp ↓] theorem State.pushEnd_kept {k0 s : State} (hk : Kept k0 s) (port result reason : Nat) :
    Kept k0 (s.pushEnd port result reason) := by
  unfold State.pushEnd
  simp +contextual (maxDischargeDepth := 99) [hk]

theorem execPushDone_kept {k0 s : State} (hk : Kept k0 s) (port : PortId) (ok : Bool) :
    ∀ {s1}, execPushDone port ok s = .next s1 → Kept k0 s1 := by
  intro s1 ht; unfold execPushDone at ht; simp only [Host.Outcome.next.injEq] at ht; subst ht
  repeat' (first | with_reducible assumption | (simp +contextual (maxDischargeDepth := 99) [*]; done) | (simp (maxDischargeDepth := 99) [State.load_ok ‹_› ‹_›]; done) | (simp (maxDischargeDepth := 99) [State.store_ok ‹_› ‹_›]; done) | with_reducible refine State.onTaken_kept (by with_reducible assumption) _ _ (fun b x hb => ?_) | with_reducible refine State.withRead_kept (by with_reducible assumption) _ _ (fun b r hb => ?_) | with_reducible refine State.withWrite_kept (by with_reducible assumption) _ _ (fun b r hb => ?_) | with_reducible refine kept_foldl (fun b x hb => ?_) ?_ | with_reducible refine kept_foldl_fst (fun b x hb => ?_) ?_ | with_reducible refine kept_foldl_snd (fun b x hb => ?_) ?_ | split)

end Sys2Proof.Machine
end

