-- ==== Sys2Proof/Laws/Kept/Meter.lean ====
section
/-!
SUPPORT. No operation of Machine/Meter.lean breaks what `Kept` says.
-/

namespace Sys2Proof.Machine

@[simp ↓] theorem State.writeStep_kept {k0 s : State} (hk : Kept k0 s) (p : Nat) (v : Word) :
    Kept k0 (s.writeStep p v) := by
  unfold State.writeStep
  simp +contextual (maxDischargeDepth := 99) [hk]

theorem execOrderStepWrite_kept {k0 s : State} (hk : Kept k0 s) (o : Origin) (p : PartId) (v : Word) :
    ∀ {s1}, execOrderStepWrite o p v s = .next s1 → Kept k0 s1 := by
  intro s1 ht; unfold execOrderStepWrite at ht; simp only [Host.Outcome.next.injEq] at ht; subst ht
  simp +contextual (maxDischargeDepth := 99) [hk]

theorem execReportAck_kept {k0 s : State} (hk : Kept k0 s) (tokenSum trainSum : Nat) :
    ∀ {s1}, execReportAck tokenSum trainSum s = .next s1 → Kept k0 s1 := by
  intro s1 ht; unfold execReportAck at ht; simp only [Host.Outcome.next.injEq] at ht; subst ht
  repeat' (first | with_reducible assumption | (simp +contextual (maxDischargeDepth := 99) [*]; done) | (simp (maxDischargeDepth := 99) [State.load_ok ‹_› ‹_›]; done) | (simp (maxDischargeDepth := 99) [State.store_ok ‹_› ‹_›]; done) | with_reducible refine State.onTaken_kept (by with_reducible assumption) _ _ (fun b x hb => ?_) | with_reducible refine State.withRead_kept (by with_reducible assumption) _ _ (fun b r hb => ?_) | with_reducible refine State.withWrite_kept (by with_reducible assumption) _ _ (fun b r hb => ?_) | with_reducible refine kept_foldl (fun b x hb => ?_) ?_ | with_reducible refine kept_foldl_fst (fun b x hb => ?_) ?_ | with_reducible refine kept_foldl_snd (fun b x hb => ?_) ?_ | split)

theorem execEnergyWindowClose_kept {k0 s : State} (hk : Kept k0 s) (mJ : Nat) (outOfClass : Bool) :
    ∀ {s1}, execEnergyWindowClose mJ outOfClass s = .next s1 → Kept k0 s1 := by
  intro s1 ht; unfold execEnergyWindowClose at ht; simp only [Host.Outcome.next.injEq] at ht; subst ht
  simp +contextual (maxDischargeDepth := 99) [hk]

@[simp ↓] theorem State.meterLo_kept {k0 s : State} (hk : Kept k0 s) (k : Nat) :
    Kept k0 (s.meterLo k) := by
  unfold State.meterLo
  simp +contextual (maxDischargeDepth := 99) [hk]

theorem execMeterCounterLoRead_kept {k0 s : State} (hk : Kept k0 s) (o : Origin) (counter : Fin 5) :
    ∀ {s1}, execMeterCounterLoRead o counter s = .next s1 → Kept k0 s1 := by
  intro s1 ht; unfold execMeterCounterLoRead at ht; simp only [Host.Outcome.next.injEq] at ht; subst ht
  simp +contextual (maxDischargeDepth := 99) [hk]

@[simp ↓] theorem State.mqEnd_kept {k0 s : State} (hk : Kept k0 s) (reason : Nat) :
    Kept k0 (s.mqEnd reason) := by
  unfold State.mqEnd
  simp +contextual (maxDischargeDepth := 99) [hk]

@[simp ↓] theorem State.mqServe_kept {k0 s : State} (hk : Kept k0 s) (code : Nat) {f : State → List Byte → State}
    (hf : ∀ (b : State) (r : List Byte), Kept k0 b → Kept k0 (f b r)) : Kept k0 (s.mqServe code f) := by
  unfold State.mqServe
  split
  · exact hk
  · repeat' split
    all_goals first | exact hk | exact State.mqEnd_kept hk _ | exact hf _ _ hk

@[simp ↓] theorem State.mqOut_kept {k0 s : State} (hk : Kept k0 s) (r out : List Byte) (need : Nat) {s' : State} (h' : Kept k0 s') :
    Kept k0 (s.mqOut r out need s') := by
  unfold State.mqOut
  split
  · simp [hk]
  · split
    · simp [hk]
    · simp [hk]
    · simp [State.store_ok ‹_› h']

@[simp ↓] theorem State.readingDone_kept {k0 s : State} (hk : Kept k0 s) (key : Nat) :
    Kept k0 (s.readingDone key) := by
  unfold State.readingDone
  simp +contextual (maxDischargeDepth := 99) [hk]

@[simp ↓] theorem State.serveReading_kept {k0 s : State} (hk : Kept k0 s) (r : List Byte) (key : Nat) :
    Kept k0 (s.serveReading r key) := by
  unfold State.serveReading
  simp +contextual (maxDischargeDepth := 99) [hk]

theorem execReadAccount_kept {k0 s : State} (hk : Kept k0 s)  :
    ∀ {s1}, execReadAccount s = .next s1 → Kept k0 s1 := by
  intro s1 ht; unfold execReadAccount at ht; simp only [Host.Outcome.next.injEq] at ht; subst ht
  simp +contextual (maxDischargeDepth := 99) [hk]

theorem execReadTotal_kept {k0 s : State} (hk : Kept k0 s)  :
    ∀ {s1}, execReadTotal s = .next s1 → Kept k0 s1 := by
  intro s1 ht; unfold execReadTotal at ht; simp only [Host.Outcome.next.injEq] at ht; subst ht
  simp +contextual (maxDischargeDepth := 99) [hk]

theorem execCert_kept {k0 s : State} (hk : Kept k0 s)  :
    ∀ {s1}, execCert s = .next s1 → Kept k0 s1 := by
  intro s1 ht; unfold execCert at ht; simp only [Host.Outcome.next.injEq] at ht; subst ht
  simp +contextual (maxDischargeDepth := 99) [hk]

theorem execTamperEvent_kept {k0 s : State} (hk : Kept k0 s) (removed : Bool) :
    ∀ {s1}, execTamperEvent removed s = .next s1 → Kept k0 s1 := by
  intro s1 ht; unfold execTamperEvent at ht; simp only [Host.Outcome.next.injEq] at ht; subst ht
  simp +contextual (maxDischargeDepth := 99) [hk]

theorem execMeterFwChange_kept {k0 s : State} (hk : Kept k0 s) (version : Word) :
    ∀ {s1}, execMeterFwChange version s = .next s1 → Kept k0 s1 := by
  intro s1 ht; unfold execMeterFwChange at ht; simp only [Host.Outcome.next.injEq] at ht; subst ht
  simp +contextual (maxDischargeDepth := 99) [hk]

theorem execMeterCardPresent_kept {k0 s : State} (hk : Kept k0 s)  :
    ∀ {s1}, execMeterCardPresent s = .next s1 → Kept k0 s1 := by
  intro s1 ht; unfold execMeterCardPresent at ht; simp only [Host.Outcome.next.injEq] at ht; subst ht
  simp +contextual (maxDischargeDepth := 99) [hk]

end Sys2Proof.Machine
end

