-- ==== Sys2Proof/Laws/Kept/Power.lean ====
section
/-!
SUPPORT. No operation of Machine/Power.lean breaks what `Kept` says.
-/

namespace Sys2Proof.Machine

@[simp ↓] theorem State.beginStep1_kept {k0 s : State} (hk : Kept k0 s)  :
    Kept k0 (s.beginStep1) := by
  unfold State.beginStep1
  simp +contextual (maxDischargeDepth := 99) [hk]

@[simp ↓] theorem State.placeOwn_kept {k0 s : State} (hk : Kept k0 s) (n : Nat) :
    Kept k0 (s.placeOwn n) := by
  unfold State.placeOwn
  simp +contextual (maxDischargeDepth := 99) [hk]

@[simp ↓] theorem State.placeModule_kept {k0 s : State} (hk : Kept k0 s)  :
    Kept k0 (s.placeModule) := by
  unfold State.placeModule
  simp +contextual (maxDischargeDepth := 99) [hk]

@[simp ↓] theorem State.dramTrained_kept {k0 s : State} (hk : Kept k0 s)  :
    Kept k0 (s.dramTrained) := by
  unfold State.dramTrained
  try dsimp only
  repeat' (first | with_reducible assumption | (simp +contextual (maxDischargeDepth := 99) [*]; done) | (simp (maxDischargeDepth := 99) [State.load_ok ‹_› ‹_›]; done) | (simp (maxDischargeDepth := 99) [State.store_ok ‹_› ‹_›]; done) | (simp (maxDischargeDepth := 99) [State.store_ok ‹_ = Except.ok _› (State.load_ok ‹_ = Except.ok (_, _)› ‹_›)]; done) | (simp (maxDischargeDepth := 99) [State.load_ok ‹State.load _ _ _ _ = Except.ok (_, _)› (State.load_ok ‹State.load _ _ _ _ = Except.ok (_, _)› ‹Kept _ _›)]; done) | (have hz := Kept.snd (a := k0) ‹_ = (_, _)› (by simp (maxDischargeDepth := 99) [‹Kept _ _›]); simp (maxDischargeDepth := 99) [hz]; done) | (simp +contextual (maxDischargeDepth := 99) [*, Mem.wf]; done) | with_reducible refine State.onTaken_kept (by with_reducible assumption) _ _ (fun b x hb => ?_) | with_reducible refine State.withWrite_kept (by with_reducible assumption) _ _ (fun b r hb => ?_) | with_reducible refine kept_foldl (fun b x hb => ?_) ?_ | with_reducible refine kept_foldl_fst (fun b x hb => ?_) ?_ | with_reducible refine kept_foldl_snd (fun b x hb => ?_) ?_ | split)

@[simp ↓] theorem State.mountVault_kept {k0 s : State} (hk : Kept k0 s)  :
    Kept k0 (s.mountVault) := by
  unfold State.mountVault
  simp +contextual (maxDischargeDepth := 99) [hk]

@[simp ↓] theorem State.alignStep_kept {k0 s : State} (hk : Kept k0 s) (ok : Bool) :
    Kept k0 (s.alignStep ok) := by
  unfold State.alignStep
  simp +contextual (maxDischargeDepth := 99) [hk]

@[simp ↓] theorem State.releaseAll_kept {k0 s : State} (hk : Kept k0 s)  :
    Kept k0 (s.releaseAll) := by
  unfold State.releaseAll
  simp +contextual (maxDischargeDepth := 99) [hk]

@[simp ↓] theorem State.applySettings_kept {k0 s : State} (hk : Kept k0 s)  :
    Kept k0 (s.applySettings) := by
  unfold State.applySettings
  simp +contextual (maxDischargeDepth := 99) [hk]

@[simp ↓] theorem State.endStep_kept {k0 s : State} (hk : Kept k0 s) (ok mainPermit : Bool) :
    Kept k0 (s.endStep ok mainPermit) := by
  unfold State.endStep
  try dsimp only
  repeat' (first | with_reducible assumption | (simp +contextual (maxDischargeDepth := 99) [*]; done) | (simp (maxDischargeDepth := 99) [State.load_ok ‹_› ‹_›]; done) | (simp (maxDischargeDepth := 99) [State.store_ok ‹_› ‹_›]; done) | with_reducible refine State.onTaken_kept (by with_reducible assumption) _ _ (fun b x hb => ?_) | with_reducible refine State.withRead_kept (by with_reducible assumption) _ _ (fun b r hb => ?_) | with_reducible refine State.withWrite_kept (by with_reducible assumption) _ _ (fun b r hb => ?_) | with_reducible refine kept_foldl (fun b x hb => ?_) ?_ | with_reducible refine kept_foldl_fst (fun b x hb => ?_) ?_ | with_reducible refine kept_foldl_snd (fun b x hb => ?_) ?_ | split)

theorem execPowerStepDone_kept {k0 s : State} (hk : Kept k0 s) (ok mainPermit : Bool) :
    ∀ {s1}, execPowerStepDone ok mainPermit s = .next s1 → Kept k0 s1 := by
  intro s1 ht; unfold execPowerStepDone at ht; simp only [Host.Outcome.next.injEq] at ht; subst ht
  simp +contextual (maxDischargeDepth := 99) [hk]

theorem execStandbyRailUp_kept {k0 s : State} (hk : Kept k0 s)  :
    ∀ {s1}, execStandbyRailUp s = .next s1 → Kept k0 s1 := by
  intro s1 ht; unfold execStandbyRailUp at ht; simp only [Host.Outcome.next.injEq] at ht; subst ht
  simp +contextual (maxDischargeDepth := 99) [hk]

@[simp ↓] theorem State.loseMain_kept {k0 s : State} (hk : Kept k0 s)  :
    Kept k0 (s.loseMain) := by
  unfold State.loseMain
  simp +contextual (maxDischargeDepth := 99) [hk]

@[simp ↓] theorem State.mainFault_kept {k0 s : State} (hk : Kept k0 s)  :
    Kept k0 (s.mainFault) := by
  unfold State.mainFault
  simp +contextual (maxDischargeDepth := 99) [hk]

theorem execMainRailFault_kept {k0 s : State} (hk : Kept k0 s)  :
    ∀ {s1}, execMainRailFault s = .next s1 → Kept k0 s1 := by
  intro s1 ht; unfold execMainRailFault at ht; simp only [Host.Outcome.next.injEq] at ht; subst ht
  simp +contextual (maxDischargeDepth := 99) [hk]

theorem execMainPermitFall_kept {k0 s : State} (hk : Kept k0 s)  :
    ∀ {s1}, execMainPermitFall s = .next s1 → Kept k0 s1 := by
  intro s1 ht; unfold execMainPermitFall at ht; simp only [Host.Outcome.next.injEq] at ht; subst ht
  simp +contextual (maxDischargeDepth := 99) [hk]

theorem execMainRailReturn_kept {k0 s : State} (hk : Kept k0 s) (mainPermit : Bool) :
    ∀ {s1}, execMainRailReturn mainPermit s = .next s1 → Kept k0 s1 := by
  intro s1 ht; unfold execMainRailReturn at ht; simp only [Host.Outcome.next.injEq] at ht; subst ht
  simp +contextual (maxDischargeDepth := 99) [hk]

theorem execStandbyRailLoss_kept {k0 s : State} (hk : Kept k0 s)  :
    ∀ {s1}, execStandbyRailLoss s = .next s1 → Kept k0 s1 := by
  intro s1 ht; unfold execStandbyRailLoss at ht; simp only [Host.Outcome.next.injEq] at ht; subst ht
  refine kept_ite hk ?_
  have h : Kept k0 (if s.mc.mainOk then s.loseMain else s.wipeModule) := by simp [hk]
  revert h
  generalize (if s.mc.mainOk then s.loseMain else s.wipeModule) = t
  intro h
  exact ⟨h.mem, h.part, h.pending⟩

theorem execModRst_kept {k0 s : State} (hk : Kept k0 s)  :
    ∀ {s1}, execModRst s = .next s1 → Kept k0 s1 := by
  intro s1 ht; unfold execModRst at ht; simp only [Host.Outcome.next.injEq] at ht; subst ht
  simp +contextual (maxDischargeDepth := 99) [hk]

@[simp ↓] theorem State.vfGo_kept {k0 s : State} (hk : Kept k0 s) (i : Nat) :
    Kept k0 (s.vfGo i) := by
  unfold State.vfGo
  simp +contextual (maxDischargeDepth := 99) [hk]

@[simp ↓] theorem State.vfCheck_kept {k0 s : State} (hk : Kept k0 s) (watts tj : Nat) :
    Kept k0 (s.vfCheck watts tj) := by
  unfold State.vfCheck
  repeat' (first | with_reducible assumption | (simp +contextual (maxDischargeDepth := 99) [*]; done) | (simp (maxDischargeDepth := 99) [State.load_ok ‹_› ‹_›]; done) | (simp (maxDischargeDepth := 99) [State.store_ok ‹_› ‹_›]; done) | with_reducible refine State.onTaken_kept (by with_reducible assumption) _ _ (fun b x hb => ?_) | with_reducible refine State.withRead_kept (by with_reducible assumption) _ _ (fun b r hb => ?_) | with_reducible refine State.withWrite_kept (by with_reducible assumption) _ _ (fun b r hb => ?_) | with_reducible refine kept_foldl (fun b x hb => ?_) ?_ | with_reducible refine kept_foldl_fst (fun b x hb => ?_) ?_ | with_reducible refine kept_foldl_snd (fun b x hb => ?_) ?_ | split)

theorem execDvfsCheck_kept {k0 s : State} (hk : Kept k0 s) (watts tj : Nat) :
    ∀ {s1}, execDvfsCheck watts tj s = .next s1 → Kept k0 s1 := by
  intro s1 ht; unfold execDvfsCheck at ht; simp only [Host.Outcome.next.injEq] at ht; subst ht
  simp +contextual (maxDischargeDepth := 99) [hk]

theorem execThermalTrip_kept {k0 s : State} (hk : Kept k0 s)  :
    ∀ {s1}, execThermalTrip s = .next s1 → Kept k0 s1 := by
  intro s1 ht; unfold execThermalTrip at ht; simp only [Host.Outcome.next.injEq] at ht; subst ht
  simp +contextual (maxDischargeDepth := 99) [hk]

theorem execThermalTripRelease_kept {k0 s : State} (hk : Kept k0 s)  :
    ∀ {s1}, execThermalTripRelease s = .next s1 → Kept k0 s1 := by
  intro s1 ht; unfold execThermalTripRelease at ht; simp only [Host.Outcome.next.injEq] at ht; subst ht
  simp +contextual (maxDischargeDepth := 99) [hk]

theorem execCoolantOutOfRange_kept {k0 s : State} (hk : Kept k0 s) (inlet flow : Nat) :
    ∀ {s1}, execCoolantOutOfRange inlet flow s = .next s1 → Kept k0 s1 := by
  intro s1 ht; unfold execCoolantOutOfRange at ht; simp only [Host.Outcome.next.injEq] at ht; subst ht
  simp +contextual (maxDischargeDepth := 99) [hk]

end Sys2Proof.Machine
end

