-- ==== Sys2Proof/Laws/Kept/Idle.lean ====
section
/-!
SUPPORT. No operation of Machine/Idle.lean breaks what `Kept` says.
-/

namespace Sys2Proof.Machine

@[simp ↓] theorem State.idle_kept {k0 s : State} (hk : Kept k0 s)  :
    Kept k0 (s.idle) := by
  unfold State.idle
  simp +contextual (maxDischargeDepth := 99) [hk]

end Sys2Proof.Machine
end

