-- ==== Sys2Proof/Laws/Kept/RegPages.lean ====
section
/-!
SUPPORT. No operation of Machine/RegPages.lean breaks what `Kept` says.
-/

namespace Sys2Proof.Machine

@[simp ↓] theorem State.writeTbEntry_kept {k0 s : State} (hk : Kept k0 s) (v : Word) :
    Kept k0 (s.writeTbEntry v) := by
  unfold State.writeTbEntry
  dsimp only
  split
  · simp [hk]
  · split
    · simp [hk]
    · refine Kept.of_eq (State.wr_kept hk pgTB 0x044 (v &&& 0xFFFF)) ?_ ?_ ?_ <;> rfl

theorem execTbEntryWrite_kept {k0 s : State} (hk : Kept k0 s) (o : Origin) (v : Word) :
    ∀ {s1}, execTbEntryWrite o v s = .next s1 → Kept k0 s1 := by
  intro s1 ht; unfold execTbEntryWrite at ht; simp only [Host.Outcome.next.injEq] at ht; subst ht
  simp +contextual (maxDischargeDepth := 99) [hk]

@[simp ↓] theorem State.readWord_kept {k0 s : State} (hk : Kept k0 s) (off : Nat) (r : Req) :
    Kept k0 (s.readWord off r).2 := by
  unfold State.readWord
  dsimp only
  split
  · exact hk
  · split
    · exact hk
    · split
      · split
        · exact State.snapshot_kept hk _ _
        · exact hk
      · split
        · exact State.meterLo_kept hk _
        · exact hk

@[simp ↓] theorem State.writeGeneric_kept {k0 s : State} (hk : Kept k0 s) (k : Kind) (page off : Nat) (v : Word) (hwInc : Nat) :
    Kept k0 (s.writeGeneric k page off v hwInc) := by
  unfold State.writeGeneric
  repeat' (first | with_reducible assumption | (simp +contextual (maxDischargeDepth := 99) [*]; done) | (simp (maxDischargeDepth := 99) [State.load_ok ‹_› ‹_›]; done) | (simp (maxDischargeDepth := 99) [State.store_ok ‹_› ‹_›]; done) | with_reducible refine State.onTaken_kept (by with_reducible assumption) _ _ (fun b x hb => ?_) | with_reducible refine State.withRead_kept (by with_reducible assumption) _ _ (fun b r hb => ?_) | with_reducible refine State.withWrite_kept (by with_reducible assumption) _ _ (fun b r hb => ?_) | with_reducible refine kept_foldl (fun b x hb => ?_) ?_ | with_reducible refine kept_foldl_fst (fun b x hb => ?_) ?_ | with_reducible refine kept_foldl_snd (fun b x hb => ?_) ?_ | split)

@[simp ↓] theorem State.clearEvents_kept {k0 s : State} (hk : Kept k0 s) (k : Kind) (page : Nat) (r : Req) (mask hw : Word) :
    Kept k0 (s.clearEvents k page r mask hw) := by
  unfold State.clearEvents
  simp +contextual (maxDischargeDepth := 99) [hk]

@[simp ↓] theorem State.enableEvents_kept {k0 s : State} (hk : Kept k0 s) (page : Nat) (v : Word) :
    Kept k0 (s.enableEvents page v) := by
  unfold State.enableEvents
  simp +contextual (maxDischargeDepth := 99) [hk]

@[simp ↓] theorem State.writeHeaderSem_kept {k0 s : State} (hk : Kept k0 s) (page : Nat) (r : Req) (v : Word) :
    Kept k0 (s.writeHeaderSem page r v) := by
  unfold State.writeHeaderSem
  simp +contextual (maxDischargeDepth := 99) [hk]

@[simp ↓] theorem State.writeQueueReg_kept {k0 s : State} (hk : Kept k0 s) (qp e q r : Nat) (v : Word) :
    Kept k0 (s.writeQueueReg qp e q r v) := by
  unfold State.writeQueueReg
  repeat' (first | with_reducible assumption | (simp +contextual (maxDischargeDepth := 99) [*]; done) | (simp (maxDischargeDepth := 99) [State.load_ok ‹_› ‹_›]; done) | (simp (maxDischargeDepth := 99) [State.store_ok ‹_› ‹_›]; done) | with_reducible refine State.onTaken_kept (by with_reducible assumption) _ _ (fun b x hb => ?_) | with_reducible refine State.withRead_kept (by with_reducible assumption) _ _ (fun b r hb => ?_) | with_reducible refine State.withWrite_kept (by with_reducible assumption) _ _ (fun b r hb => ?_) | with_reducible refine kept_foldl (fun b x hb => ?_) ?_ | with_reducible refine kept_foldl_fst (fun b x hb => ?_) ?_ | with_reducible refine kept_foldl_snd (fun b x hb => ?_) ?_ | split)

@[simp ↓] theorem State.writeReqProd_kept {k0 s : State} (hk : Kept k0 s) (v : Word) :
    Kept k0 (s.writeReqProd v) := by
  unfold State.writeReqProd
  simp +contextual (maxDischargeDepth := 99) [hk]

@[simp ↓] theorem State.writeConn_kept {k0 s : State} (hk : Kept k0 s) (n off : Nat) (v : Word) :
    Kept k0 (s.writeConn n off v) := by
  unfold State.writeConn
  simp +contextual (maxDischargeDepth := 99) [hk]

@[simp ↓] theorem State.writeMc_kept {k0 s : State} (hk : Kept k0 s) (off : Nat) (v : Word) (hwInc : Nat) :
    Kept k0 (s.writeMc off v hwInc) := by
  unfold State.writeMc
  split
  · exact State.writeResetCtrl_kept hk _
  · exact State.heartbeat_kept hk
  · have h1 := State.writeGeneric_kept hk .mc pgMC 0x114 v 0
    exact kept_ite (State.heartbeat_kept h1) h1
  · exact State.setMc_kept hk _
  · exact State.writeAdopt_kept hk _
  · have h1 : Kept k0 (if v.getLsbD 0 then s.commitFw else s) := kept_ite (State.commitFw_kept hk) hk
    exact kept_ite (State.switchFw_kept h1) h1
  · exact kept_ite (State.refuse_kept hk _ _) (State.wr_kept hk _ _ _)
  · exact State.writeGeneric_kept hk _ _ _ _ _

@[simp ↓] theorem State.writeHi_kept {k0 s : State} (hk : Kept k0 s) (off : Nat) (v : Word) (hwInc : Nat) :
    Kept k0 (s.writeHi off v hwInc) := by
  unfold State.writeHi
  repeat' (first | with_reducible assumption | (simp +contextual (maxDischargeDepth := 99) [*]; done) | (simp (maxDischargeDepth := 99) [State.load_ok ‹_› ‹_›]; done) | (simp (maxDischargeDepth := 99) [State.store_ok ‹_› ‹_›]; done) | with_reducible refine State.onTaken_kept (by with_reducible assumption) _ _ (fun b x hb => ?_) | with_reducible refine State.withRead_kept (by with_reducible assumption) _ _ (fun b r hb => ?_) | with_reducible refine State.withWrite_kept (by with_reducible assumption) _ _ (fun b r hb => ?_) | with_reducible refine kept_foldl (fun b x hb => ?_) ?_ | with_reducible refine kept_foldl_fst (fun b x hb => ?_) ?_ | with_reducible refine kept_foldl_snd (fun b x hb => ?_) ?_ | split)

@[simp ↓] theorem State.writeNp_kept {k0 s : State} (hk : Kept k0 s) (n off : Nat) (v : Word) (hwInc : Nat) :
    Kept k0 (s.writeNp n off v hwInc) := by
  unfold State.writeNp
  simp +contextual (maxDischargeDepth := 99) [hk]

@[simp ↓] theorem State.writePt_kept {k0 s : State} (hk : Kept k0 s) (p off : Nat) (v : Word) (hwInc : Nat) :
    Kept k0 (s.writePt p off v hwInc) := by
  unfold State.writePt
  split
  · exact kept_ite (State.resizeGo_kept hk _) hk
  · have h1 : Kept k0 (if v.getLsbD 0 then s.saveGo p else s) := kept_ite (State.saveGo_kept hk _) hk
    exact kept_ite (State.restoreGo_kept h1 _) h1
  · exact State.writeMapCtrl_kept hk _ _
  · exact State.writeGeneric_kept hk _ _ _ _ _

@[simp ↓] theorem State.writeBody_kept {k0 s : State} (hk : Kept k0 s) (k : Kind) (n page off : Nat) (r : Req) (v : Word) (hwInc : Nat) :
    Kept k0 (s.writeBody k n page off r v hwInc) := by
  unfold State.writeBody
  have hg : ∀ k, Kept k0 (s.writeGeneric k page off v hwInc) := fun k => State.writeGeneric_kept hk _ _ _ _ _
  have hq : ∀ m k, Kept k0 (match queueOff off with | some (e, q, g) => s.writeQueueReg m e q g v | none => s.writeGeneric k page off v hwInc) := by
    intro m k
    split
    · exact State.writeQueueReg_kept hk _ _ _ _ _
    · exact hg _
  split
  · exact State.writeMc_kept hk _ _ _
  · exact State.writeHi_kept hk _ _ _
  · exact State.writeNp_kept hk _ _ _ _
  · exact State.writePt_kept hk _ _ _ _
  · exact kept_ite (kept_ite (State.instGo_kept hk) hk) (hg _)
  · exact kept_ite (State.refuse_kept hk _ _) (hg _)
  · exact kept_ite (State.writeSemCfg_kept hk _) (hg _)
  · exact kept_ite (State.writeTbEntry_kept hk _) (hg _)
  · exact kept_ite (State.writeReqProd_kept hk _) (hg _)
  · exact kept_ite (State.writeStrideCtrl_kept hk _ _) (kept_ite (State.writeStep_kept hk _ _) (hg _))
  · exact hq _ _
  · exact hq _ _
  · exact kept_ite (hg _) (State.writeMb_kept hk _ _ _ _)
  · exact hg _

@[simp ↓] theorem State.writeMsix_kept {k0 s : State} (hk : Kept k0 s) (off : Nat) (v : Word) :
    Kept k0 (s.writeMsix off v) := by
  unfold State.writeMsix
  simp +contextual (maxDischargeDepth := 99) [hk]

@[simp ↓] theorem State.writeWord_kept {k0 s : State} (hk : Kept k0 s) (off : Nat) (r : Req) (v : Word) (hwInc : Nat) :
    Kept k0 (s.writeWord off r v hwInc) := by
  unfold State.writeWord
  dsimp only
  split
  · exact State.writeMsix_kept hk _ _
  · refine kept_ite hk ?_
    split
    · exact hk
    · exact hk
    · exact State.writeCtrl_kept hk _ _
    · exact hk
    · exact hk
    · exact State.clearEvents_kept hk _ _ _ _ _
    · exact State.enableEvents_kept hk _ _
    · exact State.writeHeaderSem_kept hk _ _ _
    · exact State.writeBody_kept hk _ _ _ _ _ _ _

@[simp ↓] theorem State.windowRead_kept {k0 s : State} (hk : Kept k0 s) (r : Req) (off bytes : Nat) :
    Kept k0 (s.windowRead r off bytes) := by
  unfold State.windowRead
  simp +contextual (maxDischargeDepth := 99) [hk]

@[simp ↓] theorem State.windowWrite_kept {k0 s : State} (hk : Kept k0 s) (r : Req) (off bytes : Nat) (v : Word) (hwInc : Nat) :
    Kept k0 (s.windowWrite r off bytes v hwInc) := by
  unfold State.windowWrite
  simp +contextual (maxDischargeDepth := 99) [hk]

theorem execRegisterWrite_kept {k0 s : State} (hk : Kept k0 s) (o : Origin) (off bytes : Nat) (v : BitVec 64) (hwInc : Nat) :
    ∀ {s1}, execRegisterWrite o off bytes v hwInc s = .next s1 → Kept k0 s1 := by
  intro s1 ht; unfold execRegisterWrite at ht; simp only [Host.Outcome.next.injEq] at ht; subst ht
  repeat' (first | with_reducible assumption | (simp +contextual (maxDischargeDepth := 99) [*]; done) | (simp (maxDischargeDepth := 99) [State.load_ok ‹_› ‹_›]; done) | (simp (maxDischargeDepth := 99) [State.store_ok ‹_› ‹_›]; done) | (simp (maxDischargeDepth := 99) [State.store_ok ‹_ = Except.ok _› (State.load_ok ‹_ = Except.ok (_, _)› ‹_›)]; done) | (simp (maxDischargeDepth := 99) [State.load_ok ‹State.load _ _ _ _ = Except.ok (_, _)› (State.load_ok ‹State.load _ _ _ _ = Except.ok (_, _)› ‹Kept _ _›)]; done) | (have hz := Kept.snd (a := k0) ‹_ = (_, _)› (by simp (maxDischargeDepth := 99) [‹Kept _ _›]); simp (maxDischargeDepth := 99) [hz]; done) | (simp +contextual (maxDischargeDepth := 99) [*, Mem.wf]; done) | with_reducible refine State.onTaken_kept (by with_reducible assumption) _ _ (fun b x hb => ?_) | with_reducible refine State.withWrite_kept (by with_reducible assumption) _ _ (fun b r hb => ?_) | with_reducible refine kept_foldl (fun b x hb => ?_) ?_ | with_reducible refine kept_foldl_fst (fun b x hb => ?_) ?_ | with_reducible refine kept_foldl_snd (fun b x hb => ?_) ?_ | split)

theorem execCounterLowRead_kept {k0 s : State} (hk : Kept k0 s) (o : Origin) (off bytes : Nat) :
    ∀ {s1}, execCounterLowRead o off bytes s = .next s1 → Kept k0 s1 := by
  intro s1 ht; unfold execCounterLowRead at ht; simp only [Host.Outcome.next.injEq] at ht; subst ht
  simp +contextual (maxDischargeDepth := 99) [hk]

@[simp ↓] theorem State.duaRead_kept {k0 s : State} (hk : Kept k0 s) (who : MemWho) (r : Req) (dua len : Nat) (macOk : Bool) :
    Kept k0 (s.duaRead who r dua len macOk) := by
  unfold State.duaRead
  simp +contextual (maxDischargeDepth := 99) [hk]

@[simp ↓] theorem State.duaWrite_kept {k0 s : State} (hk : Kept k0 s) (who : MemWho) (r : Req) (dua : Nat) (data : List Byte) (macOk : Bool) :
    Kept k0 (s.duaWrite who r dua data macOk) := by
  unfold State.duaWrite
  simp +contextual (maxDischargeDepth := 99) [hk]

theorem execMemoryRead_kept {k0 s : State} (hk : Kept k0 s) (who : MemWho) (dua len : Nat) (macOk : Bool) :
    ∀ {s1}, execMemoryRead who dua len macOk s = .next s1 → Kept k0 s1 := by
  intro s1 ht; unfold execMemoryRead at ht; simp only [Host.Outcome.next.injEq] at ht; subst ht
  repeat' (first | with_reducible assumption | (simp +contextual (maxDischargeDepth := 99) [*]; done) | (simp (maxDischargeDepth := 99) [State.load_ok ‹_› ‹_›]; done) | (simp (maxDischargeDepth := 99) [State.store_ok ‹_› ‹_›]; done) | (simp (maxDischargeDepth := 99) [State.store_ok ‹_ = Except.ok _› (State.load_ok ‹_ = Except.ok (_, _)› ‹_›)]; done) | (simp (maxDischargeDepth := 99) [State.load_ok ‹State.load _ _ _ _ = Except.ok (_, _)› (State.load_ok ‹State.load _ _ _ _ = Except.ok (_, _)› ‹Kept _ _›)]; done) | (have hz := Kept.snd (a := k0) ‹_ = (_, _)› (by simp (maxDischargeDepth := 99) [‹Kept _ _›]); simp (maxDischargeDepth := 99) [hz]; done) | (simp +contextual (maxDischargeDepth := 99) [*, Mem.wf]; done) | with_reducible refine State.onTaken_kept (by with_reducible assumption) _ _ (fun b x hb => ?_) | with_reducible refine State.withWrite_kept (by with_reducible assumption) _ _ (fun b r hb => ?_) | with_reducible refine kept_foldl (fun b x hb => ?_) ?_ | with_reducible refine kept_foldl_fst (fun b x hb => ?_) ?_ | with_reducible refine kept_foldl_snd (fun b x hb => ?_) ?_ | split)

theorem execMemoryWrite_kept {k0 s : State} (hk : Kept k0 s) (who : MemWho) (dua : Nat) (data : List Byte) (macOk : Bool) :
    ∀ {s1}, execMemoryWrite who dua data s macOk = .next s1 → Kept k0 s1 := by
  intro s1 ht; unfold execMemoryWrite at ht; simp only [Host.Outcome.next.injEq] at ht; subst ht
  simp +contextual (maxDischargeDepth := 99) [hk]

theorem execCtrlEnableSet_kept {k0 s : State} (hk : Kept k0 s) (o : Origin) (page : Nat) :
    ∀ {s1}, execCtrlEnableSet o page s = .next s1 → Kept k0 s1 := by
  intro s1 ht; unfold execCtrlEnableSet at ht; simp only [Host.Outcome.next.injEq] at ht; subst ht
  repeat' (first | with_reducible assumption | (simp +contextual (maxDischargeDepth := 99) [*]; done) | (simp (maxDischargeDepth := 99) [State.load_ok ‹_› ‹_›]; done) | (simp (maxDischargeDepth := 99) [State.store_ok ‹_› ‹_›]; done) | (simp (maxDischargeDepth := 99) [State.store_ok ‹_ = Except.ok _› (State.load_ok ‹_ = Except.ok (_, _)› ‹_›)]; done) | (simp (maxDischargeDepth := 99) [State.load_ok ‹State.load _ _ _ _ = Except.ok (_, _)› (State.load_ok ‹State.load _ _ _ _ = Except.ok (_, _)› ‹Kept _ _›)]; done) | (have hz := Kept.snd (a := k0) ‹_ = (_, _)› (by simp (maxDischargeDepth := 99) [‹Kept _ _›]); simp (maxDischargeDepth := 99) [hz]; done) | (simp +contextual (maxDischargeDepth := 99) [*, Mem.wf]; done) | with_reducible refine State.onTaken_kept (by with_reducible assumption) _ _ (fun b x hb => ?_) | with_reducible refine State.withWrite_kept (by with_reducible assumption) _ _ (fun b r hb => ?_) | with_reducible refine kept_foldl (fun b x hb => ?_) ?_ | with_reducible refine kept_foldl_fst (fun b x hb => ?_) ?_ | with_reducible refine kept_foldl_snd (fun b x hb => ?_) ?_ | split)

theorem execCtrlEnableClear_kept {k0 s : State} (hk : Kept k0 s) (o : Origin) (page : Nat) :
    ∀ {s1}, execCtrlEnableClear o page s = .next s1 → Kept k0 s1 := by
  intro s1 ht; unfold execCtrlEnableClear at ht; simp only [Host.Outcome.next.injEq] at ht; subst ht
  repeat' (first | with_reducible assumption | (simp +contextual (maxDischargeDepth := 99) [*]; done) | (simp (maxDischargeDepth := 99) [State.load_ok ‹_› ‹_›]; done) | (simp (maxDischargeDepth := 99) [State.store_ok ‹_› ‹_›]; done) | (simp (maxDischargeDepth := 99) [State.store_ok ‹_ = Except.ok _› (State.load_ok ‹_ = Except.ok (_, _)› ‹_›)]; done) | (simp (maxDischargeDepth := 99) [State.load_ok ‹State.load _ _ _ _ = Except.ok (_, _)› (State.load_ok ‹State.load _ _ _ _ = Except.ok (_, _)› ‹Kept _ _›)]; done) | (have hz := Kept.snd (a := k0) ‹_ = (_, _)› (by simp (maxDischargeDepth := 99) [‹Kept _ _›]); simp (maxDischargeDepth := 99) [hz]; done) | (simp +contextual (maxDischargeDepth := 99) [*, Mem.wf]; done) | with_reducible refine State.onTaken_kept (by with_reducible assumption) _ _ (fun b x hb => ?_) | with_reducible refine State.withWrite_kept (by with_reducible assumption) _ _ (fun b r hb => ?_) | with_reducible refine kept_foldl (fun b x hb => ?_) ?_ | with_reducible refine kept_foldl_fst (fun b x hb => ?_) ?_ | with_reducible refine kept_foldl_snd (fun b x hb => ?_) ?_ | split)

theorem execConsistencyCheckEnd_kept {k0 s : State} (hk : Kept k0 s) (page : Nat) :
    ∀ {s1}, execConsistencyCheckEnd page s = .next s1 → Kept k0 s1 := by
  intro s1 ht
  unfold execConsistencyCheckEnd at ht
  split at ht
  · cases ht; exact hk
  · rename_i snap _
    simp only [Host.Outcome.next.injEq] at ht; subst ht
    refine kept_foldl (fun _ _ h => State.writeCtrl_kept h _ _) ?_
    have h1 : Kept k0 ((s.setHdr page { s.hdr page with checking := none, heldCtrl := [] }).checkOutcome page snap) := by simp [hk]
    split
    · exact State.settleIdle_kept h1 _
    · exact h1

theorem execBlockQuiesced_kept {k0 s : State} (hk : Kept k0 s) (page : Nat) :
    ∀ {s1}, execBlockQuiesced page s = .next s1 → Kept k0 s1 := by
  intro s1 ht
  unfold execBlockQuiesced at ht
  split at ht
  · cases ht; exact hk
  · cases ht; exact kept_ite (State.setHdr_kept hk _ _) hk

theorem execEventStatusClear_kept {k0 s : State} (hk : Kept k0 s) (o : Origin) (page : Nat) (mask hw : Word) :
    ∀ {s1}, execEventStatusClear o page mask hw s = .next s1 → Kept k0 s1 := by
  intro s1 ht; unfold execEventStatusClear at ht; simp only [Host.Outcome.next.injEq] at ht; subst ht
  repeat' (first | with_reducible assumption | (simp +contextual (maxDischargeDepth := 99) [*]; done) | (simp (maxDischargeDepth := 99) [State.load_ok ‹_› ‹_›]; done) | (simp (maxDischargeDepth := 99) [State.store_ok ‹_› ‹_›]; done) | (simp (maxDischargeDepth := 99) [State.store_ok ‹_ = Except.ok _› (State.load_ok ‹_ = Except.ok (_, _)› ‹_›)]; done) | (simp (maxDischargeDepth := 99) [State.load_ok ‹State.load _ _ _ _ = Except.ok (_, _)› (State.load_ok ‹State.load _ _ _ _ = Except.ok (_, _)› ‹Kept _ _›)]; done) | (have hz := Kept.snd (a := k0) ‹_ = (_, _)› (by simp (maxDischargeDepth := 99) [‹Kept _ _›]); simp (maxDischargeDepth := 99) [hz]; done) | (simp +contextual (maxDischargeDepth := 99) [*, Mem.wf]; done) | with_reducible refine State.onTaken_kept (by with_reducible assumption) _ _ (fun b x hb => ?_) | with_reducible refine State.withWrite_kept (by with_reducible assumption) _ _ (fun b r hb => ?_) | with_reducible refine kept_foldl (fun b x hb => ?_) ?_ | with_reducible refine kept_foldl_fst (fun b x hb => ?_) ?_ | with_reducible refine kept_foldl_snd (fun b x hb => ?_) ?_ | split)

theorem execEventEnableWrite_kept {k0 s : State} (hk : Kept k0 s) (o : Origin) (page : Nat) (v : Word) :
    ∀ {s1}, execEventEnableWrite o page v s = .next s1 → Kept k0 s1 := by
  intro s1 ht; unfold execEventEnableWrite at ht; simp only [Host.Outcome.next.injEq] at ht; subst ht
  repeat' (first | with_reducible assumption | (simp +contextual (maxDischargeDepth := 99) [*]; done) | (simp (maxDischargeDepth := 99) [State.load_ok ‹_› ‹_›]; done) | (simp (maxDischargeDepth := 99) [State.store_ok ‹_› ‹_›]; done) | (simp (maxDischargeDepth := 99) [State.store_ok ‹_ = Except.ok _› (State.load_ok ‹_ = Except.ok (_, _)› ‹_›)]; done) | (simp (maxDischargeDepth := 99) [State.load_ok ‹State.load _ _ _ _ = Except.ok (_, _)› (State.load_ok ‹State.load _ _ _ _ = Except.ok (_, _)› ‹Kept _ _›)]; done) | (have hz := Kept.snd (a := k0) ‹_ = (_, _)› (by simp (maxDischargeDepth := 99) [‹Kept _ _›]); simp (maxDischargeDepth := 99) [hz]; done) | (simp +contextual (maxDischargeDepth := 99) [*, Mem.wf]; done) | with_reducible refine State.onTaken_kept (by with_reducible assumption) _ _ (fun b x hb => ?_) | with_reducible refine State.withWrite_kept (by with_reducible assumption) _ _ (fun b r hb => ?_) | with_reducible refine kept_foldl (fun b x hb => ?_) ?_ | with_reducible refine kept_foldl_fst (fun b x hb => ?_) ?_ | with_reducible refine kept_foldl_snd (fun b x hb => ?_) ?_ | split)

theorem execHeaderSemWrite_kept {k0 s : State} (hk : Kept k0 s) (o : Origin) (page : Nat) (v : Word) :
    ∀ {s1}, execHeaderSemWrite o page v s = .next s1 → Kept k0 s1 := by
  intro s1 ht; unfold execHeaderSemWrite at ht; simp only [Host.Outcome.next.injEq] at ht; subst ht
  repeat' (first | with_reducible assumption | (simp +contextual (maxDischargeDepth := 99) [*]; done) | (simp (maxDischargeDepth := 99) [State.load_ok ‹_› ‹_›]; done) | (simp (maxDischargeDepth := 99) [State.store_ok ‹_› ‹_›]; done) | (simp (maxDischargeDepth := 99) [State.store_ok ‹_ = Except.ok _› (State.load_ok ‹_ = Except.ok (_, _)› ‹_›)]; done) | (simp (maxDischargeDepth := 99) [State.load_ok ‹State.load _ _ _ _ = Except.ok (_, _)› (State.load_ok ‹State.load _ _ _ _ = Except.ok (_, _)› ‹Kept _ _›)]; done) | (have hz := Kept.snd (a := k0) ‹_ = (_, _)› (by simp (maxDischargeDepth := 99) [‹Kept _ _›]); simp (maxDischargeDepth := 99) [hz]; done) | (simp +contextual (maxDischargeDepth := 99) [*, Mem.wf]; done) | with_reducible refine State.onTaken_kept (by with_reducible assumption) _ _ (fun b x hb => ?_) | with_reducible refine State.withWrite_kept (by with_reducible assumption) _ _ (fun b r hb => ?_) | with_reducible refine kept_foldl (fun b x hb => ?_) ?_ | with_reducible refine kept_foldl_fst (fun b x hb => ?_) ?_ | with_reducible refine kept_foldl_snd (fun b x hb => ?_) ?_ | split)

end Sys2Proof.Machine
end

