-- ==== Sys2Proof/Laws/Kept/Exec.lean ====
section
/-!
SUPPORT. No command breaks what `Kept` says.
-/

namespace Sys2Proof.Machine

theorem exec_kept {k0 s : State} (hk : Kept k0 s) (i : Instr) : ∀ {t}, exec i s = .next t → Kept k0 t := by
  intro t he
  match i with
  | .registerWrite o off bytes v hwInc => exact execRegisterWrite_kept hk o off bytes v hwInc he
  | .counterLowRead o off bytes => exact execCounterLowRead_kept hk o off bytes he
  | .ctrlEnableSet o page => exact execCtrlEnableSet_kept hk o page he
  | .consistencyCheckEnd page => exact execConsistencyCheckEnd_kept hk page he
  | .ctrlEnableClear o page => exact execCtrlEnableClear_kept hk o page he
  | .blockQuiesced page => exact execBlockQuiesced_kept hk page he
  | .eventStatusClear o page mask hw => exact execEventStatusClear_kept hk o page mask hw he
  | .eventEnableWrite o page v => exact execEventEnableWrite_kept hk o page v he
  | .headerSemWrite o page v => exact execHeaderSemWrite_kept hk o page v he
  | .tbEntryWrite o v => exact execTbEntryWrite_kept hk o v he
  | .strideStart p => exact execStrideStart_kept hk p he
  | .assembleDone p => exact execAssembleDone_kept hk p he
  | .forwardSweepDone p => exact execForwardSweepDone_kept hk p he
  | .layerDone p layer routes inputs => exact execLayerDone_kept hk p layer routes inputs he
  | .deadlineExpiry p layer routes => exact execDeadlineExpiry_kept hk p layer routes he
  | .detourWaitExpiry p layer => exact execDetourWaitExpiry_kept hk p layer he
  | .segmentDone p site clip logits carry => exact execSegmentDone_kept hk p site clip logits carry he
  | .sampleDone p rows train => exact execSampleDone_kept hk p rows train he
  | .strideBoundary p => exact execStrideBoundary_kept hk p he
  | .strideHang p => exact execStrideHang_kept hk p he
  | .strideCtrlWrite o p v => exact execStrideCtrlWrite_kept hk o p v he
  | .vectorIssue h x => exact execVectorIssue_kept hk h x he
  | .frontStart h => exact execFrontStart_kept hk h he
  | .stagingFillDone h slot f => exact execStagingFillDone_kept hk h slot f he
  | .drainRow h row form more dst => exact execDrainRow_kept hk h row form more dst he
  | .waxLineLanded h index => exact execWaxLineLanded_kept hk h index he
  | .tileComplete t => exact execTileComplete_kept hk t he
  | .commandStart eng => exact execCommandStart_kept hk eng he
  | .qtailDoorbell o page eng q v popNow => exact execQtailDoorbell_kept hk o page eng q v popNow he
  | .qcfgEnable o page eng q v => exact execQcfgEnable_kept hk o page eng q v he
  | .qcfgDisable o page eng q v => exact execQcfgDisable_kept hk o page eng q v he
  | .qcfgStart o page eng q => exact execQcfgStart_kept hk o page eng q he
  | .commandHang c => exact execCommandHang_kept hk c he
  | .heldRecordsWritten page => exact execHeldRecordsWritten_kept hk page he
  | .nop c => exact execNop_kept hk c he
  | .fence c => exact execFence_kept hk c he
  | .semWait c => exact execSemWait_kept hk c he
  | .semSignal c => exact execSemSignal_kept hk c he
  | .join c => exact execJoin_kept hk c he
  | .leave c => exact execLeave_kept hk c he
  | .suspend c => exact execSuspend_kept hk c he
  | .resume c => exact execResume_kept hk c he
  | .reward c => exact execReward_kept hk c he
  | .groupClose c => exact execGroupClose_kept hk c he
  | .programSet c layout => exact execProgramSet_kept hk c layout he
  | .waxTrain c => exact execWaxTrain_kept hk c he
  | .waxUntrain c => exact execWaxUntrain_kept hk c he
  | .waxStep c => exact execWaxStep_kept hk c he
  | .waxLoad c => exact execWaxLoad_kept hk c he
  | .waxRefresh c => exact execWaxRefresh_kept hk c he
  | .waxEvict c => exact execWaxEvict_kept hk c he
  | .waxStore c set header => exact execWaxStore_kept hk c set header he
  | .waxDelete c => exact execWaxDelete_kept hk c he
  | .waxExport c => exact execWaxExport_kept hk c he
  | .overlaySet c => exact execOverlaySet_kept hk c he
  | .baseLoad c badShards => exact execBaseLoad_kept hk c badShards he
  | .baseUnload c => exact execBaseUnload_kept hk c he
  | .copy c => exact execCopy_kept hk c he
  | .fill c => exact execFill_kept hk c he
  | .allReduce c inputs => exact execAllReduce_kept hk c inputs he
  | .reduceScatter c inputs => exact execReduceScatter_kept hk c inputs he
  | .allGather c inputs => exact execAllGather_kept hk c inputs he
  | .broadcast c data => exact execBroadcast_kept hk c data he
  | .allToAll c inputs => exact execAllToAll_kept hk c inputs he
  | .clReduce p wax group gen step inputs => exact execClReduce_kept hk p wax group gen step inputs he
  | .groupSet c => exact execGroupSet_kept hk c he
  | .peerSet c => exact execPeerSet_kept hk c he
  | .chimneySend c => exact execChimneySend_kept hk c he
  | .fetchTagAcquired => exact execFetchTagAcquired_kept hk he
  | .missTimeout tag => exact execMissTimeout_kept hk tag he
  | .fetchStart => exact execFetchStart_kept hk he
  | .fetchTransferDone tag gen a => exact execFetchTransferDone_kept hk tag gen a he
  | .waxSaveDone wax ok => exact execWaxSaveDone_kept hk wax ok he
  | .holdBudgetExpiry hold => exact execHoldBudgetExpiry_kept hk hold he
  | .memoryRead who dua len macOk => exact execMemoryRead_kept hk who dua len macOk he
  | .memoryWrite who dua data macOk => exact execMemoryWrite_kept hk who dua data macOk he
  | .pageDemote page => exact execPageDemote_kept hk page he
  | .pagePromote page => exact execPagePromote_kept hk page he
  | .migrationSwitch page => exact execMigrationSwitch_kept hk page he
  | .regionZeroFillDone region => exact execRegionZeroFillDone_kept hk region he
  | .liftFillStart => exact execLiftFillStart_kept hk he
  | .expertLanded layer expert digestOk => exact execExpertLanded_kept hk layer expert digestOk he
  | .patrolPassStart => exact execPatrolPassStart_kept hk he
  | .patrolShardChecked digestOk => exact execPatrolShardChecked_kept hk digestOk he
  | .flitSend link f => exact execFlitSend_kept hk link f he
  | .flitReceived link f => exact execFlitReceived_kept hk link f he
  | .creditReturn link vc n => exact execCreditReturn_kept hk link vc n he
  | .replayTimeout link => exact execReplayTimeout_kept hk link he
  | .linkIdleTimeout link => exact execLinkIdleTimeout_kept hk link he
  | .linkTrained link lanes peer => exact execLinkTrained_kept hk link lanes peer he
  | .quarantineReceived epoch => exact execQuarantineReceived_kept hk epoch he
  | .silenceTimeout fabric => exact execSilenceTimeout_kept hk fabric he
  | .chimneyChunkArrived shard children last digestOk bad => exact execChimneyChunkArrived_kept hk shard children last digestOk bad he
  | .preparedReceived group step rank digest => exact execPreparedReceived_kept hk group step rank digest he
  | .outcomeReceived group step commit => exact execOutcomeReceived_kept hk group step commit he
  | .commitTimeout group step => exact execCommitTimeout_kept hk group step he
  | .outcomeQueryReceived group step rank => exact execOutcomeQueryReceived_kept hk group step rank he
  | .ptResizeGo o p => exact execPtResizeGo_kept hk o p he
  | .hearthTransitDone h => exact execHearthTransitDone_kept hk h he
  | .ptFreezeSet o p => exact execPtFreezeSet_kept hk o p he
  | .freezeBudgetExpiry p => exact execFreezeBudgetExpiry_kept hk p he
  | .ptFreezeClear o p => exact execPtFreezeClear_kept hk o p he
  | .imageSave o p => exact execImageSave_kept hk o p he
  | .imageSaveDone p ok => exact execImageSaveDone_kept hk p ok he
  | .imageRestore o p => exact execImageRestore_kept hk o p he
  | .imageRestoreDone p chunksOk => exact execImageRestoreDone_kept hk p chunksOk he
  | .ptAshout o p => exact execPtAshout_kept hk o p he
  | .ashoutDone p => exact execAshoutDone_kept hk p he
  | .mapGo o p v => exact execMapGo_kept hk o p v he
  | .mapDone p => exact execMapDone_kept hk p he
  | .mbT2mProdWrite o p v => exact execMbT2mProdWrite_kept hk o p v he
  | .mbM2tProdWrite o p v => exact execMbM2tProdWrite_kept hk o p v he
  | .attest => exact execAttest_kept hk he
  | .installOpen input => exact execInstallOpen_kept hk input he
  | .installClose => exact execInstallClose_kept hk he
  | .keyRelease input => exact execKeyRelease_kept hk input he
  | .accountKeySet input => exact execAccountKeySet_kept hk input he
  | .accountKeyCreate => exact execAccountKeyCreate_kept hk he
  | .exportKeySet input => exact execExportKeySet_kept hk input he
  | .keyTransfer report => exact execKeyTransfer_kept hk report he
  | .regionSet r => exact execRegionSet_kept hk r he
  | .keyDelete => exact execKeyDelete_kept hk he
  | .floorCommit => exact execFloorCommit_kept hk he
  | .fbRequestTimeout => exact execFbRequestTimeout_kept hk he
  | .sessionExpiry session => exact execSessionExpiry_kept hk session he
  | .trngStart => exact execTrngStart_kept hk he
  | .trngTestsDone pass => exact execTrngTestsDone_kept hk pass he
  | .trngConditioned => exact execTrngConditioned_kept hk he
  | .trngContinuousFail => exact execTrngContinuousFail_kept hk he
  | .debugUnlock tokenOk => exact execDebugUnlock_kept hk tokenOk he
  | .resetRequest o domain cause => exact execResetRequest_kept hk o domain cause he
  | .damperDrainTimeout domain => exact execDamperDrainTimeout_kept hk domain he
  | .domainRelease domain => exact execDomainRelease_kept hk domain he
  | .uncorrectableError e => exact execUncorrectableError_kept hk e he
  | .correctableError slice => exact execCorrectableError_kept hk slice he
  | .teardownWatchdog eng p => exact execTeardownWatchdog_kept hk eng p he
  | .hearthSelftestFail h => exact execHearthSelftestFail_kept hk h he
  | .semCfgWrite o v => exact execSemCfgWrite_kept hk o v he
  | .hostLinkDrop => exact execHostLinkDrop_kept hk he
  | .heartbeatTimeout => exact execHeartbeatTimeout_kept hk he
  | .hostHbWrite o => exact execHostHbWrite_kept hk o he
  | .bankingComplete => exact execBankingComplete_kept hk he
  | .adoptGo o v => exact execAdoptGo_kept hk o v he
  | .mcBoot => exact execMcBoot_kept hk he
  | .bootTimeout => exact execBootTimeout_kept hk he
  | .fwCommit o => exact execFwCommit_kept hk o he
  | .fwSwitch o => exact execFwSwitch_kept hk o he
  | .recoveryImageWrite slotB img => exact execRecoveryImageWrite_kept hk slotB img he
  | .orderStepWrite o p v => exact execOrderStepWrite_kept hk o p v he
  | .reportAck tokenSum trainSum => exact execReportAck_kept hk tokenSum trainSum he
  | .energyWindowClose mJ outOfClass => exact execEnergyWindowClose_kept hk mJ outOfClass he
  | .meterCounterLoRead o counter => exact execMeterCounterLoRead_kept hk o counter he
  | .readAccount => exact execReadAccount_kept hk he
  | .readTotal => exact execReadTotal_kept hk he
  | .cert => exact execCert_kept hk he
  | .tamperEvent removed => exact execTamperEvent_kept hk removed he
  | .meterFwChange version => exact execMeterFwChange_kept hk version he
  | .hostLinkTrained mode width => exact execHostLinkTrained_kept hk mode width he
  | .hostReset => exact execHostReset_kept hk he
  | .bar2Access o dua len write => exact execBar2Access_kept hk o dua len write he
  | .placeSet o index => exact execPlaceSet_kept hk o index he
  | .placeClear o index => exact execPlaceClear_kept hk o index he
  | .rdmaIncoming port => exact execRdmaIncoming_kept hk port he
  | .connConnect o port qpn => exact execConnConnect_kept hk o port qpn he
  | .connBroken port cls => exact execConnBroken_kept hk port cls he
  | .pushGo o port => exact execPushGo_kept hk o port he
  | .pushDone port ok => exact execPushDone_kept hk port ok he
  | .regRead m => exact execRegRead_kept hk m he
  | .regWrite m => exact execRegWrite_kept hk m he
  | .duaRead m => exact execDuaRead_kept hk m he
  | .duaWrite m => exact execDuaWrite_kept hk m he
  | .heartbeat m => exact execHeartbeat_kept hk m he
  | .standbyRailUp => exact execStandbyRailUp_kept hk he
  | .powerStepDone ok mainPermit => exact execPowerStepDone_kept hk ok mainPermit he
  | .mainRailFault => exact execMainRailFault_kept hk he
  | .mainPermitFall => exact execMainPermitFall_kept hk he
  | .standbyRailLoss => exact execStandbyRailLoss_kept hk he
  | .modRst => exact execModRst_kept hk he
  | .dvfsCheck watts tj => exact execDvfsCheck_kept hk watts tj he
  | .thermalTrip => exact execThermalTrip_kept hk he
  | .coolantOutOfRange inlet flow => exact execCoolantOutOfRange_kept hk inlet flow he
  | .instGo o => exact execInstGo_kept hk o he
  | .instShardWritten shard digestOk scaleFF => exact execInstShardWritten_kept hk shard digestOk scaleFF he
  | .instDone => exact execInstDone_kept hk he
  | .mainRailReturn mainPermit => exact execMainRailReturn_kept hk mainPermit he
  | .thermalTripRelease => exact execThermalTripRelease_kept hk he
  | .networkLinkTrained port half => exact execNetworkLinkTrained_kept hk port half he
  | .networkLinkDown port => exact execNetworkLinkDown_kept hk port he
  | .peerKeyReceived k => exact execPeerKeyReceived_kept hk k he
  | .baseShardRewritten dua ok => exact execBaseShardRewritten_kept hk dua ok he
  | .waxReloadDone slot ok => exact execWaxReloadDone_kept hk slot ok he
  | .commandEnd c how => exact execCommandEnd_kept hk c how he
  | .firmwareUpdate slotB img => exact execFirmwareUpdate_kept hk slotB img he
  | .settingsUpdate st => exact execSettingsUpdate_kept hk st he
  | .meterCardPresent => exact execMeterCardPresent_kept hk he

end Sys2Proof.Machine
end

