-- ==== Sys2Proof/Tests/Slice0.lean ====
section
/-!
SUPPORT. Tests: terms that each check of WellFormed refuses, and states and operands that meet the hypotheses of the statements.
-/

namespace Sys2Proof.Tests
set_option Elab.async false
open Sys2Proof Sys2Proof.Machine

/-! ## WellFormed refuses -/

def flit0 : Flit := { src := 1, dst := 2, vc := 1, stream := 0, epoch := 1, seq := 0, payload := List.replicate 256 0 }
def msg0 : MgmtMsg := { port := 0, seq := 1, addr := 0, bytes := 4, data := List.replicate 32 0 }

theorem wf_access_bytes : (Instr.registerWrite .mc 0 0 0 0).wf = false ∧ (Instr.counterLowRead .mc 0 65).wf = false := by decide +kernel
theorem wf_access_window : (Instr.registerWrite .mc 0x3FFFFFF 1 0 0).wf = true ∧ (Instr.registerWrite .mc 0x4000000 1 0 0).wf = false := by
  decide +kernel
theorem wf_page : (Instr.ctrlEnableSet .mc 0x3FFF).wf = true ∧ (Instr.ctrlEnableSet .mc 0x4000).wf = false ∧ (Instr.blockQuiesced 0x4000).wf = false := by
  decide +kernel
theorem wf_range : (Instr.memoryRead (secureOf 63) (2 ^ 52 - 1) 1 true).wf = true ∧ (Instr.memoryRead (secureOf 63) (2 ^ 52) 1 true).wf = false ∧
    (Instr.memoryWrite (secureOf 63) 0 [] true).wf = false := by decide +kernel
theorem wf_bar2 : (Instr.bar2Access .mc 0 2 (some [0])).wf = false ∧ (Instr.bar2Access .mc 0 1 (some [0])).wf = true := by decide +kernel
theorem wf_flit : (Instr.flitSend 0 flit0).wf = true ∧ (Instr.flitSend 0 { flit0 with payload := [] }).wf = false ∧
    (Instr.flitReceived 0 { flit0 with src := 32768 }).wf = false ∧ (Instr.flitReceived 0 { flit0 with dst := 32768 }).wf = false := by decide +kernel
theorem wf_msg : (Instr.regRead msg0).wf = true ∧ (Instr.regRead { msg0 with data := [] }).wf = false ∧
    (Instr.duaWrite { msg0 with bytes := 65536 }).wf = false ∧ (Instr.duaRead { msg0 with addr := 2 ^ 64 }).wf = false := by decide +kernel

/-! ## A running module -/

/-- The module with every domain released and the MC running. -/
def up : State :=
  { State.reset with
    up := List.range 0x88 ++ [0xFF],
    mc := { State.reset.mc with running := true, sbOk := true, mainOk := true, vaultMounted := true } }

/-- A page header that is enabled. -/
def en : PageHdr := { enabled := true, enableBit := true }

def mcReq : Req := ⟨none, true, 0x85, false⟩

/-! ## Witnesses: the machine as a whole -/

theorem wit_step : ({ up with pending := [.hostReset, .correctableError none] }).pending = .hostReset :: [.correctableError none] := rfl
theorem wit_idle : up.pending = [] ∧ up.resets = [] := by decide +kernel
theorem wit_mem : State.reset.mem.wf := by decide +kernel
theorem wit_kept : State.reset.mem.wf ∧ ∃ t, step { up with pending := [.hostHbWrite .mc] } = .next t := ⟨by decide +kernel, _, rfl⟩

/-- Memory with one page of partition 0, one of BASE and one of the module, the last secure, read-only or plain. -/
def pages (e : PageEnt) : State := { up with mem := { up.mem with pmap := [(3, e)] } }
def own0 : PageEnt := { frame := 7, tier := 1, owner := 0, valid := true }
def p0 : MemWho := whoOf 0

theorem wit_stored : (up.page ((5 + 0) / pageSize)).owner ≠ 62 ∧ (0 : Nat) < [(1 : Byte)].length := by decide +kernel
theorem wit_absent_top : (0 : Nat) < 1 ∧ regTop ≤ regTop := by decide +kernel
theorem wit_absent_vault : memTop ≤ vaultTop - 1 ∧ vaultTop - 1 + 1 ≤ vaultTop ∧ memTop + up.baseRegion < vaultTop - 1 + 1 := by decide +kernel
theorem wit_absent_page : memTop - 1 + 1 ≤ memTop ∧ (up.page ((memTop - 1) / pageSize)).valid = false := by decide +kernel
theorem wit_rules_page : 3 * pageSize + (pageSize - 1) + 1 ≤ memTop ∧ (3 * pageSize) / pageSize = (3 * pageSize + pageSize - 1) / pageSize ∧
    ((pages own0).page 3).valid = true := by decide +kernel
theorem wit_rules_who : ((pages own0).page 3).owner = 0 ∧ ((pages { own0 with owner := 62 }).page 3).owner = 62 ∧
    ((pages { own0 with secure := true }).page 3).secure = true ∧ ((pages { own0 with readOnly := true }).page 3).readOnly = true := by decide +kernel
theorem wit_read : (0 : Nat) < 64 ∧ 3 * pageSize + 64 ≤ memTop ∧ (pages own0).memCheck p0 false (3 * pageSize) 64 = none ∧
    (pages own0).rangeFilling (3 * pageSize) 64 = false ∧ (pages own0).poisonIn (3 * pageSize) 64 = none := by decide +kernel
theorem wit_write : (pages own0).memCheck p0 true (4 * pageSize - 1) 1 = none ∧ (pages own0).rangeFilling (4 * pageSize - 1) 1 = false ∧
    (pages own0).partialPoison (4 * pageSize - 1) 1 = none := by decide +kernel

/-! ## Witnesses: register pages -/

/-- The module with one page header. -/
def hdrs (page : Nat) (h : PageHdr) (s : State := up) : State := { s with pages := [(page, h)] }

theorem wit_register : (0x040 : Nat) % 4 = 0 ∧ 0x020 ≤ (pgWX * 0x1000 + 0x040) % 0x1000 ∧ kindOf pgWX = some (.wx, 0) ∧
    (regAt .wx 0x040).isSome = true := by decide +kernel
theorem wit_register_pass : up.access .mc (pgWX * 0x1000 + 0x040) true = .pass up mcReq := rfl
theorem wit_register_se : (regAt .se 0x044).isSome = true ∧ (0x044 : Nat) ≠ 0x054 ∧ (0x044 : Nat) ≠ 0x128 := by decide +kernel
theorem wit_register_checked : ∃ g, regAt .wx 0x040 = some g ∧ g.chk ≠ 0 ∧ ((hdrs pgWX en).hdr pgWX).enabled = true := ⟨_, rfl, by decide +kernel⟩
theorem wit_register_counter : isCounter .wx 0x020 = true ∧ isCounter .wx 0x040 = false := by decide +kernel
theorem wit_register_wide : up.requester .mc true = .pass up mcReq ∧ ¬ ((8 : Nat) = 4 ∧ (0 : Nat) % 4 = 0) := ⟨rfl, by decide⟩
theorem wit_register_unreached : mayReach ⟨some 0, false, 0x48, true⟩ .wx 0 = false := by decide +kernel
theorem wit_counter_low : up.access .mc (pgWX * 0x1000 + 0x020) false = .pass up mcReq ∧ (pgWX * 0x1000 + 0x020) % 8 = 0 := ⟨rfl, by decide +kernel⟩
theorem wit_counter_high : up.access .mc (pgWX * 0x1000 + 0x024) false = .pass up mcReq ∧ (pgWX * 0x1000 + 0x024) % 8 = 4 ∧
    isCounter .wx 0x024 = true := ⟨rfl, by decide +kernel⟩
theorem wit_counter_misaligned : up.requester .mc false = .pass up mcReq ∧ ¬ ((8 : Nat) = 8 ∧ (4 : Nat) % 8 = 0) := ⟨rfl, by decide⟩
theorem wit_enable : kindOf pgWX = some (.wx, 0) ∧ (up.hdr pgWX).checking = none ∧ (up.hdr pgWX).fenced = false := by decide +kernel
theorem wit_enable_pass : up.access .mc (pgWX * 0x1000 + 8) true = .pass up mcReq := rfl
theorem wit_enable_fenced : ((hdrs pgWX { fenced := true }).hdr pgWX).fenced = true := by decide +kernel
theorem wit_enable_checking : ((hdrs pgWX { checking := some [] }).hdr pgWX).checking.isSome = true ∧
    ((hdrs pgWX { checking := some [] }).access .mc (pgWX * 0x1000 + 8) true = .pass (hdrs pgWX { checking := some [] }) mcReq) := ⟨by decide +kernel, rfl⟩

/-- A module with one partition in a state. -/
def pt (st : InstSt) (x : Pt := {}) (s : State := up) : State := { s with pts := [(0, { x with st := st })] }

theorem wit_disable_pt : kindOf (pgPT 0) = some (.pt, 0) ∧ ((pt .enabled).pt 0).st = .enabled := by decide +kernel
theorem wit_disable_pt_pass : (pt .enabled).access .mc (pgPT 0 * 0x1000 + 8) true = .pass (pt .enabled) mcReq := rfl
theorem wit_check_fails : ((hdrs pgWX { checking := some [(0x040, 0)] }).hdr pgWX).enabled = false ∧
    ((hdrs pgWX {}).enableCheck pgWX [(0x040, 0)]).isSome = true := by decide +kernel
theorem wit_check_passes : (hdrs pgLF {}).enableCheck pgLF ((hdrs pgLF {}).snapOf pgLF) = none ∧ Kind.lf ∉ [Kind.se, .qp, .qpm] := by decide +kernel
theorem wit_quiesced : ((hdrs pgWX { en with stopping := true }).hdr pgWX).stopping = true ∧ (hdrs pgWX { en with stopping := true }).quiescent .wx 0 = true := by
  decide +kernel
theorem wit_events : up.access .mc (pgWX * 0x1000 + 0x014) true = .pass up mcReq ∧ up.access .mc (pgWX * 0x1000 + 0x018) true = .pass up mcReq ∧
    up.access .mc (pgWX * 0x1000 + 0x01C) true = .pass up mcReq := ⟨rfl, rfl, rfl⟩
theorem wit_events_quiet : (((up.hdr pgWX).evStat &&& ~~~(1 : Word)) ||| 0) &&& (up.hdr pgWX).evEn = 0 := by decide +kernel
theorem wit_sem_free : (0x10000 : Word).getLsbD 16 = true ∧ (up.hdr pgWX).semHeld = false := by decide +kernel
theorem wit_sem_held : (((hdrs pgWX { semHeld := true, semPart := 63, semDom := 0x85 }).hdr pgWX).semPart = BitVec.ofNat 6 mcReq.partNo) ∧
    ((hdrs pgWX { semHeld := true, semPart := 63, semDom := 0x85 }).hdr pgWX).semDom = BitVec.ofNat 8 mcReq.dom := by decide +kernel
theorem wit_table_pass : up.access .mc (pgTB * 0x1000 + 0x044) true = .pass up mcReq := rfl
theorem wit_table : tableShape 1 = some (32, 16) ∧ 15 < 16 ∧ 16 ≤ fld (0x10 : Word) 15 0 := by decide +kernel
theorem wit_table_unknown : tableShape 0xFF = none := by decide +kernel

/-! ## Witnesses: strides -/

/-- A module with one stride context of partition 0. -/
def ses (e : Se) (s : State := up) : State := { s with se := [(0, e)] }

theorem wit_stride_busy : ((ses { st := .paused }).seOf 0).st ≠ .idle := by decide +kernel
theorem wit_assemble : ((ses { st := .assemble }).seOf 0).st = .assemble ∧ ((ses { st := .assemble }).seOf 0).ordered = false := by decide +kernel

/-- A base of one layer with one routed expert. -/
def base1 : Manifest := { layers := [{ routed := 1 }] }
def based (s : State := up) : State := { s with lift := { s.lift with base := some base1, installed := some base1 } }

/-- A partition that may start a stride: two hearths, a base and a decoding slot. -/
def ready : State :=
  { pt .enabled {} (hdrs (pgSE 0) en (based (ses {}))) with hearths := [(0, { owner := some 0 }), (1, { owner := some 0 })],
                                                            slots := [(4095, { st := .decoding })] }

theorem wit_stride_start : (ready.seOf 0).st = .idle ∧ ready.strideMayStart 0 = true := by decide +kernel

theorem wit_sweep_done : ((based (ses { st := .forward, layer := 1 })).seOf 0).layer = base1.layers.length ∧
    (based (ses { st := .forward, layer := 1 })).lift.base = some base1 := by decide +kernel
theorem wit_layer : ((based (ses { st := .forward })).seOf 0).layer = 0 ∧ 0 < (based (ses { st := .forward })).layers ∧
    (based (ses { st := .forward })).expertsOpen 0 0 [] = false ∧ (based (ses { st := .forward })).rerunNow 0 0 = false := by decide +kernel
theorem wit_layer_waits : ∃ w ∈ ((based (ses { st := .forward, waitLayers := [{ layer := 0, since := 0, routes := [] }] })).seOf 0).waitLayers, w.layer = 0 :=
  ⟨_, List.mem_singleton.mpr rfl, rfl⟩
theorem wit_layer_reruns : ({ based (ses { st := .forward, layerSat := 1, layerConv := 1 }) with
    mc := { up.mc with bundle := { up.mc.bundle with rerun := [(0, { enable := true })] } } }).rerunNow 0 0 = true := by decide +kernel
theorem wit_hang : ((ses { st := .forward }).seOf 0).st ≠ .idle ∧ ((ses { st := .forward }).seOf 0).start +
    ((ses { st := .forward }).frc (pgSE 0) 0x044).toNat < ({ ses { st := .forward } with nowUs := 2 ^ 32 }).nowUs := by decide +kernel
theorem wit_sweep : ((ses { st := .sweep }).seOf 0).sweeping.entries = [] ∧ ((ses { st := .sweep }).seOf 0).st = .sweep := by decide +kernel
theorem wit_sweep_cohort : ((ses { st := .sweep, sweeping := { entries := [1] } }).seOf 0).sweeping.entries ≠ [] := by decide +kernel
theorem wit_sample : (ses { st := .sample }).logitsGiven 0 [] [] = true := by decide +kernel
theorem wit_boundary : ((ses { st := .boundary }).seOf 0).bStage = 0 ∧ (ses { st := .boundary }).meter.held.length < 4096 ∧
    (ses { st := .boundary }).outcomeWait 0 = false ∧ (ses { st := .boundary }).reshardWait 0 = false := by decide +kernel
theorem wit_boundary_end : ((ses { st := .boundary, bStage := 2 }).seOf 0).bStage = 2 ∧ ((ses { st := .boundary, bStage := 2 }).heldOf 0).comp = [] := by
  decide +kernel
theorem wit_stride_ctrl : (ses { st := .paused }).access .mc (pgSE 0 * 0x1000 + 0x054) true = .pass (ses { st := .paused }) mcReq := rfl

/-! ## Witnesses: detours and hearths -/

/-- A streamed base whose first layer's one expert has not landed, in a forward stride at that layer with its deadline past. -/
def late (mode : Nat) (ordered : Bool := false) : State :=
  let s := based (ses { st := .forward, ordered := ordered })
  { s with lift := { s.lift with streamed := true, dl := [(0, 0)] }, nowUs := 1,
           mc := { s.mc with bundle := { s.mc.bundle with detour := [(0, { mode := mode, waitMax := 1 })] } } }
def route0 : RowRoute := { row := 0, ranked := [0], selected := 1 }

theorem wit_deadline : (late 0).deadlineFell 0 0 = true ∧ [route0].filter (fun r => !((late 0).missing 0 r).isEmpty) ≠ [] ∧
    ((late 0).detourEnt 0).mode = 0 ∧ ((late 1).detourEnt 0).mode = 1 ∧ ((late 2).detourEnt 0).mode = 2 ∧ ((late 0 true).seOf 0).ordered = true := by
  decide +kernel
theorem wit_layer_open : (late 0).expertsOpen 0 0 [route0] = true := by decide +kernel
theorem wit_detour_wait : (({ ses { st := .forward, waitLayers := [{ layer := 0, since := 0, routes := [] }] } with nowUs := 1 } : State).seOf 0).waitLayers.find?
    (fun w => w.layer == 0) = some { layer := 0, since := 0, routes := [] } := by decide +kernel

/-- A pass of a tile of one 16-wide K-chunk and its stage. -/
def hdr0 : PassHdr :=
  { part := 0, fromSealed := false, tile := 0, layer := 0, stored := 1, mode := 1, transposed := false, k := 16, n := 16, kch := 0, nch := 0, grp := 0,
    rows := [0], weight := 0, input := 0, site := none, inRec := 0, outRec := 1, outBuf := 0, conv := 0, outs := [] }
def stage0 : StageData := { hdr := hdr0, codes := [], scales := [], side := [] }
def acc0 : Accum := { fromSealed := false, tile := 0, conv := 0, nch := 0, grp := 0, rows := [0], lines := [], prefetch := false }
def row0 : Rows := { kind := .prompt, id := 0, pos := 0, n := 1, wax := 0, version := 0, inf := none }
def tile0 : Tile :=
  { m16 := 1, n16 := 1, k16 := 1, mode := 1, report := false, transposed := false, siteBit := false, layer := 0, site := 0, input := 0, weight := 3 * pageSize,
    inScale := 0, outScale := 0, inBuf := 0, outBuf := 0 }
def hs (h : Hearth) (s : State := based (ses { st := .forward, rows := [row0], program := [tile0] })) : State :=
  { s with hearths := [(63, h)], pages := [(pgHT 63, en)] }

theorem wit_vector : ((hs { owner := some 0, pass := some stage0, accs := [acc0] }).hearth 63).pass = some stage0 ∧ (hs {}).sweeping 0 = true ∧
    0 ∈ stage0.hdr.rows ∧ ((hs {}).passRow 0 0).isSome = true ∧
    (((hs { owner := some 0, pass := some stage0, accs := [acc0] }).hearth 63).accOf hdr0).isSome = true ∧
    hdr0.kch ∉ (((hs { owner := some 0, pass := some stage0, accs := [acc0] }).hearth 63).sumsOf hdr0 0).issued ∧
    (List.replicate hdr0.depth (0 : BF16)).length = hdr0.depth := by decide +kernel
theorem wit_vector_waits : ((hs { owner := some 0, pass := some stage0, stageWait := true }).hearth 63).stageWait = true := by decide +kernel
theorem wit_front : (hs {}).enabled (pgHT 63) = true ∧ ((hs { owner := some 0, stage0 := some stage0 }).hearth 63).endFront.stage0 = some stage0 ∧
    (hs {}).layerNow hdr0 = true ∧ (hs { owner := some 0, stage0 := some stage0 }).passReady
      ((hs { owner := some 0, stage0 := some stage0 }).hearth 63).endFront hdr0 = true := by decide +kernel
theorem wit_front_waits : ((hs { owner := some 0 }).hearth 63).endFront.stage0 = none ∧ ((hs { owner := some 0 }).hearth 63).endFront.owner.isSome = true := by
  decide +kernel

def fill0 : FillReq :=
  { part := 0, fromSealed := false, tile := 0, kch := 0, nch := 0, grp := 0, groups := [[0]], inRec := 0, outRec := 1, src := 1, waited := 0 }
def fillState : State := { hs { owner := some 0, nextSlot := true } with mem := { up.mem with pmap := [(3, { own0 with tier := 2 })] } }

/-- Do the weights of a fill read, codes first and then scales? -/
def fillReads (s : State) (f : FillReq) : Bool :=
  match s.passOf f with
  | none => false
  | some d =>
    let who : MemWho := { part := some f.part, secure := false, hearth := some 63 }
    match s.readLines who d.part true d.codeRanges with
    | .error _ => false
    | .ok x => (match x.2.readLines who d.part true d.scaleRanges with | .ok _ => true | .error _ => false) && s.fillOk 63 f d && !d.transposed

theorem wit_fill : fillReads fillState fill0 = true ∧ fill0.src ≠ 0 ∧ fill0.src ≠ 3 ∧ (fillState.hearth 63).stage0 = none := by decide +kernel
theorem wit_drain : ((hs { owner := some 0, accs := [acc0], drainIn := [{ row := 0, hdr := { hdr0 with k := 257 }, cols := [] }] }).hearth 63).drainIn =
    [{ row := 0, hdr := { hdr0 with k := 257 }, cols := [] }] ∧ ({ hdr0 with k := 257 } : PassHdr).kchunks = 2 ∧ hdr0.kchunks = 1 ∧
    (hs {}).lineOf hdr0 0 = none := by decide +kernel
theorem wit_line : ((hs { lines := [{ layer := 0, site := 0, slot := 0, version := 1, group := 0 }] }).hearth 63).lines[0]? =
    some { layer := 0, site := 0, slot := 0, version := 1, group := 0 } := by decide +kernel

/-! ## Witnesses: queues and commands -/

/-- A command of partition 0's page (or of page `pg`) taken by an engine. -/
def st (eng op : Nat) (body : List Byte := []) (pg : Nat := 0) : Started :=
  { page := pg, eng := eng, q := 0, seq := 1, tag := 1, opcode := op, notify := true, quiet := false, fenceBit := false, cookie := 0, budget := 1, start := 0,
    ops := List.replicate 16 0 ++ body }
def cr (eng : Fin 5) (pg : QPage := 0) : CmdRef := ⟨pg, eng, 0, 1⟩
def cmds (l : List Started) (s : State := up) : State := { s with started := l }
def le (v n : Nat) : List Byte := leBytes v n

/-- A page of partition 0 with bytes from its start, in coherent memory. -/
def mem (b : List Byte) (s : State := up) : State :=
  { s with mem := { s.mem with pmap := [(3, { own0 with tier := 2 })] } }.storeRaw (3 * pageSize) b
def at3 : List Byte := le (3 * pageSize) 8

def good {α ε : Type} (x : Except ε α) : Bool := match x with | .ok _ => true | .error _ => false
def reason {ε : Type} (x : Except (Nat ⊕ Nat) ε) : Option Nat := match x with | .error (.inl r) => some r | _ => none

theorem wit_nop : (cmds [st 0 0x00]).taken (cr 0) 0x00 = some (st 0 0x00) ∧ (st 0 0x00).page < 33 ∧ (st 0 0x00).eng ≠ 3 := by decide +kernel
theorem wit_end_status : ∀ n ∈ ([0, 3, 7, 8, 9, 10, 13] : List Nat), n ∉ [1, 2, 4, 5, 6] := by decide +kernel
theorem wit_end_agree : ({ cmds [st 0 0x00] with queues := [(0, { taken := 1 })] } : State).queue (st 0 0x00).qnum = { taken := 1 } ∧
    ((cmds [st 0 0x00]).started.filter (fun y => y.key != (st 0 0x00).key && y.qnum == (st 0 0x00).qnum)).length = 0 := by decide +kernel
theorem wit_fence : (cmds [st 0 0x01]).taken (cr 0) 0x01 = some (st 0 0x01) ∧
    (cmds [st 0 0x01]).started.takeWhile (fun y => y.key != (st 0 0x01).key) = [] := by decide +kernel
theorem wit_fence_waits : (cmds [{ st 0 0x00 with seq := 0 }, st 0 0x01]).started.takeWhile (fun y => y.key != (st 0 0x01).key) =
    [{ st 0 0x00 with seq := 0 }] ∧ (cmds [{ st 0 0x00 with seq := 0 }, st 0 0x01]).taken (cr 0) 0x01 = some (st 0 0x01) := by decide +kernel
theorem wit_start_none : (up.popBell 0).choose 0 = none := by decide +kernel

/-- A running queue of partition 0 with one record in its ring. -/
def qd (b : List Byte) (x : Queue := { st := .running, tail := 1 }) : State :=
  let s := mem b
  { s with queues := [(0, x)], pts := [(0, { st := .enabled })], pages := [(pgQP 0, en), (pgSE 0, en)],
           regs := [(regKey (pgQP 0) (qOff 0 0), BitVec.ofNat 32 (3 * pageSize)), (regKey (pgQP 0) (qOff 0 0 + 8), 0x10000)] }
def started1 (s : State) : Option (Nat × Nat × Bool) :=
  match (s.popBell 0).choose 0 with
  | none => none
  | some (qp, q, s1) =>
    match s1.load (whoOf qp) (s1.headAddr qp 0 q) (recBytes (s1.qFormat qp 0 q)) with
    | .error _ => none
    | .ok (r, _) => let c := cmdV5 (padTo 64 r); some (c.tag, c.seq, (cmdCheck c 0 qp).isNone)

theorem wit_start : started1 (qd (le 0 4 ++ le 1 2)) = some (1, 0, true) ∧ started1 (qd (le 0 4 ++ le 2 2)) = some (2, 0, true) ∧
    (qd []).edgeFenced 0 = false := by decide +kernel
theorem wit_start_seq : started1 (qd (le 0 4 ++ le 1 2 ++ le 7 2) { st := .running, tail := 1, expSeq := some 6 }) = some (1, 7, true) := by decide +kernel
theorem wit_start_check : started1 (qd (le 0xFF 2 ++ le 0 2 ++ le 1 2)) = some (1, 0, false) := by decide +kernel
theorem wit_bell : up.access .mc (qReg 0 0 0 0x0C) true = .pass up mcReq ∧ (up.queue 0).tail = 0 := ⟨rfl, by decide +kernel⟩
theorem wit_bell_far : (qd []).qSize 0 0 0 < ((0x10000 : Word) - ((qd []).queue 0).head).toNat ∧ ((qd []).queue 0).st = .running := by decide +kernel
theorem wit_qcfg : up.access .mc (qReg 0 0 0 0x08) true = .pass up mcReq ∧ (up.queue 0).st = .disabled := ⟨rfl, by decide +kernel⟩
theorem wit_qcfg_on : ((qd []).queue 0).st ≠ .disabled ∧ (qd []).qcfg 0 0 0 &&& 0x7F = (0 : Word) &&& 0x7F ∧ (qd []).qcfg 0 0 0 &&& 0x7F ≠ (1 : Word) &&& 0x7F := by
  decide +kernel
theorem wit_qstart : ({ up with queues := [(0, { st := .stopped })] } : State).access .mc (qReg 0 0 0 0x08) true =
    .pass { up with queues := [(0, { st := .stopped })] } mcReq := rfl
theorem wit_hang_cmd : (cmds [st 0 0x00]).findCmd (refKey (cr 0)) = some (st 0 0x00) ∧ (st 0 0x00).start + (st 0 0x00).budget < ({ up with nowUs := 2 } : State).nowUs ∧
    ({ up with nowUs := 1 } : State).nowUs ≤ (st 0 0x00).start + (st 0 0x00).budget := by decide +kernel
theorem wit_ends : ∀ op ∈ ([0x40, 0x55, 0x28, 0x58, 0x30, 0x31, 0x50] : List Nat),
    (cmds [{ st 3 op (List.replicate 20 0 ++ [1]) with phase := .running }]).findCmd (refKey (cr 3)) =
      some { st 3 op (List.replicate 20 0 ++ [1]) with phase := .running } ∧
    field (st 3 op (List.replicate 20 0 ++ [1])).ops 36 36 = 1 := by decide +kernel
theorem wit_late : up.findCmd (refKey (cr 0)) = none ∧ refKey (cr 0) ∈ ({ up.mc with late := [refKey (cr 0)] } : Mc).late := by decide +kernel
theorem wit_held : (hdrs (pgQP 0) en).enabled (pgQP 0) = true ∧ (hdrs (pgQP 0) en).enabled (pgSE 0) = false ∧
    ((hdrs (pgQP 0) en).heldOf 0).comp.length ≤ (hdrs (pgQP 0) en).ringRoom (ringCQ 0) ∧
    (hdrs (pgQP 0) en).ringCount (ringCQ 0) ≤ (hdrs (pgQP 0) en).ringSize (ringCQ 0) := by decide +kernel

theorem wit_sem_wait : (cmds [st 4 0x02 (le 16383 2 ++ le 1 2)] { up with sems := [(16383, { part := 0, value := 1 })] }).taken (cr 4) 0x02 =
    some (st 4 0x02 (le 16383 2 ++ le 1 2)) ∧ field (st 4 0x02 (le 16383 2 ++ le 1 2)).ops 16 17 < 16384 ∧ semPart (st 4 0x02) = 0 ∧
    16384 ≤ field (st 4 0x02 (le 16384 2)).ops 16 17 := by decide +kernel
theorem wit_sem_signal : (cmds [st 4 0x03 (le 0 2 ++ le 65535 2)]).taken (cr 4) 0x03 = some (st 4 0x03 (le 0 2 ++ le 65535 2)) ∧
    field (st 4 0x03 (le 0 2 ++ le 65535 2)).ops 18 19 = 65535 ∧ (∀ w ∈ up.fab.rinkWaits, w.sem ≠ 0) := by decide +kernel
theorem wit_sem_stale : ({ up with epochs := [(0x48, 1)] } : State).epoch (semDom (st 0 0x03)) = 1 ∧ (1 : Word).toNat < (2 : Word).toNat ∧
    semDom (st 0 0x03) = 0x48 := by decide +kernel

/-- A join descriptor of one prompt token, one new token, temperature 0 and TOP_P 1. -/
def join1 (wax promptLen : Nat) : List Byte :=
  le wax 6 ++ le 0 2 ++ le 0 8 ++ le promptLen 4 ++ le 1 4 ++ le (3 * pageSize + 128) 8 ++ le 0 2 ++ le 0x3F80 2 ++ le 0 92
def joins (wax promptLen : Nat) : State :=
  let s := mem (join1 wax promptLen) (based (cmds [st 0 0x10 at3]))
  { s with lift := { s.lift with base := some { base1 with vocab := 1 } } }
def joinOutcome (s : State) : Option (Option Nat × Bool × Bool) :=
  match s.load (seWho 0) (3 * pageSize) 128 with
  | .error _ => none
  | .ok (b, s1) =>
    let d := joinDescOf b
    match s1.load (seWho 0) d.promptDua (4 * d.promptLen) with
    | .error _ => some (joinCheck d (joinStopCount b), false, false)
    | .ok (pr, s2) => some (joinCheck d (joinStopCount b), tokensOk 1 (wordsOf pr d.promptLen ++ d.stops), decide (s2.parks.length < 65536))

theorem wit_join : (joins 0 1).taken (cr 0) 0x10 = some (st 0 0x10 at3) ∧ joinOutcome (joins 0 1) = some (none, true, true) := by decide +kernel
theorem wit_join_refused : joinOutcome (joins 0 0) = some (some 0x0233, true, true) := by decide +kernel
theorem wit_join_qpm : (cmds [st 0 0x10 [] 32]).taken (cr 0 32) 0x10 = some (st 0 0x10 [] 32) ∧ 32 ≤ (st 0 0x10 [] 32).page := by decide +kernel
theorem wit_program : (mem [] (based (cmds [st 0 0x16 (at3 ++ le 1 4)]))).taken (cr 0) 0x16 = some (st 0 0x16 (at3 ++ le 1 4)) ∧
    good ((mem [] (based (cmds [st 0 0x16 (at3 ++ le 1 4)]))).load (seWho 0) (3 * pageSize) 64) = true ∧
    layoutOk ⟨2, 2, 1, [1, 1, 1, 1], 1⟩ 4 = true ∧ layoutOk ⟨2, 2, 1, [1, 1, 1, 1], 2⟩ 4 = false := by decide +kernel
theorem wit_slot : ∀ op ∈ ([0x11, 0x12, 0x13] : List Nat), (cmds [st 0 op (le 4095 2 ++ le 1 2)]).taken (cr 0) op = some (st 0 op (le 4095 2 ++ le 1 2)) ∧
    field (st 0 op (le 4095 2 ++ le 1 2)).ops 16 17 % 2 ^ 12 = 4095 ∧ field (st 0 op (le 4095 2 ++ le 1 2)).ops 18 19 = ({} : Slot).gen := by decide +kernel
theorem wit_training : ∀ op ∈ ([0x14, 0x15] : List Nat), (cmds [st 0 op (le 16383 2)]).taken (cr 0) op = some (st 0 op (le 16383 2)) ∧
    field (st 0 op (le 16383 2)).ops 16 17 % 2 ^ 14 = 16383 := by decide +kernel
theorem wit_training_qpm : (cmds [st 0 0x14 [] 32]).taken (cr 0 32) 0x14 = some (st 0 0x14 [] 32) ∧
    (({ up with holds := [(0, { st := .held })] } : State).hold 0).st ≠ .free ∧ (up.hold 0).st = .free := by decide +kernel


/-! ## Witnesses: training, residency, the store -/

def cfg1 : List Byte := le 1 6 ++ le 0 2 ++ le 0 2 ++ le 1 1 ++ le 0 1 ++ le 0 20 ++ le 1 4 ++ le 0 28
/-- A partition that may train one wax and holds WAX_TRAIN. -/
def trains : State := pt .enabled { cur := { wxs := 1, inf := 2 } } (mem cfg1 (based (cmds [st 0 0x20 at3])))
def trainAnswer (s : State) : Option (Option Nat) :=
  match s.load (st 0 0x20 at3).who (3 * pageSize) 64 with | .error _ => none | .ok (b, s1) => some (s1.trainCheck 0 (trainCfgOf b) b)

theorem wit_train : trains.taken (cr 0) 0x20 = some (st 0 0x20 at3) ∧ trainAnswer trains = some none := by decide +kernel
theorem wit_train_refused : trainAnswer { trains with pts := [] } = some (some 0x050C) := by decide +kernel
theorem wit_train_qpm : (cmds [st 0 0x20 [] 32]).taken (cr 0 32) 0x20 = some (st 0 0x20 [] 32) := by decide +kernel

/-- A wax of partition 0 in a waxing slot. -/
def waxing (y : WaxingSlot := {}) (s : State := up) : State := { s with wxs := [(1023, { y with used := true, wax := 5 })] }

theorem wit_untrain : ∀ op ∈ ([0x21, 0x22] : List Nat), (waxing {} (cmds [st 0 op (le 5 6)])).taken (cr 0) op = some (st 0 op (le 5 6)) ∧
    (waxing {} (cmds [st 0 op (le 5 6)])).namedWaxing (st 0 op (le 5 6)) = some 1023 ∧ up.namedWaxing (st 0 op (le 5 6)) = none := by decide +kernel
theorem wit_untrain_pending : ((waxing { untrain := some (0, 0, 0, 0) }).wxOf 1023).untrain.isSome = true ∧ ((waxing {}).wxOf 1023).untrain = none := by
  decide +kernel

def fetch0 : Fetch := { id := 0, part := 0, wax := 5, version := 2, kind := .first, st := .miss, tag := some (511, 127) }
def fetches (l : List Fetch) (s : State := up) : State := { s with wx := { s.wx with fetches := l }, pages := [(pgWX, en)] }
/-- WAX_LOAD of tag 511 under generation 127, from port 1. -/
def load1 : Started := st 1 0x23 (le (127 * 512 + 511) 2 ++ le 1 1)
def conns (s : State := up) : State := { s with host := { s.host with conns := [(3, { valid := true }), (4, { valid := true }), (5, { valid := true }), (6, { valid := true })] } }

theorem wit_load : (fetches [fetch0] (cmds [load1])).taken (cr 1) 0x23 = some load1 ∧
    (fetches [fetch0]).wx.fetches.find? (fun f => f.tag == some (field load1.ops 16 17 % 512, field load1.ops 16 17 / 512) && f.st == .miss && f.load.isNone) =
      some fetch0 ∧ load1.page < 32 ∧ fetch0.part = load1.page ∧ (conns.conn 1 0).valid = true ∧ (up.conn 1 0).valid = false := by decide +kernel
theorem wit_load_dropped : up.wx.fetches.find? (fun f => f.tag == some (511, 127) && f.st == .miss && f.load.isNone) = none := by decide +kernel

/-- An inference slot with a wax's version, of partition 0. -/
def resident (n v : Nat) (s : State := up) : State := { s with infs := [(n, { gen := 1, st := .valid, wax := 5, version := v })] }

theorem wit_refresh : (resident 8191 2 (cmds [st 1 0x24 (le 5 6 ++ le 0 2 ++ le 2 4)])).taken (cr 1) 0x24 = some (st 1 0x24 (le 5 6 ++ le 0 2 ++ le 2 4)) ∧
    (resident 8191 2).newestSlot 0 5 = some 8191 ∧ 2 ≤ ((resident 8191 2).inf 8191).version ∧ ((resident 8191 1).inf 8191).version < 2 ∧
    (resident 8191 2).waxingOf 5 = none ∧ (waxing).waxingOf 5 = some 1023 := by decide +kernel
theorem wit_evict : (resident 8191 2 (cmds [st 1 0x25 (le 8191 2 ++ le 1 2)])).taken (cr 1) 0x25 = some (st 1 0x25 (le 8191 2 ++ le 1 2)) ∧
    ((resident 8191 2).inf (field (st 1 0x25 (le 8191 2 ++ le 1 2)).ops 16 17 % 8192)).gen = field (st 1 0x25 (le 8191 2 ++ le 1 2)).ops 18 19 ∧
    ((resident 8191 2).inf 8191).st ≠ .free ∧ ((resident 8191 2).inf 8191).owner = 0 := by decide +kernel

/-- A base with one site of one channel, and the record of a wax on it, whose key is here. -/
def base2 : Manifest := { layers := [{ sites := [1] }], siteMap := 7 }
def desc5 : List Byte := le 5 6 ++ le 0 2 ++ le 9 4 ++ le 2 4 ++ le 0 2 ++ le 1 2 ++ le 7 4 ++ le 0 40
def keyed (s : State := up) : State :=
  { s with lift := { s.lift with base := some base2, installed := some base2 }, fbx := { s.fbx with keys := [(4095, { used := true, account := 9 })] },
           pts := [(0, { st := .enabled, cur := { accts := [9] } })] }
/-- A record header: component, count, payload bytes. -/
def pq1 (component count bytes : Nat) : List Byte :=
  le 1 2 ++ le 0 1 ++ le component 1 ++ le 5 6 ++ le 0 6 ++ le 2 4 ++ le 0 4 ++ le count 4 ++ le bytes 4 ++ le 0 32
def rcd1 (component : Nat) : PqRec := let p : List Byte := [0, 1]; let h := pq1 component 1 2; ⟨h, p, true, pqDigest h p⟩
/-- The set of the high halves: scale, offset and manifest record. -/
def set1 : List PqRec :=
  let p := leBytes (rcd1 0).digest.toNat 32 ++ leBytes (rcd1 8).digest.toNat 32
  let h := pq1 0x0F 1 64
  [rcd1 0, rcd1 8, ⟨h, p, true, pqDigest h p⟩]

theorem wit_set_good : ∀ r ∈ set1, pqGood r = true := by
  intro r hr
  simp only [set1, List.mem_cons, List.not_mem_nil, or_false] at hr
  obtain rfl | rfl | rfl := hr <;> simp [pqGood, rcd1]
theorem wit_set : setCheck base2 5 set1 desc5 = none := by
  have h0 : set1.getLast?.map (fun r => (pqComponent r, r.payload)) = some (0x0F, set1.dropLast.flatMap (fun r => leBytes r.digest.toNat 32)) := rfl
  unfold setCheck
  rw [if_neg (by decide +kernel), if_neg (by decide +kernel), if_neg (by decide +kernel), if_neg (by decide +kernel), if_neg (by decide +kernel)]
  simp only [h0, ne_eq, not_true_eq_false, ↓reduceIte]
  exact if_neg (by decide +kernel)
theorem wit_set_record : (keyed.recCheck 0 (setRec base2 desc5 set1)) = none ∧ 0 < keyed.framesFree ∧ (setRec base2 desc5 set1).desc.wax = 5 := by
  decide +kernel
theorem wit_set_bad : ∃ r ∈ [({ rcd1 0 with tagOk := false } : PqRec)], pqGood r = false := ⟨_, List.mem_singleton.mpr rfl, rfl⟩
theorem wit_set_short : setCheck base2 5 [rcd1 0, rcd1 8] desc5 = some 0x0323 := by decide +kernel
theorem wit_store : good ((mem [] (cmds [st 1 0x26 (at3 ++ le 64 4)])).load (st 1 0x26).who (3 * pageSize) 64) = true ∧
    (mem [] (cmds [st 1 0x26 (at3 ++ le 64 4)])).taken (cr 1) 0x26 = some (st 1 0x26 (at3 ++ le 64 4)) := by decide +kernel
theorem wit_delete : (cmds [st 1 0x27 (le 5 6)]).taken (cr 1) 0x27 = some (st 1 0x27 (le 5 6)) ∧ (waxing).waxingOf 5 = some 1023 := by decide +kernel

/-- WAX_EXPORT of layer 0, site 0, the high halves, class 0, to local memory or over port 1. -/
def export1 (far : Nat) : Started :=
  st 1 0x28 (le 5 6 ++ le 0 2 ++ le 2 4 ++ le 0 2 ++ le 0 2 ++ le 1 2 ++ le 1 1 ++ le 0 1 ++ le far 1 ++ le 1 1 ++ le 0 2 ++ at3)
def rec5 : WaxRec := headerRec desc5
def exports (s : State := keyed) : State :=
  { s with infs := [(0, { st := .valid, wax := 5, version := 2, rcd := rec5 })],
           host := { s.host with place := [(0, { valid := true, owner := 0, base := 3 * pageSize, len := pageSize, expt := true })] } }

theorem wit_export : ∀ o ∈ ([0, 1] : List Nat), (exports (cmds [export1 o] keyed)).taken (cr 1) 0x28 = some (export1 o) ∧
    exports.exportCheck (export1 o) = none ∧ exports.exportSource (export1 o) 5 2 = some (rec5, false) ∧
    field (export1 o).ops 34 34 = 1 ∧ field (export1 o).ops 36 36 = o ∧ field (export1 o).ops 37 37 ≤ 1 := by decide +kernel
theorem wit_export_key : (exports.exportKey 0 5 9).isSome = true ∧ exports.exportKey 1 5 9 = none := by decide +kernel
theorem wit_export_entry : exports.exportEntry 0 (3 * pageSize) pageSize = true ∧ exports.exportEntry 0 (3 * pageSize) (pageSize + 1) = false := by decide +kernel
theorem wit_export_account : up.exportAccount (export1 0) 5 = none ∧
    ({ exports with pts := [] } : State).exportAccount (export1 0) 5 = some 9 ∧ 9 ∉ (({ exports with pts := [] } : State).pt 0).cur.accts := by decide +kernel

/-- OVERLAY_SET of entry 4,095. -/
def overlay1 (valid units : Nat) : Started :=
  st 1 0x29 (le 4095 2 ++ le valid 1 ++ le 0 1 ++ le units 2 ++ le 0 2 ++ le (memTop) 8 ++ at3)

theorem wit_overlay : ∀ v ∈ ([0, 1] : List Nat), (cmds [overlay1 v 1]).taken (cr 1) 0x29 = some (overlay1 v 1) ∧ field (overlay1 v 1).ops 16 17 < 4096 ∧
    (field (overlay1 v 1).ops 18 18).testBit 0 = decide (v = 1) ∧ (mem [] (cmds [overlay1 v 1])).overlayPart (overlay1 v 1) = 0 ∧
    (mem [] (cmds [overlay1 v 1])).overlayCheck 4095 0 memTop 1 (3 * pageSize) = none ∧
    (mem [] (cmds [overlay1 v 1])).overlayCheck 4095 0 memTop 4097 (3 * pageSize) = some 0x0250 := by decide +kernel
theorem wit_overlay_other : (AMap.get {} ({ up with wx := { up.wx with overlay := [(4095, { part := 1, valid := true })] } } : State).wx.overlay 4095).part ≠ 0 := by
  decide +kernel

/-! ## Witnesses: the lift and the copy engine -/

/-- A base with one pinned shard, and one with a routed shard, installed. -/
def shard0 : Shard := { number := 0, offset := 0, length := 64, routed := none, digest := 0 }
def withBase (m : Manifest) (s : State := up) : State := { s with lift := { s.lift with installed := some m }, fbx := { s.fbx with baseKey := some 1 } }
def base3 : Manifest := { shards := [shard0] }

theorem wit_base_load : (withBase {} (cmds [st 3 0x30])).taken (cr 3) 0x30 = some (st 3 0x30) ∧ (withBase {}).lift.installed = some {} ∧
    (withBase {}).loadCheck = none ∧ (withBase base1).loadCheck = some 550 := by decide +kernel
theorem wit_base_bad : (withBase base3).loadCheck = none ∧ ∃ d ∈ base3.shards, d.routed = none ∧ d.number = 0 := by decide +kernel
theorem wit_base_unload : (cmds [st 3 0x31]).taken (cr 3) 0x31 = some (st 3 0x31) ∧ up.anyPartition = false ∧ (pt .enabled).anyPartition = true := by decide +kernel

/-- COPY in partition 0's page. -/
def copy1 (src dst n : Nat) : Started := st 2 0x40 (le (3 * pageSize + src) 8 ++ le (3 * pageSize + dst) 8 ++ le n 8)
def copies (x : Started) : State := mem [1, 2, 3] (cmds [x])
def copied (s : State) (src dst n : Nat) : Bool :=
  match s.load (copy1 0 0 0).who (3 * pageSize + src) n with | .error _ => false | .ok (b, s1) => good (s1.store (copy1 0 0 0).who (3 * pageSize + dst) b)

theorem wit_copy : (copies (copy1 0 64 64)).taken (cr 2) 0x40 = some (copy1 0 64 64) ∧
    copied (copies (copy1 0 64 64)) 0 64 64 = true ∧ (3 * pageSize + 64) + 64 ≤ memTop := by decide +kernel
theorem wit_copy_refused : reason ((cmds [copy1 0 64 64]).load (copy1 0 0 0).who (3 * pageSize) 64) = some 0x0250 := by decide +kernel
theorem wit_fill_cmd : (copies (st 2 0x41 (at3 ++ le 5 8 ++ le 0x04030201 4))).taken (cr 2) 0x41 = some (st 2 0x41 (at3 ++ le 5 8 ++ le 0x04030201 4)) ∧
    good ((copies (st 2 0x41 (at3 ++ le 5 8 ++ le 0x04030201 4))).store (st 2 0x41).who (3 * pageSize) (fillBytes 0x04030201 5)) = true ∧
    reason (up.store (copy1 0 0 0).who (3 * pageSize) (fillBytes 0x04030201 5)) = some 0x0250 := by decide +kernel

/-! ## Witnesses: the fabric -/

/-- A group of two members, rank 0 this module (fabric ID 0), rank 1 module 1, which link 0 joins. -/
def group1 : Group := { id := 9, gen := 3, size := 2, rank := 0, members := [0, 1] }
def joined (s : State := up) : State :=
  { s with fab := { s.fab with groups := [(9, group1)], peers := [(1, 1)], links := [(0, { st := .up, peer := 1, chans := freshChans })] }, pages := [(pgCL, en), (pgFL 0, en)] }
/-- A collective of the group: source, destination, count. -/
def coll (op n : Nat) (root : Nat := 0) : Started :=
  st 4 op (le 9 4 ++ le 3 2 ++ le root 2 ++ at3 ++ le (3 * pageSize + 64) 8 ++ le n 8)
def collective (x : Started) : State := joined (mem (le 0x3F800000 4 ++ le 0x40000000 4) (cmds [x]))
def stores (s : State) (who : MemWho) (n k : Nat) : Bool :=
  match s.load who (3 * pageSize) n with | .error _ => false | .ok (b, s1) => good (s1.store who (3 * pageSize + 64) (padTo k b))

theorem wit_collective_group : ∀ op ∈ ([0x50, 0x51, 0x52, 0x53, 0x54] : List Nat), (collective (coll op 2)).taken (cr 4) op = some (coll op 2) ∧
    (collective (coll op 2)).fab.quarantined = false ∧
    (collective (coll op 2)).groupAt (field (coll op 2).ops 16 19) (field (coll op 2).ops 20 21) = some group1 ∧
    (collective (coll op 2)).lostMember group1 = none ∧ field (coll op 2).ops 40 47 = 2 ∧ field (coll op 2).ops 22 23 < group1.size := by decide +kernel
theorem wit_collective_sums : stores (collective (coll 0x50 2)) (coll 0x50 2).who 8 8 = true ∧ stores (collective (coll 0x51 2)) (coll 0x51 2).who 8 4 = true ∧
    (∀ l ∈ ([[0, 0], [0, 0]] : List (List F32)).set group1.rank (f32sOf (le 1 8) 2), l.length = 2) := by decide +kernel
theorem wit_collective_bytes : stores (collective (coll 0x52 2)) (coll 0x52 2).who 2 4 = true ∧ stores (collective (coll 0x54 2)) (coll 0x54 2).who 4 4 = true ∧
    (∀ l ∈ ([[0, 0], [0, 0]] : List (List Byte)).set group1.rank (le 1 2), l.length = 2) ∧
    (∀ l ∈ ([le 0 4, le 0 4] : List (List Byte)).set group1.rank (le 1 4), l.length = group1.size * 2) := by decide +kernel
theorem wit_collective_root : stores (collective (coll 0x53 2)) (coll 0x53 2).who 2 2 = true ∧ group1.rank = field (coll 0x53 2).ops 22 23 ∧
    stores (collective (coll 0x53 2 1)) (coll 0x53 2 1).who 0 2 = true ∧ group1.rank ≠ field (coll 0x53 2 1).ops 22 23 ∧
    group1.size ≤ field (coll 0x53 2 2).ops 22 23 := by decide +kernel
theorem wit_collective_refused : up.groupAt 9 3 = none ∧ up.lostMember group1 = some 1 ∧
    ({ up with fab := { up.fab with quarantined := true } } : State).fab.quarantined = true := by decide +kernel

/-- A group descriptor of group 9 with two members, listed behind it. -/
def groupDesc (rank : Nat) : List Byte := le 9 4 ++ le 0 4 ++ le 2 4 ++ le rank 4 ++ le (3 * pageSize + 64) 8 ++ le 7 32 ++ le 0 8 ++ le 0 4 ++ le 1 4
def groupSet1 (rank : Nat) : State := mem (groupDesc rank) (cmds [st 4 0x56 at3])
def groupFields (s : State) : Option (Nat × Nat × Nat × Bool) :=
  match s.load (st 4 0x56 at3).who (3 * pageSize) 64 with
  | .error _ => none
  | .ok (b, s1) =>
    match s1.load (st 4 0x56 at3).who (field b 16 23) 8 with
    | .error _ => none
    | .ok (mb, _) => some (field b 0 3, field b 8 11, field b 12 15, dupNat [field mb 0 3 % 2 ^ 21, field mb 4 7 % 2 ^ 21])

theorem wit_group_set : (groupSet1 0).taken (cr 4) 0x56 = some (st 4 0x56 at3) ∧ groupFields (groupSet1 0) = some (9, 2, 0, false) ∧
    groupFields (groupSet1 2) = some (9, 2, 2, false) ∧ (groupSet1 0).groupOf 9 = none ∧ (joined).groupOf 9 = some group1 := by decide +kernel
theorem wit_group_open : ∃ k ∈ ([{ group := 9, gen := 3, wax := 5, part := 0, step := 1, digest := 0, since := 0, prepared := [] }] : List Commit), k.group = 9 :=
  ⟨_, List.mem_singleton.mpr rfl, rfl⟩
theorem wit_peer_set : (cmds [st 4 0x57 (le 32767 2 ++ le 0 2 ++ le 5 4)]).taken (cr 4) 0x57 = some (st 4 0x57 (le 32767 2 ++ le 0 2 ++ le 5 4)) ∧
    field (st 4 0x57 (le 32767 2)).ops 16 17 < 32768 ∧ 32768 ≤ field (st 4 0x57 (le 32768 2)).ops 16 17 := by decide +kernel
theorem wit_chimney : (mem [] (cmds [st 4 0x58 (at3 ++ le 0 4 ++ le 1 4)])).taken (cr 4) 0x58 = some (st 4 0x58 (at3 ++ le 0 4 ++ le 1 4)) ∧
    chimneyOk 0 [(0, [1]), (1, [2, 3])] = true ∧ chimneyOk 0 [(0, [])] = false ∧ (Manifest.shard base3 0).isSome = true ∧ (joined).reachable 0 1 = true := by
  decide +kernel
theorem wit_chimney_read : good ((mem [] (cmds [st 4 0x58 at3])).load (st 4 0x58).who (3 * pageSize) 4096) = true := by decide +kernel
theorem wit_quarantine : up.ownEpoch.toNat < (1 : Word).toNat ∧ up.fab.quarantined = false := by decide +kernel

/-- An open step of the group. -/
def step1 : Commit := { group := 9, gen := 3, wax := 5, part := 0, step := 1, digest := 0, since := 0, prepared := [(0, 0)] }
def stepping (k : Commit := step1) (s : State := joined) : State := { s with fab := { s.fab with commits := [k] }, nowUs := 2 ^ 32 }

theorem wit_silence : (1 : Nat) ≠ (joined).ownId ∧ 1 < 32768 ∧ step1 ∈ stepping.commitsOf 1 ∧
    step1.since + (stepping.frc pgCL 0x04C).toNat ≤ stepping.nowUs ∧
    (∀ k ∈ up.commitsOf 1, up.nowUs < k.since + (up.frc pgCL 0x04C).toNat) := by decide +kernel
theorem wit_prepared : stepping.findCommit 9 1 = some step1 ∧ stepping.groupOf 9 = some group1 ∧ stepping.rankAlive group1 1 = true ∧
    (step1.prepared.any (fun p => p.1 == 1)) = false ∧ stepping.coordinator group1 = group1.rank ∧
    (∀ r, r < group1.size → (step1.prepared ++ [(1, 0)]).any (fun p => p.1 == r) = true) := by decide +kernel
theorem wit_prepared_member : (joined).coordinator { group1 with rank := 1, members := [1, 0] } = 0 ∧ (joined).rankAlive { group1 with rank := 1, members := [1, 0] } 0 = true := by
  decide +kernel
theorem wit_commit_timeout : step1.since + (stepping.frc pgCL 0x048).toNat ≤ stepping.nowUs ∧
    ({ stepping with nowUs := 0 } : State).nowUs < step1.since + (stepping.frc pgCL 0x048).toNat := by decide +kernel

/-- A closed bank of a wax, ready to be reduced, whose training configuration the group agreed on. -/
def cfgG : TrainCfg := { wax := 5, replicaGroup := 9 }
def closed : State := waxing { cfg := cfgG, flight := some {}, stepOpen := true } (joined)
theorem wit_reduce : closed.waxingIn 0 5 = some 1023 ∧ (closed.wxOf 1023).flight = some {} ∧ (closed.wxOf 1023).stepOpen = true ∧
    (closed.wxOf 1023).outcome = none ∧ closed.enabled pgCL = true ∧ (closed.fab.commits.any (fun c => c.part == 0 && c.wax == 5)) = false ∧
    (1 : Nat) = (closed.wxOf 1023).rcd.step.step + 1 ∧ closed.groupAt 9 3 = some group1 := by decide +kernel
theorem wit_reduce_digest : ∃ g : Group, g.digest = Config.sha256 (cfgBytes (closed.wxOf 1023).cfg) ∧ g.size = 2 ∧ g.rank = 0 :=
  ⟨{ group1 with digest := Config.sha256 (cfgBytes (closed.wxOf 1023).cfg) }, rfl, rfl, rfl⟩
theorem wit_reduce_group : ∃ s : State, (s.groupAt 9 3).any (fun g => g.digest == Config.sha256 (cfgBytes (closed.wxOf 1023).cfg)) = true :=
  ⟨{ closed with fab := { closed.fab with groups := [(9, { group1 with digest := Config.sha256 (cfgBytes (closed.wxOf 1023).cfg) })] } }, by
    simp [State.groupAt, State.groupOf, AMap.find, group1]⟩

/-! ## Witnesses: fetches -/

def waitTag : Fetch := { id := 0, part := 0, wax := 5, version := 0, kind := .first, st := .waitTag }
def transfer (retried : Bool := false) (remote : Option Remote := none) : Fetch :=
  { id := 0, part := 0, wax := 5, version := 0, kind := .first, st := .transfer, tag := some (511, 127), slot := some 0, retried := retried, remote := remote }
def remote0 : Remote := ⟨0, 0, 0, 4⟩
/-- The base and keys of `keyed`, one fetch in transfer, and the wax in the store. -/
def transfers (f : Fetch) : State :=
  let s := keyed
  { s with wx := { s.wx with fetches := [f], store := [(5, rec5)] }, pages := [(pgWX, en)] }

theorem wit_tag : (∀ g ∈ (fetches [waitTag]).wx.fetches, g.st ≠ .missHeld) ∧ (fetches [waitTag]).enabled pgWX = true ∧
    ((fetches [waitTag]).wx.fetches.filterMap (fun g => g.tag.map (·.1))).length < 512 ∧
    (fetches [waitTag]).nextFetch (fetches [waitTag]).wx.rotTag (fun g => g.st == .waitTag) = some waitTag := by decide +kernel
theorem wit_miss : (fetches [fetch0]).wx.fetches.find? (fun g => g.tag.map (·.1) == some 511 && g.st == .miss) = some fetch0 ∧ fetch0.left = none ∧
    fetch0.since + (({ fetches [fetch0] with nowUs := 2 ^ 32 } : State).frc pgWX 0x044).toNat ≤ ({ fetches [fetch0] with nowUs := 2 ^ 32 } : State).nowUs ∧
    fetch0.kind ≠ .train := by decide +kernel
theorem wit_fetch_start :
    let f : Fetch := { waitTag with st := .waitStart, tag := some (0, 1) }
    let s := pt .enabled { cur := { inf := 1 } } (fetches [f])
    s.enabled pgWX = true ∧ s.wx.inUse < fld (s.frc pgWX 0x040) 9 0 ∧ s.nextFetch s.wx.rotStart (fun g => s.canStart g) = some f ∧
      (s.infOf f.part).length < (s.pt f.part).cur.inf ∧ (s.infs.filter (fun e => e.2.st ≠ .free)).length < 8192 := by decide +kernel
theorem wit_fetch_credit : fld (up.frc pgWX 0x040) 9 0 ≤ ({ up with wx := { up.wx with inUse := 1023 } } : State).wx.inUse := by decide +kernel
theorem wit_transfer : ∀ f ∈ ([transfer, transfer true, transfer false (some remote0)] : List Fetch),
    (transfers f).wx.fetches.find? (fun g => g.tag == some (511, 127) && g.st == .transfer) = some f ∧
    (transfers f).wx.fetches.find? (fun g => g.tag == some (511, 1) && g.st == .transfer) = none := by decide +kernel
theorem wit_transfer_stored : AMap.find (transfers transfer).wx.store 5 = some rec5 ∧ (transfers transfer).recCheck 0 rec5 = none ∧
    (transfers transfer).newestVersion 0 5 < ((transfers transfer).rekey rec5).desc.version ∧
    ({ transfers transfer with pts := [] } : State).recCheck 0 rec5 = some 0x0325 := by decide +kernel
theorem wit_transfer_remote : (transfers (transfer false (some remote0))).recCheck 0 (setRec base2 desc5 set1) = none ∧ (transfer false (some remote0)).version = 0 := by
  decide +kernel
def save0 : Save := { wax := 5, rcd := {}, begun := true }
theorem wit_save : ({ up with wx := { up.wx with saves := [save0] } } : State).wx.saves.find? (fun x => x.wax == 5 && x.begun) = some save0 := by decide +kernel
theorem wit_reload : ((waxing { rcd := rec5 }).wxOf 1023).used = true ∧ ((waxing { rcd := rec5 }).wxOf 1023).ready = false ∧
    ((waxing { rcd := rec5 }).wxOf 1023).rcd.desc.wax ≠ 0 ∧ ((waxing { rcd := rec5 }).wxOf 1023).wax = 5 := by decide +kernel
theorem wit_hold_budget : (({ up with holds := [(0, { st := .held })] } : State).hold 0).st = .held ∧ (({ up with holds := [(0, { st := .held })] } : State).hold 0).left = none ∧
    (({ up with holds := [(0, { st := .held })] } : State).hold 0).since + (up.frc (pgSE 0) 0x0F4).toNat * 1000 ≤ ({ up with nowUs := 2 ^ 42 } : State).nowUs := by
  decide +kernel

/-! ## Witnesses: memory tiers, the lift -/

/-- A page of DRAM (or of coherent memory) of partition 0 that has been idle for 255 boundaries. -/
def aged (tier : Nat) : State :=
  let s := pages { own0 with tier := tier, idle := 255 }
  { s with regs := [(regKey pgMS 0x040, 0xFF)], host := { s.host with mode := 2 }, mc := { s.mc with step := 7 },
           mem := { s.mem with wanted := [3] }, force := [(regKey pgHI 0x050, 4)] }

theorem wit_demote : ((aged 1).page 3).valid = true ∧ ((aged 1).page 3).tier = 1 ∧ ((aged 1).page 3).pinned = false ∧ ((aged 1).page 3).modulePinned = false ∧
    ((aged 1).page 3).migrating = false ∧ fld ((aged 1).rd pgMS 0x040) 7 0 ≠ 0 ∧ fld ((aged 1).rd pgMS 0x040) 7 0 ≤ ((aged 1).page 3).idle ∧
    0 < (aged 1).cohFree ∧ ({ aged 1 with force := [] } : State).cohFree = 0 := by decide +kernel
theorem wit_promote : ((aged 2).page 3).tier = 2 ∧ 3 ∈ (aged 2).mem.wanted ∧ fld ((aged 2).rd pgMS 0x040) 27 8 ≤ (aged 2).dramFree ∧ 0 < (aged 2).dramFree := by
  decide +kernel
theorem wit_switch : AMap.find ({ aged 1 with mem := { (aged 1).mem with migr := [(3, { tier := 2, frame := 0 })] } } : State).mem.migr 3 =
    some { tier := 2, frame := 0 } := by decide +kernel
theorem wit_zero_fill : (({ up with fbx := { up.fbx with regions := [(1023, { base := pageSize, pages := 1, filling := true })] } } : State).region 1023).filling = true ∧
    pageSize % 64 = 0 := by decide +kernel
/-- A base whose one shard is that of a DUA. -/
def baseAt (dua : Nat) : Manifest := { shards := [{ shard0 with number := Config.baseShardAt 0 dua }] }
theorem wit_rewrite (dua : Nat) : ({ up with lift := { up.lift with base := some (baseAt dua), rewriting := [Config.baseShardAt 0 dua] } } : State).shardAt dua =
    some (Config.baseShardAt 0 dua, { shard0 with number := Config.baseShardAt 0 dua }) := by simp [State.shardAt, baseAt]

/-- A streamed base of one layer with one routed expert, and a lift that runs. -/
def base4 : Manifest := { layers := [{ routed := 1 }], shards := [{ shard0 with routed := some (0, 0) }] }
def lifts (bufs : List WinBuf) : State :=
  { up with lift := { up.lift with base := some base4, installed := some base4, streamed := true, bufs := bufs }, pages := [(pgLF, en)] }
def buf0 (claim : Option Nat) (layer : Nat) : WinBuf := { layer := layer, need := [0], landed := [], claim := claim }

theorem wit_lift : (lifts []).lift.base = some base4 ∧ (lifts []).enabled pgLF = true ∧ ((lifts []).hdr pgLF).stopping = false ∧
    ((lifts []).fillOrder base4).find? (fun x => !(lifts []).filled x) = some ⟨0, 0, [0]⟩ ∧
    ((lifts [buf0 none 0]).fillOrder base4).find? (fun x => !(lifts [buf0 none 0]).filled x) = some ⟨0, 0, [0]⟩ ∧ (buf0 none 0).holds ⟨0, 0, [0]⟩ = true := by
  decide +kernel
theorem wit_lift_full : ((lifts (List.replicate 4 (buf0 (some 0) 1))).fillOrder base4).find? (fun x => !(lifts (List.replicate 4 (buf0 (some 0) 1))).filled x) =
      some ⟨0, 0, [0]⟩ ∧ (lifts []).lift.winLayers ≤ (List.replicate 4 (buf0 (some 0) 1)).length ∧
    (∀ b ∈ List.replicate 4 (buf0 (some 0) 1), ¬ (b.claim = none ∧ b.holds ⟨0, 0, [0]⟩ = true)) ∧
    (∀ b ∈ List.replicate 4 (buf0 (some 0) 1), b.claim.isSome = true) := by decide +kernel
theorem wit_landed : routedShard base4 0 0 = some { shard0 with routed := some (0, 0) } ∧ buf0 (some 0) 0 ∈ (lifts [buf0 (some 0) 0]).lift.bufs ∧
    0 ∈ (buf0 (some 0) 0).need ∧ 0 ∉ (buf0 (some 0) 0).landed ∧ shard0.number ∉ (lifts []).lift.bad := by decide +kernel
theorem wit_landed_peer : routedShard base1 0 0 = none ∧ 0 < (base1.layers.getD 0 {}).routed ∧ (lifts []).landed 0 0 = false := by decide +kernel
theorem wit_patrol : (withBase base3).mc.vaultMounted = true ∧ (withBase base3).lift.installed.isSome = true ∧ (withBase base3).lift.openInstall = false ∧
    (withBase base3).lift.patrolOn = false ∧ (withBase base3).lift.patrolAt ≤ (withBase base3).nowUs := by decide +kernel
theorem wit_patrol_shard : (shardOrder base3)[(withBase base3).lift.patrolPos]? = some 0 := by simp [shardOrder, base3, shard0, withBase]; rfl
theorem wit_inst_go : (lifts []).access .mc (pgLF * 0x1000 + 0x070) true = .pass (lifts []) mcReq ∧ (lifts []).lift.instBusy = false ∧
    (lifts []).rd64 pgLF 0x060 % 64 = 0 ∧ (lifts []).lift.openInstall = false := ⟨rfl, by decide +kernel⟩
theorem wit_inst_shard : ({ up with lift := { up.lift with instBusy := true, instLeft := [0] } } : State).lift.instLeft = 0 :: [] ∧
    (0 : Nat) + 3 * 2 ^ 32 ∉ up.lift.retried := by decide +kernel

/-! ## Witnesses: flues -/

def flue (l : Link) (q : Bool := false) : State :=
  { up with fab := { up.fab with links := [(15, l)], peers := [(1, 1)], quarantined := q, flows := [{ src := 1, vc := 1, stream := 0, next := 5, early := [] }] },
            pages := [(pgFL 15, en)], nowUs := 100 }
def link0 : Link := { st := .up, chans := freshChans, peer := 1 }

theorem wit_flit_send : ((flue link0).link 15).st = .up ∧ (flue link0).isUp (0x70 + 15) = true ∧ (flue link0).enabled (pgFL 15) = true ∧
    ((flue link0).hdr (pgFL 15)).fenced = false ∧ link0.carries 1 = true ∧ ({ link0 with k4 := true } : Link).carries 1 = false ∧ link0.queue = [] ∧
    (link0.chan 1).held ≠ 0 ∧ (∀ v, v < 4 → (link0.chan v).held + (link0.chan v).flight = vcTotal v ∧ (link0.chan v).buf = (flue link0).buffered 15 v) := by
  decide +kernel
theorem wit_flit_waits : (({ link0 with chans := [] } : Link).chan 1).held = 0 ∧ (flue link0 true).fab.quarantined = true := by decide +kernel
theorem wit_flit_received : (flue link0).expectedEpoch 15 flit0 = 1 ∧ flit0.epoch = 1 ∧
    (flue link0).fab.flows.find? (fun w => w.src == flit0.src && w.vc == flit0.vc.val && w.stream == flit0.stream) =
      some { src := 1, vc := 1, stream := 0, next := 5, early := [] } ∧ ({ flit0 with seq := 5 } : Flit).seq = 5 ∧ flit0.seq ≠ 5 := by decide +kernel
theorem wit_flit_epochs : (0 : Word).toNat < (1 : Word).toNat ∧ (1 : Word).toNat < (2 : Word).toNat := by decide +kernel
theorem wit_credit : 1 ≤ (({ link0 with chans := [(1, { held := 2047, flight := 1 })] } : Link).chan 1).flight ∧ (link0.chan 1).flight < 1 ∧ (flue link0).resets = [] := by
  decide +kernel
theorem wit_replay : ((flue { link0 with replay := [⟨flit0, 98⟩] }).link 15).replay = ⟨flit0, 98⟩ :: [] ∧ 98 + 2 ≤ (flue link0).nowUs ∧ (flue link0).nowUs < 99 + 2 := by
  decide +kernel
theorem wit_silent_link : ({ link0 with lastRx := 90 } : Link).lastRx + 10 ≤ (flue link0).nowUs ∧ (flue link0).nowUs < ({ link0 with lastRx := 91 } : Link).lastRx + 10 := by
  decide +kernel
theorem wit_moves : (List.range 16).find? (fun k => (flue link0).serves k 1) = some 15 ∧ (∀ k, k < 16 → (flue {}).serves k 1 = false) := by decide +kernel
theorem wit_trained : ((flue {}).link 15).st ≠ .up ∧ (flue {}).isUp (0x70 + 15) = true ∧
    ({ flue {} with regs := [(regKey pgCL 0x044, 1)] } : State).ownEpoch ≠ 0 ∧ (1 : Nat) < 32768 := by decide +kernel
theorem wit_chunk : (withBase base3).fab.quarantined = false ∧ (Manifest.shard ((withBase base3).lift.installed.getD {}) 0).isSome = true ∧
    (withBase base3).fbx.baseKey.isSome = true ∧ up.fbx.baseKey = none := by decide +kernel

/-! ## Witnesses: partitions -/

/-- Registers of a page. -/
def regs (pg : Nat) (l : List (Nat × Word)) (s : State := up) : State := { s with regs := l.map (fun e => (regKey pg e.1, e.2)) }

/-- Partition 0 in a state, whose registers ask for two hearths, an inference slot, a PASID and the one account listed in its page. -/
def asks (v : Word) (st : InstSt := .enabled) : State :=
  regs (pgPT 0) [(0x040, 3), (0x04C, 1), (0x054, 1), (0x058, v), (0x068, BitVec.ofNat 32 (3 * pageSize)), (0x070, 1)] (pt st {} (mem (le 9 4)))
def askedOf (s : State) : Option Nat × Option Nat :=
  let v := s.ptAsked 0 (fun off => s.rd (pgPT 0) off)
  (s.ptCheck 0 v (fld (s.rd (pgPT 0) 0x070) 6 0), s.ptResizeCheck 0 v)

theorem wit_resize : (asks 0x80000001).access .mc (pgPT 0 * 0x1000 + 0x078) true = .pass (asks 0x80000001) mcReq := rfl
theorem wit_resize_checks : (askedOf ((asks 0x80000001).setReply .ok)).1 = none ∧ (askedOf ((asks 0x80000001).setReply .ok)).2 = none ∧
    (askedOf ((asks 0).setReply .ok)).1.isSome = true ∧ (askedOf (asks 0x80000001 .frozen)).2 = some 0x0704 := by decide +kernel
theorem wit_resize_running : ((ses { st := .forward }).seOf 0).st ≠ .idle ∧ ((ses { st := .forward }).seOf 0).st ≠ .paused := by decide +kernel
theorem wit_transit : (({ up with hearths := [(5, { transit := some 0 })] } : State).hearth 5).transit = some 0 ∧
    (∀ q, q < 32 → up.logicalOf 5 ∉ (up.pt q).cur.hearths) ∧ 5 ∈ ((pt .enabled { shrinking := [5] }).pt 0).shrinking ∧
    ((pt .enabled { shrinking := [5] }).pt 0).shrinking.filter (· ≠ 5) = [] := by decide +kernel
theorem wit_freeze : (pt .frozen).access .mc (pgPT 0 * 0x1000 + 8) true = .pass (pt .frozen) mcReq ∧ ((pt .frozen).pt 0).st = .frozen ∧ (pt .frozen).parks = [] ∧
    ((pt .frozen).hdr (pgPT 0)).checking = none := ⟨rfl, by decide +kernel⟩
theorem wit_freeze_states : ((pt .restoring).pt 0).st = .restoring ∧ ((pt .saving).pt 0).st = .saving ∧ ((pt .ashing).pt 0).st = .ashing ∧
    ((pt .enabled {} (ses { st := .forward })).pt 0).st = .enabled := by decide +kernel
theorem wit_ash : (({ up with resets := [⟨0xFF, 0, 0, 1⟩] } : State).resets.any (fun r => r.dom == 0x48 || ({ up with resets := [⟨0xFF, 0, 0, 1⟩] } : State).domainHolds r.dom 0x48)) = true ∧
    ({ up with resets := [⟨0xFF, 0, 0, 1⟩] } : State).resets.all (fun r => r.phase == 1) = true := by decide +kernel
theorem wit_freeze_budget : ((pt .freezing).pt 0).freezeLeft = none ∧ ((pt .freezing).pt 0).st = .freezing ∧
    (((pt .freezing).pt 0).freezeAt + ((pt .freezing).frc (pgPT 0) 0x090).toNat * 1000) / 1000 < ({ pt .freezing with nowUs := 2 ^ 42 } : State).nowUs / 1000 := by
  decide +kernel
/-- The firebox with its random source ready. -/
def rnd (s : State := up) : State := { s with fbx := { s.fbx with trng := .ready } }
theorem wit_ash_done : ((rnd (pt .ashing { ashFenced := true })).pt 0).st = .ashing ∧ ((rnd (pt .ashing { ashFenced := true })).pt 0).ashFenced = true ∧
    (rnd (pt .ashing { ashFenced := true })).fbx.trng = .ready ∧ (∀ e ∈ up.host.place, e.2.valid = true → e.2.owner ≠ 0) := by decide +kernel

/-! ## Witnesses: images, maps, mailboxes -/

theorem wit_image : (pt .frozen).access .mc (pgPT 0 * 0x1000 + 0x088) true = .pass (pt .frozen) mcReq ∧ (pt .frozen).rd64 (pgPT 0) 0x080 % 64 = 0 ∧
    (regs (pgPT 0) [(0x080, 1)] (pt .frozen)).rd64 (pgPT 0) 0x080 % 64 ≠ 0 ∧ (pt .frozen).placeAround 0 1 = none := ⟨rfl, by decide +kernel⟩
theorem wit_image_entry (n : Nat) (expt : Bool) :
    ({ pt .frozen with host := { up.host with place := [(0, { valid := true, len := n, expt := expt })] } } : State).placeAround 0 n =
      some { valid := true, len := n, expt := expt } := by simp [State.placeAround]
theorem wit_image_done : ((rnd (pt .saving)).pt 0).st = .saving ∧ (rnd (pt .saving)).fbx.trng = .ready ∧ (pt .saving).fbx.trng ≠ .ready ∧
    ((pt .saving { imgAt := 1 }).pt 0).imgAt + 100000 ≤ ({ up with nowUs := 100001 } : State).nowUs := by decide +kernel

/-- An image of no partition's bytes at the start of a page of the module, and a partition with the registers of `asks` that is restoring it. -/
def img0 : Image := {}
def restoring (st : InstSt) : State :=
  let s := mem (imageHeader img0 ++ le 9 4) (withBase {})
  { s with mem := { s.mem with pmap := [(3, { own0 with tier := 2, owner := 63 })] }, images := [img0], lift := { s.lift with base := some {} },
           pts := [(0, { st := st })], regs := (asks 0x80000001).regs.filter (fun e => e.1 ≠ regKey (pgPT 0) 0x068) ++
             [(regKey (pgPT 0) 0x068, BitVec.ofNat 32 (3 * pageSize + 256)), (regKey (pgPT 0) 0x080, BitVec.ofNat 32 (3 * pageSize))] }

theorem wit_restore : (restoring .disabled).imageAt 0 = some img0 ∧ (restoring .disabled).imageKeyHere img0 = true ∧ ((restoring .disabled).pt 0).st = .disabled ∧
    ({ restoring .disabled with fbx := { up.fbx with unlocked := true } } : State).imageKeyHere img0 = false ∧ (pt .disabled).imageAt 0 = none := by decide +kernel
theorem wit_restore_done : (restoring .restoring).imageAt 0 = some img0 ∧ ((restoring .restoring).restoreRegs 0 img0).restoreCheck 0 img0 true = none ∧
    ((restoring .restoring).restoreRegs 0 img0).restoreCheck 0 img0 false = some 0x0323 := by decide +kernel

/-- A partition with a map request of one page (page 4 is unmapped and in its region; page 3 is mapped). -/
def map0 (page left : Nat) (unmap : Bool) : MapReq := { page := page, left := left, unmap := unmap, pinned := true, readOnly := true }
def maps (r : MapReq) (migrating : Bool := false) : State :=
  let s := pt .enabled { map := some r, cur := { frames := 2 } } (pages { own0 with migrating := migrating })
  { s with mc := { s.mc with step := 7 }, fbx := { s.fbx with regions := [(0, { base := 0, pages := 8, owner := 0, valid := true })] } }

theorem wit_map_go : (maps (map0 4 1 false)).access .mc (pgPT 0 * 0x1000 + 0x0A0) true = .pass (maps (map0 4 1 false)) mcReq ∧ (up.pt 0).map = none := ⟨rfl, by decide +kernel⟩
theorem wit_map : (maps (map0 4 1 false)).mapCheck 0 (map0 4 1 false) 4 = none ∧ ((maps (map0 4 1 false)).pt 0).map = some (map0 4 1 false) ∧ (map0 4 1 false).left = 1 := by
  decide +kernel
theorem wit_map_end : (maps (map0 (2 ^ 25) 1 false)).mapCheck 0 (map0 (2 ^ 25) 1 false) (2 ^ 25) = some 0x0250 ∧
    (maps (map0 (2 ^ 25 - 1) 1 false)).mapCheck 0 (map0 (2 ^ 25 - 1) 1 false) (2 ^ 25 - 1) = some 0x0406 := by decide +kernel
theorem wit_unmap : (maps (map0 3 1 true)).mapCheck 0 (map0 3 1 true) 3 = none ∧ ((maps (map0 3 1 true)).page 3).migrating = false ∧
    ((maps (map0 3 1 true) true).page 3).migrating = true ∧ (maps (map0 3 1 true) true).mapCheck 0 (map0 3 1 true) 3 = none := by decide +kernel
theorem wit_mailbox : up.access .mc (pgMB 0 * 0x1000 + 0x040) true = .pass up mcReq ∧ up.access .mc (pgMB 0 * 0x1000 + 0x048) true = .pass up mcReq ∧
    mcReq.part.isSome = false := ⟨rfl, rfl, rfl⟩
/-- The host as partition 0. -/
def host0 : State := pt .enabled { cur := { pasids := [7] } } { up with host := { up.host with linkUp := true } }
theorem wit_mailbox_host : host0.access (.host (some 7) 0) (pgMB 0 * 0x1000 + 0x040) true = .pass host0 ⟨some 0, false, 0x48, true⟩ := rfl

/-! ## Witnesses: the firebox -/

/-- The firebox's queue with one request in a page of the module: code, handle, session, input, output, argument. -/
def fb (code handle arg inBytes outBytes : Nat) (s : State := up) : State :=
  let t := mem (le code 1 ++ le 0 3 ++ le handle 2 ++ le 0 2 ++ le (3 * pageSize + 64) 8 ++ le inBytes 4 ++ le 0 4 ++ le (3 * pageSize + 64) 8 ++ le outBytes 4 ++ le arg 4) s
  { t with mem := { t.mem with pmap := [(3, { own0 with tier := 2, owner := 63 })] }, pages := [(pgFQ, en)], regs := [(regKey pgFQ 0x04C, 1)],
           force := [(regKey pgFQ 0x040, BitVec.ofNat 32 (3 * pageSize)), (regKey pgFQ 0x048, 4)] }
def req (code handle arg inBytes outBytes : Nat) : FbReq := ⟨code, handle, 0, 3 * pageSize + 64, inBytes, 3 * pageSize + 64, outBytes, arg⟩
/-- A session open, and a base key. -/
def open0 (s : State := up) : State := { s with fbx := { s.fbx with sessions := [(0, some {})], keys := [(4095, { used := true, account := 9 })] } }

theorem wit_fb : ∀ c ∈ ([1, 2, 3, 4, 5, 6, 7, 8, 9, 10, 11] : List Nat), (fb c (4095 + 4096) 9 32 0).fbHead = some (req c (4095 + 4096) 9 32 0) ∧
    good ((fb c (4095 + 4096) 9 32 0).load (whoOf 63) (req c 0 9 32 0).inDua 32) = true := by decide +kernel
theorem wit_attest : (rnd (fb 1 0 0 32 0)).fbx.trng = .ready ∧ ({ up with fbx := { up.fbx with trng := .failed } } : State).fbx.trng = .failed ∧
    ((List.range 16).filter (fun n => (up.session n).isNone)) ≠ [] ∧
    ((List.range 16).filter (fun n => (({ up with fbx := { up.fbx with sessions := (List.range 16).map (fun n => (n, some {})) } } : State).session n).isNone)) = [] := by
  decide +kernel
theorem wit_input : (open0.session 0).isSome = true ∧ up.session 0 = none ∧ up.lift.base = none ∧ up.anyPartition = false ∧ up.mc.vaultMounted = true := by decide +kernel
theorem wit_key_check (k : BitVec 256) : keyMatches { keyCheck := Config.keyCheck 0 k } k = true ∧ manifestCheck {} = none := ⟨by simp [keyMatches], by decide +kernel⟩
theorem wit_key_check_fails (k : BitVec 256) : ∃ m : Manifest, keyMatches m k = false := ⟨{ keyCheck := Config.keyCheck 0 k + 1 }, by
  simp [keyMatches]⟩
theorem wit_floor_meets : svnMeets up.fbx.svns ({} : Manifest).ownerFloor = true ∧ svnMeets up.fbx.svns [1, 0, 0, 0] = false := by decide +kernel
theorem wit_key_place : ((open0).keyPlace false 9).1 = some 4095 := by decide +kernel
theorem wit_install_close : ({ fb 3 0 0 0 0 with lift := { up.lift with openInstall := true, installed := some base3, passed := [0] } } : State).lift.openInstall = true ∧
    (∀ d ∈ base3.shards, d.number ∈ ([0] : List Nat)) ∧ (∃ d ∈ base3.shards, d.number ∉ ([] : List Nat)) := ⟨by decide +kernel, by decide, _, List.mem_singleton.mpr rfl, by decide⟩
theorem wit_transfer_key : (open0 (fb 8 (4095 + 4096) 9 32 0)).transferKey (req 8 (4095 + 4096) 9 32 0) = .ok (1, 0) ∧
    (fb 8 0 9 0 0).transferKey (req 8 0 9 0 0) = .error 0x0341 := by decide +kernel
theorem wit_key_delete : open0.keyByHandle (4095 + 4096) = some (4095, { used := true, account := 9 }) ∧ up.keyByHandle (4095 + 4096) = none := by decide +kernel
theorem wit_floor_commit : (if up.mc.slotB then up.mc.committedB else up.mc.committedA) = true ∧ (3 : Nat) ≤ 3 := by decide +kernel

/-- A region of partition 0 at a place, and another. -/
def region0 (b : Nat) : RegionArgs := { base := b, pages := 2, owner := 0, secure := false }
def regions (base : Nat) : State := { up with fbx := { up.fbx with regions := [(1023, { base := base, pages := 2, owner := 0, valid := true })] } }
theorem wit_region : (regions (4 * pageSize)).regionNamed (region0 (4 * pageSize)) = some (1023, { base := 4 * pageSize, pages := 2, owner := 0, valid := true }) ∧
    (regions (4 * pageSize)).regionClash (region0 (4 * pageSize)) (some 1023) = false ∧ (regions (4 * pageSize)).regionNamed (region0 (6 * pageSize)) = none ∧
    (regions (4 * pageSize)).regionClash (region0 (6 * pageSize)) none = false ∧ (regions (4 * pageSize)).regionClash (region0 (5 * pageSize)) none = true ∧
    (regions (4 * pageSize)).validIn 6 8 = false := by decide +kernel
theorem wit_region_range : (region0 (memTop - 2 * pageSize)).base + 2 * pageSize ≤ memTop ∧ memTop < (region0 (memTop - pageSize)).base + 2 * pageSize ∧
    (region0 (memTop - pageSize)).base % pageSize = 0 := by decide +kernel
theorem wit_fb_timeout : needsRandom 9 = true ∧ up.fbx.posted.headD up.nowUs + 100000 ≤ 100000 ∧ up.fbx.trng ≠ .ready := by decide +kernel
theorem wit_session : open0.session 0 = some {} ∧ ({} : Session).since + 600000000 ≤ ({ up with nowUs := 600000000 } : State).nowUs := by decide +kernel
theorem wit_trng : up.isUp 0x84 = true ∧ up.fbx.trng = .off ∧ up.fbx.lockFuse = true ∧ up.fbx.unlocked = false := by decide +kernel

/-! ## Witnesses: resets, banking, boot -/

theorem wit_reset : up.access .mc (pgMC * 0x1000 + 0x100) true = .pass up mcReq ∧ up.domainExists 0x48 = true ∧ up.domainExists 0x6A = false := ⟨rfl, by decide +kernel⟩
theorem wit_reset_waits : (({ up with resets := [⟨0xFF, 0, 0, 1⟩] } : State).resets.any (fun r => r.dom == 0x48 || up.domainHolds r.dom 0x48)) = true ∧
    (cmds [st 0 0x00]).openOf 0x48 ≠ [] ∧ (up.resets.any (fun r => r.dom == 0x48 || up.domainHolds r.dom 0x48)) = false := by decide +kernel
theorem wit_drain_time : ({ up with resets := [⟨0x48, 0, 0, 1⟩] } : State).resets.find? (fun r => r.dom == 0x48) = some ⟨0x48, 0, 0, 1⟩ ∧ up.openOf 0x48 = [] ∧
    (0 : Nat) + fld (up.frc pgMC 0x10C) 15 0 < 65536 := by decide +kernel
theorem wit_release : ({ up with resets := [⟨0x48, 0, 0, 2⟩] } : State).releasable 0x48 = true ∧ up.releasable 0x48 = false ∧ (up.pt 0).st ≠ .ashing := by decide +kernel
theorem wit_errors : up.domainExists 0 = true ∧ (({ up with hearths := [(0, { owner := some 0 })] } : State).hearth 0).owner = some 0 ∧
    ((pages own0).page (linePage (3 * pageSize / 64))).valid = true ∧ ((flue link0).link 15).st = .up ∧ (up.link 15).st ≠ .up ∧
    (Manifest.shard base3 0).isSome = true ∧ Manifest.shard base3 1 = none := by decide +kernel
theorem wit_selftest : (({ up with resets := [⟨0, 0, 0, 2⟩] } : State).resets.any (fun r => r.phase == 2 && r.dom == 0)) = true ∧
    (([0, 0] : List Nat).filter (fun t => decide (0 < t + dayUs))).length = 2 := by decide +kernel
theorem wit_sem_cfg : up.access .mc (pgRK * 0x1000 + 0x044) true = .pass up mcReq ∧ (up.sem 0).held = 0 ∧
    (({ up with sems := [(0, { held := 1 })] } : State).sem 0).held ≠ 0 := ⟨rfl, by decide +kernel⟩
theorem wit_host_lost : host0.host.linkUp = true ∧ host0.mc.bank = .normal := by decide +kernel
theorem wit_heartbeat : ({ up with force := [(regKey pgMC 0x114, 1)] } : State).frc pgMC 0x114 = 1 ∧ (1 : Word).getLsbD 0 = true ∧
    (up.mc.lastHb + fld (1 : Word) 31 16 * 1000) / 1000 < ({ up with nowUs := 1000 } : State).nowUs / 1000 ∧ up.mc.running = true := by decide +kernel
theorem wit_banking : ({ up with mc := { up.mc with bank := .banking } } : State).mc.bank = .banking ∧ up.stridesStopped = true ∧ up.started = [] ∧ up.bankSaves = [] ∧
    (waxing { dirty := true }).bankSaves ≠ [] ∧ up.wx.saves = [] := by decide +kernel
theorem wit_adopt : up.access .mc (pgMC * 0x1000 + 0x11C) true = .pass up mcReq ∧ up.pasidsOk = true ∧ (pt .enabled).pasidsOk = false := ⟨rfl, by decide +kernel⟩
def boots : State := { up with mc := { up.mc with running := false, booting := true } }
theorem wit_boot : boots.mc.booting = true ∧ boots.isUp 0x84 = true ∧ boots.mc.committed boots.mc.active = true ∧
    boots.imageCheck (boots.mc.image boots.mc.active) = none ∧ boots.settings.format ∈ (boots.mc.image boots.mc.active).reads ∧
    (boots.imageCheck {}).isSome = true ∧ boots.settings.format ∉ ({} : FwImage).reads := by decide +kernel
theorem wit_boot_time : boots.mc.bootAt + 60000000 ≤ ({ boots with nowUs := 60000000 } : State).nowUs ∧
    bundleCheck { up.mc.bundle with detour := [(0, { mode := 3 })] } = some 0x0238 ∧ bundleCheck up.mc.bundle = none := by decide +kernel
theorem wit_fw : up.access .mc (pgMC * 0x1000 + 0x124) true = .pass up mcReq ∧ up.fbx.floors.getD 1 0 ≤ (up.mc.image true).svn ∧
    (up.mc.image true).svn < ([0, 1, 0, 0] : List Nat).getD 1 0 ∧ up.imageCheck { sigOk := true } = none ∧ up.currentIsSa1 = false := ⟨rfl, by decide +kernel⟩

/-! ## Witnesses: ordered mode, the meter, the host, power -/

theorem wit_order : up.access .mc (pgSE 0 * 0x1000 + 0x128) true = .pass up mcReq ∧ (1 : Word).getLsbD 0 = true ∧ (up.seOf 0).cuts.length < 64 ∧
    64 ≤ ((ses { cuts := List.replicate 64 { tails := [] } }).seOf 0).cuts.length := ⟨rfl, by decide +kernel⟩
/-- The meter card present. -/
def card (m : Meter := {}) (s : State := up) : State := { s with meter := { m with present := true } }
def report0 : Report := { part := 0, tokens := 1, trained := 0, lines := [], rest := 0 }
theorem wit_report : (card { held := [report0] }).meter.held = report0 :: [] ∧ (card { held := [report0] }).cardUp = true ∧ up.cardUp = false ∧
    up.auditHeld (· == 0x48) = false ∧ ({ up with resets := [⟨0xFF, 0, 0, 1⟩] } : State).auditHeld (· == 0x48) = true := by decide +kernel
theorem wit_window : (card).meter.present = true ∧ AMap.wf {} (card).meter.accts = true := by decide +kernel
theorem wit_meter_read : up.access .mc (pgMQ * 0x1000 + 0x070 + 0x10 * 4) false = .pass up mcReq := rfl
/-- The meter's queue with one request. -/
def mq (code len : Nat) : State :=
  let t := mem (le code 1 ++ le 0 7 ++ le (3 * pageSize + 64) 8 ++ le len 4) (card)
  { t with mem := { t.mem with pmap := [(3, { own0 with tier := 2, owner := 63 })] }, pages := [(pgMQ, en)], regs := [(regKey pgMQ 0x04C, 1)],
           force := [(regKey pgMQ 0x040, BitVec.ofNat 32 (3 * pageSize)), (regKey pgMQ 0x048, 4)] }
theorem wit_meter_request : ∀ c ∈ ([1, 2, 3, 4] : List Nat), (mq c 256).mqHead = some (padTo 64 (le c 1 ++ le 0 7 ++ le (3 * pageSize + 64) 8 ++ le 256 4)) ∧
    field (padTo 64 (le c 1 ++ le 0 7 ++ le (3 * pageSize + 64) 8 ++ le 256 4)) 0 0 = c ∧
    field (padTo 64 (le c 1 ++ le 0 7 ++ le (3 * pageSize + 64) 8 ++ le 256 4)) 16 19 = 256 := by decide +kernel
theorem wit_host_link : up.isUp 0x80 = true ∧ up.settings.hostless = false ∧ ({ up.host with training := true } : HostSt).training = true ∧ up.host.linkUp = false := by
  decide +kernel

/-- A placement entry of partition 0 for PASID 7, over its page. -/
def place0 : Place := { base := 3 * pageSize, len := pageSize, valid := true, rd := true, wr := true, anyRid := true, pasidEn := true, pasid := 7 }
def placed : State :=
  { mem [] host0 with host := { host0.host with place := [(4095, place0)] } }
theorem wit_bar2 : placed.host.linkUp = true ∧ placed.host.fenced = false ∧ (Instr.bar2Access (.host (some 7) 0) (3 * pageSize) 4 none).wf = true ∧
    placed.pasidOwner 7 = some 0 ∧ placed.pasidOwner 8 = none ∧
    placed.host.place.find? (fun e => e.2.grants (some 7) 0 (some 0) false (3 * pageSize) 4 false) = some (4095, place0) ∧
    placed.host.place.find? (fun e => e.2.grants (some 7) 0 (some 0) false (4 * pageSize - 3) 4 false) = none := by decide +kernel
theorem wit_bar2_done : (placed.memWrite (whoOf place0.owner) (3 * pageSize) (padTo 4 [1]) true).reply = .ok ∧
    (placed.memRead (whoOf place0.owner) (3 * pageSize) 4 true).reply = .data [0, 0, 0, 0] := by decide +kernel
theorem wit_place : up.access .mc (pgHI * 0x1000 + 0x060) true = .pass up mcReq := rfl
theorem wit_place_checks : (placed).placeCheck 4095 place0 = none ∧ (placed).placeCheck 4095 { place0 with len := 0 } = some 0x0250 ∧
    (placed).placeCheck 4094 place0 = some 0x0333 := by decide +kernel
/-- Port 1 up, its connections valid. -/
def port1 (s : State := conns) : State := { s with host := { s.host with netUp := [(1, 1)] } }
theorem wit_port : (port1).portUp 1 = true ∧ up.isUp (0x81 + 1) = true ∧ (up.resets.any (fun r => r.dom == 0x81 + 1)) = false ∧ ((port1).conn 1 1).valid = true := by
  decide +kernel
theorem wit_connect : up.access .mc (pgNP 1 * 0x1000 + 0x074) true = .pass up mcReq ∧ (up.conn 1 (up.connSel 1)).valid = false ∧ ((port1).conn 1 (port1.connSel 1)).valid = true :=
  ⟨rfl, by decide +kernel⟩
theorem wit_push : up.access .mc (pgNP 1 * 0x1000 + 0x0A0) true = .pass up mcReq ∧ AMap.get none up.host.pushes 1 = none ∧
    (exports.place (fld (exports.rd (pgNP 1) 0x08C) 11 0)).valid = true ∧ (exports.place 0).expt = true ∧
    exports.rd64 (pgNP 1) 0x090 + exports.rd64 (pgNP 1) 0x098 ≤ (exports.place 0).len := ⟨rfl, by decide +kernel⟩
theorem wit_push_done : AMap.get none ({ mem [] with host := { up.host with pushes := [(1, some (3 * pageSize, ⟨1, 0, 0, 4⟩))] } } : State).host.pushes 1 =
    some (3 * pageSize, ⟨1, 0, 0, 4⟩) ∧ good ((mem []).load (whoOf ((mem []).page (3 * pageSize / pageSize)).owner) (3 * pageSize) 4) = true := by decide +kernel
def msg1 : MgmtMsg := { msg0 with port := 1, addr := pgMC * 0x1000 + 0x110 }
theorem wit_mgmt : Sys2Proof.wfMsg msg1 = true ∧ (port1).portUp msg1.port.val = true ∧ ((port1).conn msg1.port.val 2).valid = true ∧
    (((port1).bump (pgNP 1) 0x028 64).mgmtOf 1).seq = none ∧ addrBad msg1 = false ∧ addrBad { msg1 with addr := 2 } = true ∧ duaLenBad msg1 = false ∧
    duaLenBad { msg1 with bytes := 36 } = true := by decide +kernel
theorem wit_mgmt_seq : (({ port1 with host := { port1.host with mgmt := [(1, { seq := some 0 })] } } : State).mgmtOf 1).seq = some 0 ∧ msg1.seq = 0 + 1 := by decide +kernel
theorem wit_mgmt_access : (port1.setReply .none).access (.mgmt 1) (pgMC * 0x1000 + 0x110) true = .pass (port1.setReply .none) ⟨none, false, 0x82, false⟩ := rfl
theorem wit_power : ∀ n, n < 7 → ({ up with mc := { up.mc with step := n } } : State).mc.step = n ∧ up.mc.sbOk = true ∧ up.mc.running = true ∧ up.mc.stopped = false ∧
    (up.resets.any (fun r => r.dom == 0xFF && r.phase == 1)) = false ∧ up.mc.mainOff = false ∧ up.mc.tripHold = false := by decide +kernel
theorem wit_rails : State.reset.mc.sbOk = false ∧ ({ up.mc with mainOff := true, faultAt := 1 } : Mc).faultAt + 100000 ≤ ({ up with nowUs := 100001 } : State).nowUs := by
  decide +kernel
theorem wit_points : up.mc.mainOk = true ∧ up.vfUp = none ∧ (({ up with mc := { up.mc with vfPoint := 1 } } : State).vfUp).isSome = true ∧ up.vfLast ≠ up.mc.vfPoint ∧
    (105 : Nat) < 106 := by decide +kernel

/-! ## The spec's own examples -/

/-- R33's examples: infinity + 1, 1 / infinity, -3 / infinity, exp of minus infinity; infinity minus infinity and infinity times 0 have no limit. -/
theorem test_limits : (fadd 0x7F800000 f32One).v = f32Max false ∧ (fdiv f32One 0x7F800000).v = 0 ∧ (fdiv 0xC0400000 0x7F800000).v = 0x80000000 ∧
    (fexp none 0xFF800000).v = 0 ∧ (fadd 0x7F800000 0xFF800000).v = f32NaN ∧ (fmul 0x7F800000 0).v = f32NaN := by decide +kernel
/-- R36: 450 lies beyond E4M3's largest value 448, and gives it, with one saturation. -/
theorem test_e4m3_top : e4m3ToF32 (fmtE4M3.convert 0x43E10000).1 = 0x43E00000 ∧ (fmtE4M3.convert 0x43E10000).2.sat = 1 := by decide +kernel
/-- The drain example beside R90: rows r0 and r1 from the column sum 180.0, scaled by 1/64, with the side sum 0.1875. -/
theorem test_drain : (fmul 0x43340000 0x3C800000).v = 0x40340000 ∧ (fadd 0x40340000 0x3E400000).v = 0x40400000 ∧
    (fmtBF16.convert (fadd (fmul 0x40400000 (bf16ToF32 0x3F81)).v (bf16ToF32 0xBC00)).v).1 = 0x4041 ∧
    (fmtBF16.convert (fadd (fmul 0x40400000 (bf16ToF32 0x3F7F)).v (bf16ToF32 0x3C80)).v).1 = 0x4040 := by decide +kernel
/-- The efficiency table of R80, in 1/1,024: W4 x FP8 full, 576 outputs, awkward shape, late decode rows, attention scores, BF16 rerun. -/
theorem test_efficiency : efficiency 6656 6656 13 26 (passDepth 0) (passWidth 0) 0 [512] = 1024 ∧
    efficiency 6656 576 13 3 (passDepth 0) (passWidth 0) 0 [512] = 768 ∧ efficiency 720 400 2 2 (passDepth 0) (passWidth 0) 0 [64] = 562 ∧
    efficiency 6656 6656 13 26 (passDepth 0) (passWidth 0) 0 [8] = 512 ∧ efficiency 576 576 3 3 (passDepth 1) (passWidth 1) 0 [256] = 576 ∧
    efficiency 6656 6656 52 52 (passDepth 2) (passWidth 2) 0 [512] = 1024 := by decide +kernel
/-- The worked example of chapter 6: the first step of the scale with the gradient -71.548 / 23,080 takes the master 0x3F80FC00 to 0x3F810400. -/
theorem test_first_step : (updateValue { lrScale := 0x39800000, beta1 := 0x3F666666, beta2 := 0x3F7FBE77, eps := 0x322BCC77 }
    { b1pow := 0x3F666666, b2pow := 0x3F7FBE77 } .scale (fdiv 0xC28F1893 0x46B45000).v 0 0 0x3F80FC00).w = some 0x3F810400 := by decide +kernel
end Sys2Proof.Tests
end

section
/-!
PROOF. What reset leaves, and that every command answers a next state.
-/

namespace Sys2Proof.Machine

/-! ## The state after reset -/

theorem rd_reset (page off : Nat) : State.reset.rd page off = rstAt page off := rfl

theorem frc_reset (page off : Nat) : State.reset.frc page off = rstAt page off := rfl

/-- Memory lists no byte and its lines were never written, so a read gives zeros whether or not a line counts as current. -/
theorem byteAt_reset (a : Nat) : State.reset.byteAt a = 0 := by
  unfold State.byteAt
  split
  · rfl
  · split <;> rfl

/-- Settles O3: every collection is empty at reset, so each member reads as its default. -/
theorem resetState : Obligations.ResetState := by
  unfold Obligations.ResetState
  refine ⟨fun page off => ⟨rd_reset page off, frc_reset page off⟩, fun _ => rfl, byteAt_reset, fun _ => rfl, rfl, rfl, rfl, rfl,
    fun _ => ⟨rfl, rfl⟩, fun _ => ⟨rfl, rfl, rfl, rfl⟩, fun _ => ⟨rfl, rfl, rfl⟩, rfl, rfl, rfl, rfl⟩

/-! ## Every command answers -/

/-- A check that is not running answers the state as it stands; one that runs answers its outcome. -/
theorem execConsistencyCheckEnd_answers (page : Nat) (s : State) : ∃ t, execConsistencyCheckEnd page s = .next t := by
  unfold execConsistencyCheckEnd
  split <;> exact ⟨_, rfl⟩

/-- On a page the answer carries its cases inside; an index that names no page answers the state as it stands (R408). -/
theorem execBlockQuiesced_answers (page : Nat) (s : State) : ∃ t, execBlockQuiesced page s = .next t := by
  unfold execBlockQuiesced
  split <;> exact ⟨_, rfl⟩

/-- Settles O4: two commands choose between answers, and each of the others has one answer with its cases inside the state. -/
theorem commandsAnswer : Obligations.CommandsAnswer := by
  unfold Obligations.CommandsAnswer
  intro i s
  cases i with
  | consistencyCheckEnd page => exact execConsistencyCheckEnd_answers page s
  | blockQuiesced page => exact execBlockQuiesced_answers page s
  | _ => exact ⟨_, rfl⟩

end Sys2Proof.Machine
end

section
/-!
PROOF. What a store leaves in memory: the bytes written, and every other byte as it read before, also in a line that was stale (R213, R215).
-/

namespace Sys2Proof.Machine

theorem State.keysAt_gen (s : State) (page : Nat) : (s.keysAt page).gen = s.keygenAt page := by
  unfold State.keysAt State.keygenAt
  cases s.regionAt page <;> rfl

theorem linePage_of_byte (a : Nat) : linePage (a / 64) = a / pageSize := by
  unfold linePage pageSize
  omega

/-! ## One line's part written -/

/-- The write of a part of one line that `State.poke` makes at each turn. -/
def State.writeLine (s : State) (dua : Nat) (data : List Byte) : State :=
  s.setMem (s.mem.putLine (s.keysAt (dua / pageSize)) (dua / 64) (dua % 64) data)

/-- How many of the bytes to write at a DUA lie in its line. -/
def lineShare (dua : Nat) (data : List Byte) : Nat := min data.length (64 - dua % 64)

theorem State.poke_nil (s : State) (dua fuel : Nat) : s.poke dua [] fuel = s := by
  cases fuel <;> rfl

theorem State.poke_succ (s : State) (dua : Nat) {data : List Byte} (fuel : Nat) (hdata : data ≠ []) :
    s.poke dua data (fuel + 1) =
      (s.writeLine dua (data.take (lineShare dua data))).poke (dua + lineShare dua data) (data.drop (lineShare dua data)) fuel := by
  cases data with
  | nil => exact absurd rfl hdata
  | cons b rest => rfl

/-- The bytes that the line's write lists: a stale line counts as zeros first (R213, R215). -/
theorem State.get_writeLine_bytes (s : State) (dua : Nat) (data : List Byte) (a : Nat) :
    AMap.get 0 (s.writeLine dua data).mem.bytes a =
      if dua ≤ a ∧ a < dua + data.length then data.getD (a - dua) 0
      else if a / 64 = dua / 64 ∧ (s.lineMeta (dua / 64)).gen ≠ s.keygenAt (dua / pageSize) then 0
      else AMap.get 0 s.mem.bytes a := by
  have hbase : 64 * (dua / 64) + dua % 64 = dua := Nat.div_add_mod dua 64
  have hline : 64 * (dua / 64) ≤ a ∧ a < 64 * (dua / 64) + 64 ↔ a / 64 = dua / 64 := by omega
  show AMap.get 0 (AMap.putList 0 (if (s.lineMeta (dua / 64)).gen = (s.keysAt (dua / pageSize)).gen then s.mem.bytes
    else AMap.putList 0 s.mem.bytes (64 * (dua / 64)) (List.replicate 64 0)) (64 * (dua / 64) + dua % 64) data) a = _
  rw [AMap.get_putList, hbase, State.keysAt_gen]
  by_cases hgen : (s.lineMeta (dua / 64)).gen = s.keygenAt (dua / pageSize)
  · simp [hgen]
  · simp only [hgen, if_false, AMap.get_putList, List.length_replicate, hline, ne_eq, not_false_eq_true, and_true]
    congr 2
    grind [List.getD_replicate]

theorem State.lineMeta_writeLine_gen (s : State) (dua : Nat) (data : List Byte) (line : Nat) :
    ((s.writeLine dua data).lineMeta line).gen = if line = dua / 64 then s.keygenAt (dua / pageSize) else (s.lineMeta line).gen := by
  show (AMap.get {} (AMap.put {} s.mem.lines (dua / 64) _) line).gen = _
  rw [AMap.get_put]
  split
  · exact s.keysAt_gen _
  · rfl

/-- The line written is current afterwards, and no other line's state changes. -/
theorem State.lineCurrent_writeLine (s : State) (dua : Nat) (data : List Byte) (line : Nat) :
    (s.writeLine dua data).lineCurrent line = (decide (line = dua / 64) || s.lineCurrent line) := by
  show (decide ((s.page (linePage line)).owner = 62) || decide (((s.writeLine dua data).lineMeta line).gen = s.keygenAt (linePage line))) = _
  rw [State.lineMeta_writeLine_gen]
  by_cases h : line = dua / 64
  · subst h
    simp [linePage_of_byte]
  · simp [h, State.lineCurrent]

/-- Outside BASE pages a read gives the listed byte of a current line and zero of a stale one (R213). -/
theorem State.byteAt_of_not_base (s : State) (a : Nat) (hbase : (s.page (a / pageSize)).owner ≠ 62) :
    s.byteAt a = if s.lineCurrent (a / 64) = true then AMap.get 0 s.mem.bytes a else 0 := if_neg hbase

/-- A BASE page holds the loaded base's bytes whatever is written. -/
theorem State.byteAt_writeLine_base (s : State) (dua : Nat) (data : List Byte) (a : Nat) (hbase : (s.page (a / pageSize)).owner = 62) :
    (s.writeLine dua data).byteAt a = s.byteAt a := (if_pos hbase).trans (if_pos hbase).symm

/-- What a byte reads as after a part of one line was written: the byte written outside BASE pages, else what it read before. -/
theorem State.byteAt_writeLine (s : State) (dua : Nat) (data : List Byte) (hfit : dua % 64 + data.length ≤ 64) (a : Nat) :
    (s.writeLine dua data).byteAt a =
      if (s.page (a / pageSize)).owner ≠ 62 ∧ dua ≤ a ∧ a < dua + data.length then data.getD (a - dua) 0 else s.byteAt a := by
  by_cases hbase : (s.page (a / pageSize)).owner = 62
  · rw [State.byteAt_writeLine_base _ _ _ _ hbase, if_neg (fun h => h.1 hbase)]
  rw [State.byteAt_of_not_base (s.writeLine dua data) a hbase, State.byteAt_of_not_base s a hbase, State.lineCurrent_writeLine,
    State.get_writeLine_bytes]
  by_cases hin : dua ≤ a ∧ a < dua + data.length
  · have hsame : a / 64 = dua / 64 := by omega
    simp [hbase, hin, hsame]
  by_cases hsame : a / 64 = dua / 64
  · have hpage : a / pageSize = dua / pageSize := by rw [← linePage_of_byte, hsame, linePage_of_byte]
    have hcur : s.lineCurrent (a / 64) = decide ((s.lineMeta (dua / 64)).gen = s.keygenAt (dua / pageSize)) := by
      simp [State.lineCurrent, linePage_of_byte, hsame, hpage ▸ hbase]
    rw [hcur]
    by_cases hgen : (s.lineMeta (dua / 64)).gen = s.keygenAt (dua / pageSize) <;> simp [hin, hsame, hgen]
  · simp [hin, hsame]

/-! ## Bytes stored over as many lines as they touch -/

theorem State.byteAt_poke (s : State) (dua : Nat) (data : List Byte) (fuel : Nat) (hfuel : data.length < fuel) (a : Nat) :
    (s.poke dua data fuel).byteAt a =
      if (s.page (a / pageSize)).owner ≠ 62 ∧ dua ≤ a ∧ a < dua + data.length then data.getD (a - dua) 0 else s.byteAt a := by
  induction fuel generalizing s dua data with
  | zero => omega
  | succ fuel ih =>
    by_cases hdata : data = []
    · rw [hdata, State.poke_nil, if_neg (fun h => absurd h.2.2 (by simpa using h.2.1))]
    have hlen := List.length_pos_of_ne_nil hdata
    have hshare : lineShare dua data = min data.length (64 - dua % 64) := rfl
    rw [State.poke_succ _ _ _ hdata, ih _ _ _ (by rw [List.length_drop]; omega),
      State.byteAt_writeLine _ _ _ (by rw [List.length_take]; omega), List.length_drop, List.length_take]
    show (if (s.page (a / pageSize)).owner ≠ 62 ∧ _ then _ else _) = _
    -- The byte lies in the rest, in this line's share, or in neither.
    grind

theorem State.byteAt_storeRaw (s : State) (dua : Nat) (data : List Byte) (a : Nat) :
    (s.storeRaw dua data).byteAt a =
      if (s.page (a / pageSize)).owner ≠ 62 ∧ dua ≤ a ∧ a < dua + data.length then data.getD (a - dua) 0 else s.byteAt a :=
  s.byteAt_poke dua data _ (Nat.lt_succ_self _) a

theorem State.poke_frame (s : State) (dua : Nat) (data : List Byte) (fuel : Nat) :
    s.poke dua data fuel =
      { s with mem := { s.mem with bytes := (s.poke dua data fuel).mem.bytes, lines := (s.poke dua data fuel).mem.lines } } := by
  induction fuel generalizing s dua data with
  | zero => rfl
  | succ fuel ih =>
    by_cases hdata : data = []
    · rw [hdata, State.poke_nil]
    · rw [State.poke_succ _ _ _ hdata, ih]
      rfl

/-- Settles O9, by induction on the lines that the store touches. -/
theorem storedBytesReadBack : Obligations.StoredBytesReadBack := by
  unfold Obligations.StoredBytesReadBack
  intro s dua data
  refine ⟨fun i hi hpage => ?_, fun a hout => ?_, s.poke_frame dua data _⟩
  · rw [State.byteAt_storeRaw, if_pos ⟨hpage, by omega, by omega⟩, Nat.add_sub_cancel_left]
  · rw [State.byteAt_storeRaw, if_neg (by omega)]

end Sys2Proof.Machine
end

section
/-!
PROOF. Facts that the proofs about register accesses share: what an access that passes its gate comes to, and 64-bit counters.
-/

namespace Sys2Proof.Machine

/-! ## An access that passes its gate -/

/-- A gate lets a request pass in the state it found. -/
theorem State.requester_pass {s t : State} {o : Origin} {w : Bool} {r : Req} (h : s.requester o w = .pass t r) : t = s := by
  unfold State.requester at h
  dsimp only at h
  repeat' split at h
  all_goals cases h
  all_goals rfl

theorem State.gate_pass {s t : State} {r r' : Req} {off : Nat} {w : Bool} (h : s.gate r off w = .pass t r') : t = s ∧ r' = r := by
  unfold State.gate at h
  dsimp only at h
  repeat' split at h
  all_goals cases h
  all_goals exact ⟨rfl, rfl⟩

/-- An access passes where its origin makes a requester and the page lets that requester pass. -/
theorem State.access_pass {s t : State} {o : Origin} {off : Nat} {w : Bool} {r : Req} (h : s.access o off w = .pass t r) :
    s.requester o w = .pass s r ∧ s.gate r off w = .pass s r := by
  unfold State.access at h
  split at h
  · cases h
  · cases h
  · cases h
  · next s' r' hreq =>
    obtain rfl := State.requester_pass hreq
    obtain ⟨rfl, rfl⟩ := State.gate_pass h
    exact ⟨hreq, h⟩

theorem State.withWrite_pass {s t : State} {o : Origin} {off : Nat} {r : Req} (f : State → Req → State) (h : s.access o off true = .pass t r) :
    s.withWrite o off f = f (t.setReply .ok) r := by
  unfold State.withWrite
  rw [h]
  rfl

/-- A page out of the requester's reach is answered with the error response, whatever the access. -/
theorem State.gate_unreachable {s : State} {r : Req} {off k n} (w : Bool) (hlow : off / 0x1000 < 0x3000)
    (hk : kindOf (off / 0x1000) = some (k, n)) (hreach : mayReach r k n = false) :
    s.gate r off w = .answered (s.setReply (errorReply w)) := by
  unfold State.gate
  rw [if_neg (by simp; omega), hk]
  simp [hreach]

/-! ## 64-bit counters (R10, R97) -/

/-- The two words of a pair lie at different keys. -/
theorem regKey_high_ne (page off : Nat) : regKey page (off + 4) ≠ regKey page off := by
  unfold regKey
  omega

theorem State.rd64_wr64 (s : State) (page off n : Nat) (hn : n < 2 ^ 64) : (s.wr64 page off n).rd64 page off = n := by
  unfold State.rd64 State.wr64
  rw [State.rd_wr, State.rd_wr_ne _ _ _ _ _ _ (regKey_high_ne page off).symm, State.rd_wr, BitVec.toNat_ofNat, BitVec.toNat_ofNat]
  omega

theorem State.rd64_lt (s : State) (page off : Nat) : s.rd64 page off < 2 ^ 64 := by
  unfold State.rd64
  omega

theorem State.rd64_bump (s : State) (page off n : Nat) : (s.bump page off n).rd64 page off = (s.rd64 page off + n) % 2 ^ 64 := by
  unfold State.bump
  split
  · next h => rw [h, Nat.add_zero, Nat.mod_eq_of_lt (s.rd64_lt page off)]
  · exact State.rd64_wr64 _ _ _ _ (Nat.mod_lt _ (by decide))

theorem State.bump_frame (s : State) (page off n : Nat) :
    s.bump page off n = { s with regs := (s.bump page off n).regs, force := (s.bump page off n).force } := by
  unfold State.bump
  split <;> rfl

end Sys2Proof.Machine
end

section
/-!
PROOF. A write of a register without behaviour of its own (R7 to R10, R410).
-/

namespace Sys2Proof.Machine

/-- The word that a write leaves: its writable bits as written, the bits that a 1 clears cleared unless hardware sets them now, the others as they were. -/
def Reg.merge (g : Reg) (old v : Word) (hwInc : Nat) : Word :=
  (((old &&& ~~~g.rw) ||| (v &&& g.rw)) &&& ~~~(v &&& g.clr)) ||| (BitVec.ofNat 32 hwInc &&& g.clr)

/-- A register's word put in its place; its checked bits wait for the check where the block is enabled or being checked (R410). -/
def State.putReg (s : State) (page off : Nat) (g : Reg) (v : Word) : State :=
  if g.chk ≠ 0 ∧ ((s.hdr page).enabled = true ∨ (s.hdr page).checking.isSome = true) then s.wrPending page off g.chk v else s.wr page off v

theorem State.writeGeneric_reg (s : State) {k : Kind} {page off : Nat} {g : Reg} (v : Word) (hwInc : Nat) (hg : regAt k off = some g) :
    s.writeGeneric k page off v hwInc =
      if isCounter k off then (s.putReg page off g (g.merge (s.rd page off) v hwInc)).bump page (off - off % 8) hwInc
      else s.putReg page off g (g.merge (s.rd page off) v hwInc) := by
  unfold State.writeGeneric
  rw [hg]
  simp only [State.putReg, Bool.and_eq_true, Bool.or_eq_true, decide_eq_true_eq]
  rfl

theorem State.putReg_frame (s : State) (page off : Nat) (g : Reg) (v : Word) :
    s.putReg page off g v = { s with regs := (s.putReg page off g v).regs, force := (s.putReg page off g v).force } := by
  unfold State.putReg
  split <;> rfl

/-- The registers read the same whether or not the word's checked bits wait. -/
theorem State.putReg_regs (s : State) (page off : Nat) (g : Reg) (v : Word) : (s.putReg page off g v).regs = (s.wr page off v).regs := by
  unfold State.putReg
  split <;> rfl

theorem State.rd_putReg (s : State) (page off : Nat) (g : Reg) (v : Word) : State.rd (s.putReg page off g v) = State.rd (s.wr page off v) := by
  unfold State.rd
  rw [State.putReg_regs]

theorem State.rd64_putReg (s : State) (page off : Nat) (g : Reg) (v : Word) :
    State.rd64 (s.putReg page off g v) = State.rd64 (s.wr page off v) := by
  unfold State.rd64
  rw [State.rd_putReg]

theorem State.frc_wrPending (s : State) (page off : Nat) (chk v : Word) :
    (s.wrPending page off chk v).frc page off = (s.frc page off &&& chk) ||| (v &&& ~~~chk) := AMap.get_put_self ..

theorem State.frc_putReg (s : State) (page off : Nat) (g : Reg) (v : Word) :
    (s.putReg page off g v).frc page off =
      if g.chk ≠ 0 ∧ ((s.hdr page).enabled = true ∨ (s.hdr page).checking.isSome = true) then (s.frc page off &&& g.chk) ||| (v &&& ~~~g.chk)
      else v := by
  unfold State.putReg
  split
  · exact s.frc_wrPending page off g.chk v
  · exact s.frc_wr page off v

/-- Pending or not, only the word's own value in force is put: the map is the one that `State.wr` leaves for some value. -/
theorem State.frc_putReg_ne (s : State) {page off page' off' : Nat} (g : Reg) (v : Word) (h : regKey page' off' ≠ regKey page off) :
    (s.putReg page off g v).frc page' off' = s.frc page' off' := by
  unfold State.putReg
  split
  · exact s.frc_wr_ne page off page' off' _ h
  · exact s.frc_wr_ne page off page' off' v h

/-- The registers that `State.writeBody` hands to `State.writeGeneric`. -/
def plainReg (k : Kind) (po : Nat) : Prop :=
  k ∈ [Kind.wx, .ms, .fl, .ht, .qd, .die, .cp, .fb, .mt, .mq] ∨ (k = .lf ∧ po ≠ 0x070) ∨ (k = .cl ∧ po ≠ 0x044) ∨ (k = .rk ∧ po ≠ 0x044) ∨
    (k = .tb ∧ po ≠ 0x044) ∨ (k = .fq ∧ po ≠ 0x04C) ∨ (k = .se ∧ po ≠ 0x054 ∧ po ≠ 0x128) ∨ ((k = .qp ∨ k = .qpm) ∧ queueOff po = none)

theorem State.writeBody_plain (s : State) {k : Kind} {po : Nat} (n page : Nat) (r : Req) (v : Word) (hwInc : Nat) (hplain : plainReg k po) :
    s.writeBody k n page po r v hwInc = s.writeGeneric k page po v hwInc := by
  rcases hplain with hk | ⟨rfl, h⟩ | ⟨rfl, h⟩ | ⟨rfl, h⟩ | ⟨rfl, h⟩ | ⟨rfl, h⟩ | ⟨rfl, h, h'⟩ | ⟨rfl | rfl, h⟩
  · simp only [List.mem_cons, List.not_mem_nil, or_false] at hk
    rcases hk with rfl | rfl | rfl | rfl | rfl | rfl | rfl | rfl | rfl | rfl <;> rfl
  all_goals simp [State.writeBody, *]

/-- A word beyond the header is its page's own, unless it is SEC and the requester is not SECURE (R8). -/
theorem State.writeWord_body (s : State) {off n : Nat} {k : Kind} {r : Req} (v : Word) (hwInc : Nat) (hk : kindOf (off / 0x1000) = some (k, n))
    (hpo : 0x020 ≤ off % 0x1000) (hsec : isSec k (off % 0x1000) = true → r.secure = true) :
    s.writeWord off r v hwInc = s.writeBody k n (off / 0x1000) (off % 0x1000) r v hwInc := by
  unfold State.writeWord
  dsimp only
  rw [hk]
  dsimp only
  rw [if_neg (by simpa using hsec)]
  split
  case h_9 => rfl
  all_goals omega

theorem execRegisterWrite_requester {s : State} {o : Origin} {off bytes : Nat} {r : Req} (v : BitVec 64) (hwInc : Nat)
    (hreq : s.requester o true = .pass s r) :
    exec (.registerWrite o off bytes v hwInc) s = .next (s.windowWrite r off bytes (v.setWidth 32) hwInc) := by
  show Host.Outcome.next ((s.requester o true).serve s fun s r => s.windowWrite r off bytes (v.setWidth 32) hwInc) = _
  rw [hreq]
  rfl

/-- A requester's aligned word that passes its gate is written (R6). -/
theorem execRegisterWrite_pass {s : State} {o : Origin} {off : Nat} {r : Req} (v : BitVec 64) (hwInc : Nat) (halign : off % 4 = 0)
    (h : s.access o off true = .pass s r) :
    exec (.registerWrite o off 4 v hwInc) s = .next ((s.setReply .ok).writeWord off r (v.setWidth 32) hwInc) := by
  obtain ⟨hreq, hgate⟩ := State.access_pass h
  rw [execRegisterWrite_requester v hwInc hreq]
  unfold State.windowWrite
  rw [if_pos (by simpa using halign), hgate]
  rfl

/-- Any other width or alignment gets the error response (R6). -/
theorem execRegisterWrite_misaligned {s : State} {o : Origin} {off bytes : Nat} {r : Req} (v : BitVec 64) (hwInc : Nat)
    (hreq : s.requester o true = .pass s r) (h : ¬ (bytes = 4 ∧ off % 4 = 0)) :
    exec (.registerWrite o off bytes v hwInc) s = .next (s.setReply (.errorResponse [])) := by
  rw [execRegisterWrite_requester v hwInc hreq]
  unfold State.windowWrite
  rw [if_neg (by simpa using h)]
  rfl

/-- So does a page that the requester may not reach (R408). -/
theorem execRegisterWrite_unreachable {s : State} {o : Origin} {off bytes n : Nat} {k : Kind} {r : Req} (v : BitVec 64) (hwInc : Nat)
    (hreq : s.requester o true = .pass s r) (hlow : off / 0x1000 < 0x3000) (hk : kindOf (off / 0x1000) = some (k, n))
    (hreach : mayReach r k n = false) :
    exec (.registerWrite o off bytes v hwInc) s = .next (s.setReply (.errorResponse [])) := by
  by_cases h : bytes = 4 ∧ off % 4 = 0
  · rw [execRegisterWrite_requester v hwInc hreq]
    unfold State.windowWrite
    rw [if_pos (by simpa using h), State.gate_unreachable true hlow hk hreach]
    rfl
  · exact execRegisterWrite_misaligned v hwInc hreq h

theorem State.writeWord_plain (s : State) {off n : Nat} {k : Kind} {g : Reg} {r : Req} (v : Word) (hwInc : Nat)
    (hk : kindOf (off / 0x1000) = some (k, n)) (hpo : 0x020 ≤ off % 0x1000) (hg : regAt k (off % 0x1000) = some g)
    (hsec : g.sec = true → r.secure = true) (hplain : plainReg k (off % 0x1000)) :
    s.writeWord off r v hwInc = s.writeGeneric k (off / 0x1000) (off % 0x1000) v hwInc := by
  rw [s.writeWord_body v hwInc hk hpo (by unfold isSec; rw [hg]; exact hsec), s.writeBody_plain n _ r v hwInc hplain]

/-- Settles O13: the merged word is put in its place, and a counter's pair then takes the hardware's count. -/
theorem registerWrite : Obligations.RegisterWrite := by
  unfold Obligations.RegisterWrite
  refine ⟨fun s o off hwInc n v k g r halign hpo hk hg hsec haccess hplain => ?_, fun s o off hwInc v r halign haccess => ?_,
    fun s o off bytes hwInc v r hreq => ⟨?_, ?_⟩⟩
  · rw [execRegisterWrite_pass v hwInc halign haccess, State.writeWord_plain _ _ _ hk hpo hg hsec hplain, State.writeGeneric_reg _ _ _ hg]
    refine ⟨_, rfl, ?_⟩
    cases isCounter k (off % 0x1000) with
    | false =>
      rw [if_neg (by simp)]
      refine ⟨?_, ?_, fun _ => ⟨?_, ?_, fun page' off' hne => ⟨?_, ?_⟩⟩, nofun⟩
      · rw [State.putReg_frame]; rfl
      · rw [State.putReg_frame]; rfl
      · rw [State.rd_putReg, State.rd_wr]; rfl
      · exact State.frc_putReg ..
      · rw [State.rd_putReg, State.rd_wr_ne _ _ _ _ _ _ hne]; rfl
      · rw [State.frc_putReg_ne _ _ _ hne]; rfl
    | true =>
      rw [if_pos rfl]
      refine ⟨?_, ?_, nofun, fun _ => ?_⟩
      · rw [State.bump_frame, State.putReg_frame]; rfl
      · rw [State.bump_frame, State.putReg_frame]; rfl
      · rw [State.rd64_bump, State.rd64_putReg]; rfl
  · exact execRegisterWrite_pass v hwInc halign haccess
  · exact execRegisterWrite_misaligned v hwInc hreq
  · exact fun k n => execRegisterWrite_unreachable v hwInc hreq

end Sys2Proof.Machine
end

section
/-!
PROOF. Reads of a counter: the snapshot of the high word through the latch (R97).
-/

namespace Sys2Proof.Machine

/-- The low word answers itself and fills the latch; the high word answers the latch. -/
theorem State.readWord_counter (s : State) {off n : Nat} {k : Kind} {r : Req} (hk : kindOf (off / 0x1000) = some (k, n))
    (hc : isCounter k (off % 0x1000) = true) (hsec : isSec k (off % 0x1000) = true → r.secure = true) :
    s.readWord off r =
      if off % 0x1000 % 8 = 0 then (s.rd (off / 0x1000) (off % 0x1000), s.snapshot (off / 0x1000) (off % 0x1000))
      else (s.latchOf (off / 0x1000) (off % 0x1000 - 4), s) := by
  unfold State.readWord
  dsimp only
  rw [hk]
  dsimp only
  rw [if_neg (by simpa using hsec), if_pos hc]

theorem pairAt_counter {off n : Nat} {k : Kind} (halign : off % 8 = 0) (hk : kindOf (off / 0x1000) = some (k, n))
    (hc : isCounter k (off % 0x1000) = true) : pairAt off = true := by
  unfold pairAt
  simp [halign, hk, hc]

theorem pairAt_aligned {off : Nat} (h : pairAt off = true) : off % 8 = 0 := by
  unfold pairAt at h
  simp only [Bool.and_eq_true, decide_eq_true_eq] at h
  exact h.1

theorem execCounterLowRead_requester {s : State} {o : Origin} {off bytes : Nat} {r : Req} (hreq : s.requester o false = .pass s r) :
    exec (.counterLowRead o off bytes) s = .next (s.windowRead r off bytes) := by
  show Host.Outcome.next ((s.requester o false).serve s fun s r => s.windowRead r off bytes) = _
  rw [hreq]
  rfl

/-- An aligned word that passes its gate is read (R6). -/
theorem execCounterLowRead_word {s : State} {o : Origin} {off : Nat} {r : Req} (halign : off % 4 = 0) (h : s.access o off false = .pass s r) :
    exec (.counterLowRead o off 4) s = .next ((s.readWord off r).2.setReply (.data (leBytes (s.readWord off r).1.toNat 4))) := by
  obtain ⟨hreq, hgate⟩ := State.access_pass h
  rw [execCounterLowRead_requester hreq]
  unfold State.windowRead
  rw [if_pos (by simpa using halign), hgate]
  rfl

/-- An aligned pair that passes its gate is read low half first (R6, R97). -/
theorem execCounterLowRead_pair {s : State} {o : Origin} {off : Nat} {r : Req} (hpair : pairAt off = true)
    (h : s.access o off false = .pass s r) :
    exec (.counterLowRead o off 8) s =
      .next (((s.readWord off r).2.readWord (off + 4) r).2.setReply
        (.data (leBytes (s.readWord off r).1.toNat 4 ++ leBytes ((s.readWord off r).2.readWord (off + 4) r).1.toNat 4))) := by
  obtain ⟨hreq, hgate⟩ := State.access_pass h
  rw [execCounterLowRead_requester hreq]
  unfold State.windowRead
  rw [if_neg (by simp), if_pos (by simpa using hpair), hgate]
  rfl

/-- Anything that is neither an aligned word nor an aligned pair gets the error response (R6). -/
theorem execCounterLowRead_misaligned {s : State} {o : Origin} {off bytes : Nat} {r : Req} (hreq : s.requester o false = .pass s r)
    (hword : ¬ (bytes = 4 ∧ off % 4 = 0)) (hpair : ¬ (bytes = 8 ∧ off % 8 = 0)) :
    exec (.counterLowRead o off bytes) s = .next (s.setReply (.errorResponse [0xFF, 0xFF, 0xFF, 0xFF])) := by
  rw [execCounterLowRead_requester hreq]
  unfold State.windowRead
  rw [if_neg (by simpa using hword), if_neg (by simpa using fun hb hp => hpair ⟨hb, pairAt_aligned hp⟩)]
  rfl

theorem State.latchOf_snapshot (s : State) (page off : Nat) : (s.snapshot page off).latchOf page off = s.rd page (off + 4) :=
  AMap.get_put_self ..

theorem State.latchOf_snapshot_ne (s : State) {page off page' off' : Nat} (h : regKey page' off' ≠ regKey page off) :
    (s.snapshot page off).latchOf page' off' = s.latchOf page' off' := AMap.get_put_ne h

/-- The read of an aligned pair: the low half's copy in the latch is what the high half then answers. -/
theorem State.readWord_counter_pair (s : State) {off n : Nat} {k : Kind} {r : Req} (halign : off % 8 = 0)
    (hk : kindOf (off / 0x1000) = some (k, n)) (hc : isCounter k (off % 0x1000 + 4) = true)
    (hsec : isSec k (off % 0x1000 + 4) = true → r.secure = true) :
    (s.snapshot (off / 0x1000) (off % 0x1000)).readWord (off + 4) r =
      (s.rd (off / 0x1000) (off % 0x1000 + 4), s.snapshot (off / 0x1000) (off % 0x1000)) := by
  have hpage : (off + 4) / 0x1000 = off / 0x1000 := by omega
  have hpo : (off + 4) % 0x1000 = off % 0x1000 + 4 := by omega
  rw [State.readWord_counter _ (k := k) (n := n) (by rw [hpage]; exact hk) (by rw [hpo]; exact hc) (by rw [hpo]; exact hsec), hpage, hpo,
    if_neg (by omega), Nat.add_sub_cancel, State.latchOf_snapshot]

/-- Settles O14: the low word's read takes the copy of the high word that every later read of the high word answers. -/
theorem counterSnapshot : Obligations.CounterSnapshot := by
  unfold Obligations.CounterSnapshot
  refine ⟨fun s o off n k r halign hk hc hsec haccess => ⟨fun hlow => ⟨?_, fun hsec' hc' => ?_⟩, fun hhigh => ?_⟩,
    fun s o off bytes r hreq hword hpair => execCounterLowRead_misaligned hreq hword hpair⟩
  · rw [execCounterLowRead_word halign haccess, State.readWord_counter s hk hc hsec, if_pos (by omega)]
    exact ⟨_, rfl, rfl, State.latchOf_snapshot .., fun _ _ hne => State.latchOf_snapshot_ne s hne, rfl⟩
  · rw [execCounterLowRead_pair (pairAt_counter hlow hk hc) haccess, State.readWord_counter s hk hc hsec, if_pos (by omega),
      State.readWord_counter_pair s hlow hk hc' hsec']
    exact ⟨_, rfl, rfl, rfl⟩
  · rw [execCounterLowRead_word halign haccess, State.readWord_counter s hk hc hsec, if_neg (by omega)]

end Sys2Proof.Machine
end

section
/-!
PROOF. What a write of an event word (R9, R415) and of the header semaphore (R346) leaves.
-/

namespace Sys2Proof.Machine

/-! ## Event words -/

/-- A message changes the pending bits or what was sent, and nothing else (R415). -/
theorem State.resend_frame (s : State) (page : Nat) :
    s.resend page = { s with host := (s.resend page).host, out := (s.resend page).out } := by
  unfold State.resend State.sendMsi State.sendVector
  dsimp only
  repeat' split
  all_goals rfl

theorem State.hdr_resend (s : State) (page j : Nat) : (s.resend page).hdr j = s.hdr j := by
  rw [State.resend_frame]
  rfl

/-- No message goes out while the condition is zero (R415). -/
theorem State.resend_of_zero (s : State) (page : Nat) (h : (s.hdr page).evStat &&& (s.hdr page).evEn = 0) : s.resend page = s :=
  if_neg (by simp [PageHdr.cond, h])

/-- A write of an event word: the page's header as given, and a message where that leaves the condition non-zero. -/
theorem State.setHdr_resend (s : State) (page : Nat) (h : PageHdr) :
    let t := ((s.setReply .ok).setHdr page h).resend page
    t = { s with pages := t.pages, reply := .ok, host := t.host, out := t.out } ∧ (∀ j, j ≠ page → t.hdr j = s.hdr j) ∧ t.hdr page = h ∧
      (h.evStat &&& h.evEn = 0 → t.out = s.out ∧ t.host = s.host) := by
  have hself : ((s.setReply .ok).setHdr page h).hdr page = h := by simp
  refine ⟨?_, fun j hj => ?_, ?_, fun hzero => ?_⟩
  · rw [State.resend_frame]
    rfl
  · rw [State.hdr_resend]
    simp [hj]
  · rw [State.hdr_resend, hself]
  · rw [State.resend_of_zero _ _ (by rw [hself]; exact hzero)]
    exact ⟨rfl, rfl⟩

theorem execEventStatusClear_pass {s : State} {o : Origin} {page n : Nat} {k : Kind} {r : Req} (mask hw : Word)
    (hk : kindOf page = some (k, n)) (h : s.access o (page * 0x1000 + 0x014) true = .pass s r) :
    exec (.eventStatusClear o page mask hw) s = .next ((s.setReply .ok).clearEvents k page r mask hw) := by
  show Host.Outcome.next (s.withWrite o _ _) = _
  rw [State.withWrite_pass _ h, hk]

theorem execEventEnableWrite_pass {s : State} {o : Origin} {page n : Nat} {k : Kind} {r : Req} (v : Word)
    (hk : kindOf page = some (k, n)) (h : s.access o (page * 0x1000 + 0x018) true = .pass s r) :
    exec (.eventEnableWrite o page v) s = .next ((s.setReply .ok).enableEvents page v) := by
  show Host.Outcome.next (s.withWrite o _ _) = _
  rw [State.withWrite_pass _ h, hk]

/-! ## The header semaphore -/

theorem execHeaderSemWrite_pass {s : State} {o : Origin} {page n : Nat} {k : Kind} {r : Req} (v : Word)
    (hk : kindOf page = some (k, n)) (h : s.access o (page * 0x1000 + 0x01C) true = .pass s r) :
    exec (.headerSemWrite o page v) s = .next ((s.setReply .ok).writeHeaderSem page r v) := by
  show Host.Outcome.next (s.withWrite o _ _) = _
  rw [State.withWrite_pass _ h, hk]

/-- A write of 1 to bit 16 of a free SEM takes it for the requester. -/
theorem State.writeHeaderSem_take (s : State) (page : Nat) (r : Req) {v : Word} (hset : v.getLsbD 16 = true)
    (hfree : (s.hdr page).semHeld = false) :
    s.writeHeaderSem page r v =
      s.setHdr page { s.hdr page with semHeld := true, semPart := BitVec.ofNat 6 r.partNo, semDom := BitVec.ofNat 8 r.dom,
                                      semEpoch := s.epoch r.dom } := by
  simp [State.writeHeaderSem, hset, hfree]

theorem State.writeHeaderSem_held (s : State) (page : Nat) (r : Req) {v : Word} (hset : v.getLsbD 16 = true)
    (hheld : (s.hdr page).semHeld = true) : s.writeHeaderSem page r v = s := by
  simp [State.writeHeaderSem, hset, hheld]

/-- A write of 0 by the holder, the same partition through the same interface, gives it back. -/
theorem State.writeHeaderSem_give (s : State) (page : Nat) (r : Req) {v : Word} (hclear : v.getLsbD 16 = false)
    (hheld : (s.hdr page).semHeld = true ∧ (s.hdr page).semPart = BitVec.ofNat 6 r.partNo ∧ (s.hdr page).semDom = BitVec.ofNat 8 r.dom) :
    s.writeHeaderSem page r v =
      s.setHdr page { s.hdr page with semHeld := false, semPart := 0, semDom := 0, semEpoch := 0, semAband := false } := by
  simp only [State.writeHeaderSem, hclear, Bool.false_eq_true, if_false, Bool.and_eq_true, decide_eq_true_eq, hheld, and_self,
    if_true]

theorem State.writeHeaderSem_other (s : State) (page : Nat) (r : Req) {v : Word} (hclear : v.getLsbD 16 = false)
    (hother : ¬ ((s.hdr page).semHeld = true ∧ (s.hdr page).semPart = BitVec.ofNat 6 r.partNo ∧
      (s.hdr page).semDom = BitVec.ofNat 8 r.dom)) : s.writeHeaderSem page r v = s := by
  simp only [State.writeHeaderSem, hclear, Bool.false_eq_true, if_false, Bool.and_eq_true, decide_eq_true_eq, and_assoc, hother, if_false]

/-- A write of the SEM sets the page's header or leaves the state. -/
theorem State.writeHeaderSem_cases (s : State) (page : Nat) (r : Req) (v : Word) :
    s.writeHeaderSem page r v = s ∨ ∃ h, s.writeHeaderSem page r v = s.setHdr page h := by
  unfold State.writeHeaderSem
  dsimp only
  split <;> split
  · exact .inl rfl
  · exact .inr ⟨_, rfl⟩
  · exact .inr ⟨_, rfl⟩
  · exact .inl rfl

theorem State.writeHeaderSem_frame (s : State) (page : Nat) (r : Req) (v : Word) :
    s.writeHeaderSem page r v = { s with pages := (s.writeHeaderSem page r v).pages } := by
  rcases s.writeHeaderSem_cases page r v with h | ⟨x, h⟩
  · rw [h]
  · rw [h]
    rfl

theorem State.hdr_writeHeaderSem_ne (s : State) {page j : Nat} (r : Req) (v : Word) (hj : j ≠ page) :
    (s.writeHeaderSem page r v).hdr j = s.hdr j := by
  rcases s.writeHeaderSem_cases page r v with h | ⟨x, h⟩
  · rw [h]
  · rw [h, State.hdr_setHdr, if_neg hj]

/-- Settles O17: each write sets the page's header, and that of an event word sends a message where the condition is not zero. -/
theorem eventAndSemRegisters : Obligations.EventAndSemRegisters := by
  unfold Obligations.EventAndSemRegisters
  refine fun s o page n k r hk => ⟨fun mask hw haccess => ?_, fun v haccess => ?_, fun v haccess => ?_⟩
  · rw [execEventStatusClear_pass mask hw hk haccess]
    exact ⟨_, rfl, State.setHdr_resend s page _⟩
  · rw [execEventEnableWrite_pass v hk haccess]
    exact ⟨_, rfl, State.setHdr_resend s page _⟩
  · rw [execHeaderSemWrite_pass v hk haccess]
    refine ⟨_, rfl, ?_, fun j hj => ?_, fun hset hfree => ?_, fun hset hheld => ?_, fun hclear hheld hpart hdom => ?_, fun hclear hother => ?_⟩
    · rw [State.writeHeaderSem_frame]
      rfl
    · rw [State.hdr_writeHeaderSem_ne _ _ _ hj]
      rfl
    · rw [State.writeHeaderSem_take (s.setReply .ok) page r hset hfree, State.hdr_setHdr, if_pos rfl]
      rfl
    · rw [State.writeHeaderSem_held (s.setReply .ok) page r hset hheld]
      rfl
    · rw [State.writeHeaderSem_give (s.setReply .ok) page r hclear ⟨hheld, hpart, hdom⟩, State.hdr_setHdr, if_pos rfl]
      rfl
    · rw [State.writeHeaderSem_other (s.setReply .ok) page r hclear hother]
      rfl

end Sys2Proof.Machine
end

section
/-!
PROOF. One step of the machine: the front command runs on the queue's rest, or a microsecond of idling passes (log entry 2).
-/

namespace Sys2Proof.Machine

theorem step_of_front {s : State} {c : Instr} {rest : List Instr} (h : s.pending = c :: rest) :
    step s = exec c { s with pending := rest } := by
  unfold step
  rw [h]

theorem step_of_empty {s : State} (h : s.pending = []) : step s = .next s.idle := by
  unfold step
  rw [h]

/-- Settles O1. -/
theorem stepRunsFront : Obligations.StepRunsFront := by
  unfold Obligations.StepRunsFront
  exact fun s c rest h => step_of_front h

/-- Settles O8: neither a command nor an idle microsecond touches the queue or the part, so what leaves the queue is the front that the step took. -/
theorem stepTakesOne : Obligations.StepTakesOne := by
  unfold Obligations.StepTakesOne
  intro s t hstep
  cases hqueue : s.pending with
  | nil =>
    have hidle : Kept s s.idle := State.idle_kept Kept.rfl
    rw [step_of_empty hqueue, Host.Outcome.next.injEq] at hstep
    rw [← hstep]
    exact ⟨hidle.pending.trans hqueue, hidle.part⟩
  | cons c rest =>
    rw [step_of_front hqueue] at hstep
    have hexec : Kept { s with pending := rest } t := exec_kept Kept.rfl c hstep
    exact ⟨hexec.pending, hexec.part⟩

end Sys2Proof.Machine
end

section
/-!
PROOF. What the operations of a pass leave alone: those on a stride's counts and scales change its context only, those at one hearth that hearth, the
strides' contexts and counters.
-/

namespace Sys2Proof.Machine

/-! ## Changes of the strides' contexts only -/

/-- `t` is `s` but for the contexts of the strides. -/
def SeOnly (s t : State) : Prop := t = { s with se := t.se }

theorem SeOnly.rfl {s : State} : SeOnly s s := Eq.refl s

theorem SeOnly.trans {s t u : State} (h : SeOnly s t) (g : SeOnly t u) : SeOnly s u := by
  unfold SeOnly at *
  rw [g, h]

theorem SeOnly.setSe (s : State) (p : Nat) (x : Se) : SeOnly s (s.setSe p x) := Eq.refl _

theorem SeOnly.ite {s a b : State} {c : Prop} [Decidable c] (h : SeOnly s a) (g : SeOnly s b) : SeOnly s (if c then a else b) := by
  split <;> assumption

theorem SeOnly.foldl {α : Type} {f : State → α → State} (hf : ∀ s x, SeOnly s (f s x)) (l : List α) (s : State) : SeOnly s (l.foldl f s) := by
  induction l generalizing s with
  | nil => exact SeOnly.rfl
  | cons x l ih => exact (hf s x).trans (ih (f s x))

theorem SeOnly.hearth {s t : State} (h : SeOnly s t) (n : Nat) : t.hearth n = s.hearth n := by
  rw [h]
  rfl

theorem SeOnly.nowUs {s t : State} (h : SeOnly s t) : t.nowUs = s.nowUs := by rw [h]

theorem State.fixScale_seOnly (s : State) (p dua : Nat) : SeOnly s (s.fixScale p dua) := .ite .rfl (.setSe ..)

theorem State.addCnt_seOnly (s : State) (p rec_ : Nat) (c : RecCnt) : SeOnly s (s.addCnt p rec_ c) := .ite .rfl (.setSe ..)

theorem State.countVec_seOnly (s : State) (h : PassHdr) (row : Nat) (fed : List Fed) (grads : List (Nat × Cnt)) (sums : List FR) :
    SeOnly s (s.countVec h row fed grads sums) := by
  unfold State.countVec
  extract_lets p s0 i1 i2 fs side s1 e f8
  have h0 : SeOnly s s0 := s.addCnt_seOnly ..
  have h1 : SeOnly s s1 := ((((h0.trans (.setSe ..)).trans (.setSe ..)).trans (State.addCnt_seOnly ..)).trans (State.addCnt_seOnly ..) :)
  exact .ite h0 (.ite (h1.trans (.setSe ..)) (.ite (h1.trans (.setSe ..)) h1))

theorem State.keepClipped_seOnly (s : State) (h : PassHdr) (x : VecIn) (fed : List Fed) : SeOnly s (s.keepClipped h x fed) :=
  .ite .rfl (.setSe ..)

/-! ## Changes at one hearth -/

/-- From `s` to `t` only one hearth, the strides' contexts and the counters differ. -/
structure AtHearth (n : Nat) (s t : State) : Prop where
  frame : t = { s with hearths := t.hearths, se := t.se, regs := t.regs, force := t.force }
  others : ∀ j, j ≠ n → t.hearth j = s.hearth j

theorem AtHearth.rfl {n : Nat} {s : State} : AtHearth n s s := ⟨Eq.refl s, fun _ _ => Eq.refl _⟩

theorem AtHearth.trans {n : Nat} {s t u : State} (h : AtHearth n s t) (g : AtHearth n t u) : AtHearth n s u :=
  ⟨by rw [g.frame, h.frame], fun j hj => (g.others j hj).trans (h.others j hj)⟩

theorem SeOnly.atHearth {s t : State} (h : SeOnly s t) (n : Nat) : AtHearth n s t := ⟨by rw [h], fun j _ => h.hearth j⟩

theorem AtHearth.setHearth (n : Nat) (s : State) (y : Hearth) : AtHearth n s (s.setHearth n y) :=
  ⟨Eq.refl _, fun j hj => by rw [State.hearth_setHearth, if_neg hj]⟩

theorem State.hearth_bump (s : State) (page off k n : Nat) : (s.bump page off k).hearth n = s.hearth n := by
  rw [State.bump_frame]
  rfl

theorem AtHearth.bump (n : Nat) (s : State) (page off k : Nat) : AtHearth n s (s.bump page off k) :=
  ⟨by rw [State.bump_frame], fun j _ => s.hearth_bump page off k j⟩

theorem AtHearth.hearthCycles (n : Nat) (s : State) (off k : Nat) (tally : Bool) : AtHearth n s (s.hearthCycles n off k tally) := by
  unfold State.hearthCycles
  cases tally with
  | false => exact .bump ..
  | true => exact (AtHearth.bump ..).trans (.setHearth ..)

theorem State.hearth_hearthCycles (s : State) (n off k : Nat) (tally : Bool) :
    (s.hearthCycles n off k tally).hearth n = { s.hearth n with tally := (s.hearth n).tally + if tally then k else 0 } := by
  unfold State.hearthCycles
  cases tally with
  | false => exact s.hearth_bump ..
  | true => simp [State.hearth_bump]

end Sys2Proof.Machine
end

section
/-!
PROOF. The end of ASSEMBLE outside ordered mode and the end of a stride's forward work (R57, R100, R102, R178, R208).
-/

namespace Sys2Proof.Machine

/-! ## The end of ASSEMBLE -/

theorem Near.se {s t : State} (h : Near s t) : t.se = s.se := by rw [h]

/-- The deadline table goes to the lift and to memory; the strides' contexts stay (R208). -/
theorem State.writeDeadlines_se (s : State) : s.writeDeadlines.se = s.se := by
  unfold State.writeDeadlines
  split
  · next m _ =>
    split
    · exact (State.storeTry_near (s.setLift { s.lift with dl := s.deadlines m, dlAt := s.nowUs }) _ _ _).se
    · rfl
  · rfl

/-- A stride that has left ASSEMBLE is in FORWARD, with its deadlines counted from the time at which its rows were built. -/
theorem State.seOf_leaveAssemble (s : State) (p : Nat) :
    ((s.leaveAssemble p).seOf p).st = .forward ∧ ((s.leaveAssemble p).seOf p).asmAt = (s.buildRows p).nowUs := by
  unfold State.leaveAssemble
  extract_lets s0 s1 e
  have hfixed : SeOnly s0 s1 := .foldl (fun t (r : Tile) => t.fixScale_seOnly p r.inScale) _ _
  have hse : ∀ x, ((s1.setSe p x).writeDeadlines).seOf p = x := by
    intro x
    unfold State.seOf
    rw [State.writeDeadlines_se]
    exact AMap.get_put_self ..
  rw [hse]
  exact ⟨rfl, hfixed.nowUs⟩

theorem execAssembleDone_leaves {s : State} {p : PartId} (hst : (s.seOf p.val).st = .assemble) (hord : (s.seOf p.val).ordered = false) :
    exec (.assembleDone p) s = .next ((s.admitAll p.val s.parks).leaveAssemble p.val) := by
  refine congrArg Host.Outcome.next ?_
  simp [hst, hord]

/-! ## The end of the forward work -/

theorem execForwardSweepDone_sweeps {s : State} {p : PartId} {m : Manifest} (hst : (s.seOf p.val).st = .forward) (hbase : s.lift.base = some m)
    (hlayer : (s.seOf p.val).layer = m.layers.length) :
    exec (.forwardSweepDone p) s =
      .next (s.setSe p.val { s.seOf p.val with st := .sweep, ckpts := (s.seOf p.val).ckpts ++ (s.seOf p.val).newCkpts }) := by
  have hlayers : s.layers = m.layers.length := by
    unfold State.layers
    rw [hbase]
  refine congrArg Host.Outcome.next (if_pos ?_)
  simp [hst, hbase, hlayer, hlayers]

/-- A new checkpoint is that of a training row set, with the scales and rerun decisions of its stride. -/
theorem Se.mem_newCkpts {e : Se} {c : Ckpt} (h : c ∈ e.newCkpts) :
    c.rows.kind = .train ∧ c.stride = e.num ∧ c.scales = e.scales ∧ c.reruns = e.reruns := by
  unfold Se.newCkpts at h
  obtain ⟨fr, -, hc⟩ := List.mem_filterMap.1 h
  split at hc
  · next hkind =>
    cases hc
    exact ⟨hkind, rfl, rfl, rfl⟩
  · cases hc

/-- Settles O20. -/
theorem strideForward : Obligations.StrideForward := by
  unfold Obligations.StrideForward
  refine ⟨fun s p hst hord => ?_, fun s p m hst hbase hlayer => ?_⟩
  · rw [execAssembleDone_leaves hst hord]
    exact ⟨_, rfl, rfl, State.seOf_leaveAssemble ..⟩
  · rw [execForwardSweepDone_sweeps hst hbase hlayer]
    refine ⟨_, rfl, SeOnly.setSe .., fun q hq => ?_, ?_, fun c => Se.mem_newCkpts⟩
    · rw [State.seOf_setSe, if_neg hq]
    · rw [State.seOf_setSe, if_pos rfl]

end Sys2Proof.Machine
end

section
/-!
PROOF. A vector issued into the pass of a hearth (R65 to R68, R76, R77, R81, R82).
-/

namespace Sys2Proof.Machine

/-! ## What changes at the hearth -/

/-- A front that has crossed frees its slot, and nothing else of the hearth changes (R72). -/
theorem Hearth.endFront_frame (y : Hearth) :
    y.endFront = { y with frontBand := y.endFront.frontBand, stage0 := y.endFront.stage0, stage1 := y.endFront.stage1 } := by
  unfold Hearth.endFront
  cases y.frontBand with
  | none => rfl
  | some b => cases y.nextSlot <;> rfl

/-- One more issue cycle moves a front, or ends it. -/
theorem Hearth.stepFront_frame (y : Hearth) :
    y.stepFront = { y with frontBand := y.stepFront.frontBand, stage0 := y.stepFront.stage0, stage1 := y.stepFront.stage1 } := by
  unfold Hearth.stepFront
  cases y.frontBand with
  | none => rfl
  | some b =>
    by_cases h : 15 ≤ b
    · simp only [if_pos h]
      exact y.endFront_frame
    · simp only [if_neg h]

/-- The front of a hearth moved and a row's sums set: the pass, the drain's queue and counts, the wax cache and scratch stay. -/
theorem Hearth.setSums_stepFront_fields (y : Hearth) (h : PassHdr) (row : Nat) (r : RowSums) :
    ((y.setSums h row r).stepFront).pass = y.pass ∧ ((y.setSums h row r).stepFront).issued = y.issued ∧
    ((y.setSums h row r).stepFront).drainIn = y.drainIn ∧ ((y.setSums h row r).stepFront).tally = y.tally ∧
    ((y.setSums h row r).stepFront).lines = y.lines ∧ ((y.setSums h row r).stepFront).scratch = y.scratch := by
  rw [Hearth.stepFront_frame]
  exact ⟨rfl, rfl, rfl, rfl, rfl, rfl⟩

/-! ## The vector's way through the state -/

/-- The state in which a vector is converted: its record's SCALE fixed, unless the pass takes BF16 (R38, R46). -/
def State.vecStart (s : State) (h : PassHdr) : State := if h.bf16 then s else s.fixScale h.part h.inRec

theorem State.vecStart_seOnly (s : State) (h : PassHdr) : SeOnly s (s.vecStart h) := .ite .rfl (s.fixScale_seOnly ..)

/-- The activations that a vector's converted elements stand for. -/
def State.vecActs (s : State) (h : PassHdr) (x : VecIn) : List FVal :=
  (feedVec h (if h.bf16 then 127 else (s.vecStart h).rowScale h x.row) ((s.vecStart h).clipOf h.part h.layer h.input x.row) x).map
    (fun f => actVal h f.code)

/-- What an issued vector makes of its hearth: one row issued more, its column sums last in the drain's queue, one cycle tallied. -/
theorem State.hearth_issueVec (s : State) (n : Nat) (d : StageData) (x : VecIn) :
    ∃ r, (s.issueVec n d x).hearth n =
      { ((s.hearth n).setSums d.hdr x.row r).stepFront with
        issued := (s.hearth n).issued + 1
        drainIn := (s.hearth n).drainIn ++
          [{ row := x.row, hdr := d.hdr, cols := (columnSums d ((s.hearth n).table d.hdr.layer) (s.vecActs d.hdr x)).map (·.v) }]
        tally := (s.hearth n).tally + 1 } := by
  have hstart : (s.vecStart d.hdr).hearth n = s.hearth n := (s.vecStart_seOnly d.hdr).hearth n
  unfold State.issueVec
  extract_lets h s0 y fed grads sums a sd y1 y2
  have hy : y = s.hearth n := hstart
  have hcount : (((s0.setHearth n y2).countVec h x.row fed grads (sums ++ sd)).keepClipped h x fed).hearth n = y2 := by
    rw [(State.keepClipped_seOnly ..).hearth, (State.countVec_seOnly ..).hearth, State.hearth_setHearth, if_pos rfl]
  obtain ⟨-, hissued, hdrain, htally, -, -⟩ :=
    Hearth.setSums_stepFront_fields y h x.row { a with side := sd.map (·.v), issued := a.issued ++ [h.kch] }
  refine ⟨{ a with side := sd.map (·.v), issued := a.issued ++ [h.kch] }, ?_⟩
  rw [State.hearth_hearthCycles, hcount, ← hy]
  show ({ y1 with issued := y1.issued + 1, drainIn := y1.drainIn ++ [_], tally := y1.tally + 1 } : Hearth) = _
  rw [hissued, hdrain, htally]
  rfl

theorem State.issueVec_atHearth (s : State) (n : Nat) (d : StageData) (x : VecIn) : AtHearth n s (s.issueVec n d x) := by
  unfold State.issueVec
  extract_lets h s0 y fed grads sums a sd y1 y2
  have hstart : AtHearth n s s0 := (s.vecStart_seOnly h).atHearth n
  exact (((hstart.trans (.setHearth n s0 y2)).trans ((State.countVec_seOnly ..).atHearth n)).trans
    ((State.keepClipped_seOnly ..).atHearth n)).trans (.hearthCycles ..)

/-! ## When a vector issues -/

/-- May a vector of the pass `d` issue at hearth `n`: the conditions of R65, R71, R76, R77 and R93? -/
structure State.MayIssue (s : State) (n : Nat) (d : StageData) (x : VecIn) : Prop where
  owner : (s.hearth n).owner = some d.hdr.part
  sweeping : s.sweeping d.hdr.part = true
  row : x.row ∈ d.hdr.rows
  passRow : (s.passRow d.hdr.part x.row).isSome = true
  length : x.elems.length = d.hdr.depth
  front : (s.hearth n).stageWait = false
  room : (s.hearth n).stalled = false ∨ (s.hearth n).drainIn.length < 32
  accum : ((s.hearth n).accOf d.hdr).isSome = true
  fresh : d.hdr.kch ∉ ((s.hearth n).sumsOf d.hdr x.row).issued

theorem execVectorIssue_issues {s : State} {h : HearthId} {x : VecIn} {d : StageData} (hpass : (s.hearth h.val).pass = some d)
    (hmay : s.MayIssue h.val d x) : exec (.vectorIssue h x) s = .next (s.issueVec h.val d x) := by
  obtain ⟨howner, hsweeping, hrow, hpassRow, hlength, hfront, hroom, haccum, hfresh⟩ := hmay
  have hstall : ((s.hearth h.val).stalled && decide (32 ≤ (s.hearth h.val).drainIn.length)) = false := by
    rcases hroom with hroom | hroom <;> simp [hroom]
  show Host.Outcome.next (match (s.hearth h.val).pass with | none => s | some d => _) = _
  rw [hpass]
  simp only [howner, hsweeping, List.contains_iff_mem.2 hrow, hpassRow, hlength, hfront, hstall, haccum, decide_true, Bool.not_false, Bool.and_true,
    List.contains_eq_mem, decide_eq_false hfresh, if_true]

theorem execVectorIssue_waits {s : State} {h : HearthId} (x : VecIn) (hwait : (s.hearth h.val).stageWait = true) :
    exec (.vectorIssue h x) s = .next s := by
  show Host.Outcome.next (match (s.hearth h.val).pass with | none => s | some d => _) = _
  cases (s.hearth h.val).pass with
  | none => rfl
  | some d => simp [hwait]

/-- Settles O25: the vector's sums wait for the drain in the hearth that `hearth_issueVec` gives, and all else is the frame. -/
theorem vectorIssue : Obligations.VectorIssue := by
  unfold Obligations.VectorIssue
  intro s h x d hpass
  refine ⟨fun howner hsweeping hrow hpassRow hlength hfront hroom haccum hfresh => ?_, execVectorIssue_waits x⟩
  rw [execVectorIssue_issues hpass ⟨howner, hsweeping, hrow, hpassRow, hlength, hfront, hroom, haccum, hfresh⟩]
  have hat := s.issueVec_atHearth h.val d x
  obtain ⟨r, hy⟩ := s.hearth_issueVec h.val d x
  obtain ⟨hpass', -, -, -, hlines, hscratch⟩ := Hearth.setSums_stepFront_fields (s.hearth h.val) d.hdr x.row r
  refine ⟨_, rfl, ?_⟩
  rw [hy]
  exact ⟨rfl, rfl, hpass'.trans hpass, rfl, hlines, hscratch, hat.others, hat.frame⟩

end Sys2Proof.Machine
end

section
/-!
PROOF. A front that starts the pass of the full staging slot (R16, R67, R69 to R72, R77, R92).
-/

namespace Sys2Proof.Machine

/-! ## Wax-cache fills -/

/-- A fill issued changes the lines of the wax cache and nothing else of the hearth (R91, R92). -/
theorem Hearth.fill_frame (y : Hearth) (l : WaxLine) : y.fill l = { y with lines := (y.fill l).lines } := by
  unfold Hearth.fill
  split
  · rfl
  · split
    · rfl
    · split <;> rfl

theorem Hearth.foldl_lines {α : Type} {f : Hearth → α → Hearth} (hf : ∀ y x, f y x = { y with lines := (f y x).lines }) (l : List α) (y : Hearth) :
    l.foldl f y = { y with lines := (l.foldl f y).lines } := by
  induction l generalizing y with
  | nil => rfl
  | cons x l ih =>
    rw [List.foldl_cons, ih, hf]

theorem Hearth.fillNeeded_frame (y : Hearth) : y.fillNeeded = { y with lines := y.fillNeeded.lines } := by
  refine Hearth.foldl_lines (fun y a => ?_) y.accs y
  cases a.prefetch with
  | true => exact Hearth.foldl_lines Hearth.fill_frame a.lines y
  | false => rfl

/-! ## The accumulator of the new pass -/

/-- An accumulator taken, with its fills, changes nothing else of the hearth (R77, R92). -/
theorem State.hearth_openAcc (s : State) (n : Nat) (h : PassHdr) :
    (s.openAcc n h).hearth n = { s.hearth n with accs := ((s.openAcc n h).hearth n).accs, lines := ((s.openAcc n h).hearth n).lines } := by
  unfold State.openAcc
  extract_lets y a
  by_cases hacc : (y.accOf h).isSome = true
  · rw [if_pos hacc]
  · rw [if_neg hacc, State.hearth_setHearth, if_pos rfl, Hearth.fillNeeded_frame]

theorem State.accOf_openAcc (s : State) (n : Nat) (h : PassHdr) : (((s.openAcc n h).hearth n).accOf h).isSome = true := by
  unfold State.openAcc
  extract_lets y a
  by_cases hacc : (y.accOf h).isSome = true
  · rwa [if_pos hacc]
  · have hserves : a.is h = true := by simp [Accum.is, a]
    rw [if_neg hacc, State.hearth_setHearth, if_pos rfl, Hearth.fillNeeded_frame]
    exact List.find?_isSome.2 ⟨a, List.mem_append_right _ (List.mem_singleton_self a), hserves⟩

theorem State.openAcc_atHearth (s : State) (n : Nat) (h : PassHdr) : AtHearth n s (s.openAcc n h) := by
  unfold State.openAcc
  extract_lets y a
  split
  · exact .rfl
  · exact .setHearth ..

/-! ## The old pass -/

/-- The end of a pass is marked at its hearth, in its tile's run and in the counters; the rows that wait for the drain outlive it (R79, R97). -/
theorem State.closePass_keeps (s : State) (n : Nat) :
    AtHearth n s (s.closePass n) ∧ ((s.closePass n).hearth n).drainIn = (s.hearth n).drainIn := by
  unfold State.closePass
  extract_lets y
  split
  · exact ⟨.rfl, rfl⟩
  · extract_lets h l s1 e s2 z f
    have h1 : AtHearth n s s1 := ((AtHearth.bump ..).trans (.hearthCycles ..)).trans (.hearthCycles ..)
    have h2 : AtHearth n s s2 := h1.trans ((SeOnly.setSe ..).atHearth n)
    have hz : z.drainIn = (s.hearth n).drainIn := by
      show (s1.hearth n).drainIn = _
      rw [State.hearth_hearthCycles, State.hearth_hearthCycles, State.hearth_bump]
    split <;> exact ⟨h2.trans (.setHearth ..), by rw [State.hearth_setHearth, if_pos rfl]; exact hz⟩

theorem Hearth.takeTable_drainIn (y : Hearth) (layer : Nat) (codes : List Nat) : (y.takeTable layer codes).drainIn = y.drainIn := by
  unfold Hearth.takeTable
  repeat' split
  all_goals rfl

/-! ## The front -/

/-- The hearth with the code table of the new pass's layer taken in, where the pass's weights need one (R67). -/
def State.frontTable (s : State) (d : StageData) (y : Hearth) : Hearth :=
  if d.hdr.stored = 0 then y.takeTable d.hdr.layer ((s.lift.base.getD {}).layers.getD d.hdr.layer {}).codeTable else y

/-- The state in which the old pass is over. -/
def State.frontClosed (s : State) (n : Nat) (d : StageData) : State :=
  (s.setHearth n (s.frontTable d (s.hearth n).endFront)).closePass n

/-- The hearth of a front as it starts: the slot's pass with nothing issued, and the other slot next. -/
def Hearth.startPass (z : Hearth) (d : StageData) (next : Bool) : Hearth :=
  { z with pass := some d, issued := 0, stageWait := false, nextSlot := next, frontBand := some 1 }

/-- The state after a front has started the pass `d` at hearth `n`. -/
def State.startFront (s : State) (n : Nat) (d : StageData) : State :=
  ((s.frontClosed n d).setHearth n (((s.frontClosed n d).hearth n).startPass d !(s.hearth n).endFront.nextSlot)).openAcc n d.hdr

theorem State.frontClosed_drainIn (s : State) (n : Nat) (d : StageData) :
    ((s.frontClosed n d).hearth n).drainIn = (s.hearth n).endFront.drainIn := by
  unfold State.frontClosed State.frontTable
  rw [(State.closePass_keeps ..).2, State.hearth_setHearth, if_pos rfl]
  split
  · exact Hearth.takeTable_drainIn ..
  · rfl

theorem State.startFront_atHearth (s : State) (n : Nat) (d : StageData) : AtHearth n s (s.startFront n d) :=
  (((AtHearth.setHearth ..).trans (State.closePass_keeps ..).1).trans (.setHearth ..)).trans (State.openAcc_atHearth ..)

/-- Up to its accumulators and wax-cache lines the hearth is as the front found it, with the new pass begun. -/
theorem State.hearth_startFront (s : State) (n : Nat) (d : StageData) :
    ∃ accs lines, (s.startFront n d).hearth n =
      { ((s.frontClosed n d).hearth n).startPass d !(s.hearth n).endFront.nextSlot with accs := accs, lines := lines } := by
  unfold State.startFront
  rw [State.hearth_openAcc]
  exact ⟨_, _, by rw [State.hearth_setHearth, if_pos rfl]⟩

/-- The staging slot whose turn it is. -/
def Hearth.turn (y : Hearth) : Option StageData := if y.nextSlot then y.stage1 else y.stage0

theorem execFrontStart_starts {s : State} {h : HearthId} {d : StageData} (henabled : s.enabled (pgHT h.val) = true)
    (hslot : (s.hearth h.val).endFront.turn = some d) (howner : (s.hearth h.val).endFront.owner = some d.hdr.part)
    (hsweeping : s.sweeping d.hdr.part = true) (hlayer : s.layerNow d.hdr = true)
    (hended : ∀ o, (s.hearth h.val).endFront.pass = some o → (s.hearth h.val).endFront.issued = o.hdr.rows.length)
    (hready : s.passReady (s.hearth h.val).endFront d.hdr = true) :
    exec (.frontStart h) s = .next (s.startFront h.val d) := by
  show Host.Outcome.next (if !s.enabled (pgHT h.val) || (s.hearth h.val).endFront.owner.isNone then s
    else match (s.hearth h.val).endFront.turn with | none => _ | some d => _) = _
  rw [hslot, if_neg (by simp [henabled, howner])]
  refine congrArg Host.Outcome.next (if_pos ?_)
  simp only [howner, hsweeping, hlayer, hready, decide_true, Bool.true_and, Bool.and_true]
  cases hpass : (s.hearth h.val).endFront.pass with
  | none => rfl
  | some o => exact decide_eq_true (hended o hpass)

theorem execFrontStart_waits {s : State} {h : HearthId} (henabled : s.enabled (pgHT h.val) = true)
    (hslot : (s.hearth h.val).endFront.turn = none) (howned : (s.hearth h.val).endFront.owner.isSome = true) :
    exec (.frontStart h) s = .next (s.setHearth h.val { (s.hearth h.val).endFront with stageWait := true }) := by
  show Host.Outcome.next (if !s.enabled (pgHT h.val) || (s.hearth h.val).endFront.owner.isNone then s
    else match (s.hearth h.val).endFront.turn with | none => _ | some d => _) = _
  rw [hslot, if_neg (by rw [henabled, ← Option.not_isSome, howned]; decide)]

/-- Settles O26: the old pass is closed, the slot's pass begun and its accumulator taken, all at the one hearth. -/
theorem frontStart : Obligations.FrontStart := by
  unfold Obligations.FrontStart
  intro s h henabled
  refine ⟨fun d hslot howner hsweeping hlayer hended hready => ?_, execFrontStart_waits henabled⟩
  rw [execFrontStart_starts henabled hslot howner hsweeping hlayer hended hready]
  have hat := s.startFront_atHearth h.val d
  have hacc : (((s.startFront h.val d).hearth h.val).accOf d.hdr).isSome = true := State.accOf_openAcc ..
  obtain ⟨accs, lines, hy⟩ := s.hearth_startFront h.val d
  refine ⟨_, rfl, ?_⟩
  rw [hy] at hacc ⊢
  exact ⟨rfl, rfl, rfl, rfl, rfl, s.frontClosed_drainIn h.val d, hacc, hat.others, hat.frame⟩

end Sys2Proof.Machine
end

section
/-!
PROOF. What the ending of a command leaves alone: its records go to rings, held lists, counters and events, and only its queue and the list of started
commands change with them (R273 to R276, R287, R367).
-/

namespace Sys2Proof.Machine

/-- `t` is `s` but for what records and audits write: memory, registers, counts of free draws, page headers, messages, held records, queues and the
started commands. -/
def Recorded (s t : State) : Prop :=
  t = { s with mem := t.mem, regs := t.regs, force := t.force, freeCtr := t.freeCtr, pages := t.pages, host := t.host, out := t.out, held := t.held,
               queues := t.queues, started := t.started }

theorem Recorded.rfl {s : State} : Recorded s s := Eq.refl s

theorem Recorded.trans {s t u : State} (h : Recorded s t) (g : Recorded t u) : Recorded s u := by
  unfold Recorded at *
  rw [g, h]

theorem Recorded.ite {s a b : State} {c : Prop} [Decidable c] (h : Recorded s a) (g : Recorded s b) : Recorded s (if c then a else b) := by
  split <;> assumption

theorem Recorded.lift {s t : State} (h : Recorded s t) : t.lift = s.lift := by rw [h]

theorem Near.recorded {s t : State} (h : Near s t) : Recorded s t := by
  unfold Recorded
  rw [h]

theorem State.setHeld_recorded (s : State) (n : Nat) (x : HeldRecs) : Recorded s (s.setHeld n x) := Eq.refl _

theorem State.setQueue_recorded (s : State) (n : Nat) (x : Queue) : Recorded s (s.setQueue n x) := Eq.refl _

theorem State.wr_recorded (s : State) (page off : Nat) (v : Word) : Recorded s (s.wr page off v) := Eq.refl _

theorem State.bump_recorded (s : State) (page off n : Nat) : Recorded s (s.bump page off n) := (near_bump .rfl ..).recorded

/-- An event set changes its page's header, and a message goes out or waits (R415). -/
theorem State.raise_recorded (s : State) (page bit : Nat) : Recorded s (s.raise page bit) := by
  unfold State.raise State.sendMsi State.sendVector
  exact .ite (.ite (.ite (Eq.refl _) (Eq.refl _)) (Eq.refl _)) (Eq.refl _)

theorem State.produce_recorded (s : State) (who : MemWho) (r : Ring) (data : List Byte) : Recorded s (s.produce who r data) :=
  (State.storeTry_near ..).recorded.trans (State.wr_recorded ..)

theorem State.complete_recorded (s : State) (qp : Nat) (c : CRec) : Recorded s (s.complete qp c) := by
  unfold State.complete State.putComp
  exact .ite (.ite ((State.produce_recorded ..).trans (State.raise_recorded ..)) (State.produce_recorded ..))
    (.ite ((State.setHeld_recorded ..).trans (State.raise_recorded ..)) (State.setHeld_recorded ..))

theorem State.report_recorded (s : State) (qp : Nat) (e : ERec) : Recorded s (s.report qp e) := by
  unfold State.report State.putErr
  exact .ite ((State.produce_recorded ..).trans (State.raise_recorded ..))
    (.ite (.ite ((State.setHeld_recorded ..).trans (State.raise_recorded ..)) (State.setHeld_recorded ..)) (State.bump_recorded ..))

theorem State.breach_recorded (s : State) (law page off bits index : Nat) : Recorded s (s.breach law page off bits index) := by
  unfold State.breach
  exact .ite .rfl (((State.wr_recorded ..).trans (State.raise_recorded ..)).trans (State.report_recorded ..))

theorem State.auditQueue_recorded (s : State) (n : Nat) : Recorded s (s.auditQueue n) :=
  .ite .rfl (.ite .rfl (State.breach_recorded ..))

theorem State.finish_recorded (s : State) (c : Started) (status : Nat) (i : EndInfo) : Recorded s (s.finish c status i) := by
  unfold State.finish
  extract_lets s2 s3 s4 s5 s6
  have h2 : Recorded s s2 := .ite .rfl (State.complete_recorded ..)
  have h3 : Recorded s s3 := h2.trans (State.bump_recorded ..)
  have h4 : Recorded s s4 := .ite (h3.trans (State.bump_recorded ..)) h3
  have h5 : Recorded s s5 := .ite (h4.trans (State.report_recorded ..)) h4
  have h6 : Recorded s s6 := .ite (h5.trans (State.bump_recorded ..)) h5
  exact (h6.trans (State.setQueue_recorded ..)).trans (State.auditQueue_recorded ..)

theorem State.endCmd_recorded (s : State) (c : Started) (status : Nat) (i : EndInfo) : Recorded s (s.endCmd c status i) :=
  have hdrop : Recorded s (s.dropCmd c) := Eq.refl _
  (hdrop.trans (State.finish_recorded ..)).trans (.ite (State.setQueue_recorded ..) .rfl)

theorem State.refuseCmd_recorded (s : State) (c : Started) (reason : Nat) (i : EndInfo) : Recorded s (s.refuseCmd c reason i) :=
  State.endCmd_recorded ..

/-! ## A started command found again -/

theorem State.findCmd_key {s : State} {k : Nat × Nat × Nat × Nat} {x : Started} (h : s.findCmd k = some x) : x.key = k := by
  simpa using List.find?_some h

theorem State.findCmd_of_taken {s : State} {c : CmdRef} {op : Nat} {x : Started} (h : s.taken c op = some x) : s.findCmd x.key = some x := by
  obtain ⟨hfind, -⟩ := Option.filter_eq_some_iff.1 h
  rwa [State.findCmd_key hfind]

/-- A started command changed in place is the one found under its key. -/
theorem State.findCmd_setCmd {s : State} {x y : Started} (hx : s.findCmd x.key = some x) (hkey : y.key = x.key) :
    (s.setCmd y).findCmd x.key = some y := by
  have hsame : ((fun c : Started => c.key == x.key) ∘ fun c => if c.key == y.key then y else c) = fun c => c.key == x.key := by
    funext c
    by_cases hc : c.key = x.key <;> simp [hkey, hc]
  show (s.started.map (fun c => if c.key == y.key then y else c)).find? (fun c => c.key == x.key) = some y
  rw [List.find?_map, hsame, show s.started.find? (fun c => c.key == x.key) = some x from hx]
  simp [hkey]

theorem State.onTaken_of_taken {s : State} {c : CmdRef} {op : Nat} {x : Started} (h : s.taken c op = some x) (f : State → Started → State) :
    s.onTaken c op f = f s x := by
  unfold State.onTaken
  rw [h]

/-- A command that runs on to its end changes the list of started commands only, and is found there as running. -/
theorem State.setCmd_running {s : State} {c : CmdRef} {op : Nat} {x : Started} (h : s.taken c op = some x) :
    s.setCmd { x with phase := .running } = { s with started := (s.setCmd { x with phase := .running }).started } ∧
      (s.setCmd { x with phase := .running }).findCmd x.key = some { x with phase := .running } :=
  ⟨rfl, State.findCmd_setCmd (State.findCmd_of_taken h) rfl⟩

end Sys2Proof.Machine
end

section
/-!
PROOF. BASE_LOAD and BASE_UNLOAD (R20, R205, R206, R219, R221, R267).
-/

namespace Sys2Proof.Machine

/-! ## A sparse map filtered by its values -/

/-- After a filter by value a key reads as a value that passed, or as an unlisted key does. -/
theorem AMap.get_filter_value {α : Type} (d : α) (p : α → Bool) (m : AMap α) (k : Nat) :
    p (AMap.get d (m.filter fun e => p e.2) k) = true ∨ AMap.get d (m.filter fun e => p e.2) k = d := by
  induction m with
  | nil => exact .inr rfl
  | cons e m ih =>
    by_cases hp : p e.2 = true
    · rw [List.filter_cons, if_pos hp]
      unfold AMap.get
      split
      · exact .inl hp
      · exact ih
    · rwa [List.filter_cons, if_neg hp]

/-- A key whose value passes the filter reads as before. -/
theorem AMap.get_filter_of_pass {α : Type} {d : α} {p : α → Bool} {m : AMap α} {k : Nat} (h : p (AMap.get d m k) = true) :
    AMap.get d (m.filter fun e => p e.2) k = AMap.get d m k := by
  induction m with
  | nil => rfl
  | cons e m ih =>
    unfold AMap.get at h
    by_cases hk : e.1 = k
    · rw [if_pos hk] at h
      rw [List.filter_cons, if_pos h]
      simp [AMap.get, hk]
    · rw [if_neg hk] at h
      by_cases hp : p e.2 = true
      · rw [List.filter_cons, if_pos hp]
        simpa [AMap.get, hk] using ih h
      · rw [List.filter_cons, if_neg hp]
        simpa [AMap.get, hk] using ih h

/-! ## Shards marked BAD -/

/-- Only the list of BAD shards changes in the lift. -/
theorem State.lift_markBad (s : State) (m : Manifest) (n : Nat) :
    (s.markBad m n).lift = if s.lift.bad.contains n then s.lift else { s.lift with bad := s.lift.bad ++ [n] } := by
  unfold State.markBad
  split
  · rfl
  · extract_lets old s1
    have h1 : s1.lift = { s.lift with bad := s.lift.bad ++ [n] } :=
      ((State.bump_recorded ..).trans (State.raise_recorded ..)).lift
    split
    · rw [(State.raise_recorded ..).lift, h1]
    · exact h1

theorem State.mem_bad_markBad (s : State) (m : Manifest) (n : Nat) : n ∈ (s.markBad m n).lift.bad := by
  rw [State.lift_markBad]
  split
  · next h => exact List.contains_iff_mem.1 h
  · exact List.mem_append_right _ (List.mem_singleton_self n)

theorem State.base_markBad (s : State) (m : Manifest) (n : Nat) : (s.markBad m n).lift.base = s.lift.base := by
  rw [State.lift_markBad]
  split <;> rfl

/-! ## BASE_LOAD -/

/-- Is a pinned shard of the base marked BAD (R219)? -/
def State.pinnedBad (s : State) (m : Manifest) : Bool := m.shards.any (fun d => d.routed.isNone && s.lift.bad.contains d.number)

/-- The checks pass only where every pinned shard is good (R444). -/
theorem State.pinnedBad_of_loadCheck {s : State} {m : Manifest} (hinst : s.lift.installed = some m) (h : s.loadCheck = none) :
    s.pinnedBad m = false := by
  unfold State.loadCheck at h
  rw [hinst] at h
  dsimp only at h
  repeat' split at h
  all_goals cases h
  next hgood => exact Bool.eq_false_iff.2 hgood

/-- The shards of the base that failed their digest as they were read, marked BAD (R219). -/
def State.markRead (s : State) (m : Manifest) (bad : List Nat) : State :=
  (bad.filter (fun n => m.shards.any (fun d => d.number == n))).foldl (fun (s : State) n => s.markBad m n) s

theorem State.markRead_of_absent (s : State) {m : Manifest} {bad : List Nat} (h : ∀ n ∈ bad, ∀ d ∈ m.shards, d.number ≠ n) : s.markRead m bad = s := by
  have hnone : bad.filter (fun n => m.shards.any (fun d => d.number == n)) = [] := by
    simpa [List.filter_eq_nil_iff] using h
  unfold State.markRead
  rw [hnone]
  rfl

theorem State.markRead_single (s : State) {m : Manifest} {n : Nat} {d : Shard} (hd : d ∈ m.shards) (hn : d.number = n) :
    s.markRead m [n] = s.markBad m n := by
  have hany : m.shards.any (fun d => d.number == n) = true := List.any_eq_true.2 ⟨d, hd, by simp [hn]⟩
  simp [State.markRead, hany]

theorem execBaseLoad_refused {s : State} {c : CmdRef} {x : Started} {r : Nat} (bad : List Nat) (htaken : s.taken c 0x30 = some x)
    (hcheck : s.loadCheck = some r) : exec (.baseLoad c bad) s = .next (s.refuseCmd x r) := by
  show Host.Outcome.next (s.onTaken c 0x30 _) = _
  rw [State.onTaken_of_taken htaken, hcheck]

/-- With its checks passed the load reads the shards, and goes on where every pinned one is good. -/
theorem execBaseLoad_checked {s : State} {c : CmdRef} {x : Started} {m : Manifest} (bad : List Nat) (htaken : s.taken c 0x30 = some x)
    (hinst : s.lift.installed = some m) (hcheck : s.loadCheck = none) :
    exec (.baseLoad c bad) s =
      .next (if (s.markRead m bad).pinnedBad m then (s.markRead m bad).refuseCmd x 0x0118
        else (s.markRead m bad).setCmd { x with phase := .running }) := by
  show Host.Outcome.next (s.onTaken c 0x30 _) = _
  rw [State.onTaken_of_taken htaken, hcheck, hinst]
  rfl

theorem execBaseLoad_runs {s : State} {c : CmdRef} {x : Started} {m : Manifest} {bad : List Nat} (htaken : s.taken c 0x30 = some x)
    (hinst : s.lift.installed = some m) (hcheck : s.loadCheck = none) (hgood : ∀ n ∈ bad, ∀ d ∈ m.shards, d.number ≠ n) :
    exec (.baseLoad c bad) s = .next (s.setCmd { x with phase := .running }) := by
  rw [execBaseLoad_checked bad htaken hinst hcheck, s.markRead_of_absent hgood, State.pinnedBad_of_loadCheck hinst hcheck]
  rfl

theorem execBaseLoad_badPinned {s : State} {c : CmdRef} {x : Started} {m : Manifest} {d : Shard} (htaken : s.taken c 0x30 = some x)
    (hinst : s.lift.installed = some m) (hcheck : s.loadCheck = none) (hd : d ∈ m.shards) (hpinned : d.routed = none) :
    exec (.baseLoad c [d.number]) s = .next ((s.markBad m d.number).refuseCmd x 0x0118) := by
  have hbad : (s.markBad m d.number).pinnedBad m = true :=
    List.any_eq_true.2 ⟨d, hd, by simp [hpinned, s.mem_bad_markBad m d.number]⟩
  rw [execBaseLoad_checked _ htaken hinst hcheck, s.markRead_single hd rfl, if_pos hbad]

/-! ## BASE_UNLOAD -/

theorem execBaseUnload_taken {s : State} {c : CmdRef} {x : Started} (htaken : s.taken c 0x31 = some x) :
    exec (.baseUnload c) s = .next (if s.anyPartition then s.refuseCmd x 0x0330 else s.setCmd { x with phase := .running }) := by
  show Host.Outcome.next (s.onTaken c 0x31 _) = _
  rw [State.onTaken_of_taken htaken]

/-- The page map of an unloaded base: its entries whose owner is not BASE. -/
theorem State.page_unloadBase (s : State) (n : Nat) :
    s.unloadBase.page n = AMap.get {} (s.mem.pmap.filter fun e => e.2.owner != 62) n := rfl

/-- No page is a BASE page any longer (R205). -/
theorem State.page_unloadBase_owner (s : State) (n : Nat) : (s.unloadBase.page n).owner ≠ 62 := by
  rw [State.page_unloadBase]
  rcases AMap.get_filter_value {} (fun e : PageEnt => e.owner != 62) s.mem.pmap n with h | h
  · simpa using h
  · rw [h]
    decide

theorem State.page_unloadBase_of_ne (s : State) {n : Nat} (h : (s.page n).owner ≠ 62) : s.unloadBase.page n = s.page n :=
  AMap.get_filter_of_pass (p := fun e : PageEnt => e.owner != 62) (bne_iff_ne.2 h)

/-- Settles O42. -/
theorem baseLoadAndUnload : Obligations.BaseLoadAndUnload := by
  unfold Obligations.BaseLoadAndUnload
  refine ⟨fun s c x m htaken hinst => ⟨fun r bad hcheck => execBaseLoad_refused bad htaken hcheck, fun bad hcheck hgood => ?_,
    fun n hcheck ⟨d, hd, hpinned, hn⟩ => ?_⟩, fun s m hinst => ?_, fun s c x htaken => ⟨fun hany => ?_, fun hnone => ?_⟩,
    fun s => ⟨rfl, s.page_unloadBase_owner, fun n => s.page_unloadBase_of_ne⟩⟩
  · rw [execBaseLoad_runs htaken hinst hcheck hgood]
    exact ⟨_, rfl, State.setCmd_running htaken⟩
  · subst hn
    have hlift : ((s.markBad m d.number).refuseCmd x 0x0118).lift = (s.markBad m d.number).lift := (State.refuseCmd_recorded ..).lift
    rw [execBaseLoad_badPinned htaken hinst hcheck hd hpinned]
    refine ⟨_, rfl, rfl, ?_, ?_⟩
    · rw [hlift]
      exact s.mem_bad_markBad m _
    · rw [hlift]
      exact s.base_markBad m _
  · unfold State.loadBase
    rw [hinst]
    exact ⟨rfl, rfl⟩
  · rw [execBaseUnload_taken htaken, if_pos hany]
  · rw [execBaseUnload_taken htaken, hnone]
    exact ⟨_, rfl, State.setCmd_running htaken⟩

end Sys2Proof.Machine
end

section
/-!
PROOF. What the operations of a layer and of a segment leave of the strides: which partition runs one, and the state it is in (R100).
-/

namespace Sys2Proof.Machine

/-! ## Sparse maps -/

/-- A value that is not the unlisted one is listed. -/
theorem AMap.get_mem {α : Type} {d : α} {m : AMap α} {k : Nat} (h : AMap.get d m k ≠ d) : (k, AMap.get d m k) ∈ m := by
  induction m with
  | nil => exact absurd rfl h
  | cons e m ih =>
    unfold AMap.get at h ⊢
    split
    · next hk => exact hk ▸ List.mem_cons_self
    · next hk => exact List.mem_cons_of_mem _ (ih (by rwa [if_neg hk] at h))

/-- An entry of a map with one key changed is an old entry or the new one, which is not the unlisted value. -/
theorem AMap.mem_put {α : Type} [DecidableEq α] {d : α} {m : AMap α} {k : Nat} {v : α} {e : Nat × α} (h : e ∈ AMap.put d m k v) :
    e ∈ m ∨ e = (k, v) ∧ v ≠ d := by
  have hdel : ∀ {e}, e ∈ AMap.del m k → e ∈ m := fun he => (List.mem_filter.1 he).1
  unfold AMap.put at h
  split at h
  · exact .inl (hdel h)
  · next hv =>
    rcases AMap.mem_ins h with h | h
    · exact .inr ⟨h, hv⟩
    · exact .inl (hdel h)

/-- What a key reads as after every listed value was changed by a function that leaves the unlisted value. -/
theorem AMap.get_mapAll {α : Type} [DecidableEq α] {d : α} {f : Nat → α → α} (hf : ∀ k, f k d = d) (m : AMap α) (k : Nat) :
    AMap.get d (AMap.mapAll d f m) k = f k (AMap.get d m k) := by
  have hfold : ∀ l acc : AMap α, AMap.get d (l.foldl (fun acc e => AMap.put d acc e.1 (f e.1 (AMap.get d m e.1))) acc) k =
      if k ∈ l.map (·.1) then f k (AMap.get d m k) else AMap.get d acc k := by
    intro l
    induction l with
    | nil => exact fun _ => rfl
    | cons e l ih =>
      intro acc
      rw [List.foldl_cons, ih, AMap.get_put]
      by_cases hk : k = e.1 <;> simp only [List.map_cons, List.mem_cons, hk, true_or, false_or, if_true, if_false, ite_self]
  unfold AMap.mapAll
  rw [hfold]
  split
  · rfl
  · next hk =>
    rw [AMap.get_of_ne fun e he hke => hk (List.mem_map.2 ⟨e, he, hke⟩), hf]

/-! ## The strides' contexts left alone -/

theorem Recorded.se {s t : State} (h : Recorded s t) : t.se = s.se := by rw [h]

theorem Near.hearths {s t : State} (h : Near s t) : t.hearths = s.hearths := by rw [h]

theorem State.seOf_of_se {s t : State} (h : t.se = s.se) : t.seOf = s.seOf := by
  funext q
  exact congrArg (AMap.get {} · q) h

theorem State.stageOut_frame (s : State) (p j layer : Nat) (gradient : Bool) :
    s.stageOut p j layer gradient = { s with out := (s.stageOut p j layer gradient).out } := by
  unfold State.stageOut
  split
  · rfl
  · extract_lets g edge
    split <;> rfl

theorem State.returnPage_se (s : State) (p dua : Nat) : (s.returnPage p dua).se = s.se := by
  unfold State.returnPage
  extract_lets r x
  split
  · rfl
  · exact (State.storeTry_near ..).se

theorem State.returnPages_se (s : State) (p : Nat) (l : List Nat) : (s.returnPages p l).se = s.se :=
  foldl_keeps State.se _ (fun s d => s.returnPage_se p d) l s

/-! ## Which strides run, and where they are -/

/-- From `s` to `t` every stride stays in its state, and none begins to run. -/
structure PhasesKept (s t : State) : Prop where
  st : ∀ q, (t.seOf q).st = (s.seOf q).st
  running : ∀ q ∈ t.running, q ∈ s.running

theorem PhasesKept.trans {s t u : State} (h : PhasesKept s t) (g : PhasesKept t u) : PhasesKept s u :=
  ⟨fun q => (g.st q).trans (h.st q), fun q hq => h.running q (g.running q hq)⟩

theorem PhasesKept.of_se {s t : State} (h : t.se = s.se) : PhasesKept s t :=
  ⟨fun q => by rw [State.seOf_of_se h], fun q hq => by rwa [State.running, h] at hq⟩

theorem PhasesKept.rfl {s : State} : PhasesKept s s := .of_se (Eq.refl _)

theorem PhasesKept.setFreeCtr {s t : State} (h : PhasesKept s t) (n : Nat) : PhasesKept s (t.setFreeCtr n) :=
  h.trans (.of_se (Eq.refl _))

theorem PhasesKept.foldl {α : Type} {f : State → α → State} (hf : ∀ s x, PhasesKept s (f s x)) (l : List α) (s : State) :
    PhasesKept s (l.foldl f s) := by
  induction l generalizing s with
  | nil => exact .rfl
  | cons x l ih => exact (hf s x).trans (ih (f s x))

theorem State.mem_running {s : State} {q : Nat} : q ∈ s.running ↔ ∃ x, (q, x) ∈ s.se ∧ x.st ≠ .idle ∧ x.st ≠ .paused := by
  simp [State.running]

/-- A stride that is neither idle nor paused runs. -/
theorem State.mem_running_of_st {s : State} {q : Nat} (hidle : (s.seOf q).st ≠ .idle) (hpaused : (s.seOf q).st ≠ .paused) : q ∈ s.running :=
  State.mem_running.2 ⟨s.seOf q, AMap.get_mem fun h => hidle (congrArg Se.st h), hidle, hpaused⟩

/-- With one context changed, its partition's stride may run beside those that ran before. -/
theorem State.mem_running_setSe {s : State} {p q : Nat} {x : Se} (h : q ∈ (s.setSe p x).running) :
    q ∈ s.running ∨ q = p ∧ x.st ≠ .idle ∧ x.st ≠ .paused := by
  obtain ⟨y, hy, hidle, hpaused⟩ := State.mem_running.1 h
  rcases AMap.mem_put hy with hy | ⟨hy, -⟩
  · exact .inl (State.mem_running.2 ⟨y, hy, hidle, hpaused⟩)
  · cases hy
    exact .inr ⟨rfl, hidle, hpaused⟩

/-- A context changed in place, its stride in the state it was in. -/
theorem PhasesKept.setSe {s : State} {p : Nat} {x : Se} (h : x.st = (s.seOf p).st) : PhasesKept s (s.setSe p x) := by
  refine ⟨fun q => ?_, fun q hq => ?_⟩
  · rw [State.seOf_setSe]
    split
    · next hq => rw [hq, h]
    · rfl
  · rcases State.mem_running_setSe hq with hq | ⟨hq, hidle, hpaused⟩
    · exact hq
    · exact hq ▸ State.mem_running_of_st (h ▸ hidle) (h ▸ hpaused)

theorem State.addCnt_phases (s : State) (p rec_ : Nat) (c : RecCnt) : PhasesKept s (s.addCnt p rec_ c) := by
  unfold State.addCnt
  split
  · exact .rfl
  · exact .setSe rfl

theorem State.freeHold_phases (s : State) (h : Nat) : PhasesKept s (s.freeHold h) := by
  have hpages : ∀ l x, PhasesKept s ((s.returnPages (s.hold h).owner l).setHold h x) := fun l x => .of_se (s.returnPages_se _ l)
  exact (hpages _ _).trans (.setSe ((hpages _ _).st _).symm)

theorem State.failHold_phases (s : State) (h reason dua : Nat) : PhasesKept s (s.failHold h reason dua) := by
  unfold State.failHold State.reportCtx
  exact (s.freeHold_phases h).trans (.of_se (((State.bump_recorded ..).trans (State.raise_recorded ..)).trans (State.report_recorded ..)).se)

theorem State.faultSlot_phases (s : State) (n reason : Nat) (dua : Option Nat) : PhasesKept s (s.faultSlot n reason dua) := by
  unfold State.faultSlot State.reportCtx
  extract_lets x
  split
  · exact .of_se (State.report_recorded ..).se
  · exact .rfl

theorem State.kvWrite_phases (s : State) (p : Nat) (pages : AMap KvPage) (gen l first pos n : Nat) :
    PhasesKept s (s.kvWrite p pages gen l first pos n) := by
  refine .foldl (fun s i => ?_) _ s
  split
  · exact .rfl
  · exact (PhasesKept.of_se (State.storeTry_near ..).se).setFreeCtr _

theorem State.countKv_kvWrite_phases (s : State) (p : Nat) (pages : AMap KvPage) (gen l first pos n : Nat) :
    PhasesKept s ((s.countKv p pages l pos).kvWrite p pages gen l first pos n) :=
  (s.addCnt_phases ..).trans (State.kvWrite_phases ..)

/-- A row entry's reads and writes at a layer fault at most its own slot or hold entry. -/
theorem State.kvRow_phases (s : State) (p l first : Nat) (r : Rows) : PhasesKept s (s.kvRow p l first r) := by
  unfold State.kvRow
  split
  · dsimp only
    split
    · exact .rfl
    · split
      · exact s.failHold_phases ..
      · exact s.countKv_kvWrite_phases ..
  · split
    · exact .rfl
    · dsimp only
      split
      · split
        · exact (s.faultSlot_phases ..).trans (.of_se (State.raise_recorded ..).se)
        · exact s.faultSlot_phases ..
      · exact s.countKv_kvWrite_phases ..

/-- A recompute's reads at a layer lose at most hold entries of the cohort. -/
theorem State.sweepReads_phases (s : State) (p l : Nat) : PhasesKept s (s.sweepReads p l) := by
  refine .foldl (fun s c => ?_) _ s
  dsimp only
  split
  · exact .rfl
  · split
    · exact s.failHold_phases ..
    · exact s.addCnt_phases ..

end Sys2Proof.Machine
end

section
/-!
PROOF. The end of a layer, in the forward sweep and in a segment of the counter-sweep (R54 to R56, R90, R107, R118, R125, R128, R179, R206).
-/

namespace Sys2Proof.Machine

/-! ## A rerun -/

theorem State.countRerun_near (s : State) (l : Nat) : Near s (s.countRerun l) := by
  unfold State.countRerun State.addCount
  split
  · next hload => exact (State.load_near hload).trans (State.storeTry_near ..)
  · exact .rfl

/-- A hearth of the partition loses its sums and the rows that wait for its drain; its wax lines stay (R55, R90). -/
theorem Hearth.discard_of_owner {y : Hearth} {p : Nat} (l : Nat) (h : y.owner = some p) :
    (y.discard p l).accs = [] ∧ (y.discard p l).drainIn = [] ∧ (y.discard p l).lines = y.lines := by
  unfold Hearth.discard
  rw [if_pos h]
  exact ⟨rfl, rfl, rfl⟩

theorem Hearth.discard_of_ne {y : Hearth} {p : Nat} (l : Nat) (h : y.owner ≠ some p) : y.discard p l = y := if_neg h

theorem State.hearth_discardLayer (s : State) (p l n : Nat) : (s.discardLayer p l).hearth n = (s.hearth n).discard p l :=
  AMap.get_mapAll (f := fun _ y => Hearth.discard y p l) (fun _ => rfl) s.hearths n

theorem State.hearth_startRerun (s : State) (p l n : Nat) : (s.startRerun p l).hearth n = (s.hearth n).discard p l := by
  unfold State.startRerun State.hearth
  rw [(State.countRerun_near ..).hearths]
  exact State.hearth_discardLayer ..

/-- A rerun stays at its layer and counts from zero again (R54 to R56). -/
theorem State.seOf_startRerun (s : State) (p l : Nat) :
    ((s.startRerun p l).seOf p).layer = (s.seOf p).layer ∧ ((s.startRerun p l).seOf p).rerunActive = true ∧
    ((s.startRerun p l).seOf p).reruns = (s.seOf p).reruns ++ [l] ∧ ((s.startRerun p l).seOf p).layerSat = 0 ∧
    ((s.startRerun p l).seOf p).layerConv = 0 := by
  unfold State.startRerun
  rw [State.seOf_of_se (State.countRerun_near ..).se]
  simp [State.discardLayer]

/-! ## A window buffer given back -/

theorem State.claim_freeBuf {s : State} {l use : Nat} {b : WinBuf} (hopen : s.useOpen l use = false) (hb : b ∈ (s.freeBuf l use).lift.bufs)
    (hlayer : b.layer = l) : b.claim ≠ some use := by
  obtain ⟨a, -, ha⟩ := List.mem_map.1 hb
  rw [hopen] at ha
  split at ha
  · rw [← ha]
    exact nofun
  · next hdone =>
    subst ha
    simpa [hlayer] using hdone

theorem State.seOf_freeBuf (s : State) (l use : Nat) : (s.freeBuf l use).seOf = s.seOf := rfl

/-- Where one partition's stride alone may run, and is past a layer, no forward sweep of the layer is open. -/
theorem State.useOpen_forward_of_past {s : State} {p l : Nat} (hrun : ∀ q ∈ s.running, q = p) (hpast : l < (s.seOf p).layer) :
    s.useOpen l 0 = false := by
  refine List.any_eq_false.2 fun q hq => ?_
  rw [hrun q hq]
  simp [State.forwardOpen, hpast]

/-! ## The end of a forward layer -/

/-- The rows of a stride at a layer: what each reads is checked, what it makes is written (R107, R118). -/
def State.kvRows (s : State) (p l : Nat) : State := (rowStarts (s.seOf p).rows).foldl (fun s fr => s.kvRow p l fr.1 fr.2) s

theorem State.kvRows_phases (s : State) (p l : Nat) : PhasesKept s (s.kvRows p l) := by
  unfold State.kvRows
  exact .foldl (fun s (fr : Nat × Rows) => s.kvRow_phases p l fr.1 fr.2) _ s

/-- Besides the rows' entries, the end of a layer changes the stride's context and gives the layer's buffer back. -/
theorem State.endLayer_fields (s : State) (p l : Nat) (routes : List RowRoute) (inputs : List RowInput) :
    ∃ x, (s.endLayer p l routes inputs).se = ((s.kvRows p l).setSe p x).se ∧
      (s.endLayer p l routes inputs).lift = (((s.kvRows p l).setSe p x).freeBuf l 0).lift ∧
      (s.endLayer p l routes inputs).mem = (s.kvRows p l).mem ∧
      x.layer = l + 1 ∧ x.rerunActive = false ∧ x.layerSat = 0 ∧ x.layerConv = 0 := by
  unfold State.endLayer
  beta_reduce
  extract_lets s1 e ins
  split
  · rw [State.stageOut_frame]
    exact ⟨_, rfl, rfl, rfl, rfl, rfl, rfl, rfl⟩
  · exact ⟨_, rfl, rfl, rfl, rfl, rfl, rfl, rfl⟩

/-! ## The command -/

theorem execLayerDone_ends {s : State} {p : PartId} {layer : Nat} {routes : List RowRoute} (inputs : List RowInput)
    (hst : (s.seOf p.val).st = .forward) (hlayer : (s.seOf p.val).layer = layer) (hlt : layer < s.layers)
    (hwait : ∀ w ∈ (s.seOf p.val).waitLayers, w.layer ≠ layer) (hopen : s.expertsOpen p.val layer routes = false) :
    exec (.layerDone p layer routes inputs) s =
      .next (if s.rerunNow p.val layer then s.startRerun p.val layer else s.endLayer p.val layer routes inputs) := by
  refine congrArg Host.Outcome.next ?_
  have hany : (s.seOf p.val).waitLayers.any (fun w => w.layer == layer) = false := by simpa using hwait
  simp [hst, hlayer, hlt, hany, hopen]

theorem execLayerDone_waits {s : State} {p : PartId} {layer : Nat} {routes : List RowRoute} (inputs : List RowInput)
    (hst : (s.seOf p.val).st = .forward)
    (hwait : (∃ w ∈ (s.seOf p.val).waitLayers, w.layer = layer) ∨ s.expertsOpen p.val layer routes = true) :
    exec (.layerDone p layer routes inputs) s = .next s := by
  refine congrArg Host.Outcome.next ?_
  rcases hwait with hwait | hopen
  · have hany : (s.seOf p.val).waitLayers.any (fun w => w.layer == layer) = true := by simpa using hwait
    simp [hst, hany]
  · simp [hst, hopen]

/-- A recompute step of a segment ends: its reads are checked, the next step's turn comes, its buffer is given back. -/
theorem execLayerDone_recomputes {s : State} {p : PartId} {layer : Nat} (routes : List RowRoute) (inputs : List RowInput)
    (hst : (s.seOf p.val).st = .sweep) (hstep : (s.segmentLayers p.val)[(s.seOf p.val).sweepStep]? = some layer)
    (hcohort : (s.seOf p.val).sweepCkpts ≠ []) (hkept : s.keptOpen p.val layer = false) :
    exec (.layerDone p layer routes inputs) s =
      .next (((s.sweepReads p.val layer).setSe p.val
        { (s.sweepReads p.val layer).seOf p.val with sweepStep := (s.seOf p.val).sweepStep + 1 }).freeBuf layer 1) := by
  obtain ⟨hlt, -⟩ := List.getElem?_eq_some_iff.1 hstep
  have hsome : (s.seOf p.val).sweepCkpts.isEmpty = false := by simpa using hcohort
  refine congrArg Host.Outcome.next ?_
  simp only [hst, if_true, State.endSweepStep, List.getElem?_append_left hlt, hstep, hsome, hkept, hlt, ne_eq, not_true_eq_false, decide_false,
    Bool.or_false, Bool.false_eq_true, if_false]

/-- Settles O21: a rerun is what `startRerun` leaves, an end what `endLayer` leaves, and a recompute step of a segment keeps the stride in SWEEP. -/
theorem layerEnd : Obligations.LayerEnd := by
  unfold Obligations.LayerEnd
  intro s p layer routes inputs
  refine ⟨fun hst hlayer hlt => ⟨fun hwait hopen => ?_, execLayerDone_waits inputs hst⟩, fun hst hstep hcohort hkept => ?_⟩
  · rw [execLayerDone_ends inputs hst hlayer hlt hwait hopen]
    refine ⟨fun hrerun => ?_, fun hrerun => ?_⟩
    · rw [if_pos hrerun]
      obtain ⟨hsame, hactive, hreruns, hsat, hconv⟩ := s.seOf_startRerun p.val layer
      refine ⟨_, rfl, ?_⟩
      simp only [State.hearth_startRerun]
      exact ⟨hsame.trans hlayer, hactive, hreruns, hsat, hconv, fun h => Hearth.discard_of_owner layer, fun h => Hearth.discard_of_ne layer⟩
    · rw [if_neg (by simp [hrerun])]
      obtain ⟨x, hse, hlift, hmem, hnext, hactive, hsat, hconv⟩ := s.endLayer_fields p.val layer routes inputs
      have hx : ((s.kvRows p.val layer).setSe p.val x).seOf p.val = x := by simp
      refine ⟨_, rfl, ?_⟩
      rw [State.seOf_of_se hse, hx, hlift, hmem]
      refine ⟨hnext, hactive, hsat, hconv, fun hrun b hb => State.claim_freeBuf ?_ hb, rfl⟩
      refine State.useOpen_forward_of_past (p := p.val) (fun q hq => ?_) (by rw [hx]; omega)
      rcases State.mem_running_setSe hq with hq | ⟨hq, -⟩
      · simpa [hrun] using (s.kvRows_phases p.val layer).running q hq
      · exact hq
  · rw [execLayerDone_recomputes routes inputs hst hstep hcohort hkept]
    have hreads := (s.sweepReads_phases p.val layer).st p.val
    refine ⟨_, rfl, ?_⟩
    rw [State.seOf_freeBuf, State.seOf_setSe, if_pos rfl]
    exact ⟨rfl, hreads.trans hst⟩

end Sys2Proof.Machine
end

section
/-!
PROOF. The end of a segment of the counter-sweep and of the sampling of a stride (R57, R100, R120, R175, R179 to R181, R206).
-/

namespace Sys2Proof.Machine

/-! ## Changes of one stride's context -/

/-- From `s` to `t` only the context of one partition's stride differs. -/
structure AtStride (p : Nat) (s t : State) : Prop where
  frame : SeOnly s t
  others : ∀ q, q ≠ p → t.seOf q = s.seOf q

theorem AtStride.rfl {p : Nat} {s : State} : AtStride p s s := ⟨.rfl, fun _ _ => Eq.refl _⟩

theorem AtStride.trans {p : Nat} {s t u : State} (h : AtStride p s t) (g : AtStride p t u) : AtStride p s u :=
  ⟨h.frame.trans g.frame, fun q hq => (g.others q hq).trans (h.others q hq)⟩

theorem AtStride.foldl {α : Type} {p : Nat} {f : State → α → State} (hf : ∀ s x, AtStride p s (f s x)) (l : List α) (s : State) :
    AtStride p s (l.foldl f s) := by
  induction l generalizing s with
  | nil => exact .rfl
  | cons x l ih => exact (hf s x).trans (ih (f s x))

theorem AtStride.setSe (p : Nat) (s : State) (x : Se) : AtStride p s (s.setSe p x) :=
  ⟨.setSe .., fun q hq => by rw [State.seOf_setSe, if_neg hq]⟩

theorem AtStride.wxs {p : Nat} {s t : State} (h : AtStride p s t) : t.wxs = s.wxs := by rw [h.frame]

theorem State.addCnt_atStride (s : State) (p rec_ : Nat) (c : RecCnt) : AtStride p s (s.addCnt p rec_ c) := by
  unfold State.addCnt
  split
  · exact .rfl
  · exact .setSe ..

/-! ## A segment's end -/

theorem State.keepBanks_atStride (s : State) (p : Nat) : AtStride p s (s.keepBanks p) := .setSe ..

/-- Gradients go to the banks of the waxing slots, and nothing else changes (R181). -/
theorem State.accumulate_se (s : State) (p : Nat) (site : List SiteGrad) (clip : List ClipGrad) : (s.accumulate p site clip).se = s.se := by
  unfold State.accumulate
  extract_lets ord st cl
  refine foldl_keeps State.se _ (fun s wax => ?_) _ s
  split <;> rfl

theorem State.passOn_atStride (s : State) (p : Nat) (site : List SiteGrad) : AtStride p s (s.passOn p site) := by
  unfold State.passOn
  extract_lets m
  refine .foldl (fun s t => ?_) _ s
  exact (AtStride.setSe ..).trans (State.addCnt_atStride ..)

/-- The buffers of a segment's layers, held for its recompute and its gradient steps, given back (R206). -/
theorem State.freeSegment_frame (s : State) (ls : List Nat) :
    ls.foldl (fun (s : State) l => (s.freeBuf l 1).freeBuf l 2) s =
      { s with lift := (ls.foldl (fun (s : State) l => (s.freeBuf l 1).freeBuf l 2) s).lift } := by
  induction ls generalizing s with
  | nil => rfl
  | cons l ls ih =>
    rw [List.foldl_cons, ih]
    rfl

/-- What a segment's end leaves of the waxing slots and of the strides: the gradients in the banks, the stride in SAMPLE with the gradient carried. -/
theorem State.endSegment_fields (s : State) (p : Nat) (site : List SiteGrad) (clip : List ClipGrad) (logits carry : List SweepVec) :
    (s.endSegment p site clip logits carry).wxs = ((s.keepBanks p).accumulate p site clip).wxs ∧
    ((s.endSegment p site clip logits carry).seOf p).st = .sample ∧ ((s.endSegment p site clip logits carry).seOf p).carry = carry ∧
    ∀ q, q ≠ p → (s.endSegment p site clip logits carry).seOf q = s.seOf q := by
  unfold State.endSegment
  extract_lets s1 e s2 s3 j
  have hpass : AtStride p ((s.keepBanks p).accumulate p site clip) s2 := (State.passOn_atStride ..).trans (.setSe ..)
  obtain ⟨hsample, hcarry⟩ : (s2.seOf p).st = .sample ∧ (s2.seOf p).carry = carry := by
    rw [State.seOf_setSe, if_pos rfl]
    exact ⟨rfl, rfl⟩
  have hothers : ∀ q, q ≠ p → s2.seOf q = s.seOf q := fun q hq => by
    rw [hpass.others q hq, State.seOf_of_se (State.accumulate_se ..), (s.keepBanks_atStride p).others q hq]
  have hfree : s3 = { s2 with lift := s3.lift } := State.freeSegment_frame ..
  rw [State.stageOut_frame, hfree]
  exact ⟨hpass.wxs, hsample, hcarry, hothers⟩

/-! ## The commands -/

theorem execSegmentDone_unswept {s : State} {p : PartId} (site : List SiteGrad) (clip : List ClipGrad) (logits carry : List SweepVec)
    (hst : (s.seOf p.val).st = .sweep) (hnone : (s.seOf p.val).sweeping.entries = []) :
    exec (.segmentDone p site clip logits carry) s = .next (s.setSe p.val { s.seOf p.val with st := .sample }) := by
  refine congrArg Host.Outcome.next ?_
  simp [hst, hnone]

/-- A segment of this module ends where every kept expert of its layers has landed and none of its gradient steps reruns. -/
theorem execSegmentDone_ends {s : State} {p : PartId} (site : List SiteGrad) (clip : List ClipGrad) (logits carry : List SweepVec)
    (hst : (s.seOf p.val).st = .sweep) (hcohort : (s.seOf p.val).sweeping.entries ≠ [])
    (howns : (s.seOf p.val).owns (s.segments - 1 - (s.seOf p.val).phase) = true)
    (hlayers : ∀ l ∈ s.segmentLayers p.val, s.keptOpen p.val l = false ∧ s.gradFires p.val l = false) :
    exec (.segmentDone p site clip logits carry) s = .next (s.endSegment p.val site clip logits carry) := by
  have hkept : (s.segmentLayers p.val).any (fun l => s.keptOpen p.val l) = false :=
    List.any_eq_false.2 fun l hl => by simp [(hlayers l hl).1]
  have hagain : (s.segmentLayers p.val).filter (fun l => s.gradFires p.val l) = [] :=
    List.filter_eq_nil_iff.2 fun l hl => by simp [(hlayers l hl).2]
  refine congrArg Host.Outcome.next ?_
  simp [hst, hcohort, howns, hkept, hagain]

theorem execSampleDone_samples {s : State} {p : PartId} {rows : List RowLogits} {train : List TrainLogits} (hst : (s.seOf p.val).st = .sample)
    (hgiven : s.logitsGiven p.val rows train = true) :
    exec (.sampleDone p rows train) s = .next (((s.drawAll p.val rows).coefAll p.val train).setSe p.val
      { ((s.drawAll p.val rows).coefAll p.val train).seOf p.val with
        st := .boundary, bStage := 0, pauseLate := false, freezeLate := false, resizeLate := false }) := by
  refine congrArg Host.Outcome.next (if_pos ?_)
  simp [hst, hgiven]

theorem execSampleDone_waits {s : State} {p : PartId} {rows : List RowLogits} {train : List TrainLogits}
    (hmissing : s.logitsGiven p.val rows train = false) : exec (.sampleDone p rows train) s = .next s := by
  refine congrArg Host.Outcome.next (if_neg ?_)
  simp [hmissing]

/-- Settles O23: a segment's end is what `endSegment` leaves, and SAMPLE's end sets the stride's state beside the samples and coefficients. -/
theorem sweepAndSample : Obligations.SweepAndSample := by
  unfold Obligations.SweepAndSample
  refine ⟨fun s p site clip logits carry hst => ⟨execSegmentDone_unswept site clip logits carry hst, fun hcohort howns hlayers => ?_⟩,
    fun s p rows train hst => ⟨fun hgiven => ?_, execSampleDone_waits⟩⟩
  · rw [execSegmentDone_ends site clip logits carry hst hcohort howns hlayers]
    obtain ⟨hwxs, hsample, hcarry, hothers⟩ := s.endSegment_fields p.val site clip logits carry
    exact ⟨_, rfl, hsample, hcarry, hwxs, hothers⟩
  · rw [execSampleDone_samples hst hgiven]
    refine ⟨_, rfl, ?_⟩
    rw [State.seOf_setSe, if_pos rfl]
    exact ⟨rfl, rfl, rfl, rfl⟩

end Sys2Proof.Machine
end

section
/-!
PROOF. A step on an empty queue: what one microsecond of idling changes (R125, R198, R200, R209, R220; log entry 2).
-/

namespace Sys2Proof.Machine

/-! ## Queues and started commands left alone by records -/

theorem State.storeTry_cmds (s : State) (who : MemWho) (dua : Nat) (data : List Byte) :
    (s.storeTry who dua data).queues = s.queues ∧ (s.storeTry who dua data).started = s.started := by
  rw [State.storeTry_near]
  exact ⟨rfl, rfl⟩

@[simp] theorem State.produce_cmds (s : State) (who : MemWho) (r : Ring) (data : List Byte) :
    (s.produce who r data).queues = s.queues ∧ (s.produce who r data).started = s.started := s.storeTry_cmds ..

@[simp] theorem State.setHeld_cmds (s : State) (n : Nat) (x : HeldRecs) :
    (s.setHeld n x).queues = s.queues ∧ (s.setHeld n x).started = s.started := ⟨rfl, rfl⟩

@[simp] theorem State.complete_cmds (s : State) (qp : Nat) (c : CRec) :
    (s.complete qp c).queues = s.queues ∧ (s.complete qp c).started = s.started := by
  simp [State.complete, State.putComp]

@[simp] theorem State.report_cmds (s : State) (qp : Nat) (e : ERec) :
    (s.report qp e).queues = s.queues ∧ (s.report qp e).started = s.started := by
  simp [State.report, State.putErr]

@[simp] theorem State.breach_cmds (s : State) (law page off bits index : Nat) :
    (s.breach law page off bits index).queues = s.queues ∧ (s.breach law page off bits index).started = s.started := by
  simp [State.breach]

/-! ## What a microsecond may change -/

/-- `t` is `s` but for what a microsecond changes beside the clock: counters, fronts, the lift, memory, and what audits and events write. -/
def Ticked (s t : State) : Prop :=
  t = { s with regs := t.regs, force := t.force, hearths := t.hearths, lift := t.lift, mem := t.mem, freeCtr := t.freeCtr, held := t.held,
               pages := t.pages, host := t.host, out := t.out }

theorem Ticked.rfl {s : State} : Ticked s s := Eq.refl s

theorem Ticked.trans {s t u : State} (h : Ticked s t) (g : Ticked t u) : Ticked s u := by
  unfold Ticked at *
  rw [g, h]

theorem Ticked.ite {s a b : State} {c : Prop} [Decidable c] (h : Ticked s a) (g : Ticked s b) : Ticked s (if c then a else b) := by
  split <;> assumption

theorem Ticked.foldl {α : Type} {f : State → α → State} (hf : ∀ s x, Ticked s (f s x)) (l : List α) (s : State) : Ticked s (l.foldl f s) := by
  induction l generalizing s with
  | nil => exact .rfl
  | cons x l ih => exact (hf s x).trans (ih (f s x))

theorem Near.ticked {s t : State} (h : Near s t) : Ticked s t := by
  unfold Ticked
  rw [h]

theorem Recorded.ticked {s t : State} (h : Recorded s t) (hcmds : t.queues = s.queues ∧ t.started = s.started) : Ticked s t := by
  obtain ⟨hqueues, hstarted⟩ := hcmds
  unfold Ticked
  rw [h, hqueues, hstarted]

theorem State.bump_ticked (s : State) (page off n : Nat) : Ticked s (s.bump page off n) := (near_bump .rfl ..).ticked

theorem State.raise_ticked (s : State) (page bit : Nat) : Ticked s (s.raise page bit) := (s.raise_recorded page bit).ticked (by simp)

theorem State.setLift_ticked (s : State) (x : Lift) : Ticked s (s.setLift x) := Eq.refl _

theorem State.breach_ticked (s : State) (law page off bits index : Nat) : Ticked s (s.breach law page off bits index) :=
  (s.breach_recorded ..).ticked (s.breach_cmds ..)

/-! ## The parts of a microsecond -/

theorem State.tickPart_ticked (s : State) (p : Nat) : Ticked s (s.tickPart p) := by
  unfold State.tickPart
  extract_lets e s1
  have h1 : Ticked s s1 := .ite (State.bump_ticked ..) .rfl
  exact .ite (h1.trans (State.bump_ticked ..)) h1

/-- The deadline table moves in the lift and in memory (R209). -/
theorem State.tickLift_ticked (s : State) : Ticked s s.tickLift :=
  .ite (((State.setLift_ticked ..).trans (State.storeTry_near ..).ticked).trans (State.bump_ticked ..)) .rfl

theorem State.tickPatrol_ticked (s : State) : Ticked s s.tickPatrol :=
  .ite ((State.setLift_ticked ..).trans (State.raise_ticked ..)) .rfl

theorem State.tickCopies_ticked (s : State) : Ticked s s.tickCopies := Eq.refl _

theorem State.checkFrames_ticked (s : State) : Ticked s s.checkFrames :=
  .ite .rfl ((State.breach_ticked ..).trans (State.raise_ticked ..))

theorem State.checkLink_ticked (s : State) (n : Nat) : Ticked s (s.checkLink n) :=
  .ite .rfl (.foldl (fun _ _ => .ite ((State.breach_ticked ..).trans (State.raise_ticked ..)) .rfl) _ s)

theorem State.auditCycle_ticked (s : State) : Ticked s s.auditCycle :=
  have hframes : Ticked s (if s.auditHeld (fun _ => false) then s else s.checkFrames) := .ite .rfl s.checkFrames_ticked
  hframes.trans (.foldl (fun s n => .ite .rfl (s.checkLink_ticked n)) _ _)

/-- The state in which the clock has stepped and the fronts have ended their crossing (R70), before all else of the microsecond. -/
def State.clocked (s : State) : State := (s.setHearths (AMap.mapAll {} (fun _ y => y.endFront) s.hearths)).setNowUs (s.nowUs + 1)

theorem State.tick_ticked (s : State) : Ticked s.clocked s.tick := by
  unfold State.tick
  have hparts : Ticked s.clocked ((s.se.map (·.1)).foldl (fun (s : State) p => s.tickPart p) s.clocked) := .foldl State.tickPart_ticked _ _
  exact (((hparts.trans (State.tickLift_ticked _)).trans (State.tickPatrol_ticked _)).trans (State.tickCopies_ticked _)).trans
    (State.auditCycle_ticked _)

theorem Ticked.nowUs {s t : State} (h : Ticked s t) : t.nowUs = s.nowUs := by rw [h]

theorem Ticked.resets {s t : State} (h : Ticked s t) : t.resets = s.resets := by rw [h]

/-- Over the clock's step and the fronts the microsecond leaves the fields that IdleStep does not name. -/
theorem Ticked.of_clocked {s t : State} (h : Ticked s.clocked t) :
    t = { s with nowUs := t.nowUs, regs := t.regs, force := t.force, hearths := t.hearths, lift := t.lift, mem := t.mem, freeCtr := t.freeCtr,
                 held := t.held, pages := t.pages, host := t.host, out := t.out } := by
  rw [h]
  rfl

/-- With no reset in progress there is no drain to end (R338). -/
theorem State.settleDrains_of_no_reset {s : State} (h : s.resets = []) : s.settleDrains = s := by
  unfold State.settleDrains
  rw [h]
  rfl

/-- Settles O2: each part of the microsecond changes only what `Ticked` leaves open, and no drain is there to end. -/
theorem idleStep : Obligations.IdleStep := by
  unfold Obligations.IdleStep
  intro s hqueue hresets
  have htick := s.tick_ticked
  have hidle : s.idle = s.tick := State.settleDrains_of_no_reset (htick.resets.trans hresets)
  exact ⟨s.tick, by rw [step_of_empty hqueue, hidle], htick.nowUs, htick.of_clocked⟩

end Sys2Proof.Machine
end

section
/-!
PROOF. The start of a stride (R100, R360).
-/

namespace Sys2Proof.Machine

theorem execStrideStart_enters {s : State} {p : PartId} (hidle : (s.seOf p.val).st = .idle) (hmay : s.strideMayStart p.val = true) :
    exec (.strideStart p) s = .next (s.enterAssemble p.val) :=
  congrArg Host.Outcome.next (if_pos (by simp [hidle, hmay]))

theorem execStrideStart_busy {s : State} {p : PartId} (hbusy : (s.seOf p.val).st ≠ .idle) : exec (.strideStart p) s = .next s :=
  congrArg Host.Outcome.next (if_neg (by simp [hbusy]))

/-- Settles O19: ASSEMBLE is entered with the context emptied of the stride before it, and no other context changes. -/
theorem strideStart : Obligations.StrideStart := by
  unfold Obligations.StrideStart
  refine fun s p => ⟨fun hidle hmay => ?_, execStrideStart_busy⟩
  rw [execStrideStart_enters hidle hmay]
  refine ⟨_, rfl, SeOnly.setSe .., ?_⟩
  unfold State.enterAssemble
  rw [State.seOf_setSe, if_pos rfl]
  exact ⟨rfl, rfl, rfl, rfl, rfl, rfl, rfl, fun q hq => by rw [State.seOf_setSe, if_neg hq]⟩

end Sys2Proof.Machine
end

section
/-!
PROOF. A deadline that falls while experts of its layer are missing, and the end of a wait (R125, R127 to R129, R359).
-/

namespace Sys2Proof.Machine

/-! ## The detours of a stride -/

/-- `t` is `s` but for counters and for the flags and messages of events. -/
def Signalled (s t : State) : Prop := t = { s with regs := t.regs, force := t.force, pages := t.pages, host := t.host, out := t.out }

theorem Signalled.trans {s t u : State} (h : Signalled s t) (g : Signalled t u) : Signalled s u := by
  unfold Signalled at *
  rw [g, h]

theorem Signalled.ite {s a b : State} {c : Prop} [Decidable c] (h : Signalled s a) (g : Signalled s b) :
    Signalled s (if c then a else b) := by
  split <;> assumption

theorem Signalled.se {s t : State} (h : Signalled s t) : t.se = s.se := by rw [h]

theorem State.bump_signalled (s : State) (page off n : Nat) : Signalled s (s.bump page off n) := by
  unfold Signalled
  rw [State.bump_frame]

theorem State.raise_signalled (s : State) (page bit : Nat) : Signalled s (s.raise page bit) := by
  unfold State.raise State.sendMsi State.sendVector
  exact .ite (.ite (.ite (Eq.refl _) (Eq.refl _)) (Eq.refl _)) (Eq.refl _)

/-- A context changed, then counters and events. -/
theorem SeOnly.signalled {s t u : State} (h : SeOnly s t) (g : Signalled t u) :
    u = { s with se := u.se, regs := u.regs, force := u.force, pages := u.pages, host := u.host, out := u.out } := by
  rw [g, h]

/-- Detours are kept in the stride's context, counted, and set the event of the stride engine's page (R128, R129). -/
theorem State.detour_signalled (s : State) (p : Nat) (ds : List Detour) :
    Signalled (s.setSe p { s.seOf p with detours := (s.seOf p).detours ++ ds }) (s.detour p ds) := by
  unfold State.detour
  extract_lets e old fresh s1 s2
  have h2 : Signalled s1 s2 := (State.bump_signalled ..).trans (State.bump_signalled ..)
  exact .ite h2 (h2.trans (State.raise_signalled ..))

/-! ## A deadline that falls -/

/-- The stride with a wait for the missing experts of a layer, counted from the deadline that fell (R128). -/
def State.waitExperts (s : State) (p l : Nat) (late : List RowRoute) : State :=
  s.setSe p { s.seOf p with waitLayers := (s.seOf p).waitLayers ++
    [{ layer := l, since := (s.seOf p).asmAt + AMap.get 0xFFFFFFFF s.lift.dl l, routes := late }] }

/-- The rows of a layer with a routed expert that has not landed. -/
def State.lateRoutes (s : State) (l : Nat) (routes : List RowRoute) : List RowRoute := routes.filter (fun r => !(s.missing l r).isEmpty)

/-- A deadline that falls while experts are missing is met by the mode of the layer's detour entry (R127, R128). -/
theorem execDeadlineExpiry_falls {s : State} {p : PartId} {layer : Nat} {routes : List RowRoute} (hfell : s.deadlineFell p.val layer = true)
    (hlate : s.lateRoutes layer routes ≠ []) :
    exec (.deadlineExpiry p layer routes) s =
      .next (if (s.seOf p.val).ordered = true ∨ (s.detourEnt layer).mode = 2 then s.waitExperts p.val layer (s.lateRoutes layer routes)
        else if (s.detourEnt layer).mode = 1 then s.dropAll p.val layer (s.lateRoutes layer routes)
        else s.substituteAll p.val layer (s.lateRoutes layer routes)) := by
  refine congrArg Host.Outcome.next ((if_pos ?_).trans ?_)
  · rw [hfell, Bool.true_and, Bool.not_eq_true', List.isEmpty_eq_false_iff]
    exact hlate
  · simp only [Bool.or_eq_true, decide_eq_true_eq]
    rfl

/-! ## The end of a wait -/

theorem execDetourWaitExpiry_over {s : State} {p : PartId} {layer : Nat} {w : WaitLayer}
    (hwait : (s.seOf p.val).waitLayers.find? (fun w => w.layer == layer) = some w) (hst : (s.seOf p.val).st = .forward)
    (hord : (s.seOf p.val).ordered = false) (hmax : w.since + (s.detourEnt layer).waitMax ≤ s.nowUs) :
    exec (.detourWaitExpiry p layer) s =
      .next ((s.setSe p.val { s.seOf p.val with waitLayers := (s.seOf p.val).waitLayers.filter (fun w => w.layer != layer) }).substituteAll
        p.val layer (s.lateRoutes layer w.routes)) := by
  refine congrArg Host.Outcome.next ?_
  simp only [hwait]
  exact if_pos (by simp [hst, hord, hmax])

/-- Settles O22: the detour mode picks one of three changes, and detours change the stride's context, its counts and its event. -/
theorem detours : Obligations.Detours := by
  unfold Obligations.Detours
  refine ⟨fun s p layer routes hfell => ?_, fun s p layer w hwait hst hord hmax => ?_, fun s p ds => ?_⟩
  · intro late e hlate
    have hexec := execDeadlineExpiry_falls hfell hlate
    refine ⟨fun hwaits => ?_, fun hord hmode => ?_, fun hord hmode => ?_⟩
    · rw [if_pos hwaits] at hexec
      refine ⟨_, hexec, SeOnly.setSe .., fun q hq => ?_, ?_⟩
      · exact (State.seOf_setSe ..).trans (if_neg hq)
      · exact (State.seOf_setSe ..).trans (if_pos rfl)
    · have hordered : (s.seOf p.val).ordered = false := hord
      rwa [if_neg (by simp [hordered, hmode]), if_pos hmode] at hexec
    · have hordered : (s.seOf p.val).ordered = false := hord
      rwa [if_neg (by simp [hordered, hmode]), if_neg (by simp [hmode])] at hexec
  · exact ⟨_, execDetourWaitExpiry_over hwait hst hord hmax, rfl⟩
  · have hsig := s.detour_signalled p ds
    intro t
    rw [show t.seOf = _ from State.seOf_of_se hsig.se]
    refine ⟨(State.seOf_setSe ..).trans (if_pos rfl), fun q hq => (State.seOf_setSe ..).trans (if_neg hq), ?_⟩
    exact (SeOnly.setSe ..).signalled hsig

end Sys2Proof.Machine
end

section
/-!
PROOF. The boundary of a stride, its hang and its control word (R100, R121, R126, R130, R188, R274, R281, R362, R380).
-/

namespace Sys2Proof.Machine

/-! ## The boundary -/

theorem execStrideBoundary_noRoom {s : State} {p : PartId} (hst : (s.seOf p.val).st = .boundary) (hstage : (s.seOf p.val).bStage = 0)
    (hroom : s.ringsReady p.val = false) : exec (.strideBoundary p) s = .next (s.ringWaits p.val) := by
  refine congrArg Host.Outcome.next ?_
  simp [hst, hstage, hroom]

/-- The state after the boundary's work: the report is held and the work cannot be taken back (R188, R374). -/
def State.boundaryDone (s : State) (p : Nat) : State :=
  let s1 := s.boundaryWork p
  let s2 := s1.setMeter { s1.meter with held := s1.meter.held ++ [s.strideReport p (s.tokenAccounts p)] }
  s2.setSe p { s2.seOf p with bStage := 1, bankUndo := [], carryUndo := none }

/-- With room in the rings the boundary does its work, unless an outcome or a reshard is waited for (R253, R362). -/
theorem execStrideBoundary_room {s : State} {p : PartId} (hst : (s.seOf p.val).st = .boundary) (hstage : (s.seOf p.val).bStage = 0)
    (hroom : s.ringsReady p.val = true) (hmeter : s.meter.held.length < 4096) (houtcome : s.outcomeWait p.val = false) :
    exec (.strideBoundary p) s = .next (if s.reshardWait p.val then s else (s.boundaryDone p.val).boundaryEnd p.val) := by
  refine congrArg Host.Outcome.next ?_
  simp only [hst, hstage, hroom, houtcome, Nat.not_le.2 hmeter, ne_eq, not_true_eq_false, if_false, Bool.false_or, Bool.not_true,
    Bool.false_eq_true, OfNat.zero_ne_ofNat, zero_ne_one]
  rfl

theorem execStrideBoundary_leaves {s : State} {p : PartId} (hst : (s.seOf p.val).st = .boundary) (hstage : (s.seOf p.val).bStage = 2)
    (hcomp : (s.heldOf p.val).comp = []) : exec (.strideBoundary p) s = .next (s.leaveBoundary p.val) := by
  refine congrArg Host.Outcome.next ?_
  simp [hst, hstage, hcomp, State.tryLeave]

/-! ## Events -/

theorem State.pages_raise (s : State) (page bit : Nat) :
    (s.raise page bit).pages = (s.setHdr page { s.hdr page with evStat := (s.hdr page).evStat ||| BitVec.ofNat 32 (2 ^ bit) }).pages := by
  unfold State.raise
  extract_lets h h' s1
  split
  · obtain ⟨-, -, -, hpages, -⟩ := s1.sendMsi_fields page
    exact hpages
  · rfl

/-- An event set sets its bit in its page's header, and no other header changes (R414). -/
theorem State.hdr_raise (s : State) (page bit j : Nat) :
    (s.raise page bit).hdr j = if j = page then { s.hdr page with evStat := (s.hdr page).evStat ||| BitVec.ofNat 32 (2 ^ bit) } else s.hdr j := by
  rw [← State.hdr_setHdr]
  exact congrArg (AMap.get {} · j) (s.pages_raise page bit)

theorem State.hdr_bump (s : State) (page off n j : Nat) : (s.bump page off n).hdr j = s.hdr j := by
  rw [State.bump_frame]
  rfl

/-! ## A stride torn down -/

theorem State.se_setSe_congr {s t : State} (h : s.se = t.se) (p : Nat) (x : Se) : (s.setSe p x).se = (t.setSe p x).se := by
  unfold State.setSe
  rw [h]

/-- The teardown clears the stride's context, and no other context changes (R126, R281). -/
theorem State.se_tearStride (s : State) (p : Nat) :
    ∃ e : Se, (s.tearStride p).se = (s.setSe p e).se ∧ e.st = .idle ∧ e.rows = [] ∧ e.num = (s.seOf p).num := by
  unfold State.tearStride
  extract_lets e s1 tr s2 f e0 s3
  have hbanks : s1.se = s.se := by simp [s1]
  have hrows : s2.se = s1.se := by simp [s2]
  have hcleared : ((s3.hearthsOf p).foldl (fun (s : State) h => s.clearHearth h) s3.freeUnused).se = s3.se := by
    simp [State.clearHearth, State.freeUnused]
  refine ⟨_, hcleared.trans (State.se_setSe_congr (hrows.trans hbanks) p _), rfl, rfl, ?_⟩
  show (s2.seOf p).num = _
  rw [State.seOf_of_se (hrows.trans hbanks)]

/-- Live sequences keep their slots, park entries and waxes stay (R126). -/
theorem State.tearStride_keeps (s : State) (p : Nat) :
    (s.tearStride p).slots = s.slots ∧ (s.tearStride p).parks = s.parks ∧ (s.tearStride p).infs = s.infs := by
  simp [State.tearStride, State.freeUnused, State.clearHearth]

theorem State.strideHangRec_recorded (s : State) (p detail : Nat) : Recorded s (s.strideHangRec p detail) :=
  (((State.report_recorded ..).trans (State.raise_recorded ..)).trans (State.raise_recorded ..)).trans (State.bump_recorded ..)

/-- The HANG event of the stride engine's page is set (R281). -/
theorem State.evStat_strideHangRec (s : State) (p : PartId) (detail : Nat) :
    ((s.strideHangRec p.val detail).hdr (pgSE p.val)).evStat.getLsbD 4 = true := by
  have hpages : pgSE p.val ≠ pgQP p.val := by
    unfold pgSE pgQP pgQPM
    split <;> omega
  unfold State.strideHangRec
  rw [State.hdr_bump, State.hdr_raise, if_neg hpages, State.hdr_raise, if_pos rfl]
  simp

theorem execStrideHang_over {s : State} {p : PartId} (hidle : (s.seOf p.val).st ≠ .idle) (hpaused : (s.seOf p.val).st ≠ .paused)
    (hover : (s.seOf p.val).start + (s.frc (pgSE p.val) 0x044).toNat < s.nowUs) :
    exec (.strideHang p) s = .next ((s.tearStride p.val).strideHangRec p.val (s.frc (pgSE p.val) 0x044).toNat) :=
  congrArg Host.Outcome.next (if_pos (by simp [hidle, hpaused, hover]))

/-! ## The control word -/

theorem execStrideCtrlWrite_pass {s : State} {o : Origin} {p : PartId} {r : Req} (v : Word)
    (h : s.access o (pgSE p.val * 0x1000 + 0x054) true = .pass s r) :
    exec (.strideCtrlWrite o p v) s = .next ((s.setReply .ok).writeStrideCtrl p.val v) :=
  congrArg Host.Outcome.next (State.withWrite_pass _ h)

/-- Beside the word itself only the stride's context changes (R100, R101). -/
theorem State.writeStrideCtrl_atStride (s : State) (p : Nat) (v : Word) :
    AtStride p (s.wr (pgSE p) 0x054 (v &&& 1)) (s.writeStrideCtrl p v) := by
  unfold State.writeStrideCtrl
  extract_lets was s1 e
  split
  · exact .setSe ..
  · split
    · exact .setSe ..
    · exact .rfl

theorem State.writeStrideCtrl_resumes {s : State} {p : Nat} {v : Word} (hpaused : (s.seOf p).st = .paused) (hclear : v.getLsbD 0 = false) :
    ((s.writeStrideCtrl p v).seOf p).st = .idle := by
  unfold State.writeStrideCtrl
  extract_lets was s1 e
  have hst : e.st = .paused := hpaused
  rw [hst, hclear, if_pos (by decide), State.seOf_setSe, if_pos rfl]

theorem State.writeStrideCtrl_st {s : State} {p : Nat} (v : Word) (h : (s.seOf p).st ≠ .paused) :
    ((s.writeStrideCtrl p v).seOf p).st = (s.seOf p).st := by
  unfold State.writeStrideCtrl
  extract_lets was s1 e
  have hst : e.st ≠ .paused := h
  rw [if_neg (by simp [hst])]
  split
  · rw [State.seOf_setSe, if_pos rfl]
    rfl
  · rfl

/-- Settles O24: each write of the boundary, the teardown and the control word changes what its own lemma above says. -/
theorem boundaryAndHang : Obligations.BoundaryAndHang := by
  unfold Obligations.BoundaryAndHang
  refine ⟨fun s p hst hstage => ⟨execStrideBoundary_noRoom hst hstage, fun hroom hmeter houtcome hreshard => ?_,
    fun hroom hmeter houtcome hreshard => ?_⟩, fun s p => execStrideBoundary_leaves, fun s p hidle hpaused hover => ?_,
    fun s o p v r haccess => ?_⟩
  · refine ⟨_, execStrideBoundary_room hst hstage hroom hmeter houtcome, ?_⟩
    rw [if_neg (by simp [hreshard])]
    rfl
  · rw [execStrideBoundary_room hst hstage hroom hmeter houtcome, if_pos hreshard]
  · rw [execStrideHang_over hidle hpaused hover]
    have hrec := (s.tearStride p.val).strideHangRec_recorded p.val (s.frc (pgSE p.val) 0x044).toNat
    obtain ⟨e, hse, hst, hrows, hnum⟩ := s.se_tearStride p.val
    obtain ⟨hslots, hparks, hinfs⟩ := s.tearStride_keeps p.val
    refine ⟨_, rfl, ?_⟩
    rw [State.seOf_of_se (hrec.se.trans hse), State.seOf_setSe, if_pos rfl]
    refine ⟨hst, hrows, hnum, State.evStat_strideHangRec .., ?_, ?_, ?_⟩
    · rw [hrec, hslots]
    · rw [hrec, hparks]
    · rw [hrec, hinfs]
  · rw [execStrideCtrlWrite_pass v haccess]
    have hat := (s.setReply .ok).writeStrideCtrl_atStride p.val v
    refine ⟨_, rfl, ?_, ?_, State.writeStrideCtrl_resumes (s := s.setReply .ok),
      State.writeStrideCtrl_st (s := s.setReply .ok) v, hat.others⟩
    · rw [hat.frame]
      exact State.rd_wr ..
    · rw [hat.frame]
      rfl

end Sys2Proof.Machine
end

section
/-!
PROOF. JOIN and PROGRAM_SET (R76, R109 to R111, R147, R255, R269, R314).
-/

namespace Sys2Proof.Machine

/-! ## A command that ends -/

/-- The records and counters of an ending leave the started commands (R273). -/
theorem State.started_finish (s : State) (c : Started) (status : Nat) (i : EndInfo) : (s.finish c status i).started = s.started := by
  unfold State.finish State.auditQueue State.checkQueue
  extract_lets s2 s3 s4 s5 s6
  have h2 : s2.started = s.started := by simp [s2]
  have h4 : s4.started = s.started := by simp [s4, s3, h2]
  have h6 : s6.started = s.started := by simp [s6, s5, h4]
  simp [h6]

/-- Of the started commands an ending takes the command out, and no other changes. -/
theorem State.started_endCmd (s : State) (c : Started) (status : Nat) (i : EndInfo) :
    (s.endCmd c status i).started = s.started.filter (fun x => x.key != c.key) := by
  have hdrop : (s.dropCmd c).started = s.started.filter (fun x => x.key != c.key) := rfl
  simp [State.endCmd, State.settleQueue, State.started_finish, hdrop]

theorem State.findCmd_endCmd (s : State) (c : Started) (status : Nat) (i : EndInfo) : (s.endCmd c status i).findCmd c.key = none := by
  unfold State.findCmd
  rw [State.started_endCmd]
  simp

/-! ## JOIN -/

/-- A command from QPM has no partition to act for (log entry 26). -/
theorem execJoin_qpm {s : State} {c : CmdRef} {x : Started} (htaken : s.taken c 0x10 = some x) (hpage : 32 ≤ x.page) :
    exec (.join c) s = .next (s.refuseCmd x 0x0259) := by
  show Host.Outcome.next (s.onTaken c 0x10 _) = _
  rw [State.onTaken_of_taken htaken, if_pos hpage]

section
variable {s s1 s2 : State} {c : CmdRef} {x : Started} {b pr : List Byte}
variable (htaken : s.taken c 0x10 = some x) (hpage : x.page < 32) (hload : s.load (seWho x.page) (field x.ops 16 23) 128 = .ok (b, s1))
include htaken hpage hload

theorem execJoin_refused {r : Nat} (hcheck : joinCheck (joinDescOf b) (joinStopCount b) = some r) :
    exec (.join c) s = .next (s1.refuseCmd x r { wax := (joinDescOf b).wax }) := by
  show Host.Outcome.next (s.onTaken c 0x10 _) = _
  rw [State.onTaken_of_taken htaken, if_neg (by omega)]
  simp only [hload, hcheck]

/-- A descriptor that passes the checks is parked where its tokens are in the base's vocabulary (R110). -/
theorem execJoin_checked {m : Manifest} (hcheck : joinCheck (joinDescOf b) (joinStopCount b) = none)
    (hprompt : s1.load (seWho x.page) (joinDescOf b).promptDua (4 * (joinDescOf b).promptLen) = .ok (pr, s2)) (hbase : s2.lift.base = some m) :
    exec (.join c) s =
      .next (if tokensOk m.vocab (wordsOf pr (joinDescOf b).promptLen ++ (joinDescOf b).stops) then s2.parkJoin x (joinDescOf b)
        else s2.refuseCmd x 0x0237 { wax := (joinDescOf b).wax }) := by
  show Host.Outcome.next (s.onTaken c 0x10 _) = _
  rw [State.onTaken_of_taken htaken, if_neg (by omega)]
  simp only [hload, hcheck, hprompt, hbase]

end

/-! ## The park queue -/

/-- The park entry of a JOIN command (R111). -/
def Started.parkEntry (x : Started) (d : JoinDesc) (fetch : Option Nat) : Park :=
  { part := x.page, d := d, fetch := fetch
    jid := { queue := queueByte x.eng x.q false, seq := x.seq, tag := x.tag, cookie := x.cookie, dua := field x.ops 16 23 } }

/-- Looking for a park entry's fetch opens one or counts one that runs (R147). -/
theorem State.parkFetch_frame (s : State) (p wax : Nat) :
    (s.parkFetch p wax).2 =
      { s with wx := (s.parkFetch p wax).2.wx, regs := (s.parkFetch p wax).2.regs, force := (s.parkFetch p wax).2.force } := by
  unfold State.parkFetch
  split
  · rfl
  · split
    · rw [State.bump_frame]
    · rfl

theorem State.parkFetch_resident {s : State} {p wax : Nat} (h : wax = 0 ∨ (s.newestSlot p wax).isSome = true) :
    (s.parkFetch p wax).1 = none := by
  unfold State.parkFetch
  rw [if_pos (by simpa using h)]

theorem State.parkFetch_absent {s : State} {p wax : Nat} (hwax : wax ≠ 0) (h : s.newestSlot p wax = none) :
    (s.parkFetch p wax).1.isSome = true := by
  unfold State.parkFetch
  rw [if_neg (by simp [hwax, h])]
  split <;> rfl

theorem State.auditFetch_recorded (s : State) : Recorded s s.auditFetch := by
  unfold State.auditFetch State.checkFetch
  extract_lets s1 sum
  have h1 : Recorded s s1 := .ite .rfl (State.breach_recorded ..)
  exact .ite .rfl (.ite h1 (h1.trans (State.breach_recorded ..)))

/-- With room in the park queue the JOIN takes the entry at its end (R111). -/
theorem State.parkJoin_of_room {s : State} {x : Started} (d : JoinDesc) (hroom : s.parks.length < 65536) :
    (s.parkJoin x d).parks = s.parks ++ [x.parkEntry d (s.parkFetch x.page d.wax).1] ∧ (s.parkJoin x d).slots = s.slots ∧
      (s.parkJoin x d).findCmd x.key = none := by
  unfold State.parkJoin
  rw [if_neg (by omega)]
  extract_lets r k
  have hrec : Recorded (r.2.setParks (r.2.parks ++ [k])) (((r.2.setParks (r.2.parks ++ [k])).auditFetch).endCmd x 0) :=
    (State.auditFetch_recorded _).trans (State.endCmd_recorded ..)
  have hframe : r.2 = { s with wx := r.2.wx, regs := r.2.regs, force := r.2.force } := s.parkFetch_frame ..
  refine ⟨?_, ?_, State.findCmd_endCmd ..⟩
  · rw [hrec]
    show r.2.parks ++ [k] = _
    rw [hframe]
    rfl
  · rw [hrec]
    show r.2.slots = _
    rw [hframe]

theorem State.parkJoin_full {s : State} {x : Started} (d : JoinDesc) (hfull : 65536 ≤ s.parks.length) :
    s.parkJoin x d = ((s.bump (pgSE x.page) 0x068 1).raise pgWX 3).refuseCmd x 0x0502 { wax := d.wax } := if_pos hfull

/-! ## PROGRAM_SET -/

theorem execProgramSet_qpm {s : State} {c : CmdRef} {x : Started} (layout : Option Layout) (htaken : s.taken c 0x16 = some x)
    (hpage : 32 ≤ x.page) : exec (.programSet c layout) s = .next (s.refuseCmd x 0x0259) := by
  show Host.Outcome.next (s.onTaken c 0x16 _) = _
  rw [State.onTaken_of_taken htaken, if_pos hpage]

theorem execProgramSet_badLayout {s : State} {c : CmdRef} {y : Layout} {x : Started} (htaken : s.taken c 0x16 = some x) (hpage : x.page < 32)
    (hbad : layoutOk y s.segments = false) : exec (.programSet c (some y)) s = .next (s.refuseCmd x 0x0256) := by
  show Host.Outcome.next (s.onTaken c 0x16 _) = _
  rw [State.onTaken_of_taken htaken, if_neg (by omega), if_pos (by simp [hbad])]

/-- The tile descriptors in the bytes that PROGRAM_SET read (R269). -/
def tileRecs (b : List Byte) (n : Nat) : List (List Byte) := (List.range n).map (fun i => (b.drop (64 * i)).take 64)

theorem length_tileRecs (b : List Byte) (n : Nat) : (tileRecs b n).length = n := by simp [tileRecs]

/-- The first of a command's descriptors that fails its check, with the check's reason (R314). -/
def State.firstBadTile (s : State) (recs : List (List Byte)) : Option (Nat × Nat) :=
  (List.range recs.length).findSome? (fun i => (s.tileCheck (recs.getD i [])).map (fun r => (i, r)))

theorem State.firstBadTile_none {s : State} {recs : List (List Byte)} (h : ∀ r ∈ recs, s.tileCheck r = none) : s.firstBadTile recs = none := by
  refine List.findSome?_eq_none_iff.2 fun i hi => ?_
  have hmem : recs.getD i [] ∈ recs := by
    rw [List.getD_eq_getElem _ _ (List.mem_range.1 hi)]
    exact List.getElem_mem _
  rw [h _ hmem]
  rfl

theorem State.firstBadTile_some {s : State} {recs : List (List Byte)} {i r : Nat} (hi : i < recs.length)
    (hbad : s.tileCheck (recs.getD i []) = some r) (hgood : ∀ j, j < i → s.tileCheck (recs.getD j []) = none) :
    s.firstBadTile recs = some (i, r) := by
  obtain ⟨n, hn⟩ : ∃ n, recs.length = i + (n + 1) := ⟨recs.length - i - 1, by omega⟩
  unfold State.firstBadTile
  rw [hn, List.range_add, List.range_succ_eq_map]
  refine List.findSome?_eq_some_iff.2 ⟨List.range i, i, _, rfl, by rw [hbad]; rfl, fun j hj => ?_⟩
  rw [hgood j (List.mem_range.1 hj)]
  rfl

/-- What PROGRAM_SET does with the descriptors it read: the first bad one refuses it, else they are the program of the next boundary (R269). -/
def State.setProgram (s : State) (x : Started) (layout : Option Layout) (recs : List (List Byte)) : State :=
  match s.firstBadTile recs with
  | some (i, r) => s.refuseCmd x r { detail := i }
  | none => (s.setSe x.page { s.seOf x.page with newProgram := some (recs.map tileOf, layout) }).endCmd x 0

theorem execProgramSet_read {s s1 : State} {c : CmdRef} {layout : Option Layout} {x : Started} {b : List Byte}
    (htaken : s.taken c 0x16 = some x) (hpage : x.page < 32) (hlayout : ∀ y, layout = some y → layoutOk y s.segments = true)
    (hload : s.load (seWho x.page) (field x.ops 16 23) (64 * field x.ops 24 27) = .ok (b, s1)) :
    exec (.programSet c layout) s = .next (s1.setProgram x layout (tileRecs b (field x.ops 24 27))) := by
  show Host.Outcome.next (s.onTaken c 0x16 _) = _
  rw [State.onTaken_of_taken htaken, if_neg (by omega)]
  refine congrArg Host.Outcome.next ((if_neg ?_).trans ?_)
  · cases layout with
    | none => simp
    | some y => simp [hlayout y rfl]
  · simp only [hload]
    unfold State.setProgram State.firstBadTile
    rw [length_tileRecs]
    rfl

/-- A program that passes waits for the boundary beside the one in force, and the command ends (R269). -/
theorem State.setProgram_of_good {s : State} {x : Started} {recs : List (List Byte)} (layout : Option Layout)
    (hgood : ∀ r ∈ recs, s.tileCheck r = none) :
    (s.setProgram x layout recs).seOf = (s.setSe x.page { s.seOf x.page with newProgram := some (recs.map tileOf, layout) }).seOf ∧
      (s.setProgram x layout recs).findCmd x.key = none := by
  unfold State.setProgram
  rw [State.firstBadTile_none hgood]
  exact ⟨State.seOf_of_se (State.endCmd_recorded ..).se, State.findCmd_endCmd ..⟩

theorem State.setProgram_of_bad {s : State} {x : Started} {recs : List (List Byte)} {i r : Nat} (layout : Option Layout) (hi : i < recs.length)
    (hbad : s.tileCheck (recs.getD i []) = some r) (hgood : ∀ j, j < i → s.tileCheck (recs.getD j []) = none) :
    s.setProgram x layout recs = s.refuseCmd x r { detail := i } := by
  unfold State.setProgram
  rw [State.firstBadTile_some hi hbad hgood]

/-- Settles O35: a checked JOIN is what `parkJoin` leaves, and the descriptors of a PROGRAM_SET what `setProgram` leaves. -/
theorem joinAndProgram : Obligations.JoinAndProgram := by
  unfold Obligations.JoinAndProgram
  refine ⟨fun s s1 s2 c x b pr m htaken hpage hload => ⟨fun r => execJoin_refused htaken hpage hload, fun hcheck hprompt hbase => ?_⟩,
    fun s s1 c layout x b htaken hpage hlayout hload => ?_, fun s c y x => execProgramSet_badLayout,
    fun s c layout x hpage => ⟨fun htaken => execJoin_qpm htaken hpage, fun htaken => execProgramSet_qpm layout htaken hpage⟩⟩
  · have hexec := execJoin_checked htaken hpage hload hcheck hprompt hbase
    have hnear : Near s s2 := (State.load_near hload).trans (State.load_near hprompt)
    refine ⟨fun hbad => ?_, fun hgood => ⟨fun hroom => ?_, fun hfull => ?_⟩⟩
    · rwa [if_neg (by rw [hbad]; decide)] at hexec
    · rw [if_pos hgood] at hexec
      obtain ⟨hparks, hslots, hended⟩ := State.parkJoin_of_room (x := x) (joinDescOf b) hroom
      refine ⟨_, x.parkEntry (joinDescOf b) (s2.parkFetch x.page (joinDescOf b).wax).1, hexec, ?_, rfl, rfl, hended, ?_,
        State.parkFetch_resident, State.parkFetch_absent⟩
      · rw [hparks, hnear]
      · rw [hslots, hnear]
    · rwa [if_pos hgood, State.parkJoin_full _ hfull] at hexec
  · intro recs
    have hexec := execProgramSet_read htaken hpage hlayout hload
    have hse : s1.seOf = s.seOf := State.seOf_of_se (State.load_near hload).se
    refine ⟨fun hgood => ?_, fun i r hi hbad hgood => ?_⟩
    · obtain ⟨hprogram, hended⟩ := State.setProgram_of_good (x := x) layout hgood
      refine ⟨_, hexec, ?_⟩
      rw [show (s1.setProgram x layout (tileRecs b (field x.ops 24 27))).seOf = _ from hprogram, State.seOf_setSe, if_pos rfl, hse]
      exact ⟨rfl, rfl, fun q hq => (State.seOf_setSe ..).trans ((if_neg hq).trans (congrFun hse q)), hended⟩
    · exact hexec.trans (congrArg Host.Outcome.next (State.setProgram_of_bad layout hi hbad hgood))

end Sys2Proof.Machine
end

section
/-!
PROOF. Boot, fallback and firmware (R127, R330, R350 to R352, R403, R421).
-/

namespace Sys2Proof.Machine

/-! ## One boot -/

/-- The state with the boot counted against an image that is not committed (R350). -/
def State.tried (s : State) : State := if s.mc.committed s.mc.active then s else s.setMc { s.mc with tries := s.mc.tries + 1 }

theorem State.tried_eq_setMc (s : State) : ∃ n, s.tried = s.setMc { s.mc with tries := n } := by
  unfold State.tried
  split
  · exact ⟨s.mc.tries, rfl⟩
  · exact ⟨s.mc.tries + 1, rfl⟩

theorem State.imageCheck_tried (s : State) : s.tried.imageCheck = s.imageCheck := by
  obtain ⟨n, hn⟩ := s.tried_eq_setMc
  rw [hn]
  rfl

theorem State.settings_tried (s : State) : s.tried.settings = s.settings := by
  obtain ⟨n, hn⟩ := s.tried_eq_setMc
  rw [hn]
  rfl

theorem State.nowUs_tried (s : State) : s.tried.nowUs = s.nowUs := by
  obtain ⟨n, hn⟩ := s.tried_eq_setMc
  rw [hn]
  rfl

/-- An image with its three tries spent and still not committed is given up (R350). -/
theorem State.boot_spent {s : State} (up : Bool) (hopen : s.mc.committed s.mc.active = false) (hspent : 3 ≤ s.mc.tries) :
    s.boot up = s.fallBack 1 := if_pos (by simp [hopen, hspent])

/-- With a try left the image boots where its check passes and it reads the settings' format (R350). -/
theorem State.boot_tried {s : State} (up : Bool) (hmay : s.mc.committed s.mc.active = true ∨ s.mc.tries < 3) :
    s.boot up =
      if (s.imageCheck (s.mc.image s.mc.active)).isSome = true then s.tried.fallBack 2
      else if s.settings.format ∉ (s.mc.image s.mc.active).reads then s.tried.fallBack 3
      else if up then s.tried.mcUp else s.tried.setMc { s.tried.mc with bootAt := s.nowUs } := by
  have hleft : (!s.mc.committed s.mc.active && decide (3 ≤ s.mc.tries)) ≠ true := by
    rcases hmay with h | h <;> simp [h]
  rw [← State.imageCheck_tried, ← State.settings_tried, ← s.nowUs_tried]
  refine (if_neg hleft).trans ?_
  simp only [Bool.not_eq_true', ← Bool.not_eq_true, List.contains_iff_mem]
  rfl

/-- An image that passes its check boots where it reads the settings' format. -/
theorem State.boot_checked {s : State} (up : Bool) (hmay : s.mc.committed s.mc.active = true ∨ s.mc.tries < 3)
    (hgood : s.imageCheck (s.mc.image s.mc.active) = none) :
    s.boot up =
      if s.settings.format ∉ (s.mc.image s.mc.active).reads then s.tried.fallBack 3
      else if up then s.tried.mcUp else s.tried.setMc { s.tried.mc with bootAt := s.nowUs } := by
  rw [State.boot_tried up hmay, hgood]
  exact if_neg (by decide)

theorem execMcBoot_boots {s : State} (hbooting : s.mc.booting = true) (hup : s.isUp 0x84 = true) : exec .mcBoot s = .next (s.boot true) :=
  congrArg Host.Outcome.next (if_pos (by simp [hbooting, hup]))

theorem execBootTimeout_boots {s : State} (hbooting : s.mc.booting = true) (hup : s.isUp 0x84 = true) (hlate : s.mc.bootAt + 60000000 ≤ s.nowUs) :
    exec .bootTimeout s = .next (s.boot false) := congrArg Host.Outcome.next (if_pos (by simp [hbooting, hup, hlate]))

theorem execBootTimeout_early {s : State} (hearly : s.nowUs < s.mc.bootAt + 60000000) : exec .bootTimeout s = .next s :=
  congrArg Host.Outcome.next (if_neg (by simp [hearly]))

/-! ## The firmware runs -/

theorem State.loadBundle_none {s : State} (h : (s.mc.image s.mc.active).bundle = none) : s.loadBundle = s := by
  unfold State.loadBundle
  rw [h]

theorem State.loadBundle_good {s : State} {b : Bundle} (h : (s.mc.image s.mc.active).bundle = some b) (hgood : bundleCheck b = none) :
    s.loadBundle = (s.setMc { s.mc with bundle := b }).setFbx { s.fbx with svns := s.fbx.svns.set 3 b.svn } := by
  unfold State.loadBundle
  rw [h]
  dsimp only
  rw [hgood]

theorem State.loadBundle_refused {s : State} {b : Bundle} {e : Nat} (h : (s.mc.image s.mc.active).bundle = some b)
    (hbad : bundleCheck b = some e) : s.loadBundle = s.refuse pgTB e := by
  unfold State.loadBundle
  rw [h]
  dsimp only
  rw [hbad]

/-- Of the management controller a bundle changes the tables only. -/
theorem State.mc_loadBundle (s : State) : ∃ b, s.loadBundle.mc = { s.mc with bundle := b } := by
  unfold State.loadBundle
  split
  · exact ⟨_, rfl⟩
  · split
    · exact ⟨_, rfl⟩
    · exact ⟨_, rfl⟩

/-- The SVNs that the firebox takes from an image beside its tables' (R322, R330). -/
def svnsOfImage (img : FwImage) (svns : List Nat) : List Nat := ((svns.set 0 img.fb.svn).set 1 img.svn).set 2 img.ucode.svn

/-- The firmware runs, and its table bundle is not yet loaded (R350, R428). -/
def State.mcStarted (s : State) : State :=
  (s.setMc { s.mc with running := true, booting := false, slotB := s.mc.active, lastHb := s.nowUs, loaded := true
                       tries := if s.mc.committed s.mc.active then 0 else s.mc.tries }).setFbx
    { s.fbx with svns := svnsOfImage (s.mc.image s.mc.active) s.fbx.svns }

/-- Once the bundle is loaded, the firmware's domain is up, and nothing else changes. -/
theorem State.mcUp_eq_setUp (s : State) : ∃ u, s.mcUp = s.mcStarted.loadBundle.setUp u ∧ s.mcUp.isUp 0x85 = true := by
  unfold State.mcUp
  extract_lets m s1 img f s2
  have hs2 : s2 = s.mcStarted.loadBundle := rfl
  split
  · next h => exact ⟨s2.up, by rw [← hs2]; rfl, h⟩
  · exact ⟨s2.up ++ [0x85], by rw [← hs2], by simp [State.isUp, State.setUp]⟩

/-- A boot that succeeds runs the active image and starts its heartbeat's clock (R350). -/
theorem State.mcUp_runs (s : State) :
    s.mcUp.mc.running = true ∧ s.mcUp.mc.booting = false ∧ s.mcUp.mc.slotB = s.mc.active ∧ s.mcUp.mc.lastHb = s.nowUs ∧
      s.mcUp.isUp 0x85 = true := by
  obtain ⟨u, hu, hup⟩ := s.mcUp_eq_setUp
  obtain ⟨b, hb⟩ := s.mcStarted.mc_loadBundle
  have hmc : s.mcUp.mc = { s.mcStarted.mc with bundle := b } := by
    rw [hu]
    exact hb
  rw [hmc]
  exact ⟨rfl, rfl, rfl, rfl, hup⟩

/-- A boot takes the image's SVNs and its table bundle, unless the bundle is refused (R421; log entry 169). -/
theorem State.mcUp_bundle (s : State) :
    let img := s.mc.image s.mc.active
    (img.bundle = none → s.mcUp.fbx.svns = svnsOfImage img s.fbx.svns ∧ s.mcUp.mc.bundle = s.mc.bundle) ∧
    ∀ b, img.bundle = some b →
      (bundleCheck b = none → s.mcUp.fbx.svns = (svnsOfImage img s.fbx.svns).set 3 b.svn ∧ s.mcUp.mc.bundle = b) ∧
      (∀ e, bundleCheck b = some e →
        s.mcUp.fbx.svns = svnsOfImage img s.fbx.svns ∧ s.mcUp.mc.bundle = s.mc.bundle ∧ (s.mcUp.hdr pgTB).refused = true) := by
  intro img
  obtain ⟨u, hu, -⟩ := s.mcUp_eq_setUp
  rw [hu]
  refine ⟨fun hnone => ?_, fun b hbundle => ⟨fun hgood => ?_, fun e hbad => ?_⟩⟩
  · rw [State.loadBundle_none (s := s.mcStarted) hnone]
    exact ⟨rfl, rfl⟩
  · rw [State.loadBundle_good (s := s.mcStarted) hbundle hgood]
    exact ⟨rfl, rfl⟩
  · rw [State.loadBundle_refused (s := s.mcStarted) hbundle hbad]
    refine ⟨rfl, rfl, ?_⟩
    show ((s.mcStarted.refuse pgTB e).hdr pgTB).refused = true
    unfold State.refuse
    rw [State.hdr_setHdr, if_pos rfl]

/-! ## COMMIT -/

theorem State.commitFw_frame (s : State) : s.commitFw = s.setMc s.commitFw.mc := by
  unfold State.commitFw
  extract_lets m m1
  split <;> rfl

/-- COMMIT commits the running image and leaves the other (R351). -/
theorem State.committed_commitFw (s : State) (slotB : Bool) :
    s.commitFw.mc.committed slotB = (decide (slotB = s.mc.slotB) || s.mc.committed slotB) := by
  unfold State.commitFw
  extract_lets m m1
  split
  · next h =>
    by_cases hslot : slotB = s.mc.slotB
    · simpa [hslot] using h
    · simp [hslot]
  · cases slotB <;> cases hslot : s.mc.slotB <;> simp [m1, m, hslot, State.setMc, Mc.committed]

/-- The first COMMIT of an image gives the tries back and commits the settings (R351). -/
theorem State.commitFw_first {s : State} (h : s.mc.committed s.mc.slotB = false) :
    s.commitFw.mc.tries = 0 ∧ s.commitFw.mc.sa0.uncommitted = false ∧ s.commitFw.mc.sa1.uncommitted = false := by
  unfold State.commitFw
  extract_lets m m1
  rw [if_neg (by simp [m, h])]
  exact ⟨rfl, rfl, rfl⟩

theorem execFwCommit_pass {s : State} {o : Origin} {r : Req} (h : s.access o (pgMC * 0x1000 + 0x124) true = .pass s r) :
    exec (.fwCommit o) s = .next (s.setReply .ok).commitFw := congrArg Host.Outcome.next (State.withWrite_pass _ h)

theorem execFwSwitch_pass {s : State} {o : Origin} {r : Req} (h : s.access o (pgMC * 0x1000 + 0x124) true = .pass s r) :
    exec (.fwSwitch o) s = .next (s.setReply .ok).switchFw := congrArg Host.Outcome.next (State.withWrite_pass _ h)

/-! ## New images and settings -/

theorem Mc.image_setImage (m : Mc) (slotB : Bool) (i : FwImage) : (m.setImage slotB i).image slotB = i := by
  cases slotB <;> rfl

theorem Mc.image_setImage_other (m : Mc) (slotB : Bool) (i : FwImage) : (m.setImage slotB i).image (!slotB) = m.image (!slotB) := by
  cases slotB <;> rfl

theorem Mc.committed_setImage (m : Mc) (slotB : Bool) (i : FwImage) : (m.setImage slotB i).committed slotB = false := by
  cases slotB <;> rfl

theorem Mc.recoveryDone_setImage (m : Mc) (slotB : Bool) (i : FwImage) : (m.setImage slotB i).recoveryDone = m.recoveryDone := by
  cases slotB <;> rfl

theorem execRecoveryImageWrite_outside {s : State} (slotB : Bool) (img : FwImage) (h : s.mc.recovery = false) :
    exec (.recoveryImageWrite slotB img) s = .next s := congrArg Host.Outcome.next (if_pos (by simp [h]))

theorem execRecoveryImageWrite_refused {s : State} {img : FwImage} {e : Nat} (slotB : Bool) (h : s.mc.recovery = true)
    (hcheck : s.imageCheck img = some e) : exec (.recoveryImageWrite slotB img) s = .next (s.setReply (.refused e)) := by
  refine congrArg Host.Outcome.next ((if_neg (by simp [h])).trans ?_)
  rw [hcheck]

theorem execRecoveryImageWrite_taken {s : State} {img : FwImage} (slotB : Bool) (h : s.mc.recovery = true) (hcheck : s.imageCheck img = none) :
    exec (.recoveryImageWrite slotB img) s =
      .next ((s.setMc { s.mc.setImage slotB img with recoveryDone := true }).setReply .ok) := by
  refine congrArg Host.Outcome.next ((if_neg (by simp [h])).trans ?_)
  rw [hcheck]

theorem execFirmwareUpdate_stopped {s : State} (slotB : Bool) (img : FwImage) (h : s.mc.running = false) :
    exec (.firmwareUpdate slotB img) s = .next s := congrArg Host.Outcome.next (if_pos (by simp [h]))

theorem execFirmwareUpdate_refused {s : State} {img : FwImage} {e : Nat} (slotB : Bool) (h : s.mc.running = true)
    (hcheck : s.imageCheck img = some e) : exec (.firmwareUpdate slotB img) s = .next (s.setReply (.refused e)) := by
  refine congrArg Host.Outcome.next ((if_neg (by simp [h])).trans ?_)
  rw [hcheck]

theorem execFirmwareUpdate_taken {s : State} {img : FwImage} (slotB : Bool) (h : s.mc.running = true) (hcheck : s.imageCheck img = none) :
    exec (.firmwareUpdate slotB img) s = .next ((s.setMc (s.mc.setImage slotB img)).setReply .ok) := by
  refine congrArg Host.Outcome.next ((if_neg (by simp [h])).trans ?_)
  rw [hcheck]

/-- The settings area that an update writes: one SEQ higher, and not committed while the firmware is not (R350, R351). -/
def State.newSettings (s : State) (st : Settings) : Settings :=
  { st with seq := (s.settings.seq + 1) % 2 ^ 32, uncommitted := !s.mc.committed s.mc.slotB, digestOk := true }

/-- New settings go to the area that does not hold the current ones (R350). -/
theorem execSettingsUpdate_running {s : State} (st : Settings) (h : s.mc.running = true) :
    exec (.settingsUpdate st) s =
      .next (s.setMc (if s.currentIsSa1 then { s.mc with sa0 := s.newSettings st } else { s.mc with sa1 := s.newSettings st })) :=
  congrArg Host.Outcome.next (if_neg (by simp [h]))

/-- Settles O57: a boot is what `boot_tried` says of it, and each write of firmware or settings changes the management controller only. -/
theorem bootAndFirmware : Obligations.BootAndFirmware := by
  unfold Obligations.BootAndFirmware
  refine ⟨fun s hbooting hup => ?_, fun s reason => ⟨fun hbad => if_pos hbad, fun hgood => if_neg (by simp [hgood])⟩, fun s o r haccess => ?_,
    fun s slotB img => ⟨execRecoveryImageWrite_outside slotB img, execFirmwareUpdate_stopped slotB img,
      fun e he => ⟨fun h => execRecoveryImageWrite_refused slotB h he, fun h => execFirmwareUpdate_refused slotB h he⟩,
      fun hgood => ⟨fun h => ?_, fun h => ?_⟩⟩, fun s st hrunning => ?_⟩
  · intro m img s1
    have hboots := execMcBoot_boots hbooting hup
    refine ⟨fun hopen hspent => by rw [hboots, State.boot_spent true hopen hspent], fun hmay => ?_⟩
    refine ⟨fun hbad => ?_, fun hgood hformat => ?_, fun hgood hformat => ⟨?_, execBootTimeout_early, fun hlate => ?_⟩⟩
    · rw [hboots, State.boot_tried true hmay, if_pos hbad]
      rfl
    · rw [hboots, State.boot_checked true hmay hgood, if_pos hformat]
      rfl
    · obtain ⟨n, hn⟩ := s.tried_eq_setMc
      rw [State.boot_checked true hmay hgood, if_neg (not_not.2 hformat), if_pos rfl, hn] at hboots
      obtain ⟨hrunning, hdone, hslot, hbeat, hdomain⟩ := (s.setMc { s.mc with tries := n }).mcUp_runs
      exact ⟨_, hboots, hrunning, hdone, hslot, hbeat, hdomain, (s.setMc { s.mc with tries := n }).mcUp_bundle⟩
    · rw [execBootTimeout_boots hbooting hup hlate, State.boot_checked false hmay hgood, if_neg (not_not.2 hformat)]
      rfl
  · refine ⟨⟨_, execFwCommit_pass haccess, ?_, ?_, State.commitFw_first (s := s.setReply .ok), ?_⟩, fun hbelow => ?_, fun hmeets => ?_⟩
    · rw [State.committed_commitFw]
      simp
    · rw [State.committed_commitFw]
      simp
    · rw [State.commitFw_frame]
      rfl
    · rw [execFwSwitch_pass haccess]
      exact congrArg Host.Outcome.next (if_pos hbelow)
    · rw [execFwSwitch_pass haccess]
      exact congrArg Host.Outcome.next (if_neg (Nat.not_lt.2 hmeets))
  · exact ⟨_, execRecoveryImageWrite_taken slotB h hgood, Mc.image_setImage .., Mc.image_setImage_other .., Mc.committed_setImage .., rfl, rfl⟩
  · exact ⟨_, execFirmwareUpdate_taken slotB h hgood, Mc.image_setImage .., Mc.image_setImage_other .., Mc.committed_setImage ..,
      Mc.recoveryDone_setImage .., rfl⟩
  · have hexec := execSettingsUpdate_running st hrunning
    refine ⟨fun hsa1 => ?_, fun hsa0 => ?_⟩
    · rw [if_pos hsa1] at hexec
      exact hexec
    · rw [if_neg (by simp [hsa0])] at hexec
      exact hexec

end Sys2Proof.Machine
end

section
/-!
PROOF. The wax engine's fields under the operations that commands and fetches share (R148, R154, R165, R273).
-/

namespace Sys2Proof.Machine

theorem Recorded.infs {s t : State} (h : Recorded s t) : t.infs = s.infs := by rw [h]

theorem Recorded.wxs {s t : State} (h : Recorded s t) : t.wxs = s.wxs := by rw [h]

theorem Recorded.wx {s t : State} (h : Recorded s t) : t.wx = s.wx := by rw [h]

theorem State.wxOf_of_wxs {s t : State} (h : t.wxs = s.wxs) : t.wxOf = s.wxOf := by
  funext n
  exact congrArg (AMap.get {} · n) h

theorem State.inf_of_infs {s t : State} (h : t.infs = s.infs) : t.inf = s.inf := by
  funext n
  exact congrArg (AMap.get {} · n) h

theorem State.storeLow_recorded (s : State) (before : Nat) : Recorded s (s.storeLow before) := .ite (State.raise_recorded ..) .rfl

/-- Taking an inference slot draws a free one or evicts the one it takes (R148, R154). -/
theorem State.takeInf_frame (s : State) (p : Nat) :
    (s.takeInf p).2 = { s with infs := (s.takeInf p).2.infs, hearths := (s.takeInf p).2.hearths, regs := (s.takeInf p).2.regs,
                               force := (s.takeInf p).2.force, freeCtr := (s.takeInf p).2.freeCtr } := by
  unfold State.takeInf
  split
  · rfl
  · extract_lets cands marked pool
    cases pool with
    | nil => rfl
    | cons c cs =>
      dsimp only
      rw [State.bump_frame]
      rfl

end Sys2Proof.Machine
end

section
/-!
PROOF. WAX_TRAIN, WAX_UNTRAIN and WAX_STEP (R146, R166, R167, R182, R360).
-/

namespace Sys2Proof.Machine

/-! ## WAX_TRAIN -/

/-- A command from QPM has no partition to act for (log entry 26). -/
theorem execWaxTrain_qpm {s : State} {c : CmdRef} {x : Started} (htaken : s.taken c 0x20 = some x) (hpage : 32 ≤ x.page) :
    exec (.waxTrain c) s = .next (s.refuseCmd x 0x0259) := by
  show Host.Outcome.next (s.onTaken c 0x20 _) = _
  rw [State.onTaken_of_taken htaken, if_pos hpage]

section
variable {s s1 : State} {c : CmdRef} {x : Started} {b : List Byte}
variable (htaken : s.taken c 0x20 = some x) (hpage : x.page < 32) (hload : s.load x.who (field x.ops 16 23) 64 = .ok (b, s1))
include htaken hpage hload

theorem execWaxTrain_refused {r : Nat} (hcheck : s1.trainCheck x.page (trainCfgOf b) b = some r) :
    exec (.waxTrain c) s = .next (s1.refuseCmd x r { wax := (trainCfgOf b).wax }) := by
  show Host.Outcome.next (s.onTaken c 0x20 _) = _
  rw [State.onTaken_of_taken htaken, if_neg (by omega)]
  simp only [hload, hcheck]

theorem execWaxTrain_starts (hcheck : s1.trainCheck x.page (trainCfgOf b) b = none) :
    exec (.waxTrain c) s = .next (s1.startTrain x (trainCfgOf b)) := by
  show Host.Outcome.next (s.onTaken c 0x20 _) = _
  rw [State.onTaken_of_taken htaken, if_neg (by omega)]
  simp only [hload, hcheck]

end

/-- The waxing slot that is taken holds the wax and its configuration, and no training state yet (R146). -/
theorem State.wxOf_takeWaxing (s : State) (p : Nat) (c : TrainCfg) :
    ∃ gen slot, (s.takeWaxing p c).2.wxOf (s.takeWaxing p c).1 =
      { gen := gen, used := true, owner := p, wax := c.wax, cfg := c, reservedSlot := slot } := by
  unfold State.takeWaxing
  extract_lets w before t s1 s2
  refine ⟨(s1.wxOf w.1).gen, t.1, ?_⟩
  rw [State.wxOf_of_wxs (State.storeLow_recorded ..).wxs, apply_ite State.wxOf]
  show (if _ then s2.wxOf else s2.wxOf) w.1 = _
  rw [ite_self, State.wxOf_setWx, if_pos rfl]

/-- Taking a waxing slot opens no fetch. -/
theorem State.fetches_takeWaxing (s : State) (p : Nat) (c : TrainCfg) : (s.takeWaxing p c).2.wx.fetches = s.wx.fetches := by
  unfold State.takeWaxing
  extract_lets w before t s1 s2
  have htake : t.2.wx = s.wx := by rw [State.takeInf_frame]; rfl
  have hslot : s1.wx = t.2.wx := by
    cases ht : t.1 with
    | none => simp only [s1, ht]
    | some n => simp only [s1, ht]; rfl
  have hset : s2.wx = s.wx := hslot.trans htake
  show (State.storeLow _ _).wx.fetches = _
  rw [(State.storeLow_recorded ..).wx]
  rw [apply_ite State.wx, apply_ite WaxEng.fetches]
  exact (ite_self _).trans (congrArg WaxEng.fetches hset)

/-- A record of the local store starts the training at once, and the command ends (R146). -/
theorem State.startTrain_stored {s : State} {x : Started} {g : TrainCfg} {r : WaxRec}
    (hrec : (s.takeWaxing x.page g).2.trainRecord x.page g.wax = some r) :
    (s.startTrain x g).wxOf (s.takeWaxing x.page g).1 =
        { (s.takeWaxing x.page g).2.wxOf (s.takeWaxing x.page g).1 with ready := true, rcd := trainForm r } ∧
      (s.startTrain x g).findCmd x.key = none := by
  unfold State.startTrain
  simp only [hrec]
  refine ⟨?_, State.findCmd_endCmd ..⟩
  rw [State.wxOf_of_wxs (State.endCmd_recorded ..).wxs, State.wxOf_setWx, if_pos rfl]

/-- A fetch opened for a command that waits for it. -/
theorem State.openFetch_setCmd (s : State) (p wax version : Nat) (k : FetchKind) (cmd : Option (Nat × Nat × Nat × Nat)) (x : Started) :
    ((s.openFetch p wax version k cmd).2.setCmd x).wxs = s.wxs ∧
      ((s.openFetch p wax version k cmd).2.setCmd x).wx.fetches.length = s.wx.fetches.length + 1 := ⟨rfl, List.length_append⟩

/-- With no such record a fetch is opened for the whole one, and the slot is as it was taken (R146, R150). -/
theorem State.startTrain_fetches {s : State} {x : Started} {g : TrainCfg} (hrec : (s.takeWaxing x.page g).2.trainRecord x.page g.wax = none) :
    (s.startTrain x g).wxOf = (s.takeWaxing x.page g).2.wxOf ∧ (s.startTrain x g).wx.fetches.length = s.wx.fetches.length + 1 := by
  unfold State.startTrain
  simp only [hrec]
  obtain ⟨hwxs, hfetches⟩ := (s.takeWaxing x.page g).2.openFetch_setCmd x.page g.wax 0 .train (some x.key) { x with phase := .waiting }
  rw [s.fetches_takeWaxing x.page g] at hfetches
  exact ⟨State.wxOf_of_wxs hwxs, hfetches⟩

/-! ## WAX_UNTRAIN and WAX_STEP -/

theorem execWaxUntrain_unnamed {s : State} {c : CmdRef} {x : Started} (htaken : s.taken c 0x21 = some x) (hnamed : s.namedWaxing x = none) :
    exec (.waxUntrain c) s = .next (s.endCmd x 0) := by
  show Host.Outcome.next (s.onTaken c 0x21 _) = _
  rw [State.onTaken_of_taken htaken]
  simp only [hnamed]

theorem execWaxStep_unnamed {s : State} {c : CmdRef} {x : Started} (htaken : s.taken c 0x22 = some x) (hnamed : s.namedWaxing x = none) :
    exec (.waxStep c) s = .next (s.endCmd x 0) := by
  show Host.Outcome.next (s.onTaken c 0x22 _) = _
  rw [State.onTaken_of_taken htaken]
  simp only [hnamed]

theorem execWaxStep_named {s : State} {c : CmdRef} {x : Started} {w : Nat} (htaken : s.taken c 0x22 = some x)
    (hnamed : s.namedWaxing x = some w) :
    exec (.waxStep c) s = .next ((s.setWx w { s.wxOf w with stepAsked := true }).endCmd x 0) := by
  show Host.Outcome.next (s.onTaken c 0x22 _) = _
  rw [State.onTaken_of_taken htaken]
  simp only [hnamed]

section
variable {s : State} {c : CmdRef} {x : Started} {w : Nat} (htaken : s.taken c 0x21 = some x) (hnamed : s.namedWaxing x = some w)
include htaken hnamed

/-- A second WAX_UNTRAIN of a wax ends at once (log entry 91). -/
theorem execWaxUntrain_again (hnoted : (s.wxOf w).untrain.isSome = true) : exec (.waxUntrain c) s = .next (s.endCmd x 0) := by
  show Host.Outcome.next (s.onTaken c 0x21 _) = _
  rw [State.onTaken_of_taken htaken]
  simp only [hnamed, hnoted, if_true]

/-- The first is noted in the slot, and completes with it in ordered mode, else at the wrap (R167, R360; log entry 29). -/
theorem execWaxUntrain_noted (hfree : (s.wxOf w).untrain = none) :
    exec (.waxUntrain c) s =
      .next (if (s.seOf (s.wxOf w).owner).ordered then (s.setWx w { s.wxOf w with untrain := some x.key }).endCmd x 0
        else (s.setWx w { s.wxOf w with untrain := some x.key }).setCmd { x with phase := .waiting }) := by
  show Host.Outcome.next (s.onTaken c 0x21 _) = _
  rw [State.onTaken_of_taken htaken]
  simp only [hnamed, hfree, Option.isSome_none, Bool.false_eq_true, if_false]

end

/-- Where no other waxing slot was changed, the changed one reads as it was set and every other as before. -/
theorem State.wxOf_of_setWx {s t : State} {w : Nat} {y : WaxingSlot} (h : t.wxs = (s.setWx w y).wxs) :
    t.wxOf w = y ∧ ∀ j, j ≠ w → t.wxOf j = s.wxOf j := by
  rw [State.wxOf_of_wxs h]
  exact ⟨(State.wxOf_setWx ..).trans (if_pos rfl), fun j hj => (State.wxOf_setWx ..).trans (if_neg hj)⟩

/-- Settles O38: a checked WAX_TRAIN is what `startTrain` leaves of the slot it takes, and the other two note their wish in the named slot. -/
theorem trainingCommands : Obligations.TrainingCommands := by
  unfold Obligations.TrainingCommands
  refine ⟨fun s s1 c x b htaken hpage hload => ⟨fun r => execWaxTrain_refused htaken hpage hload, fun hcheck => ?_⟩,
    fun s c x w htaken hnamed => ⟨fun hfree => ?_, execWaxUntrain_again htaken hnamed⟩, fun s c x w => execWaxStep_named,
    fun s c x hnamed => ⟨fun htaken => execWaxUntrain_unnamed htaken hnamed, fun htaken => execWaxStep_unnamed htaken hnamed⟩,
    fun s c x => execWaxTrain_qpm⟩
  · refine ⟨_, _, execWaxTrain_starts htaken hpage hload hcheck, rfl, ?_⟩
    obtain ⟨gen, slot, hslot⟩ := s1.wxOf_takeWaxing x.page (trainCfgOf b)
    cases hrec : (s1.takeWaxing x.page (trainCfgOf b)).2.trainRecord x.page (trainCfgOf b).wax with
    | some r =>
      obtain ⟨hwx, hended⟩ := State.startTrain_stored hrec
      rw [hwx, hslot]
      exact ⟨rfl, rfl, rfl, rfl, fun r' hr => ⟨rfl, congrArg trainForm (Option.some.inj hr), hended⟩, nofun⟩
    | none =>
      obtain ⟨hwx, hfetches⟩ := State.startTrain_fetches hrec
      rw [hwx, hslot]
      exact ⟨rfl, rfl, rfl, rfl, nofun, fun _ => ⟨rfl, hfetches⟩⟩
  · have hexec := execWaxUntrain_noted htaken hnamed hfree
    cases hordered : (s.seOf (s.wxOf w).owner).ordered with
    | true =>
      rw [hordered, if_pos rfl] at hexec
      obtain ⟨hnoted, hothers⟩ := State.wxOf_of_setWx
        (State.endCmd_recorded (s.setWx w { s.wxOf w with untrain := some x.key }) x 0 {}).wxs
      exact ⟨_, hexec, hnoted, hothers, fun _ => State.findCmd_endCmd .., nofun⟩
    | false =>
      rw [hordered, if_neg (by decide)] at hexec
      obtain ⟨hnoted, hothers⟩ := State.wxOf_of_setWx (t := (s.setWx w { s.wxOf w with untrain := some x.key }).setCmd { x with phase := .waiting })
        (Eq.refl _)
      exact ⟨_, hexec, hnoted, hothers, nofun, fun _ => ⟨rfl, State.findCmd_setCmd (State.findCmd_of_taken htaken) rfl⟩⟩

end Sys2Proof.Machine
end

section
/-!
PROOF. WAX_LOAD, WAX_REFRESH and WAX_EVICT (R141, R149, R151, R152, R154, R277, R400).
-/

namespace Sys2Proof.Machine

/-! ## WAX_LOAD -/

/-- The unanswered miss whose tag and generation a WAX_LOAD names (R149, R151). -/
def State.namedMiss (s : State) (x : Started) : Option Fetch :=
  s.wx.fetches.find? (fun f => f.tag == some (field x.ops 16 17 % 512, field x.ops 16 17 / 512) && f.st == .miss && f.load.isNone)

/-- The remote record a WAX_LOAD names (R149). -/
def Started.remote (x : Started) : Remote := ⟨field x.ops 18 18, field x.ops 24 31, BitVec.ofNat 32 (field x.ops 20 23), field x.ops 32 35⟩

/-- A miss answered by a WAX_LOAD waits to start, and the command for its end (R149). -/
def State.answerMiss (s : State) (x : Started) (f : Fetch) : State :=
  (s.setFetch { f with st := .waitStart, remote := some x.remote, load := some x.key }).setCmd { x with phase := .waiting }

section
variable {s : State} {c : CmdRef} {x : Started} (htaken : s.taken c 0x23 = some x)
include htaken

theorem execWaxLoad_unnamed (hfound : s.namedMiss x = none) : exec (.waxLoad c) s = .next ((s.bump pgWX 0x038 1).endCmd x 0) := by
  unfold State.namedMiss at hfound
  show Host.Outcome.next (s.onTaken c 0x23 _) = _
  rw [State.onTaken_of_taken htaken]
  simp only [hfound]

/-- The checks of a WAX_LOAD that names a miss: whose fetch it is, the port, its connection (R400; log entry 70). -/
theorem execWaxLoad_named {f : Fetch} (hfound : s.namedMiss x = some f) :
    exec (.waxLoad c) s =
      .next (if x.page < 32 && f.part ≠ x.page then s.refuseCmd x 0x0317
        else if 1 < field x.ops 18 18 then s.refuseCmd x 0x0259
        else if !(s.conn (field x.ops 18 18) 0).valid then s.refuseCmd x 0x0112
        else s.answerMiss x f) := by
  unfold State.namedMiss at hfound
  show Host.Outcome.next (s.onTaken c 0x23 _) = _
  rw [State.onTaken_of_taken htaken]
  simp only [hfound]
  rfl

end

/-! ## WAX_REFRESH -/

/-- Does a WAX_REFRESH call for a version that is not resident: any newer one, one above the newest, or any of a wax that is not resident (R152;
log entry 30)? -/
def State.refreshFetches (s : State) (p wax ver : Nat) : Prop :=
  s.newestSlot p wax = none ∨ ∃ n, s.newestSlot p wax = some n ∧ (ver = 0 ∨ (s.inf n).version < ver)

section
variable {s : State} {c : CmdRef} {x : Started} (htaken : s.taken c 0x24 = some x)
include htaken

theorem execWaxRefresh_qpm (hpage : 32 ≤ x.page) : exec (.waxRefresh c) s = .next (s.refuseCmd x 0x0259) := by
  show Host.Outcome.next (s.onTaken c 0x24 _) = _
  rw [State.onTaken_of_taken htaken]
  exact congrArg Host.Outcome.next (if_pos hpage)

variable (hpage : x.page < 32)
include hpage

theorem execWaxRefresh_trains (htrains : (s.waxingOf (field x.ops 16 21)).isSome = true) :
    exec (.waxRefresh c) s = .next (s.refuseCmd x 0x0327 { wax := field x.ops 16 21 }) := by
  show Host.Outcome.next (s.onTaken c 0x24 _) = _
  rw [State.onTaken_of_taken htaken]
  exact congrArg Host.Outcome.next ((if_neg (by omega)).trans (if_pos htrains))

variable (hidle : s.waxingOf (field x.ops 16 21) = none)
include hidle

theorem execWaxRefresh_current {n : Nat} (hnewest : s.newestSlot x.page (field x.ops 16 21) = some n) (hver : field x.ops 24 27 ≠ 0)
    (hle : field x.ops 24 27 ≤ (s.inf n).version) :
    exec (.waxRefresh c) s = .next (s.endCmd x 9 { result := slotResult n (s.inf n).gen (s.inf n).version }) := by
  show Host.Outcome.next (s.onTaken c 0x24 _) = _
  rw [State.onTaken_of_taken htaken]
  refine congrArg Host.Outcome.next ((if_neg (by omega)).trans ((if_neg (by simp [hidle])).trans ?_))
  simp only [hnewest]
  exact if_pos (by simp [hver, hle])

theorem execWaxRefresh_opens (hnew : s.refreshFetches x.page (field x.ops 16 21) (field x.ops 24 27)) :
    exec (.waxRefresh c) s =
      .next ((s.openFetch x.page (field x.ops 16 21) (field x.ops 24 27) .refresh (some x.key)).2.setCmd { x with phase := .waiting }) := by
  show Host.Outcome.next (s.onTaken c 0x24 _) = _
  rw [State.onTaken_of_taken htaken]
  refine congrArg Host.Outcome.next ((if_neg (by omega)).trans ((if_neg (by simp [hidle])).trans ?_))
  rcases hnew with hnone | ⟨n, hnewest, hver⟩
  · simp only [hnone]
  · simp only [hnewest]
    refine if_neg ?_
    simp only [ne_eq, Bool.and_eq_true, decide_eq_true_eq, not_and]
    omega

end

/-! ## WAX_EVICT -/

section
variable {s : State} {c : CmdRef} {x : Started} (htaken : s.taken c 0x25 = some x)
include htaken

theorem execWaxEvict_stale (hgen : (s.inf (field x.ops 16 17 % 8192)).gen ≠ field x.ops 18 19) :
    exec (.waxEvict c) s = .next (s.refuseCmd x 0x0319 { id := field x.ops 16 17 % 8192, idGen := field x.ops 18 19 }) := by
  show Host.Outcome.next (s.onTaken c 0x25 _) = _
  rw [State.onTaken_of_taken htaken]
  exact congrArg Host.Outcome.next (if_pos hgen)

/-- A slot named by its generation that holds a version: it must be the partition's own, and then it is marked (R141, R154). -/
theorem execWaxEvict_held (hgen : (s.inf (field x.ops 16 17 % 8192)).gen = field x.ops 18 19) (hst : (s.inf (field x.ops 16 17 % 8192)).st ≠ .free) :
    exec (.waxEvict c) s =
      .next (if x.page < 32 && (s.inf (field x.ops 16 17 % 8192)).owner ≠ x.page then
          s.refuseCmd x 0x0317 { id := field x.ops 16 17 % 8192, idGen := (s.inf (field x.ops 16 17 % 8192)).gen }
        else
          (s.setInf (field x.ops 16 17 % 8192) { s.inf (field x.ops 16 17 % 8192) with evictMark := true }).endCmd x
            (if s.referenced (field x.ops 16 17 % 8192) then 10 else 0)) := by
  show Host.Outcome.next (s.onTaken c 0x25 _) = _
  rw [State.onTaken_of_taken htaken]
  exact congrArg Host.Outcome.next ((if_neg (not_not.2 hgen)).trans (if_neg hst))

end

/-- Settles O39: each command is the chain of checks of its lemmas above, with the last arm where all pass. -/
theorem residencyCommands : Obligations.ResidencyCommands := by
  unfold Obligations.ResidencyCommands
  refine ⟨fun s c x htaken => ⟨execWaxLoad_unnamed htaken, fun f hfound hpage hpart => ?_, fun f hfound hown => ⟨fun hport => ?_,
    fun hport hconn => ?_, fun hport hconn => ?_⟩⟩, fun s c x htaken => ⟨execWaxRefresh_qpm htaken, execWaxRefresh_trains htaken,
    fun hpage hidle => ⟨fun n => execWaxRefresh_current htaken hpage hidle, fun hnew => ?_⟩⟩,
    fun s c x htaken => ⟨execWaxEvict_stale htaken, fun hgen hst => ⟨fun hpage howner => ?_, fun howner => ?_⟩⟩⟩
  · rw [execWaxLoad_named htaken hfound, if_pos (by simp [hpage, hpart])]
  · rw [execWaxLoad_named htaken hfound, if_neg (by simpa using hown), if_pos hport]
  · rw [execWaxLoad_named htaken hfound, if_neg (by simpa using hown), if_neg (by omega), if_pos (by simp [hconn])]
  · rw [execWaxLoad_named htaken hfound, if_neg (by simpa using hown), if_neg (by omega), if_neg (by simp [hconn])]
    rfl
  · exact ⟨_, _, execWaxRefresh_opens htaken hpage hidle hnew, rfl, rfl, rfl, rfl, rfl, rfl, rfl, rfl,
      State.findCmd_setCmd (State.findCmd_of_taken htaken) rfl⟩
  · rw [execWaxEvict_held htaken hgen hst, if_pos (by simp [hpage, howner])]
  · rw [execWaxEvict_held htaken hgen hst, if_neg (by simpa using howner)]

end Sys2Proof.Machine
end

section
/-!
PROOF. WAX_STORE and WAX_DELETE (R135, R136, R138, R156, R160, R319).
-/

namespace Sys2Proof.Machine

/-! ## Keys found in a sparse map -/

theorem AMap.find_of_ne {α : Type} {m : AMap α} {k : Nat} (h : ∀ e ∈ m, e.1 ≠ k) : AMap.find m k = none := by
  induction m with
  | nil => rfl
  | cons e m ih => exact (if_neg (h _ List.mem_cons_self)).trans (ih fun e' he' => h e' (List.mem_cons_of_mem _ he'))

theorem AMap.find_del_self {α : Type} (m : AMap α) (k : Nat) : AMap.find (AMap.del m k) k = none := AMap.find_of_ne AMap.del_ne

theorem AMap.find_del_ne {α : Type} {k j : Nat} (m : AMap α) (hj : j ≠ k) : AMap.find (AMap.del m k) j = AMap.find m j := by
  induction m with
  | nil => rfl
  | cons e m ih =>
    obtain ⟨k', v'⟩ := e
    by_cases hk : k' = k
    · have hskip : AMap.del ((k', v') :: m) k = AMap.del m k := by simp [AMap.del, hk]
      rw [hskip, ih]
      exact (if_neg (by omega)).symm
    · have hkeep : AMap.del ((k', v') :: m) k = (k', v') :: AMap.del m k := by simp [AMap.del, hk]
      rw [hkeep, AMap.find, AMap.find, ih]

/-- A new key is found with its value, every other as before. -/
theorem AMap.find_ins {α : Type} {k : Nat} (v : α) {m : AMap α} (hk : ∀ e ∈ m, e.1 ≠ k) (j : Nat) :
    AMap.find (AMap.ins k v m) j = if j = k then some v else AMap.find m j := by
  induction m with
  | nil => simp only [AMap.ins, AMap.find, eq_comm]
  | cons e m ih =>
    obtain ⟨k', v'⟩ := e
    have hne : k' ≠ k := hk _ List.mem_cons_self
    have hrest := ih fun e' he' => hk e' (List.mem_cons_of_mem _ he')
    unfold AMap.ins
    split
    · simp only [AMap.find, eq_comm]
    · simp only [AMap.find, hrest]
      by_cases hj : k' = j
      · rw [if_pos hj, if_neg (by omega), if_pos hj]
      · rw [if_neg hj, if_neg hj]

/-- A record put in place of an older one is found, and no other wax's record changes. -/
theorem AMap.find_replace {α : Type} (m : AMap α) (k : Nat) (v : α) :
    AMap.find (AMap.ins k v (AMap.del m k)) k = some v ∧ ∀ j, j ≠ k → AMap.find (AMap.ins k v (AMap.del m k)) j = AMap.find m j :=
  ⟨(AMap.find_ins v AMap.del_ne k).trans (if_pos rfl),
    fun j hj => (AMap.find_ins v AMap.del_ne j).trans ((if_neg hj).trans (AMap.find_del_ne m hj))⟩

/-! ## WAX_STORE -/

/-- The record put into the local store, in place of an older one, under this module's key handle, and the command ended (R156, R319). -/
def State.putRecord (s : State) (x : Started) (r : WaxRec) : State :=
  ((s.setWax { s.wx with store := AMap.ins r.desc.wax (s.rekey r) (AMap.del s.wx.store r.desc.wax) }).storeLow s.framesFree).endCmd x 0

theorem State.putRecord_recorded (s : State) (x : Started) (r : WaxRec) :
    Recorded (s.setWax { s.wx with store := AMap.ins r.desc.wax (s.rekey r) (AMap.del s.wx.store r.desc.wax) }) (s.putRecord x r) :=
  (State.storeLow_recorded ..).trans (State.endCmd_recorded ..)

section
variable {s s1 : State} {c : CmdRef} {x : Started} {b header : List Byte} {set : List PqRec}
variable (htaken : s.taken c 0x26 = some x) (hload : s.load x.who (field x.ops 16 23) (field x.ops 24 27) = .ok (b, s1))
include htaken hload

theorem execWaxStore_badRecord (hbad : ∃ r ∈ set, pqGood r = false) :
    exec (.waxStore c set header) s = .next (s1.refuseCmd x 0x0323 { wax := (setRec (s.lift.base.getD {}) header set).desc.wax }) := by
  show Host.Outcome.next (s.onTaken c 0x26 _) = _
  rw [State.onTaken_of_taken htaken]
  simp only [hload]
  exact congrArg Host.Outcome.next (if_pos (by simpa using hbad))

variable (hgood : ∀ r ∈ set, pqGood r = true)
include hgood

theorem execWaxStore_badSet {e : Nat}
    (hset : setCheck (s1.lift.base.getD {}) (setRec (s.lift.base.getD {}) header set).desc.wax set header = some e) :
    exec (.waxStore c set header) s = .next (s1.refuseCmd x e { wax := (setRec (s.lift.base.getD {}) header set).desc.wax }) := by
  show Host.Outcome.next (s.onTaken c 0x26 _) = _
  rw [State.onTaken_of_taken htaken]
  simp only [hload, hset]
  exact congrArg Host.Outcome.next (if_neg (by simpa using hgood))

variable (hset : setCheck (s1.lift.base.getD {}) (setRec (s.lift.base.getD {}) header set).desc.wax set header = none)
include hset

theorem execWaxStore_unfit {e : Nat} (hrec : s1.recCheck x.page (setRec (s.lift.base.getD {}) header set) = some e) :
    exec (.waxStore c set header) s = .next (s1.refuseCmd x e { wax := (setRec (s.lift.base.getD {}) header set).desc.wax }) := by
  show Host.Outcome.next (s.onTaken c 0x26 _) = _
  rw [State.onTaken_of_taken htaken]
  simp only [hload, hset, hrec]
  exact congrArg Host.Outcome.next (if_neg (by simpa using hgood))

/-- A record that passes every check is stored where a frame is free (R156). -/
theorem execWaxStore_fit (hrec : s1.recCheck x.page (setRec (s.lift.base.getD {}) header set) = none) :
    exec (.waxStore c set header) s =
      .next (if s1.framesFree = 0 then s1.refuseCmd x 0x0505 { wax := (setRec (s.lift.base.getD {}) header set).desc.wax }
        else s1.putRecord x (setRec (s.lift.base.getD {}) header set)) := by
  show Host.Outcome.next (s.onTaken c 0x26 _) = _
  rw [State.onTaken_of_taken htaken]
  simp only [hload, hset, hrec]
  exact congrArg Host.Outcome.next (if_neg (by simpa using hgood))

end

/-! ## WAX_DELETE -/

section
variable {s : State} {c : CmdRef} {x : Started} (htaken : s.taken c 0x27 = some x)
include htaken

theorem execWaxDelete_trains (htrains : (s.waxingOf (field x.ops 16 21)).isSome = true) :
    exec (.waxDelete c) s = .next (s.refuseCmd x 0x0327 { wax := field x.ops 16 21 }) := by
  show Host.Outcome.next (s.onTaken c 0x27 _) = _
  rw [State.onTaken_of_taken htaken]
  exact congrArg Host.Outcome.next (if_pos htrains)

theorem execWaxDelete_idle (hidle : s.waxingOf (field x.ops 16 21) = none) :
    exec (.waxDelete c) s = .next ((s.setWax { s.wx with store := AMap.del s.wx.store (field x.ops 16 21) }).endCmd x 0) := by
  show Host.Outcome.next (s.onTaken c 0x27 _) = _
  rw [State.onTaken_of_taken htaken]
  exact congrArg Host.Outcome.next (if_neg (by simp [hidle]))

end

/-- Settles O40: a set that passes is what `putRecord` leaves of the state the read left, and a deletion takes one key out of the store. -/
theorem storeAndDelete : Obligations.StoreAndDelete := by
  unfold Obligations.StoreAndDelete
  refine ⟨fun s s1 c x b header set htaken hload => ⟨execWaxStore_badRecord htaken hload, fun hgood =>
    ⟨fun e => execWaxStore_badSet htaken hload hgood, fun hset => ⟨fun e => execWaxStore_unfit htaken hload hgood hset,
      fun hrec hfull => ?_, fun hrec hfree => ?_⟩⟩⟩, fun s c x htaken => ⟨execWaxDelete_trains htaken, fun hidle => ?_⟩⟩
  · rw [execWaxStore_fit htaken hload hgood hset hrec, if_pos hfull]
  · have hexec := execWaxStore_fit htaken hload hgood hset hrec
    rw [if_neg (by omega)] at hexec
    have hput := s1.putRecord_recorded x (setRec (s.lift.base.getD {}) header set)
    have hread : Recorded s s1 := (State.load_near hload).recorded
    obtain ⟨hnew, hothers⟩ := AMap.find_replace s1.wx.store (setRec (s.lift.base.getD {}) header set).desc.wax
      (s1.rekey (setRec (s.lift.base.getD {}) header set))
    refine ⟨_, hexec, ?_, fun w hw => ?_, hput.infs.trans hread.infs, hput.wxs.trans hread.wxs, State.findCmd_endCmd ..⟩
    · rw [hput.wx]
      exact hnew
    · rw [hput.wx, ← hread.wx]
      exact hothers w hw
  · have hend := State.endCmd_recorded (s.setWax { s.wx with store := AMap.del s.wx.store (field x.ops 16 21) }) x 0 {}
    refine ⟨_, execWaxDelete_idle htaken hidle, ?_, fun w hw => ?_, hend.infs, State.findCmd_endCmd ..⟩
    · rw [hend.wx]
      exact AMap.find_del_self ..
    · rw [hend.wx]
      exact AMap.find_del_ne _ hw

end Sys2Proof.Machine
end

section
/-!
PROOF. WAX_EXPORT and OVERLAY_SET (R157 to R159, R161, R162, R317, R319, R396).
-/

namespace Sys2Proof.Machine

/-! ## The checks of WAX_EXPORT -/

/-- A wax of which the module holds no record is under no account (log entry 31). -/
theorem State.exportCheck_unheld {s : State} {x : Started} (h : s.exportAccount x (field x.ops 16 21) = none) : s.exportCheck x = some 0x0325 := by
  unfold State.exportCheck
  simp only [h]

theorem State.exportCheck_otherAccount {s : State} {x : Started} {a : Nat} (h : s.exportAccount x (field x.ops 16 21) = some a)
    (hpage : x.page < 32) (ha : a ∉ (s.pt x.page).cur.accts) : s.exportCheck x = some 0x0325 := by
  unfold State.exportCheck
  simp only [h]
  exact if_pos (by simp [hpage, ha])

/-! ## The records that leave -/

/-- The positions that a WAX_EXPORT selects, in order (R159). -/
def Started.exportPos (x : Started) (m : Manifest) (r : WaxRec) : List PqPos :=
  pqOrder m (waxVectors r) ((List.range (field x.ops 30 31 + 1 - field x.ops 28 29)).map (· + field x.ops 28 29))
    (fun k => (field x.ops 32 33).testBit k) ((List.range 6).filter (fun k => (field x.ops 34 34).testBit k)) ((field x.ops 34 34).testBit 6)

/-- The records a WAX_EXPORT makes of its wax, and the state with their nonces drawn (R157 to R159). -/
def State.exportRecs (s : State) (x : Started) (r : WaxRec) (key : BitVec 256) : List (List Byte) × State :=
  s.exportSet (s.lift.base.getD {}) r key (field x.ops 35 35) (field x.ops 24 27) (x.exportPos (s.lift.base.getD {}) r)

/-- One record for each position, and the manifest record (R160). -/
theorem State.length_exportRecs (s : State) (x : Started) (r : WaxRec) (key : BitVec 256) :
    (s.exportRecs x r key).1.length = (x.exportPos (s.lift.base.getD {}) r).length + 1 := by
  simp [State.exportRecs, State.exportSet]

/-- Beside the count of draws a WAX_EXPORT that runs changes its command only, which keeps the records (R159). -/
theorem State.setCmd_exportRecs {s : State} {x : Started} (r : WaxRec) (key : BitVec 256) (hx : s.findCmd x.key = some x) :
    let t := (s.exportRecs x r key).2.setCmd { x with phase := .running, data := (s.exportRecs x r key).1 }
    t = { s with freeCtr := t.freeCtr, started := t.started } ∧
      t.findCmd x.key = some { x with phase := .running, data := (s.exportRecs x r key).1 } :=
  ⟨rfl, State.findCmd_setCmd (s := (s.exportRecs x r key).2) hx rfl⟩

/-- A WAX_EXPORT runs to a port, and to a region that a placement entry grants; without one it is refused (R159, R396). -/
theorem State.exportStart_cases (s : State) (x : Started) (recs : List (List Byte)) (wax : Nat) :
    (field x.ops 36 36 = 1 ∨ s.exportEntry (partOfQp x.page) (field x.ops 40 47) recs.flatten.length = true →
      s.exportStart x recs wax = s.setCmd { x with phase := .running, data := recs }) ∧
    (field x.ops 36 36 ≠ 1 → s.exportEntry (partOfQp x.page) (field x.ops 40 47) recs.flatten.length = false →
      s.exportStart x recs wax = s.refuseCmd x 0x0342 { wax := wax }) := by
  refine ⟨fun hgranted => if_neg ?_, fun hnear hentry => if_pos (by rw [hentry]; simp [hnear])⟩
  rcases hgranted with hfar | hentry
  · simp [hfar]
  · rw [hentry]
    simp

/-! ## WAX_EXPORT -/

section
variable {s : State} {c : CmdRef} {x : Started} (htaken : s.taken c 0x28 = some x)
include htaken

theorem execWaxExport_refused {e : Nat} (hcheck : s.exportCheck x = some e) :
    exec (.waxExport c) s = .next (s.refuseCmd x e { wax := field x.ops 16 21 }) := by
  show Host.Outcome.next (s.onTaken c 0x28 _) = _
  rw [State.onTaken_of_taken htaken]
  simp only [hcheck]

variable {r : WaxRec} {full : Bool} (hcheck : s.exportCheck x = none)
variable (hsource : s.exportSource x (field x.ops 16 21) (field x.ops 24 27) = some (r, full))
variable (hparts : full = true ∨ field x.ops 34 34 = 1 ∨ field x.ops 34 34 = 0)
include hcheck hsource hparts

theorem execWaxExport_noKey (hkey : s.exportKey (field x.ops 35 35) (field x.ops 16 21) r.desc.account = none) :
    exec (.waxExport c) s = .next (s.refuseCmd x 0x011C { wax := field x.ops 16 21 }) := by
  show Host.Outcome.next (s.onTaken c 0x28 _) = _
  rw [State.onTaken_of_taken htaken]
  simp only [hcheck, hsource, hkey]
  exact congrArg Host.Outcome.next (if_neg (by rcases hparts with h | h | h <;> simp [h]))

/-- With its key a WAX_EXPORT starts, unless it is to leave over a port without a WAX connection (R400). -/
theorem execWaxExport_keyed {key : BitVec 256} (hkey : s.exportKey (field x.ops 35 35) (field x.ops 16 21) r.desc.account = some key) :
    exec (.waxExport c) s =
      .next (if field x.ops 36 36 = 1 && (decide (1 < field x.ops 37 37) || !(s.conn (field x.ops 37 37) 0).valid) then
          s.refuseCmd x 0x0112 { wax := field x.ops 16 21 }
        else (s.exportRecs x r key).2.exportStart x (s.exportRecs x r key).1 (field x.ops 16 21)) := by
  show Host.Outcome.next (s.onTaken c 0x28 _) = _
  rw [State.onTaken_of_taken htaken]
  simp only [hcheck, hsource, hkey]
  exact congrArg Host.Outcome.next (if_neg (by rcases hparts with h | h | h <;> simp [h]))

end

/-! ## OVERLAY_SET -/

/-- The entry that an OVERLAY_SET names changed, and the command ended (R161). -/
def State.putOverlay (s : State) (x : Started) (o : Overlay) : State :=
  (s.setWax { s.wx with overlay := AMap.put {} s.wx.overlay (field x.ops 16 17) o }).endCmd x 0

section
variable {s : State} {c : CmdRef} {x : Started} (htaken : s.taken c 0x29 = some x)
include htaken

theorem execOverlaySet_outside (hn : 4096 ≤ field x.ops 16 17) : exec (.overlaySet c) s = .next (s.refuseCmd x 0x0259) := by
  show Host.Outcome.next (s.onTaken c 0x29 _) = _
  rw [State.onTaken_of_taken htaken]
  exact congrArg Host.Outcome.next (if_pos hn)

variable (hn : field x.ops 16 17 < 4096)
include hn

theorem execOverlaySet_other (hpage : x.page < 32) (hvalid : (AMap.get {} s.wx.overlay (field x.ops 16 17)).valid = true)
    (hpart : (AMap.get {} s.wx.overlay (field x.ops 16 17)).part ≠ x.page) : exec (.overlaySet c) s = .next (s.refuseCmd x 0x0317) := by
  show Host.Outcome.next (s.onTaken c 0x29 _) = _
  rw [State.onTaken_of_taken htaken]
  exact congrArg Host.Outcome.next ((if_neg (by omega)).trans (if_pos (by simp [hpage, hvalid, hpart])))

variable (hown : x.page < 32 → (AMap.get {} s.wx.overlay (field x.ops 16 17)).valid = true →
  (AMap.get {} s.wx.overlay (field x.ops 16 17)).part = x.page)
include hown

theorem execOverlaySet_clears (hvalid : (field x.ops 18 18).testBit 0 = false) : exec (.overlaySet c) s = .next (s.putOverlay x {}) := by
  show Host.Outcome.next (s.onTaken c 0x29 _) = _
  rw [State.onTaken_of_taken htaken]
  exact congrArg Host.Outcome.next ((if_neg (by omega)).trans ((if_neg (by simpa using hown)).trans (if_pos (by rw [hvalid]; rfl))))

variable (hvalid : (field x.ops 18 18).testBit 0 = true)
include hvalid

theorem execOverlaySet_refused {e : Nat}
    (hcheck : s.overlayCheck (field x.ops 16 17) (s.overlayPart x) (field x.ops 24 31) (field x.ops 20 21) (field x.ops 32 39) = some e) :
    exec (.overlaySet c) s = .next (s.refuseCmd x e) := by
  show Host.Outcome.next (s.onTaken c 0x29 _) = _
  rw [State.onTaken_of_taken htaken]
  refine congrArg Host.Outcome.next ((if_neg (by omega)).trans ((if_neg (by simpa using hown)).trans ((if_neg (by rw [hvalid]; decide)).trans ?_)))
  simp only [hcheck]

theorem execOverlaySet_sets
    (hcheck : s.overlayCheck (field x.ops 16 17) (s.overlayPart x) (field x.ops 24 31) (field x.ops 20 21) (field x.ops 32 39) = none) :
    exec (.overlaySet c) s =
      .next (s.putOverlay x { part := s.overlayPart x, valid := true, base := field x.ops 24 31, units := field x.ops 20 21,
                              repl := field x.ops 32 39 }) := by
  show Host.Outcome.next (s.onTaken c 0x29 _) = _
  rw [State.onTaken_of_taken htaken]
  refine congrArg Host.Outcome.next ((if_neg (by omega)).trans ((if_neg (by simpa using hown)).trans ((if_neg (by rw [hvalid]; decide)).trans ?_)))
  simp only [hcheck]
  rfl

end

/-- Settles O41: with its key a WAX_EXPORT is what `exportStart` leaves, and an entry that may be changed what `putOverlay` leaves. -/
theorem exportAndOverlay : Obligations.ExportAndOverlay := by
  unfold Obligations.ExportAndOverlay
  refine ⟨fun s c x htaken => ⟨fun e => execWaxExport_refused htaken, State.exportCheck_unheld, fun a => State.exportCheck_otherAccount,
    fun r full hcheck hsource hparts => ⟨execWaxExport_noKey htaken hcheck hsource hparts, fun key hkey => ?_⟩⟩,
    fun s c x htaken => ⟨execOverlaySet_outside htaken, execOverlaySet_other htaken, fun hn hown => ⟨execOverlaySet_clears htaken hn hown,
      fun hvalid => ⟨fun e => execOverlaySet_refused htaken hn hown hvalid, execOverlaySet_sets htaken hn hown hvalid⟩⟩⟩⟩
  intro ps e runs
  have hexec := execWaxExport_keyed htaken hcheck hsource hparts hkey
  obtain ⟨hstarts, hungranted⟩ := (s.exportRecs x r key).2.exportStart_cases x (s.exportRecs x r key).1 (field x.ops 16 21)
  have hruns : exec (.waxExport c) s = .next ((s.exportRecs x r key).2.setCmd { x with phase := .running, data := (s.exportRecs x r key).1 }) → runs := by
    intro hrun
    obtain ⟨hframe, hfound⟩ := State.setCmd_exportRecs r key (State.findCmd_of_taken htaken)
    exact ⟨_, hrun, hframe, hfound, s.length_exportRecs x r key⟩
  refine ⟨fun hnear hentry => hruns ?_, fun hnear hentry => ?_, fun hfar hport hconn => hruns ?_, fun hfar hclosed => ?_⟩
  · rw [hexec, if_neg (by simp [hnear]), hstarts (.inr hentry)]
  · rw [hexec, if_neg (by simp [hnear]), hungranted (by omega) hentry]
    rfl
  · rw [hexec, if_neg (by simp [hconn, hport]), hstarts (.inl hfar)]
  · rw [hexec, if_pos (by simpa [hfar] using hclosed)]

end Sys2Proof.Machine
end

section
/-!
PROOF. The operations that the stages of a fetch share: a free member chosen, an inference slot taken, a fetch off the list (R148, R150, R151).
-/

namespace Sys2Proof.Machine

/-! ## A free member chosen -/

/-- Of one candidate more than there are used members, one is unused (log entry 3). -/
theorem State.pickFree_unused {s : State} {total : Nat} {used : List Nat} (h : used.length < total) :
    (s.pickFree total used).1 < total ∧ (s.pickFree total used).1 ∉ used := by
  unfold State.pickFree
  extract_lets r cand
  have hdistinct : cand.Nodup := List.nodup_range.map_on fun i hi j hj hij => by
    rw [List.mem_range] at hi hj
    exact (Nat.ModEq.add_left_cancel' r.1 hij).eq_of_lt_of_lt (by omega) (by omega)
  have hunused : ∃ n ∈ cand, n ∉ used := by
    by_contra hall
    have hle := (hdistinct.subperm fun n hn => by_contra fun hout => hall ⟨n, hn, hout⟩).length_le
    simp only [cand, List.length_map, List.length_range] at hle
    omega
  cases hfind : cand.find? (fun f => !used.contains f) with
  | none =>
    obtain ⟨n, hn, hout⟩ := hunused
    exact absurd (List.find?_eq_none.1 hfind n hn) (by simpa using hout)
  | some n =>
    obtain ⟨i, -, rfl⟩ := List.mem_map.1 (List.mem_of_find?_eq_some hfind)
    exact ⟨Nat.mod_lt _ (by omega), by simpa using List.find?_some hfind⟩

/-- Below its partition's quota a fetch takes a slot that is free, and no slot is evicted (R148). -/
theorem State.takeInf_room {s : State} {p : Nat} (hquota : (s.infOf p).length < (s.pt p).cur.inf)
    (hroom : (s.infs.filter (fun e => e.2.st ≠ .free)).length < 8192) :
    ∃ n, s.takeInf p = (some n, s.setFreeCtr (s.freeCtr + 1)) ∧ n < 8192 ∧ (s.inf n).st = .free := by
  obtain ⟨hlt, hunused⟩ := State.pickFree_unused (s := s) (used := (s.infs.filter (fun e => e.2.st ≠ .free)).map (·.1)) (by simpa using hroom)
  refine ⟨_, if_pos hquota, hlt, by_contra fun hheld => hunused ?_⟩
  have hlisted := AMap.get_mem fun hdefault => hheld (congrArg InfSlot.st hdefault)
  exact List.mem_map.2 ⟨_, List.mem_filter.2 ⟨hlisted, decide_eq_true hheld⟩, rfl⟩

/-! ## Records and reads of a fetch -/

theorem Recorded.parks {s t : State} (h : Recorded s t) : t.parks = s.parks := by rw [h]

theorem Recorded.slots {s t : State} (h : Recorded s t) : t.slots = s.slots := by rw [h]

theorem Recorded.foldl {α : Type} {f : State → α → State} (hf : ∀ s x, Recorded s (f s x)) (l : List α) (s : State) :
    Recorded s (l.foldl f s) := by
  induction l generalizing s with
  | nil => exact .rfl
  | cons x l ih => exact (hf s x).trans (ih (f s x))

theorem State.endByKey_recorded (s : State) (k : Nat × Nat × Nat × Nat) (status : Nat) (i : EndInfo) : Recorded s (s.endByKey k status i) := by
  unfold State.endByKey
  split
  · exact State.endCmd_recorded ..
  · exact .rfl

theorem State.endFetchCmds_recorded (s : State) (f : Fetch) (status : Nat) (i : EndInfo) : Recorded s (s.endFetchCmds f status i) := by
  unfold State.endFetchCmds
  extract_lets s1
  have h1 : Recorded s s1 := by
    simp only [s1]
    split
    · exact State.endByKey_recorded ..
    · exact .rfl
  split
  · exact h1.trans (State.endByKey_recorded ..)
  · exact h1

theorem State.askRemote_recorded (s : State) (f : Fetch) : Recorded s (s.askRemote f) := by
  unfold State.askRemote
  split
  · exact Eq.refl _
  · exact .rfl

theorem State.out_askRemote {s : State} {f : Fetch} {r : Remote} (h : f.remote = some r) :
    (s.askRemote f).out.head? = some (.rdmaRead r.port r.raddr r.rkey r.bytes) := by
  unfold State.askRemote
  simp only [h]
  rfl

/-! ## A fetch off the list -/

theorem State.freeTag_setWax (s : State) (f : Fetch) : s.freeTag f = s.setWax (s.freeTag f).wx ∧ (s.freeTag f).wx.fetches = s.wx.fetches := by
  unfold State.freeTag
  split <;> exact ⟨rfl, rfl⟩

/-- Beside the wax engine's own lists a fetch taken off writes the records of its audit only. -/
theorem State.dropFetch_recorded (s : State) (f : Fetch) : Recorded (s.setWax (s.dropFetch f).wx) (s.dropFetch f) := by
  unfold State.dropFetch
  extract_lets s1 held
  have haudit := State.auditFetch_recorded (s1.setWax { s1.wx with fetches := s1.wx.fetches.filter (fun x => x.id ≠ f.id), inUse := s1.wx.inUse - held })
  rw [haudit.wx]
  have htag : s1 = s.setWax s1.wx := (s.freeTag_setWax f).1
  rw [htag] at haudit ⊢
  exact haudit

theorem State.fetches_dropFetch (s : State) (f : Fetch) : (s.dropFetch f).wx.fetches = s.wx.fetches.filter (fun g => g.id ≠ f.id) := by
  unfold State.dropFetch
  extract_lets s1 held
  rw [(State.auditFetch_recorded _).wx, ← (s.freeTag_setWax f).2]
  rfl

/-- The fetch's tag index comes free under its next generation (R151). -/
theorem State.tagGen_dropFetch {s : State} {f : Fetch} {i gen : Nat} (h : f.tag = some (i, gen)) : (s.dropFetch f).tagGen i = tagGenStep gen := by
  unfold State.dropFetch
  extract_lets s1 held
  have htag : s1.wx.tagGen = AMap.put 1 s.wx.tagGen i (tagGenStep gen) := by
    simp only [s1, State.freeTag, h]
    rfl
  unfold State.tagGen
  rw [(State.auditFetch_recorded _).wx]
  show AMap.get 1 s1.wx.tagGen i = _
  rw [htag, AMap.get_put_self]

theorem State.dropFetch_keeps (s : State) (f : Fetch) :
    (s.dropFetch f).infs = s.infs ∧ (s.dropFetch f).parks = s.parks ∧ (s.dropFetch f).slots = s.slots := by
  have h := s.dropFetch_recorded f
  exact ⟨h.infs, h.parks, h.slots⟩

end Sys2Proof.Machine
end

section
/-!
PROOF. The stages of a fetch, saves, reloads and hold budgets (R147 to R155, R160, R165, R170, R185, R217).
-/

namespace Sys2Proof.Machine

/-! ## Tag and lookup -/

theorem State.drainMisses_of_none {s : State} (h : ∀ g ∈ s.wx.fetches, g.st ≠ .missHeld) : s.drainMisses = s := by
  unfold State.drainMisses
  rw [List.filter_eq_nil_iff.2 fun g hg => by simpa using h g hg]
  rfl

/-- The next fetch in rotation takes an unused tag index under the index's generation (R151). -/
theorem execFetchTagAcquired_takes {s : State} {f : Fetch} (hheld : ∀ g ∈ s.wx.fetches, g.st ≠ .missHeld) (henabled : s.enabled pgWX = true)
    (hfree : (s.wx.fetches.filterMap (fun g => g.tag.map (·.1))).length < 512)
    (hnext : s.nextFetch s.wx.rotTag (fun g => g.st == .waitTag) = some f) :
    let i := (s.pickFree 512 (s.wx.fetches.filterMap (fun g => g.tag.map (·.1)))).1
    let g := { f with tag := some (i, s.tagGen i) }
    exec .fetchTagAcquired s =
      .next ((((s.setFreeCtr (s.freeCtr + 1)).setWax { s.wx with rotTag := (f.part + 1) % 32 }).setFetch g).lookup g) := by
  refine congrArg Host.Outcome.next ?_
  rw [State.drainMisses_of_none hheld]
  refine (if_neg (by simpa [henabled] using hfree)).trans ?_
  simp only [hnext]
  rfl

/-! ## Misses -/

theorem execMissTimeout_missed {s : State} {tag : Fin 512} {f : Fetch}
    (hfound : s.wx.fetches.find? (fun g => g.tag.map (·.1) == some tag.val && g.st == .miss) = some f) (hrun : f.left = none) :
    exec (.missTimeout tag) s = .next (if f.since + (s.frc pgWX 0x044).toNat ≤ s.nowUs then s.failFetch f 0x0116 else s) := by
  refine congrArg Host.Outcome.next ?_
  simp only [hfound, hrun, Option.isNone_none, Bool.true_and, decide_eq_true_eq]

/-! ## A fetch that fails -/

/-- The slot a fetch had taken comes free. -/
def State.giveSlot (s : State) (f : Fetch) : State := match f.slot with | some n => s.freeInf n | none => s

/-- The park entries that wait on a fetch leave the queue, each with its error record (R150). -/
def State.failParks (s : State) (f : Fetch) (reason : Nat) : State :=
  (s.parks.filter (fun k => k.fetch == some f.id)).foldl (fun (s : State) k => s.report k.part (joinFail s.nowUs reason k))
    (s.setParks (s.parks.filter (fun k => k.fetch ≠ some f.id)))

theorem State.giveSlot_frame (s : State) (f : Fetch) : s.giveSlot f = { s with hearths := (s.giveSlot f).hearths, infs := (s.giveSlot f).infs } := by
  unfold State.giveSlot
  split <;> rfl

theorem State.inf_giveSlot {s : State} {f : Fetch} {n : Nat} (h : f.slot = some n) : (s.giveSlot f).inf n = { gen := genStep (s.inf n).gen } := by
  unfold State.giveSlot
  simp only [h]
  exact (State.inf_setInf ..).trans (if_pos rfl)

theorem State.failParks_recorded (s : State) (f : Fetch) (reason : Nat) :
    Recorded (s.setParks (s.parks.filter (fun k => k.fetch ≠ some f.id))) (s.failParks f reason) :=
  .foldl (fun _ _ => State.report_recorded ..) ..

/-- Where no waxing slot waits for it, a failed fetch is one whose slot, park entries and place in the list are given back (R149, R150). -/
theorem State.failFetch_recorded {s : State} {f : Fetch} (reason : Nat) (hkind : f.kind ≠ .train) :
    Recorded (((s.giveSlot f).failParks f reason).dropFetch f) (s.failFetch f reason) := by
  show Recorded _ ((((((s.giveSlot f).failParks f reason).dropFetch f).cancelTrain f).raise pgWX 1).endFetchCmds f 1 _)
  rw [show ∀ t : State, t.cancelTrain f = t from fun t => if_neg (by simpa using hkind)]
  exact (State.raise_recorded ..).trans (State.endFetchCmds_recorded ..)

theorem State.failFetch_fields {s : State} {f : Fetch} (reason : Nat) (hkind : f.kind ≠ .train) :
    (s.failFetch f reason).wx.fetches = s.wx.fetches.filter (fun g => g.id ≠ f.id) ∧
      (s.failFetch f reason).parks = s.parks.filter (fun k => k.fetch ≠ some f.id) ∧
      (s.failFetch f reason).infs = (s.giveSlot f).infs ∧ (s.failFetch f reason).slots = s.slots := by
  have hfail := s.failFetch_recorded reason hkind
  obtain ⟨hinfs, hparks, hslots⟩ := ((s.giveSlot f).failParks f reason).dropFetch_keeps f
  have hpark := (s.giveSlot f).failParks_recorded f reason
  have hgive := s.giveSlot_frame f
  refine ⟨?_, ?_, hfail.infs.trans (hinfs.trans hpark.infs), ?_⟩
  · rw [hfail.wx, State.fetches_dropFetch, hpark.wx, hgive]
    rfl
  · rw [hfail.parks, hparks, hpark.parks, hgive]
    rfl
  · rw [hfail.slots, hslots, hpark.slots, hgive]
    rfl

/-! ## A fetch that starts -/

/-- The next fetch in rotation in transfer: a slot chosen for it fills, and it holds a credit (R148). -/
def State.beginTransfer (s : State) (f : Fetch) (n : Nat) : State :=
  let s1 := (s.setWax { s.wx with rotStart := (f.part + 1) % 32 }).setFreeCtr (s.freeCtr + 1)
  let s2 := (s1.setInf n { gen := (s1.inf n).gen, st := .filling, owner := f.part, wax := f.wax }).setFetch { f with st := .transfer, slot := some n }
  s2.setWax { s2.wx with inUse := s2.wx.inUse + 1 }

theorem State.beginTransfer_fields (s : State) (f : Fetch) (n : Nat) :
    (s.beginTransfer f n).infs = (s.setInf n { gen := (s.inf n).gen, st := .filling, owner := f.part, wax := f.wax }).infs ∧
      (s.beginTransfer f n).wx.fetches = s.wx.fetches.map (fun g => if g.id = f.id then { f with st := .transfer, slot := some n } else g) ∧
      (s.beginTransfer f n).wx.inUse = s.wx.inUse + 1 ∧ (s.beginTransfer f n).wxs = s.wxs := by
  refine ⟨rfl, rfl, rfl, ?_⟩
  simp [State.beginTransfer, State.setFetch, State.mapFetches]

theorem execFetchStart_noCredit {s : State} (hcredits : fld (s.frc pgWX 0x040) 9 0 ≤ s.wx.inUse) : exec .fetchStart s = .next s :=
  congrArg Host.Outcome.next (if_pos (by simp [hcredits]))

/-- With a credit and a slot free the next fetch in rotation is in transfer, audited, and its record asked for (R148, R149). -/
theorem execFetchStart_starts {s : State} {f : Fetch} (henabled : s.enabled pgWX = true) (hcredits : s.wx.inUse < fld (s.frc pgWX 0x040) 9 0)
    (hnext : s.nextFetch s.wx.rotStart (fun g => s.canStart g) = some f) (hquota : (s.infOf f.part).length < (s.pt f.part).cur.inf)
    (hroom : (s.infs.filter (fun e => e.2.st ≠ .free)).length < 8192) :
    ∃ n, n < 8192 ∧ (s.inf n).st = .free ∧
      exec .fetchStart s = .next (((s.beginTransfer f n).auditFetch).askRemote f) := by
  obtain ⟨n, htake, hn, hst⟩ := State.takeInf_room (s := s.setWax { s.wx with rotStart := (f.part + 1) % 32 }) hquota hroom
  refine ⟨n, hn, hst, congrArg Host.Outcome.next ?_⟩
  refine (if_neg (by simp [henabled, hcredits])).trans ?_
  simp only [hnext, htake]
  rfl

/-! ## What arrives -/

/-- The fetch that a completion names holds its tag index under its generation (R151). -/
theorem State.tag_of_named {s : State} {i gen : Nat} {f : Fetch}
    (h : s.wx.fetches.find? (fun g => g.tag == some (i, gen) && g.st == .transfer) = some f) : f.tag = some (i, gen) := by
  have hnamed := List.find?_some (p := fun g : Fetch => g.tag == some (i, gen) && g.st == .transfer) h
  obtain ⟨htag, -⟩ := Bool.and_eq_true_iff.1 hnamed
  exact eq_of_beq htag

theorem execFetchTransferDone_unnamed {s : State} {tag : Fin 512} {gen : Nat} (a : Arrival)
    (h : s.wx.fetches.find? (fun g => g.tag == some (tag.val, gen) && g.st == .transfer) = none) :
    exec (.fetchTransferDone tag gen a) s = .next (s.bump pgWX 0x038 1) := by
  refine congrArg Host.Outcome.next ?_
  simp only [h]

theorem execFetchTransferDone_named {s : State} {tag : Fin 512} {gen : Nat} {f : Fetch} (a : Arrival)
    (h : s.wx.fetches.find? (fun g => g.tag == some (tag.val, gen) && g.st == .transfer) = some f) :
    exec (.fetchTransferDone tag gen a) s = .next (s.arrive f a) := by
  refine congrArg Host.Outcome.next ?_
  simp only [h]

section
variable {s : State} {f : Fetch} {set : List PqRec} {header : List Byte}
variable (hremote : f.remote.isSome = true) (hgood : ∀ r ∈ set, pqGood r = true)
include hremote hgood

theorem State.arrive_badSet {e : Nat} (hset : setCheck (s.lift.base.getD {}) f.wax set header = some e) :
    s.arrive f (.remote set header) = s.failFetch f e := by
  refine (if_neg (by simpa [Option.isSome_iff_ne_none] using hremote)).trans ((if_neg (by simpa using hgood)).trans ?_)
  simp only [hset]

variable (hset : setCheck (s.lift.base.getD {}) f.wax set header = none)
include hset

/-- A record of another version than the one asked for is not the record of the fetch (R149). -/
theorem State.arrive_otherVersion (hver : f.version ≠ 0) (hother : (setRec (s.lift.base.getD {}) header set).desc.version ≠ f.version) :
    s.arrive f (.remote set header) = s.failFetch f 0x0323 := by
  refine (if_neg (by simpa [Option.isSome_iff_ne_none] using hremote)).trans ((if_neg (by simpa using hgood)).trans ?_)
  simp only [hset]
  exact if_pos (Bool.and_eq_true_iff.2 ⟨decide_eq_true hver, decide_eq_true hother⟩)

theorem State.arrive_fit (hver : f.version = 0 ∨ (setRec (s.lift.base.getD {}) header set).desc.version = f.version)
    (hrec : s.recCheck f.part (setRec (s.lift.base.getD {}) header set) = none) :
    s.arrive f (.remote set header) = s.landFetch f (setRec (s.lift.base.getD {}) header set) := by
  refine (if_neg (by simpa [Option.isSome_iff_ne_none] using hremote)).trans ((if_neg (by simpa using hgood)).trans ?_)
  simp only [hset, hrec]
  refine if_neg fun hboth => ?_
  obtain ⟨hask, hother⟩ := Bool.and_eq_true_iff.1 hboth
  exact hver.elim (by simpa using hask) (by simpa using hother)

end

section
variable {s : State} {f : Fetch} {r : WaxRec} (hlocal : f.remote = none) (hfound : AMap.find s.wx.store f.wax = some r)
include hlocal hfound

theorem State.arrive_unfitStored {e : Nat} (hrec : s.recCheck f.part r = some e) : s.arrive f .stored = s.failFetch f e := by
  refine (if_neg (by simp [hlocal])).trans ?_
  simp only [hfound, hrec]

theorem State.arrive_fitStored (hrec : s.recCheck f.part r = none) : s.arrive f .stored = s.landFetch f r := by
  refine (if_neg (by simp [hlocal])).trans ?_
  simp only [hfound, hrec]

end

/-! ## A record that lands -/

/-- Where no other inference slot was changed, the changed one reads as it was set and every other as before. -/
theorem State.inf_of_setInf {s t : State} {n : Nat} {y : InfSlot} (h : t.infs = (s.setInf n y).infs) :
    t.inf n = y ∧ ∀ j, j ≠ n → t.inf j = s.inf j := by
  rw [State.inf_of_infs h]
  exact ⟨(State.inf_setInf ..).trans (if_pos rfl), fun j hj => (State.inf_setInf ..).trans (if_neg hj)⟩

theorem State.newestVersion_of_infs {s t : State} (h : t.infs = s.infs) (p wax : Nat) : t.newestVersion p wax = s.newestVersion p wax := by
  unfold State.newestVersion State.newestSlot State.inf
  rw [h]

/-- The state with a first-use record in its slot, and the park entries that waited for it free to be admitted (R142, R147). -/
def State.landedFirst (s : State) (f : Fetch) (n : Nat) (r : WaxRec) : State :=
  ((s.bump pgWX 0x020 1).landSlot f n r).mapParks (fun k => if k.fetch = some f.id then { k with fetch := none } else k)

theorem State.landFetch_first {s : State} {f : Fetch} {n : Nat} (r : WaxRec) (hkind : f.kind = .first) (hlocal : f.remote = none)
    (hslot : f.slot = some n) : s.landFetch f r = ((s.landedFirst f n (s.rekey r)).dropFetch f).endFetchCmds f 0 {} := by
  unfold State.landFetch
  simp only [hkind, hlocal, hslot]
  rfl

/-- A version above the newest fills the slot: VALID at once where the wax was not resident, else at the boundary (R142, R147). -/
theorem State.infs_landedFirst {s : State} {f : Fetch} {n : Nat} {r : WaxRec} (hkind : f.kind = .first)
    (hnew : s.newestVersion f.part f.wax < r.desc.version) :
    (s.landedFirst f n r).infs =
      (s.setInf n { gen := (s.inf n).gen, st := if s.newestVersion f.part f.wax = 0 then .valid else .landed, owner := f.part, wax := f.wax,
                    version := r.desc.version, rcd := infForm r, lastStride := (s.seOf f.part).num }).infs := by
  have hbump := s.bump_frame pgWX 0x020 1
  have hversion := State.newestVersion_of_infs (s := s) (t := s.bump pgWX 0x020 1) (by rw [hbump]) f.part f.wax
  show ((s.bump pgWX 0x020 1).landSlot f n r).infs = _
  unfold State.landSlot
  rw [hversion, if_neg (Nat.not_le.2 hnew), hkind, hbump]
  by_cases hzero : s.newestVersion f.part f.wax = 0
  · rw [hzero]
    rfl
  · rw [if_neg hzero, if_pos (by simpa using hzero)]
    rfl

/-- A transfer that brought a first-use record above the newest version leaves the slot with it, no fetch, and the tag index free under its next
generation (R142, R147, R151). -/
theorem State.landFetch_first_fields {s : State} {f : Fetch} {n i gen : Nat} {r : WaxRec} (hkind : f.kind = .first) (hlocal : f.remote = none)
    (hslot : f.slot = some n) (htag : f.tag = some (i, gen)) (hnew : s.newestVersion f.part f.wax < (s.rekey r).desc.version) :
    (s.landFetch f r).infs =
        (s.setInf n { gen := (s.inf n).gen, st := if s.newestVersion f.part f.wax = 0 then .valid else .landed, owner := f.part, wax := f.wax,
                      version := (s.rekey r).desc.version, rcd := infForm (s.rekey r), lastStride := (s.seOf f.part).num }).infs ∧
      (∀ g ∈ (s.landFetch f r).wx.fetches, g.id ≠ f.id) ∧ (s.landFetch f r).tagGen i = tagGenStep gen := by
  rw [State.landFetch_first r hkind hlocal hslot]
  have hend := State.endFetchCmds_recorded ((s.landedFirst f n (s.rekey r)).dropFetch f) f 0 {}
  obtain ⟨hinfs, -, -⟩ := (s.landedFirst f n (s.rekey r)).dropFetch_keeps f
  refine ⟨hend.infs.trans (hinfs.trans (State.infs_landedFirst hkind hnew)), fun g hg => ?_, ?_⟩
  · rw [hend.wx, State.fetches_dropFetch] at hg
    simpa using (List.mem_filter.1 hg).2
  · unfold State.tagGen
    rw [hend.wx]
    exact State.tagGen_dropFetch htag

/-! ## Saves and reloads -/

/-- The saves left when a begun save of a wax is over: others may begin (R155). -/
def State.savesLeft (s : State) (wax : Nat) : List Save := startSaves (s.wx.saves.filter (fun x => !(x.wax == wax && x.begun)))

/-- The saved record in the store in place of the older one, and its wax no longer dirty at that version (R155). -/
def State.switchRecord (s : State) (wax : Nat) (v : Save) : State :=
  (s.setWax { s.wx with saves := s.savesLeft wax, store := AMap.ins wax v.rcd (AMap.del s.wx.store wax)
                        reservedFrames := s.wx.reservedFrames.filter (· ≠ wax) }).mapWxs
    (fun x => if x.used && x.wax = wax && x.rcd.desc.version = v.rcd.desc.version then { x with dirty := false } else x)

section
variable {s : State} {wax : Nat} {v : Save} (hfound : s.wx.saves.find? (fun x => x.wax == wax && x.begun) = some v)
include hfound

theorem execWaxSaveDone_saved : exec (.waxSaveDone wax true) s = .next ((s.switchRecord wax v).storeLow s.framesFree) := by
  refine congrArg Host.Outcome.next ?_
  simp only [hfound]
  rfl

/-- A save that fails keeps the older record, with the event of the wax engine's page (R155, R165). -/
theorem execWaxSaveDone_failed :
    exec (.waxSaveDone wax false) s = .next ((s.setWax { s.wx with saves := s.savesLeft wax }).raise pgWX 4) := by
  refine congrArg Host.Outcome.next ?_
  simp only [hfound]
  rfl

end

section
variable {s : State} {slot : Nat} (hused : (s.wxOf slot).used = true) (hwaits : (s.wxOf slot).ready = false)
  (hheld : (s.wxOf slot).rcd.desc.wax ≠ 0)
include hused hwaits hheld

theorem execWaxReloadDone_loaded {r : WaxRec} (hfound : AMap.find s.wx.store (s.wxOf slot).wax = some r) :
    exec (.waxReloadDone slot true) s = .next (s.setWx slot { s.wxOf slot with ready := true, rcd := trainForm r }) := by
  refine congrArg Host.Outcome.next ((if_neg (by simp [hused, hwaits, hheld])).trans ?_)
  simp only [hfound, Option.filter_some, if_true]

/-- A reload that fails ends the training at the next wrap (R217). -/
theorem execWaxReloadDone_failed :
    exec (.waxReloadDone slot false) s =
      .next (s.setWx slot { s.wxOf slot with untrain := some ((s.wxOf slot).untrain.getD (33, 0, 0, 0)) }) := by
  refine congrArg Host.Outcome.next ((if_neg (by simp [hused, hwaits, hheld])).trans ?_)
  rw [show (AMap.find s.wx.store (s.wxOf slot).wax).filter (fun _ => false) = none by simp]

end

/-! ## Hold budgets -/

theorem execHoldBudgetExpiry_runs {s : State} {n : Nat} (hst : (s.hold n).st = .held ∨ (s.hold n).st = .grouped) (hrun : (s.hold n).left = none)
    (hfree : (s.seOf (s.hold n).owner).ordered = false) :
    exec (.holdBudgetExpiry n) s =
      .next (if (s.hold n).since + (s.frc (pgSE (s.hold n).owner) 0x0F4).toNat * 1000 ≤ s.nowUs then s.setHold n { s.hold n with expired := true }
        else s) := by
  refine congrArg Host.Outcome.next ?_
  simp only [hrun, hfree, Option.isNone_none, Bool.not_false, Bool.and_true, Bool.and_eq_true, Bool.or_eq_true, decide_eq_true_eq, hst, true_and]

/-! ## The stages together -/

/-- Settles O47: each stage is what its lemmas above say, and beside the fields they name only records and audits are written. -/
theorem fetchStages : Obligations.FetchStages := by
  unfold Obligations.FetchStages
  refine ⟨fun s f hheld henabled hfree hnext => ?_, fun s f tag hfound hrun => ⟨fun hearly => ?_, fun hlate => ?_⟩,
    fun s f reason hkind => ?_, fun s f henabled hcredits hnext hquota hroom => ?_, fun s _ => execFetchStart_noCredit,
    fun s tag gen a => execFetchTransferDone_unnamed a, fun s tag gen f hfound => ?_, fun s wax v hfound => ⟨?_, ?_⟩,
    fun s slot hused hwaits hheld => ⟨fun r => execWaxReloadDone_loaded hused hwaits hheld, ?_⟩,
    fun s n hst hrun hfree => ⟨fun hearly => ?_, fun hlate => ?_⟩⟩
  · obtain ⟨hlt, hunused⟩ := State.pickFree_unused (s := s) hfree
    exact ⟨_, hlt, fun g hg htag => hunused (List.mem_filterMap.2 ⟨g, hg, htag⟩), execFetchTagAcquired_takes hheld henabled hfree hnext⟩
  · rw [execMissTimeout_missed hfound hrun, if_neg (by omega)]
  · rw [execMissTimeout_missed hfound hrun, if_pos hlate]
  · obtain ⟨hfetches, hparks, hinfs, hslots⟩ := State.failFetch_fields (s := s) reason hkind
    intro t
    rw [hfetches, hparks]
    refine ⟨fun g hg => by simpa using (List.mem_filter.1 hg).2, fun g hg hne => List.mem_filter.2 ⟨hg, by simpa using hne⟩,
      fun k hk => by simpa using (List.mem_filter.1 hk).2, fun k hk hne => List.mem_filter.2 ⟨hk, by simpa using hne⟩, fun n hn => ?_, hslots⟩
    rw [State.inf_of_infs hinfs, State.inf_giveSlot hn]
  · obtain ⟨n, hn, hst, hexec⟩ := execFetchStart_starts henabled hcredits hnext hquota hroom
    have hrec := (s.beginTransfer f n).auditFetch_recorded.trans ((s.beginTransfer f n).auditFetch.askRemote_recorded f)
    obtain ⟨hinfs, hfetches, hcredit, hwxs⟩ := s.beginTransfer_fields f n
    obtain ⟨hslot, hothers⟩ := State.inf_of_setInf (hrec.infs.trans hinfs)
    refine ⟨_, n, hexec, hn, hst, hslot, hothers, ?_, ?_, hrec.wxs.trans hwxs, fun r => State.out_askRemote⟩
    · rw [hrec.wx, hfetches]
    · rw [hrec.wx, hcredit]
  · have htag := State.tag_of_named hfound
    have hexec : ∀ a, exec (.fetchTransferDone tag gen a) s = .next (s.arrive f a) := fun a => execFetchTransferDone_named a hfound
    refine ⟨fun hfirst => ?_, fun hsecond => ?_, fun hremote => ?_, fun set header hremote hgood => ?_, fun r e hlocal hstored hrec => ?_,
      fun r n hlocal hkind hstored hrec hslot hnew => ?_⟩
    · exact (hexec _).trans (congrArg Host.Outcome.next (if_neg (by simp [hfirst])))
    · exact (hexec _).trans (congrArg Host.Outcome.next (if_pos hsecond))
    · exact (hexec _).trans (congrArg Host.Outcome.next (if_pos hremote))
    · intro m rcd
      refine ⟨fun e hset => ?_, fun hset hver hother => ?_, fun hset hver hrec => ?_⟩
      · rw [hexec, State.arrive_badSet hremote hgood hset]
      · rw [hexec, State.arrive_otherVersion hremote hgood hset hver hother]
      · rw [hexec, State.arrive_fit hremote hgood hset hver hrec]
    · rw [hexec, State.arrive_unfitStored hlocal hstored hrec]
    · obtain ⟨hinfs, hfetches, hgen⟩ := State.landFetch_first_fields (r := r) hkind hlocal hslot htag hnew
      obtain ⟨hlanded, hothers⟩ := State.inf_of_setInf hinfs
      refine ⟨_, (hexec _).trans (congrArg Host.Outcome.next (State.arrive_fitStored hlocal hstored hrec)), ?_⟩
      rw [hlanded]
      exact ⟨rfl, rfl, rfl, rfl, rfl, hothers, hfetches, hgen⟩
  · have hlow := (s.switchRecord wax v).storeLow_recorded s.framesFree
    obtain ⟨hnew, hothers⟩ := AMap.find_replace s.wx.store wax v.rcd
    refine ⟨_, execWaxSaveDone_saved hfound, ?_⟩
    rw [hlow.wx]
    exact ⟨hnew, hothers, hlow.infs, rfl⟩
  · have hraise := (s.setWax { s.wx with saves := s.savesLeft wax }).raise_recorded pgWX 4
    refine ⟨_, execWaxSaveDone_failed hfound, ?_, hraise.wxs, ?_⟩
    · rw [hraise.wx]
      rfl
    · rw [State.hdr_raise, if_pos rfl]
      simp
  · obtain ⟨hnoted, hothers⟩ := State.wxOf_of_setWx
      (t := s.setWx slot { s.wxOf slot with untrain := some ((s.wxOf slot).untrain.getD (33, 0, 0, 0)) }) (Eq.refl _)
    refine ⟨_, execWaxReloadDone_failed hused hwaits hheld, ?_⟩
    rw [hnoted]
    exact ⟨rfl, hwaits, hothers, rfl⟩
  · rw [execHoldBudgetExpiry_runs hst hrun hfree, if_neg (by omega)]
  · rw [execHoldBudgetExpiry_runs hst hrun hfree, if_pos hlate]

end Sys2Proof.Machine
end

section
/-!
PROOF. REWARD and GROUP_CLOSE (R168, R170 to R172).
-/

namespace Sys2Proof.Machine

/-! ## A request at the boundary -/

/-- A taken command that asks for something at the boundary of a partition (R101): the request joins the end of the partition's list, late where the
boundary has begun, the command waits for it, and nothing else changes. -/
theorem State.addRequest_waits {s : State} {c : CmdRef} {op : Nat} {x : Started} (htaken : s.taken c op = some x) (p : Nat) (k : ReqKind)
    (target gen : Nat) :
    let t := s.addRequest p x k target gen
    t = { s with se := t.se, started := t.started } ∧
      (t.seOf p).reqs =
        (s.seOf p).reqs ++ [{ kind := k, target := target, gen := gen, cmd := x.key, late := decide ((s.seOf p).st = .boundary) }] ∧
      (∀ q, q ≠ p → t.seOf q = s.seOf q) ∧ t.findCmd x.key = some { x with phase := .waiting } := by
  refine ⟨rfl, ?_, fun q hq => (State.seOf_setSe ..).trans (if_neg hq), State.findCmd_setCmd (State.findCmd_of_taken htaken) rfl⟩
  exact congrArg Se.reqs ((State.seOf_setSe ..).trans (if_pos rfl))

/-! ## REWARD -/

/-- What a REWARD carries to the boundary (R170). -/
def Started.rewardKind (x : Started) : ReqKind :=
  .reward (BitVec.ofNat 32 (field x.ops 20 23)) (BitVec.ofNat 32 (field x.ops 24 27)) ((field x.ops 28 28).testBit 0)

/-- The hold entry that a REWARD names (R170). -/
def Started.rewardEntry (x : Started) : Nat := field x.ops 16 17 % 2 ^ 14

/-- The partition whose boundary a REWARD waits for: its own, and from QPM that of the entry it names (as log entry 78 has it for slots). -/
def State.rewardPart (s : State) (x : Started) : Nat := if x.page < 32 then x.page else (s.hold x.rewardEntry).owner

section
variable {s : State} {c : CmdRef} {x : Started} (htaken : s.taken c 0x14 = some x)
include htaken

theorem execReward_waits (hnamed : x.page < 32 ∨ (s.hold x.rewardEntry).st ≠ .free) :
    exec (.reward c) s = .next (s.addRequest (s.rewardPart x) x x.rewardKind x.rewardEntry (field x.ops 18 19)) := by
  show Host.Outcome.next (s.onTaken c 0x14 _) = _
  rw [State.onTaken_of_taken htaken]
  unfold State.rewardPart
  by_cases hpage : x.page < 32
  · rw [if_pos hpage, if_pos hpage]
    rfl
  · have hused : (s.hold x.rewardEntry).st ≠ .free := hnamed.resolve_left hpage
    rw [if_neg hpage, if_neg hpage]
    exact congrArg Host.Outcome.next (if_neg hused)

/-- From QPM an entry that is FREE has no partition to go to (R170). -/
theorem execReward_free (hpage : 32 ≤ x.page) (hfree : (s.hold x.rewardEntry).st = .free) :
    exec (.reward c) s = .next (s.refuseCmd x (if (s.hold x.rewardEntry).gen ≠ field x.ops 18 19 then 0x0315 else 0x0316)
      { id := x.rewardEntry, idGen := field x.ops 18 19, wax := (s.hold x.rewardEntry).wax }) := by
  show Host.Outcome.next (s.onTaken c 0x14 _) = _
  rw [State.onTaken_of_taken htaken, if_neg (by omega)]
  exact congrArg Host.Outcome.next (if_pos hfree)

end

/-! ## GROUP_CLOSE -/

section
variable {s : State} {c : CmdRef} {x : Started} (htaken : s.taken c 0x15 = some x)
include htaken

theorem execGroupClose_waits (hpage : x.page < 32) :
    exec (.groupClose c) s = .next (s.addRequest x.page x (.groupClose (field x.ops 16 21) (field x.ops 24 31)) 0 0) := by
  show Host.Outcome.next (s.onTaken c 0x15 _) = _
  rw [State.onTaken_of_taken htaken, if_neg (by omega)]

/-- A command from QPM has no partition to act for (log entry 26). -/
theorem execGroupClose_qpm (hpage : 32 ≤ x.page) : exec (.groupClose c) s = .next (s.refuseCmd x 0x0259) := by
  show Host.Outcome.next (s.onTaken c 0x15 _) = _
  rw [State.onTaken_of_taken htaken, if_pos hpage]

end

/-- Settles O37: each of the two is what `addRequest` leaves, or a refusal. -/
theorem trainingRequests : Obligations.TrainingRequests := by
  unfold Obligations.TrainingRequests
  intro s c x
  refine ⟨fun htaken => ⟨fun hnamed => ?_, execReward_free htaken⟩, fun htaken => ⟨fun hpage => ?_, execGroupClose_qpm htaken⟩⟩
  · exact ⟨_, execReward_waits htaken hnamed,
      State.addRequest_waits htaken (s.rewardPart x) x.rewardKind x.rewardEntry (field x.ops 18 19)⟩
  · exact ⟨_, execGroupClose_waits htaken hpage, State.addRequest_waits htaken x.page (.groupClose (field x.ops 16 21) (field x.ops 24 31)) 0 0⟩

end Sys2Proof.Machine
end

section
/-!
PROOF. Two-phase commit of a replicated step (R187, R236, R237, R246, R249 to R252, R348).
-/

namespace Sys2Proof.Machine

/-! ## Open steps and their coordinator -/

theorem Recorded.fab {s t : State} (h : Recorded s t) : t.fab = s.fab := by rw [h]

theorem State.internalRec_recorded (s : State) (p status reason : Nat) : Recorded s (s.internalRec p status reason) := State.complete_recorded ..

/-- The step found is of the group and the number that were asked for. -/
theorem State.findCommit_named {s : State} {group step : Nat} {c : Commit} (h : s.findCommit group step = some c) :
    c.group = group ∧ c.step = step := by
  simpa using List.find?_some h

/-- The coordinator is found from the peer table alone (R249). -/
theorem State.coordinator_of_peers {s t : State} (h : t.fab.peers = s.fab.peers) (g : Group) : t.coordinator g = s.coordinator g := by
  unfold State.coordinator State.rankAlive State.peer
  rw [h]

/-! ## The coordinator's decision (R249 step 3) -/

section
variable {s : State} {c : Commit} {g : Group} (hgroup : s.groupOf c.group = some g)
include hgroup

/-- A member that is not the coordinator decides nothing. -/
theorem State.decide_member (hother : s.coordinator g ≠ g.rank) : s.decide_ c = s := by
  unfold State.decide_
  simp only [hgroup]
  exact if_pos hother

variable (hself : s.coordinator g = g.rank)
include hself

/-- A digest other than its own has the coordinator abandon the step. -/
theorem State.decide_abandons {p : Nat × BitVec 256} (hp : p ∈ c.prepared) (hdigest : p.2 ≠ c.digest) :
    s.decide_ c = (s.emit (.outcome c.group c.step false)).setOutcome c false := by
  unfold State.decide_
  simp only [hgroup]
  rw [if_neg (not_not.2 hself)]
  exact if_pos (List.any_eq_true.2 ⟨p, hp, decide_eq_true hdigest⟩)

variable (hsame : ∀ p ∈ c.prepared, p.2 = c.digest)
include hsame

/-- With one digest throughout the decision waits for the ranks alone. -/
theorem State.decide_of_one_digest :
    s.decide_ c = if (List.range g.size).all (fun r => c.prepared.any (fun p => p.1 == r)) then
      (s.emit (.outcome c.group c.step true)).setOutcome c true else s := by
  unfold State.decide_
  simp only [hgroup]
  rw [if_neg (not_not.2 hself)]
  exact if_neg (by simpa using fun a b => hsame (a, b))

theorem State.decide_commits (hall : ∀ r, r < g.size → c.prepared.any (fun p => p.1 == r) = true) :
    s.decide_ c = (s.emit (.outcome c.group c.step true)).setOutcome c true := by
  rw [State.decide_of_one_digest hgroup hself hsame, if_pos (List.all_eq_true.2 fun r hr => hall r (List.mem_range.1 hr))]

theorem State.decide_waits {r : Nat} (hr : r < g.size) (hmissing : c.prepared.any (fun p => p.1 == r) = false) : s.decide_ c = s := by
  rw [State.decide_of_one_digest hgroup hself hsame, if_neg fun hall => ?_]
  rw [List.all_eq_true.1 hall r (List.mem_range.2 hr)] at hmissing
  exact absurd hmissing (by decide)

end

/-! ## CL_REDUCE (R187, R249 steps 1 and 2) -/

/-- What a CL_REDUCE that is due comes to: its record and the step abandoned, or the step prepared (R187, R237, R246, R249, R252). -/
def State.reduceDue (s : State) (p w group gen step : Nat) (b : Bank) (inputs : List BankIn) : State :=
  if s.fab.quarantined then s.reduceRefused p w 1 0x032A
  else if step ≠ (s.wxOf w).rcd.step.step + 1 then s.internalRec p 1 0x0701
  else
    match s.groupAt group gen with
    | none => s.reduceRefused p w 7 0x032B
    | some g =>
      if g.digest ≠ Config.sha256 (cfgBytes (s.wxOf w).cfg) then s.reduceRefused p w 1 0x024A
      else if (s.lostMember g).isSome then s.reduceRefused p w 6 0
      else if inputs.length ≠ g.size then s
      else s.prepareStep p w g step b inputs

/-- It is due where the closed bank of the wax waits for a step that is open here without an outcome and not yet prepared. -/
theorem execClReduce_due {s : State} {p : PartId} {wax w : Nat} {b : Bank} (gen step : Nat) (inputs : List BankIn)
    (hwaxing : s.waxingIn p.val wax = some w) (hflight : (s.wxOf w).flight = some b) (hopen : (s.wxOf w).stepOpen = true)
    (hundecided : (s.wxOf w).outcome = none) (henabled : s.enabled pgCL = true)
    (hunprepared : s.fab.commits.any (fun c => c.part == p.val && c.wax == wax) = false) :
    exec (.clReduce p wax (s.wxOf w).cfg.replicaGroup gen step inputs) s =
      .next (s.reduceDue p.val w (s.wxOf w).cfg.replicaGroup gen step b inputs) := by
  show execClReduce .. = _
  unfold execClReduce
  simp only [hwaxing, hflight]
  exact congrArg Host.Outcome.next (if_neg (by simp [hopen, hundecided, henabled, hunprepared]))

section
variable {s : State} {p w group gen step : Nat} {b : Bank} {inputs : List BankIn}

theorem State.reduceDue_quarantined (hquar : s.fab.quarantined = true) :
    s.reduceDue p w group gen step b inputs = s.reduceRefused p w 1 0x032A := if_pos hquar

variable (hquar : s.fab.quarantined = false)
include hquar

theorem State.reduceDue_otherStep (hstep : step ≠ (s.wxOf w).rcd.step.step + 1) :
    s.reduceDue p w group gen step b inputs = s.internalRec p 1 0x0701 := by
  unfold State.reduceDue
  rw [hquar, if_neg (by decide), if_pos hstep]

variable (hstep : step = (s.wxOf w).rcd.step.step + 1)
include hstep

theorem State.reduceDue_noGroup (hgroup : s.groupAt group gen = none) :
    s.reduceDue p w group gen step b inputs = s.reduceRefused p w 7 0x032B := by
  unfold State.reduceDue
  rw [hquar, if_neg (by decide), if_neg (not_not.2 hstep), hgroup]

variable {g : Group} (hgroup : s.groupAt group gen = some g)
include hgroup

theorem State.reduceDue_otherDigest (hdigest : g.digest ≠ Config.sha256 (cfgBytes (s.wxOf w).cfg)) :
    s.reduceDue p w group gen step b inputs = s.reduceRefused p w 1 0x024A := by
  unfold State.reduceDue
  rw [hquar, if_neg (by decide), if_neg (not_not.2 hstep), hgroup]
  exact if_pos hdigest

variable (hdigest : g.digest = Config.sha256 (cfgBytes (s.wxOf w).cfg))
include hdigest

theorem State.reduceDue_lost (hlost : (s.lostMember g).isSome = true) :
    s.reduceDue p w group gen step b inputs = s.reduceRefused p w 6 0 := by
  unfold State.reduceDue
  rw [hquar, if_neg (by decide), if_neg (not_not.2 hstep), hgroup]
  exact (if_neg (not_not.2 hdigest)).trans (if_pos hlost)

theorem State.reduceDue_prepares (hlost : s.lostMember g = none) (hsize : inputs.length = g.size) :
    s.reduceDue p w group gen step b inputs = s.prepareStep p w g step b inputs := by
  unfold State.reduceDue
  rw [hquar, if_neg (by decide), if_neg (not_not.2 hstep), hgroup]
  exact (if_neg (not_not.2 hdigest)).trans ((if_neg (by simp [hlost])).trans (if_neg (not_not.2 hsize)))

end

/-- The bank that a reduction over a group leaves here (R247, R249 step 1; log entry 45). -/
def State.reducedBank (s : State) (g : Group) (b : Bank) (ins : List BankIn) : Bank :=
  reduceBanks (waxValues (s.lift.base.getD {}) + (s.lift.base.getD {}).clipCapacity) g.size (ins.set g.rank (bankIn b))

/-- The step as this rank opens it: prepared here with the digest of a bank. -/
def State.ownCommit (s : State) (p w : Nat) (g : Group) (step : Nat) (r : Bank) : Commit :=
  let d := bankDigest (waxValues (s.lift.base.getD {}) + (s.lift.base.getD {}).clipCapacity) r
  { group := g.id, gen := g.gen, wax := (s.wxOf w).wax, part := p, step := step, digest := d, since := s.nowUs, prepared := [(g.rank, d)] }

/-- The reduced bank in flight and the step open, before the coordinator looks at it. -/
def State.openStep (s : State) (w : Nat) (r : Bank) (c : Commit) : State :=
  let t := (s.setWx w { s.wxOf w with flight := some r }).bump pgCL 0x020 1
  (t.setFab { t.fab with commits := t.fab.commits ++ [c] }).emit (.prepared c.group c.step c.digest)

theorem State.prepareStep_opens (s : State) (p w : Nat) (g : Group) (step : Nat) (b : Bank) (ins : List BankIn) :
    s.prepareStep p w g step b ins =
      (s.openStep w (s.reducedBank g b ins) (s.ownCommit p w g step (s.reducedBank g b ins))).decide_
        (s.ownCommit p w g step (s.reducedBank g b ins)) := rfl

/-- Opening a step puts the reduced bank in flight, adds the step to the open ones and says PREPARED. -/
theorem State.openStep_fields (s : State) (w : Nat) (r : Bank) (c : Commit) :
    (s.openStep w r c).wxs = (s.setWx w { s.wxOf w with flight := some r }).wxs ∧
      (s.openStep w r c).fab = { s.fab with commits := s.fab.commits ++ [c] } ∧
      (s.openStep w r c).out = .prepared c.group c.step c.digest :: s.out := by
  unfold State.openStep
  rw [State.bump_frame]
  exact ⟨rfl, rfl, rfl⟩

/-- Just opened, a step is not decided: this rank alone is prepared, and a group of two or more has another. -/
theorem State.prepareStep_undecided {s : State} {g : Group} (p w step : Nat) (b : Bank) (ins : List BankIn)
    (hwaits : s.coordinator g ≠ g.rank ∨ 2 ≤ g.size) (hgroup : s.groupOf g.id = some g) :
    s.prepareStep p w g step b ins = s.openStep w (s.reducedBank g b ins) (s.ownCommit p w g step (s.reducedBank g b ins)) := by
  rw [State.prepareStep_opens]
  set r := s.reducedBank g b ins
  set c := s.ownCommit p w g step r
  obtain ⟨-, hfab, -⟩ := s.openStep_fields w r c
  have hentry : (s.openStep w r c).groupOf c.group = some g := by
    unfold State.groupOf
    rw [hfab]
    exact hgroup
  have hcoord : (s.openStep w r c).coordinator g = s.coordinator g := State.coordinator_of_peers (by rw [hfab]) g
  by_cases hself : s.coordinator g = g.rank
  · have hsize : 2 ≤ g.size := hwaits.resolve_left (not_not.2 hself)
    have hown : ∀ q ∈ c.prepared, q.2 = c.digest := fun q hq => congrArg Prod.snd (List.mem_singleton.1 hq)
    obtain ⟨r', hlt, hne⟩ : ∃ r', r' < g.size ∧ g.rank ≠ r' := ⟨if g.rank = 0 then 1 else 0, by split <;> omega, by split <;> omega⟩
    exact State.decide_waits hentry (hcoord.trans hself) hown hlt (by simp [c, State.ownCommit, hne])
  · exact State.decide_member hentry (by rwa [hcoord])

/-! ## PREPARED, outcomes and questions (R249, R250) -/

/-- The step with one more rank prepared. -/
def Commit.addPrepared (c : Commit) (rank : Nat) (digest : BitVec 256) : Commit := { c with prepared := c.prepared ++ [(rank, digest)] }

theorem execPreparedReceived_unknown {s : State} {group step : Nat} (rank : Nat) (digest : BitVec 256) (hfound : s.findCommit group step = none) :
    exec (.preparedReceived group step rank digest) s = .next (s.bump pgCL 0x038 1) := by
  show execPreparedReceived .. = _
  unfold execPreparedReceived
  simp only [hfound]

/-- A rank of the group that was not prepared yet is, and the coordinator looks at the step. -/
theorem execPreparedReceived_new {s : State} {group step rank : Nat} {c : Commit} {g : Group} (digest : BitVec 256)
    (hfound : s.findCommit group step = some c) (hgroup : s.groupOf group = some g) (hrank : rank < g.size) (hother : rank ≠ g.rank)
    (halive : s.rankAlive g rank = true) (hnew : c.prepared.any (fun p => p.1 == rank) = false) :
    exec (.preparedReceived group step rank digest) s =
      .next ((s.setCommit (c.addPrepared rank digest)).decide_ (c.addPrepared rank digest)) := by
  show execPreparedReceived .. = _
  unfold execPreparedReceived
  simp only [hfound, hgroup]
  refine congrArg Host.Outcome.next (if_neg ?_)
  rw [hnew]
  simp [hother, halive, hrank]

theorem execOutcomeReceived_open {s : State} {group step : Nat} {c : Commit} (commit : Bool) (hfound : s.findCommit group step = some c) :
    exec (.outcomeReceived group step commit) s = .next ((s.emit (.outcomeAck group step)).setOutcome c commit) := by
  show execOutcomeReceived .. = _
  unfold execOutcomeReceived
  simp only [hfound]

theorem execOutcomeReceived_unknown {s : State} {group step : Nat} (commit : Bool) (hfound : s.findCommit group step = none) :
    exec (.outcomeReceived group step commit) s = .next (s.bump pgCL 0x038 1) := by
  show execOutcomeReceived .. = _
  unfold execOutcomeReceived
  simp only [hfound]

/-- A group's waiting entry changes no step and no outcome (R251). -/
theorem State.applyNext_steps (s : State) (id : Nat) :
    (s.applyNext id).fab.commits = s.fab.commits ∧ (s.applyNext id).fab.outcomes = s.fab.outcomes := by
  have hput : ∀ g : Group, (s.putGroup g).fab.commits = s.fab.commits ∧ (s.putGroup g).fab.outcomes = s.fab.outcomes := fun g => by
    unfold State.putGroup
    rw [(State.storeTry_near ..).recorded.fab]
    exact ⟨rfl, rfl⟩
  unfold State.applyNext
  split
  · split
    · split
      · exact ⟨rfl, rfl⟩
      · exact hput _
    · exact ⟨rfl, rfl⟩
  · exact ⟨rfl, rfl⟩

/-- An outcome takes its step out of the open ones and joins the outcomes known here (R249, R250). -/
theorem State.setOutcome_closes (s : State) (c : Commit) (commit : Bool) :
    (s.setOutcome c commit).fab.commits = s.fab.commits.filter (fun x => !(x.group == c.group && x.step == c.step && x.part == c.part)) ∧
      (s.setOutcome c commit).fab.outcomes = s.fab.outcomes ++ [(c.group, c.step, commit)] := by
  unfold State.setOutcome
  extract_lets _ s1 s2 s3
  have h2 : s2.fab = s1.fab := by
    unfold s2
    split
    · exact (apply_ite State.fab ..).trans (ite_self _)
    · rfl
  have hcounted : Recorded s2 s3 := .ite (State.bump_recorded ..) ((State.bump_recorded ..).trans (State.raise_recorded ..))
  have hfab : (s3.internalRec c.part (if commit then 0 else 7) 0).fab = s1.fab :=
    ((hcounted.trans (State.internalRec_recorded ..)).fab).trans h2
  obtain ⟨hcommits, houtcomes⟩ := (s3.internalRec c.part (if commit then 0 else 7) 0).applyNext_steps c.group
  rw [hcommits, houtcomes, hfab]
  exact ⟨rfl, rfl⟩

section
variable {s : State} {group step : Nat} {c : Commit} {g : Group} (hfound : s.findCommit group step = some c) (hgroup : s.groupOf group = some g)
include hfound hgroup

theorem execCommitTimeout_early (hearly : s.nowUs < c.since + (s.frc pgCL 0x048).toNat) : exec (.commitTimeout group step) s = .next s := by
  show execCommitTimeout .. = _
  unfold execCommitTimeout
  simp only [hfound, hgroup]
  exact congrArg Host.Outcome.next (if_pos hearly)

/-- Once COMMIT_US has passed the coordinator abandons, a member that asked in vain with the coordinator gone does too (log entry 46), and any other
asks. -/
theorem execCommitTimeout_due (hdue : c.since + (s.frc pgCL 0x048).toNat ≤ s.nowUs) :
    exec (.commitTimeout group step) s =
      .next (if s.coordinator g = g.rank && !c.coordDead then (s.emit (.outcome group step false)).setOutcome c false
        else if c.asked && c.coordDead then s.setOutcome c false
        else (s.setCommit { c with asked := true }).emit (.outcomeQuery group step)) := by
  show execCommitTimeout .. = _
  unfold execCommitTimeout
  simp only [hfound, hgroup]
  exact congrArg Host.Outcome.next (if_neg (by omega))

end

/-- A question is answered from the outcomes known here, else by whether the step is open (R250). -/
theorem State.answerFor_cases (s : State) (group step : Nat) :
    (∃ b, (group, step, b) ∈ s.fab.outcomes ∧ s.answerFor group step = some b) ∨
      ((∀ b, (group, step, b) ∉ s.fab.outcomes) ∧
        s.answerFor group step = if (s.findCommit group step).isSome then none else some false) := by
  unfold State.answerFor
  cases hknown : s.fab.outcomes.find? (fun o => o.1 == group && o.2.1 == step) with
  | some o =>
    obtain ⟨og, os, ob⟩ := o
    obtain ⟨rfl, rfl⟩ : og = group ∧ os = step := by simpa using List.find?_some hknown
    exact .inl ⟨ob, List.mem_of_find?_eq_some hknown, rfl⟩
  | none => exact .inr ⟨fun b hb => by simpa using List.find?_eq_none.1 hknown _ hb, rfl⟩

/-! ## The steps together -/

/-- Settles O46: a due CL_REDUCE by its checks, a PREPARED by the coordinator's decision, and the rest by whether the step is open here. -/
theorem commitSteps : Obligations.CommitSteps := by
  unfold Obligations.CommitSteps
  refine ⟨fun s p wax gen step w g b inputs hwaxing hflight hopen hundecided henabled hunprepared => ?_,
    fun s group step rank digest => ⟨execPreparedReceived_unknown rank digest, fun c g hfound hgroup hrank hother halive hnew => ?_⟩,
    fun s group step commit => ⟨fun c => execOutcomeReceived_open commit, execOutcomeReceived_unknown commit⟩,
    fun s c commit => ?_, fun s group step c g hfound hgroup => ⟨execCommitTimeout_early hfound hgroup, fun hdue => ?_⟩,
    fun s group step rank => ⟨s.answerFor group step, rfl, ?_⟩⟩
  · intro group
    rw [execClReduce_due gen step inputs hwaxing hflight hopen hundecided henabled hunprepared]
    refine ⟨fun hquar => congrArg _ (State.reduceDue_quarantined hquar), fun hquar hstep => congrArg _ (State.reduceDue_otherStep hquar hstep),
      fun hquar hstep => ⟨fun hgroup => congrArg _ (State.reduceDue_noGroup hquar hstep hgroup),
        fun hgroup hdigest => congrArg _ (State.reduceDue_otherDigest hquar hstep hgroup hdigest), fun hgroup hdigest =>
        ⟨fun hlost => congrArg _ (State.reduceDue_lost hquar hstep hgroup hdigest hlost), fun hlost hsize hwaits hentry => ?_⟩⟩⟩
    have hprepared := (State.reduceDue_prepares (b := b) hquar hstep hgroup hdigest hlost hsize).trans
      (State.prepareStep_undecided p.val w step b inputs hwaits hentry)
    obtain ⟨hwxs, hfab, hout⟩ := s.openStep_fields w (s.reducedBank g b inputs) (s.ownCommit p.val w g step (s.reducedBank g b inputs))
    obtain ⟨hwx, hothers⟩ := State.wxOf_of_setWx hwxs
    exact ⟨_, congrArg _ hprepared, hwx, hothers, hout, congrArg Fabric.commits hfab⟩
  · intro c1
    obtain ⟨rfl, rfl⟩ := State.findCommit_named hfound
    have hexec := execPreparedReceived_new digest hfound hgroup hrank hother halive hnew
    have hentry : (s.setCommit c1).groupOf c1.group = some g := hgroup
    have hcoord : (s.setCommit c1).coordinator g = s.coordinator g := State.coordinator_of_peers rfl g
    have hlast : (rank, digest) ∈ c1.prepared := List.mem_append_right _ List.mem_cons_self
    refine ⟨fun hmember => ?_, fun hself => ⟨fun hdigest => ?_, fun hsame => ⟨fun hall => ?_, fun ⟨r, hr, hmissing⟩ => ?_⟩⟩⟩
    · exact hexec.trans (congrArg _ (State.decide_member hentry fun hself => hmember (hcoord.symm.trans hself)))
    · exact hexec.trans (congrArg _ (State.decide_abandons hentry (hcoord.trans hself) hlast hdigest))
    · exact hexec.trans (congrArg _ (State.decide_commits hentry (hcoord.trans hself) hsame hall))
    · exact hexec.trans (congrArg _ (State.decide_waits hentry (hcoord.trans hself) hsame hr hmissing))
  · obtain ⟨hcommits, houtcomes⟩ := s.setOutcome_closes c commit
    exact ⟨by simp [hcommits], houtcomes⟩
  · rw [execCommitTimeout_due hfound hgroup hdue]
    refine ⟨fun halive hself => ?_, fun halive hmember => ?_, fun hdead hasked => ?_, fun hdead hasked => ?_⟩
    · rw [if_pos (by simp [halive, hself])]
    · rw [if_neg (by simp [hmember]), if_neg (by simp [halive])]
    · rw [if_neg (by simp [hdead]), if_pos (by simp [hdead, hasked])]
    · rw [if_neg (by simp [hdead]), if_neg (by simp [hasked])]
  · refine (s.answerFor_cases group step).imp_right fun ⟨hunknown, hanswer⟩ => ⟨hunknown, ?_⟩
    rw [hanswer]
    cases s.findCommit group step <;> simp

end Sys2Proof.Machine
end

section
/-!
PROOF. Memory's canonical form, at reset and along every step.
-/
namespace Sys2Proof.Machine

/-- Settles O6: reset lists no byte, no line and no page. -/
theorem memoryCanonicalAtReset : Obligations.MemoryCanonicalAtReset := by
  unfold Obligations.MemoryCanonicalAtReset
  exact ⟨AMap.wf_nil _, AMap.wf_nil _, AMap.wf_nil _⟩

/-- Settles O7: every operation of a command, and of an idle microsecond, changes memory's maps by operations that keep the canonical form. -/
theorem memoryCanonicalKept : Obligations.MemoryCanonicalKept := by
  unfold Obligations.MemoryCanonicalKept
  intro s t hwf hstep
  cases hqueue : s.pending with
  | nil =>
    rw [step_of_empty hqueue, Host.Outcome.next.injEq] at hstep
    have hidle : Kept s s.idle := State.idle_kept Kept.rfl
    exact hstep ▸ hidle.mem hwf
  | cons c rest =>
    rw [step_of_front hqueue] at hstep
    have hexec : Kept { s with pending := rest } t := exec_kept Kept.rfl c hstep
    exact hexec.mem hwf

end Sys2Proof.Machine
end

section
/-!
PROOF. Accesses of memory space and of the vault window: which are refused (R192, R195, R311), and what the served ones answer and leave.
-/

namespace Sys2Proof.Machine

/-! ## Memory and the register window (R191) -/

/-- A register access ends below the window's top, so an access that ends beyond it is none. -/
theorem inWindow_of_top {dua len : Nat} (hlen : 0 < len) (h : regTop ≤ dua) : inWindow dua len = false := by
  have hend : ¬ dua + len ≤ regTop := by omega
  simp [inWindow, hend]

theorem inWindow_of_vault {dua len : Nat} (hlen : 0 < len) (h : dua + len ≤ vaultTop) : inWindow dua len = false := by
  have hstart : ¬ regBase ≤ dua := by unfold vaultTop at h; unfold regBase; omega
  simp [inWindow, hstart]

theorem inWindow_of_mem {dua len : Nat} (h : dua + len ≤ memTop) : inWindow dua len = false := by
  have hstart : ¬ regBase ≤ dua := by unfold memTop at h; unfold regBase; omega
  simp [inWindow, hstart]

theorem execMemoryRead_outside {who : MemWho} {dua len : Nat} {macOk : Bool} (s : State) (h : inWindow dua len = false) :
    exec (.memoryRead who dua len macOk) s = .next (s.memRead who dua len macOk) :=
  congrArg Host.Outcome.next (if_neg (by simp [h]))

theorem execMemoryWrite_outside {who : MemWho} {dua : Nat} {data : List Byte} {macOk : Bool} (s : State) (h : inWindow dua data.length = false) :
    exec (.memoryWrite who dua data macOk) s = .next (s.memWrite who dua data macOk) :=
  congrArg Host.Outcome.next (if_neg (by simp [h]))

theorem State.memRead_refused {s : State} {who : MemWho} {dua len r : Nat} (macOk : Bool) (h : s.memCheck who false dua len = some r) :
    s.memRead who dua len macOk = s.setReply (.refused r) := by
  unfold State.memRead
  rw [h]

theorem State.memWrite_refused {s : State} {who : MemWho} {dua r : Nat} {data : List Byte} (macOk : Bool)
    (h : s.memCheck who true dua data.length = some r) : s.memWrite who dua data macOk = s.setReply (.refused r) := by
  unfold State.memWrite
  rw [h]

/-! ## The pages of a range -/

/-- The number of pages that a range of memory space touches. -/
def pageSpan (dua len : Nat) : Nat := (dua + len - 1) / pageSize + 1 - dua / pageSize

theorem State.memCheck_mem (s : State) (who : MemWho) (write : Bool) {dua len : Nat} (h : dua + len ≤ memTop) :
    s.memCheck who write dua len = s.pagesCheck who write (dua / pageSize) (pageSpan dua len) := if_pos h

theorem pageSpan_pos {dua len : Nat} (hlen : 0 < len) : 0 < pageSpan dua len := by
  have := Nat.div_le_div_right (c := pageSize) (show dua ≤ dua + len - 1 by omega)
  unfold pageSpan
  omega

theorem pageSpan_one {dua len : Nat} (h : dua / pageSize = (dua + len - 1) / pageSize) : pageSpan dua len = 1 := by
  unfold pageSpan
  omega

/-- The page of a byte of the range is one of those it touches. -/
theorem page_lt_span {dua len i : Nat} (hi : i < len) : (dua + i) / pageSize < dua / pageSize + pageSpan dua len := by
  have := Nat.div_le_div_right (c := pageSize) (show dua + i ≤ dua + len - 1 by omega)
  unfold pageSpan
  omega

theorem State.pagesCheck_first {s : State} {who : MemWho} {write : Bool} {first n r : Nat} (hn : 0 < n)
    (h : s.pageCheck who write first = some r) : s.pagesCheck who write first n = some r := by
  obtain ⟨n, rfl⟩ := Nat.exists_eq_succ_of_ne_zero hn.ne'
  simp only [State.pagesCheck, h]

theorem State.pagesCheck_one (s : State) (who : MemWho) (write : Bool) (first : Nat) :
    s.pagesCheck who write first 1 = s.pageCheck who write first := by
  unfold State.pagesCheck
  cases s.pageCheck who write first <;> rfl

theorem State.pageCheck_of_pagesCheck {s : State} {who : MemWho} {write : Bool} {first n : Nat} (h : s.pagesCheck who write first n = none)
    {k : Nat} (hlow : first ≤ k) (hhigh : k < first + n) : s.pageCheck who write k = none := by
  induction n generalizing first with
  | zero => omega
  | succ n ih =>
    unfold State.pagesCheck at h
    split at h
    · cases h
    · next hfirst =>
      by_cases hk : k = first
      · rw [hk, hfirst]
      · exact ih h (by omega) (by omega)

/-! ## What one page refuses -/

/-- The requesters a page is for (R195): its owner, or for a read of a BASE page any partition. -/
def PageEnt.serves (e : PageEnt) (who : MemWho) (write : Bool) : Prop :=
  match who.part with
  | some p => e.owner = p.val ∨ (e.owner = 62 ∧ write = false)
  | none => e.owner = 63

theorem State.pageCheck_invalid {s : State} (who : MemWho) (write : Bool) {n : Nat} (h : (s.page n).valid = false) :
    s.pageCheck who write n = some 0x0250 := by
  simp [State.pageCheck, h]

section
variable {s : State} {who : MemWho} {write : Bool} {n : Nat} (hvalid : (s.page n).valid = true)
include hvalid

theorem State.pageCheck_other (h : ¬ (s.page n).serves who write) : s.pageCheck who write n = some 0x0317 := by
  unfold PageEnt.serves at h
  unfold State.pageCheck
  cases hpart : who.part <;> simp_all

/-- A page that the requester is served of: the secure world first, then whether it may be written. -/
theorem State.pageCheck_served (h : (s.page n).serves who write) :
    s.pageCheck who write n =
      if (s.page n).secure = true ∧ who.secure = false then some 0x0407
      else if write = true ∧ (s.page n).readOnly = true then some 0x0402 else none := by
  unfold PageEnt.serves at h
  unfold State.pageCheck
  cases hpart : who.part with
  | none => simp_all
  | some p =>
    have hp := p.isLt
    simp only [hpart] at h
    rcases h with h | ⟨h, rfl⟩
    · have hbase : p.val ≠ 62 := by omega
      simp_all
    · simp_all

end

/-- A page that lets a requester write is no BASE page. -/
theorem State.owner_of_pageCheck_write {s : State} {who : MemWho} {n : Nat} (h : s.pageCheck who true n = none) : (s.page n).owner ≠ 62 := by
  intro hbase
  simp only [State.pageCheck, hbase, decide_true, Bool.or_true, Bool.and_true] at h
  split_ifs at h

/-- The bytes that a permitted write covers lie in no BASE page. -/
theorem State.owner_of_memCheck_write {s : State} {who : MemWho} {dua len : Nat} (hmem : dua + len ≤ memTop) (h : s.memCheck who true dua len = none)
    {i : Nat} (hi : i < len) : (s.page ((dua + i) / pageSize)).owner ≠ 62 := by
  rw [State.memCheck_mem _ _ _ hmem] at h
  exact State.owner_of_pageCheck_write (State.pageCheck_of_pagesCheck h (Nat.div_le_div_right (Nat.le_add_right _ _)) (page_lt_span hi))

/-! ## Refused accesses -/

/-- An address that does not exist is refused, whoever asks (R192). -/
theorem State.memCheck_absent {s : State} {dua len : Nat} (who : MemWho) (write : Bool) (hlen : 0 < len)
    (h : regTop ≤ dua ∨ (memTop ≤ dua ∧ dua + len ≤ vaultTop ∧ memTop + s.baseRegion < dua + len) ∨
      (dua + len ≤ memTop ∧ (s.page (dua / pageSize)).valid = false)) : s.memCheck who write dua len = some 0x0250 := by
  rcases h with htop | ⟨hlow, hhigh, hbeyond⟩ | ⟨hmem, hvalid⟩
  · have hmem : ¬ dua + len ≤ memTop := by unfold regTop at htop; unfold memTop; omega
    have hvault : ¬ dua + len ≤ vaultTop := by unfold regTop at htop; unfold vaultTop; omega
    simp [State.memCheck, hmem, hvault]
  · have hmem : ¬ dua + len ≤ memTop := by omega
    simp [State.memCheck, hmem, hlow, hhigh, hbeyond]
  · rw [State.memCheck_mem _ _ _ hmem]
    exact State.pagesCheck_first (pageSpan_pos hlen) (State.pageCheck_invalid who write hvalid)

/-- Settles O10: the check refuses the access before anything is read or written, and none of the three places is the register window. -/
theorem absentAddressRefused : Obligations.AbsentAddressRefused := by
  unfold Obligations.AbsentAddressRefused
  intro s who dua len macOk hlen habsent
  have hwindow : inWindow dua len = false := by
    rcases habsent with htop | ⟨-, hvault, -⟩ | ⟨hmem, -⟩
    · exact inWindow_of_top hlen htop
    · exact inWindow_of_vault hlen hvault
    · exact inWindow_of_mem hmem
  refine ⟨?_, fun data hdata => ?_⟩
  · rw [execMemoryRead_outside s hwindow, State.memRead_refused _ (State.memCheck_absent who false hlen habsent)]
  · subst hdata
    rw [execMemoryWrite_outside s hwindow, State.memWrite_refused _ (State.memCheck_absent who true hlen habsent)]

/-- Settles O11: a range inside one page is checked as that page is. -/
theorem pageRules : Obligations.PageRules := by
  unfold Obligations.PageRules
  intro s who dua len write hlen hmem hpage hvalid e owned
  have hcheck : s.memCheck who write dua len = s.pageCheck who write (dua / pageSize) := by
    rw [State.memCheck_mem _ _ _ hmem, pageSpan_one hpage, State.pagesCheck_one]
  rw [hcheck]
  refine ⟨State.pageCheck_other hvalid, fun hserves hsecure hworld => ?_, fun hserves hworld hwrite hro => ?_, fun hserves hworld hro => ?_⟩
  · rw [State.pageCheck_served hvalid hserves, if_pos ⟨hsecure, hworld⟩]
  · rw [State.pageCheck_served hvalid hserves, if_neg (fun ⟨hs, hw⟩ => Bool.false_ne_true (hw.symm.trans (hworld hs))), if_pos ⟨hwrite, hro⟩]
  · rw [State.pageCheck_served hvalid hserves, if_neg (fun ⟨hs, hw⟩ => Bool.false_ne_true (hw.symm.trans (hworld hs))),
      if_neg (fun ⟨hw, hr⟩ => Bool.false_ne_true ((hro hw).symm.trans hr))]

/-! ## What a demand access leaves of memory's contents -/

/-- From `s` to `t` no stored byte changes, no line's metadata, and no page's owner. -/
structure ContentKept (s t : State) : Prop where
  bytes : t.mem.bytes = s.mem.bytes
  lines : t.mem.lines = s.mem.lines
  owner : ∀ n, (t.page n).owner = (s.page n).owner

theorem ContentKept.of_mem {s t : State} (h : t.mem = s.mem) : ContentKept s t :=
  ⟨congrArg Mem.bytes h, congrArg Mem.lines h, fun n => congrArg (fun m : Mem => (AMap.get ({} : PageEnt) m.pmap n).owner) h⟩

theorem ContentKept.rfl {s : State} : ContentKept s s := .of_mem (Eq.refl _)

theorem ContentKept.trans {s t u : State} (h : ContentKept s t) (g : ContentKept t u) : ContentKept s u :=
  ⟨g.bytes.trans h.bytes, g.lines.trans h.lines, fun n => (g.owner n).trans (h.owner n)⟩

theorem ContentKept.ite {s a b : State} {c : Prop} [Decidable c] (h : ContentKept s a) (g : ContentKept s b) : ContentKept s (if c then a else b) := by
  split <;> assumption

theorem ContentKept.foldl {α : Type} {f : State → α → State} (hf : ∀ s x, ContentKept s (f s x)) (l : List α) (s : State) :
    ContentKept s (l.foldl f s) := by
  induction l generalizing s with
  | nil => exact .rfl
  | cons x l ih => exact (hf s x).trans (ih _)

/-- Memory changed in its migrations, translations, cached lines or streams only. -/
theorem ContentKept.setMem (s : State) {m : Mem} (hbytes : m.bytes = s.mem.bytes) (hlines : m.lines = s.mem.lines) (hpmap : m.pmap = s.mem.pmap) :
    ContentKept s (s.setMem m) :=
  ⟨hbytes, hlines, fun n => congrArg (fun p : AMap PageEnt => (AMap.get ({} : PageEnt) p n).owner) hpmap⟩

theorem State.page_setPage (s : State) (n : Nat) (e : PageEnt) (j : Nat) : (s.setPage n e).page j = if j = n then e else s.page j := AMap.get_put ..

theorem State.setPage_content {s : State} {n : Nat} {e : PageEnt} (h : e.owner = (s.page n).owner) : ContentKept s (s.setPage n e) :=
  ⟨rfl, rfl, fun j => by
    rw [State.page_setPage]
    split
    · next hj => rw [hj, h]
    · rfl⟩

theorem State.bump_content (s : State) (page off n : Nat) : ContentKept s (s.bump page off n) := .of_mem (by simp)

theorem State.want_content (s : State) (n : Nat) : ContentKept s (s.want n) := .ite (.setMem s rfl rfl rfl) .rfl

theorem State.translate_content (s : State) (who n tier frame : Nat) : ContentKept s (s.translate who n tier frame) :=
  .ite .rfl (.setMem s rfl rfl rfl)

/-- A touched page gets its ACCESSED bit, and a demotion of it ends; its owner stays (R194, R199). -/
theorem State.touchPage_content (s : State) (who : Option Nat) (n : Nat) : ContentKept s (s.touchPage who n) := by
  unfold State.touchPage
  extract_lets e old s1
  have hpage : ∀ x : PageEnt, x.owner = e.owner → ContentKept s (s.setPage n x) := fun x hx => State.setPage_content hx
  have h1 : ContentKept s s1 := by
    show ContentKept s (match AMap.find s.mem.migr n with | some m => _ | none => _)
    split
    · exact .ite ((hpage { e with accessed := true, migrating := false } rfl).trans (.setMem _ rfl rfl rfl)) (hpage { e with accessed := true } rfl)
    · exact (hpage { e with accessed := true } rfl).trans (State.want_content ..)
  split
  · exact .ite h1 (h1.trans (State.translate_content ..))
  · exact h1

theorem State.pickOf_content (s : State) (l : List Nat) : ContentKept s (s.pickOf l).2 := by
  cases l with
  | nil => exact .rfl
  | cons x xs => exact .of_mem rfl

theorem State.allocLine_content (s : State) (line : Nat) : ContentKept s (s.allocLine line) := by
  unfold State.allocLine
  extract_lets e k ways put
  have hput : ∀ (u : State) w, ContentKept u (put u w) := fun u w => .setMem u rfl rfl rfl
  have hpick : ∀ {w s1}, s.pickOf ways = (w, s1) → ContentKept s s1 := fun hw => by
    simpa only [hw] using s.pickOf_content ways
  split
  · exact hput s _
  · split
    · next w s1 hw => exact (hpick hw).trans (hput s1 w)
    · next s1 hw => exact hpick hw

theorem State.cacheLine_content (s : State) (line : Nat) : ContentKept s (s.cacheLine line) :=
  .ite .rfl (.ite (State.bump_content ..) ((State.bump_content ..).trans (State.allocLine_content ..)))

theorem State.prefetchLine_content (s : State) (line : Nat) : ContentKept s (s.prefetchLine line) := .ite .rfl (State.allocLine_content ..)

theorem State.streamLine_content (s : State) (h line : Nat) : ContentKept s (s.streamLine h line) := by
  unfold State.streamLine
  extract_lets l old t1 l1 streams s1
  have h1 : ContentKept s s1 := .setMem s rfl rfl rfl
  exact .ite (h1.trans (.foldl (fun s x => .ite (State.prefetchLine_content ..) .rfl) ..)) h1

theorem State.bridgeLine_content (s : State) (h line : Nat) (isRead : Bool) : ContentKept s (s.bridgeLine h line isRead) :=
  .ite (State.bump_content ..) .rfl

theorem State.cacheRange_content (s : State) (who : MemWho) (dua len : Nat) (isRead : Bool) : ContentKept s (s.cacheRange who dua len isRead) := by
  refine .foldl (fun s l => ?_) _ _
  have hline := s.cacheLine_content l
  split
  · next h _ =>
    have hbridge := hline.trans ((s.cacheLine l).bridgeLine_content h.val l isRead)
    exact .ite (hbridge.trans (State.streamLine_content ..)) hbridge
  · exact hline

/-- A demand access stores nothing: it changes what stands about pages and copies of lines. -/
theorem State.demand_content (s : State) (who : MemWho) (dua len : Nat) (isRead : Bool) : ContentKept s (s.demand who dua len isRead) :=
  have htouch : ContentKept s (s.touchRange who dua len) := .ite (.foldl (fun s n => s.touchPage_content (whoNum who) n) _ s) .rfl
  .ite (htouch.trans (State.cacheRange_content ..)) .rfl

theorem State.waitChunks_content (s : State) (dua len : Nat) : ContentKept s (s.waitChunks dua len) := by
  refine .foldl (fun s n => ?_) _ _
  split
  · exact .setMem s rfl rfl rfl
  · exact .rfl

/-! ## What is read where the contents stand -/

section
variable {s t : State} (hnear : Near s t) (hkept : ContentKept s t)
include hkept

theorem ContentKept.lineMeta : t.lineMeta = s.lineMeta := by
  funext l
  exact congrArg (AMap.get {} · l) hkept.lines

include hnear

theorem ContentKept.lineCurrent : t.lineCurrent = s.lineCurrent := by
  funext l
  have hgen : t.keygenAt = s.keygenAt := by rw [hnear]; rfl
  unfold State.lineCurrent
  rw [hkept.owner, hkept.lineMeta, hgen]

theorem ContentKept.byteAt : t.byteAt = s.byteAt := by
  funext a
  have hbase : t.lift.base = s.lift.base := by rw [hnear]
  unfold State.byteAt
  rw [hkept.owner, hkept.lineCurrent hnear, hkept.bytes, hbase]

theorem ContentKept.peek (a len : Nat) : t.peek a len = s.peek a len := by
  induction len generalizing a with
  | zero => rfl
  | succ len ih => rw [State.peek, State.peek, hkept.byteAt hnear, ih]

theorem ContentKept.poisonIn (dua len : Nat) : t.poisonIn dua len = s.poisonIn dua len := by
  unfold State.poisonIn
  rw [hkept.lineMeta, hkept.lineCurrent hnear]

theorem ContentKept.partialPoison (dua len : Nat) : t.partialPoison dua len = s.partialPoison dua len := by
  unfold State.partialPoison
  rw [hkept.lineMeta, hkept.lineCurrent hnear]

end

/-! ## Served accesses -/

/-- A read of no poisoned line whose MACs hold answers the bytes that stand at its addresses. -/
theorem execMemoryRead_served {s : State} {who : MemWho} {dua len : Nat} (hlow : dua < memTop) (hmem : dua + len ≤ memTop)
    (hcheck : s.memCheck who false dua len = none) (hfilling : s.rangeFilling dua len = false) (hpoison : s.poisonIn dua len = none) :
    exec (.memoryRead who dua len true) s = .next ((s.demand who dua len true).setReply (.data (s.peek dua len))) := by
  have hnear : Near s (s.demand who dua len true) := near_demand .rfl _ _ _ _
  have hkept := s.demand_content who dua len true
  have hclean := (hkept.poisonIn hnear dua len).trans hpoison
  rw [execMemoryRead_outside s (inWindow_of_mem hmem), State.memRead, hcheck]
  simp only [if_neg (Nat.not_le.2 hlow), hfilling, Bool.false_eq_true, if_false, State.readMem, hclean, if_true, hkept.peek hnear]

/-- The state that a write stores its bytes into: its range demanded, and the chunks under migration waited for. -/
def State.openWrite (s : State) (who : MemWho) (dua len : Nat) : State := (s.demand who dua len false).waitChunks dua len

theorem State.openWrite_near (s : State) (who : MemWho) (dua len : Nat) : Near s (s.openWrite who dua len) :=
  near_waitChunks (near_demand .rfl _ _ _ _) _ _

theorem State.openWrite_content (s : State) (who : MemWho) (dua len : Nat) : ContentKept s (s.openWrite who dua len) :=
  (s.demand_content who dua len false).trans (State.waitChunks_content ..)

/-- A write of no partly poisoned line whose MACs hold stores its bytes. -/
theorem execMemoryWrite_served {s : State} {who : MemWho} {dua : Nat} {data : List Byte} (hmem : dua + data.length ≤ memTop)
    (hcheck : s.memCheck who true dua data.length = none) (hfilling : s.rangeFilling dua data.length = false)
    (hpoison : s.partialPoison dua data.length = none) :
    exec (.memoryWrite who dua data true) s = .next (((s.openWrite who dua data.length).storeRaw dua data).setReply .ok) := by
  have hkept := s.openWrite_content who dua data.length
  have hclean := (hkept.partialPoison (s.openWrite_near who dua data.length) dua data.length).trans hpoison
  rw [execMemoryWrite_outside s (inWindow_of_mem hmem), State.memWrite, hcheck]
  unfold State.openWrite at hclean
  simp only [hfilling, Bool.false_eq_true, if_false, State.writeMem, hclean, if_true, State.openWrite]

/-- Settles O12: a demand access leaves memory's contents, and what a write then stores is what `storeRaw` leaves. -/
theorem memoryReadAndWrite : Obligations.MemoryReadAndWrite := by
  unfold Obligations.MemoryReadAndWrite
  refine ⟨fun s who dua len hlen hmem hcheck hfilling hpoison => ?_, fun s who dua data _ hmem hcheck hfilling hpoison => ?_⟩
  · have hnear : Near s (s.demand who dua len true) := near_demand .rfl _ _ _ _
    have hkept := s.demand_content who dua len true
    refine ⟨_, execMemoryRead_served (by omega) hmem hcheck hfilling hpoison, rfl, fun a => congrFun (hkept.byteAt hnear) a, ?_⟩
    rw [hnear]
    rfl
  · let u := s.openWrite who dua data.length
    have hnear : Near s u := s.openWrite_near who dua data.length
    have hkept : ContentKept s u := s.openWrite_content who dua data.length
    have hstored : Near s (u.storeRaw dua data) := by
      rw [State.storeRaw_mem]
      exact near_setMem hnear _
    have hbyte : ∀ a, ((u.storeRaw dua data).setReply .ok).byteAt a =
        if (u.page (a / pageSize)).owner ≠ 62 ∧ dua ≤ a ∧ a < dua + data.length then data.getD (a - dua) 0 else u.byteAt a :=
      u.byteAt_storeRaw dua data
    refine ⟨_, execMemoryWrite_served hmem hcheck hfilling hpoison, rfl, fun i hi => ?_, fun a hout => ?_, ?_⟩
    · have howner := State.owner_of_memCheck_write hmem hcheck hi
      rw [← hkept.owner] at howner
      rw [hbyte, if_pos ⟨howner, by omega, by omega⟩, Nat.add_sub_cancel_left]
    · rw [hbyte, if_neg (by omega), hkept.byteAt hnear]
    · show (u.storeRaw dua data).setReply .ok = _
      rw [hstored]
      rfl

end Sys2Proof.Machine
end

section
/-!
PROOF. Where the end of a zero fill reaches past its region: a region map that lists one number twice.
-/

namespace Sys2Proof.Machine

/-- Region 0 listed twice, against the canonical form that sparse maps have along a run: the entry that is read is being filled and holds page 1, the
other holds page 0 under key generation 2. -/
def regionZeroTwice : AMap Region :=
  [(0, { base := pageSize, pages := 1, valid := true, filling := true }), (0, { pages := 1, valid := true, keygen := 2 })]

/-- Byte 0 written under the generation of the second entry. -/
def filledTwice : State :=
  { State.reset with
    fbx := { State.reset.fbx with regions := regionZeroTwice }
    mem := { bytes := [(0, 7)], lines := [(0, { gen := 2 })] } }

theorem byteAt_filledTwice : filledTwice.byteAt 0 = 7 := rfl

/-- The end of the fill puts one entry in the place of both, so page 0 lies in no region and its line, of generation 2, reads as zeros. -/
theorem byteAt_filledTwice_done : ∃ t, exec (.regionZeroFillDone 0) filledTwice = .next t ∧ t.byteAt 0 = 0 := ⟨_, rfl, rfl⟩

/-- Refutes O48: it is stated for every state, and of a region map that lists region 0 twice the end of the zero fill drops the second entry with it, so
byte 0, outside the filled region, no longer reads as before. -/
theorem not_tiersAndRegions : ¬ Obligations.TiersAndRegions := by
  unfold Obligations.TiersAndRegions
  intro ⟨_, _, _, hfill, _⟩
  obtain ⟨t, hexec, -, -, -, hother, -⟩ := hfill filledTwice 0 rfl rfl
  obtain ⟨t', hexec', hzero⟩ := byteAt_filledTwice_done
  obtain rfl : t = t' := Host.Outcome.next.inj (hexec.symm.trans hexec')
  have hsame : t.byteAt 0 = 7 := (hother 0 (by decide)).trans byteAt_filledTwice
  exact absurd (hzero.symm.trans hsame) (by decide)

end Sys2Proof.Machine
end

section
/-!
PROOF. The window's fills and landings, the patrol, and installation transfers (R206, R207, R219 to R221, R436, R438, R442).
-/

namespace Sys2Proof.Machine

/-! ## A window buffer taken -/

theorem length_replaceFirst (f : WinBuf → Bool) (new : WinBuf) (l : List WinBuf) : (replaceFirst f new l).length = l.length := by
  induction l with
  | nil => rfl
  | cons b l ih =>
    unfold replaceFirst
    split
    · rfl
    · simp [ih]

theorem mem_replaceFirst_new {f : WinBuf → Bool} {l : List WinBuf} (new : WinBuf) (h : ∃ b ∈ l, f b = true) : new ∈ replaceFirst f new l := by
  induction l with
  | nil => simp at h
  | cons b l ih =>
    unfold replaceFirst
    split
    · exact List.mem_cons_self
    · next hb =>
      obtain ⟨b', hb', hf⟩ := h
      rcases List.mem_cons.1 hb' with rfl | hb'
      · exact absurd hf hb
      · exact List.mem_cons_of_mem _ (ih ⟨b', hb', hf⟩)

/-- A buffer that is not asked for stays. -/
theorem mem_replaceFirst_of_not {f : WinBuf → Bool} {l : List WinBuf} {b : WinBuf} (new : WinBuf) (hb : b ∈ l) (hf : f b = false) :
    b ∈ replaceFirst f new l := by
  induction l with
  | nil => exact hb
  | cons b' l ih =>
    unfold replaceFirst
    rcases List.mem_cons.1 hb with rfl | hb
    · rw [if_neg (by simp [hf])]
      exact List.mem_cons_self
    · split
      · exact List.mem_cons_of_mem _ hb
      · exact List.mem_cons_of_mem _ (ih hb)

/-! ## A fill that starts -/

/-- A free buffer that still holds what a fill asks for. -/
def WinBuf.servesAgain (w : FillWant) (b : WinBuf) : Bool := b.claim.isNone && b.holds w

theorem WinBuf.servesAgain_iff (w : FillWant) (b : WinBuf) : b.servesAgain w = true ↔ b.claim = none ∧ b.holds w = true := by
  simp [WinBuf.servesAgain]

/-- The buffer of a fill that reads its experts. -/
def FillWant.buffer (w : FillWant) : WinBuf := { layer := w.layer, need := w.need, landed := [], claim := some w.use }

theorem execLiftFillStart_starts {s : State} {m : Manifest} {w : FillWant} (hbase : s.lift.base = some m) (hstreamed : s.lift.streamed = true)
    (henabled : s.enabled pgLF = true) (hrun : (s.hdr pgLF).stopping = false) (hnext : (s.fillOrder m).find? (fun x => !s.filled x) = some w) :
    exec .liftFillStart s = .next (s.startFill w) := by
  show execLiftFillStart s = _
  unfold execLiftFillStart
  simp [hbase, hstreamed, henabled, hrun, hnext]

section
variable {s : State} {w : FillWant}

theorem State.startFill_again (h : ∃ b ∈ s.lift.bufs, b.servesAgain w = true) :
    ∃ b ∈ s.lift.bufs, b.servesAgain w = true ∧
      s.startFill w = s.setLift { s.lift with bufs := replaceFirst (WinBuf.servesAgain w) { b with claim := some w.use } s.lift.bufs } := by
  obtain ⟨b, hfind⟩ := Option.isSome_iff_exists.1 (List.find?_isSome.2 h)
  refine ⟨b, List.mem_of_find?_eq_some hfind, List.find?_some hfind, ?_⟩
  unfold State.startFill
  extract_lets bs kept free
  rw [show bs.find? kept = some b from hfind]
  rfl

variable (hnone : ∀ b ∈ s.lift.bufs, b.servesAgain w = false)
include hnone

/-- With no buffer to hold again, a fill takes one not in use, else a free one, else the lift waits (R207, R209). -/
theorem State.startFill_reads :
    s.startFill w =
      if s.lift.bufs.length < s.lift.winLayers then s.setLift { s.lift with blocked := false, bufs := s.lift.bufs ++ [w.buffer] }
      else if s.lift.bufs.any (fun b => b.claim.isNone) then
        s.setLift { s.lift with blocked := false, bufs := replaceFirst (fun b => b.claim.isNone) w.buffer s.lift.bufs }
      else if s.lift.blocked then s else (s.setLift { s.lift with blocked := true }).raise pgLF 3 := by
  have hfind : s.lift.bufs.find? (WinBuf.servesAgain w) = none := List.find?_eq_none.2 (by simpa using hnone)
  unfold State.startFill
  extract_lets bs kept free
  rw [show bs.find? kept = none from hfind]
  rfl

theorem State.startFill_room (hroom : s.lift.bufs.length < s.lift.winLayers) :
    s.startFill w = s.setLift { s.lift with blocked := false, bufs := s.lift.bufs ++ [w.buffer] } := by
  rw [State.startFill_reads hnone, if_pos hroom]

variable (hfull : s.lift.winLayers ≤ s.lift.bufs.length)
include hfull

theorem State.startFill_free (hfree : ∃ b ∈ s.lift.bufs, b.claim = none) :
    s.startFill w = s.setLift { s.lift with blocked := false, bufs := replaceFirst (fun b => b.claim.isNone) w.buffer s.lift.bufs } := by
  rw [State.startFill_reads hnone, if_neg (Nat.not_lt.2 hfull), if_pos (by simpa using hfree)]

theorem State.startFill_full (hclaimed : ∀ b ∈ s.lift.bufs, b.claim.isSome = true) :
    s.startFill w = if s.lift.blocked then s else (s.setLift { s.lift with blocked := true }).raise pgLF 3 := by
  have hfree : s.lift.bufs.any (fun b => b.claim.isNone) = false :=
    List.any_eq_false.2 fun b hb => by simp [Option.isSome_iff_ne_none.1 (hclaimed b hb)]
  rw [State.startFill_reads hnone, if_neg (Nat.not_lt.2 hfull), hfree, if_neg Bool.false_ne_true]

end

/-! ## A shard read wrongly -/

section
variable {s : State} (m : Manifest) {key : Nat} (n : Nat)

theorem State.mismatch_first (h : key ∉ s.lift.retried) :
    s.mismatch m key n = (s.setLift { s.lift with retried := s.lift.retried ++ [key] }, false) :=
  if_neg (by simpa using h)

theorem State.mismatch_second (h : key ∈ s.lift.retried) :
    s.mismatch m key n = ((s.setLift { s.lift with retried := s.lift.retried.filter (· ≠ key) }).markBad m n, true) :=
  if_pos (by simpa using h)

end

theorem State.evStat_raise (s : State) {page bit : Nat} (hbit : bit < 32) : ((s.raise page bit).hdr page).evStat.getLsbD bit = true := by
  rw [State.hdr_raise, if_pos rfl]
  simp only [BitVec.getLsbD_or, BitVec.getLsbD_ofNat, hbit, decide_true, Nat.testBit_two_pow_self, Bool.and_self, Bool.or_true]

/-- An event that is set stays set when another is. -/
theorem State.evStat_raise_of_set {s : State} {page k : Nat} (bit : Nat) (h : (s.hdr page).evStat.getLsbD k = true) :
    ((s.raise page bit).hdr page).evStat.getLsbD k = true := by
  rw [State.hdr_raise, if_pos rfl]
  simp [h]

/-- A shard newly marked BAD sets event 1 of the lift (R221). -/
theorem State.evStat_markBad {s : State} (m : Manifest) {n : Nat} (h : n ∉ s.lift.bad) : ((s.markBad m n).hdr pgLF).evStat.getLsbD 1 = true := by
  unfold State.markBad
  rw [if_neg (by simpa using h)]
  extract_lets marked s1
  have h1 : (s1.hdr pgLF).evStat.getLsbD 1 = true := State.evStat_raise _ (by decide)
  split
  · exact State.evStat_raise_of_set _ h1
  · exact h1

/-! ## An expert that lands -/

/-- A buffer after an expert of a layer has landed: those that wait for it have it. -/
def WinBuf.land (layer expert : Nat) (b : WinBuf) : WinBuf :=
  if decide (b.layer = layer) && b.claim.isSome && b.need.contains expert && !b.landed.contains expert then { b with landed := b.landed ++ [expert] }
  else b

theorem WinBuf.land_fields (layer expert : Nat) (b : WinBuf) :
    (b.land layer expert).layer = b.layer ∧ (b.land layer expert).claim = b.claim ∧ (b.land layer expert).need = b.need := by
  unfold WinBuf.land
  split <;> exact ⟨rfl, rfl, rfl⟩

theorem WinBuf.mem_landed_land {layer expert : Nat} {b : WinBuf} (hlayer : b.layer = layer) (hclaim : b.claim.isSome = true) (hneed : expert ∈ b.need) :
    expert ∈ (b.land layer expert).landed := by
  unfold WinBuf.land
  by_cases h : expert ∈ b.landed <;> simp [hlayer, hclaim, hneed, h]

theorem State.countLanded_lift (s : State) (l bytes : Nat) : (s.countLanded l bytes).lift = s.lift := by
  have hcount := s.bump_recorded pgLF 0x020 bytes
  have hlate := (hcount.trans (State.bump_recorded _ pgLF 0x028 1)).trans (State.raise_recorded _ pgLF 0)
  exact (Recorded.ite hlate hcount : Recorded s (s.countLanded l bytes)).lift

/-- The lift after an expert of a layer has landed: its shard's first mismatch is forgotten. -/
def Lift.land (x : Lift) (m : Manifest) (layer expert : Nat) : Lift :=
  { x with bufs := x.bufs.map (WinBuf.land layer expert), retried := x.retried.filter (fun k => some k ≠ (routedShard m layer expert).map (·.number)) }

theorem State.lift_landExpert (s : State) (m : Manifest) (layer expert bytes : Nat) :
    (s.landExpert m layer expert bytes).lift = s.lift.land m layer expert :=
  congrArg (Lift.land · m layer expert) (s.countLanded_lift layer bytes)

theorem Lift.mem_landed_land {x : Lift} {m : Manifest} {layer expert : Nat} {b : WinBuf} (hb : b ∈ (x.land m layer expert).bufs)
    (hlayer : b.layer = layer) (hclaim : b.claim.isSome = true) (hneed : expert ∈ b.need) : expert ∈ b.landed := by
  obtain ⟨y, -, rfl⟩ := List.mem_map.1 hb
  obtain ⟨hl, hc, hn⟩ := y.land_fields layer expert
  exact WinBuf.mem_landed_land (hl ▸ hlayer) (hc ▸ hclaim) (hn ▸ hneed)

/-- A shard that a buffer waits for and that is not BAD lands, or is read again (R219). -/
theorem execExpertLanded_waited {s : State} {m : Manifest} {layer expert : Nat} {d : Shard} {b : WinBuf} (ok : Bool) (hbase : s.lift.base = some m)
    (hshard : routedShard m layer expert = some d) (hb : b ∈ s.lift.bufs) (hlayer : b.layer = layer) (hclaim : b.claim.isSome = true)
    (hneed : expert ∈ b.need) (hlanded : expert ∉ b.landed) (hgood : d.number ∉ s.lift.bad) :
    exec (.expertLanded layer expert ok) s =
      .next (if ok then s.landExpert m layer expert d.length else (s.mismatch m d.number d.number).1) := by
  have hany : s.lift.bufs.any (fun b => b.layer == layer && b.claim.isSome && b.need.contains expert && !b.landed.contains expert) = true :=
    List.any_eq_true.2 ⟨b, hb, by simp [hlayer, hclaim, hneed, hlanded]⟩
  show execExpertLanded layer expert ok s = _
  unfold execExpertLanded
  simp only [hbase, hshard]
  rw [hany, if_neg (by simp [hgood])]

theorem execExpertLanded_peer {s : State} {m : Manifest} {layer expert : Nat} (hbase : s.lift.base = some m) (hshard : routedShard m layer expert = none)
    (hstreamed : s.lift.streamed = true) (hexpert : expert < (m.layers.getD layer {}).routed) (hlanded : s.landed layer expert = false) :
    exec (.expertLanded layer expert true) s =
      .next ((s.setLift { s.lift with peerLanded := s.lift.peerLanded ++ [(layer, expert)] }).releaseWaits layer) := by
  show execExpertLanded layer expert true s = _
  unfold execExpertLanded
  simp only [hbase, hshard]
  rw [if_pos (by simp only [hstreamed, hexpert, hlanded, decide_true, Bool.and_self, Bool.not_false])]

/-! ## The patrol -/

theorem State.rd64_raise (s : State) (page bit : Nat) : (s.raise page bit).rd64 = s.rd64 := by
  obtain ⟨-, hregs, -⟩ := s.raise_fields page bit
  unfold State.rd64 State.rd
  rw [hregs]

/-- The state in which a patrol shard has been counted (R220). -/
def State.patrolCounted (s : State) : State := (s.setLift { s.lift with patrolPos := s.lift.patrolPos + 1 }).bump pgMS 0x038 1

theorem State.lift_patrolCounted (s : State) : s.patrolCounted.lift = { s.lift with patrolPos := s.lift.patrolPos + 1 } :=
  (State.bump_recorded ..).lift

theorem State.patrolNext_goes {s : State} {m : Manifest} (h : s.lift.patrolPos + 1 < m.shards.length) : s.patrolNext m = s.patrolCounted := by
  refine if_neg ?_
  rw [show ((s.setLift { s.lift with patrolPos := s.lift.patrolPos + 1 }).bump pgMS 0x038 1).lift = _ from s.lift_patrolCounted]
  exact Nat.not_le.2 h

theorem State.patrolNext_ends {s : State} {m : Manifest} (h : m.shards.length ≤ s.lift.patrolPos + 1) :
    s.patrolNext m = (s.patrolCounted.setLift { s.patrolCounted.lift with patrolOn := false }).raise pgMS 3 := by
  refine if_pos ?_
  rw [show ((s.setLift { s.lift with patrolPos := s.lift.patrolPos + 1 }).bump pgMS 0x038 1).lift = _ from s.lift_patrolCounted]
  exact h

/-- The patrol moves on one shard and is on unless that was the last; of the lift nothing else changes. -/
theorem State.lift_patrolNext (s : State) (m : Manifest) :
    (s.patrolNext m).lift =
      { s.lift with patrolPos := s.lift.patrolPos + 1, patrolOn := s.lift.patrolOn && decide (s.lift.patrolPos + 1 < m.shards.length) } := by
  by_cases h : s.lift.patrolPos + 1 < m.shards.length
  · rw [State.patrolNext_goes h, State.lift_patrolCounted]
    simp [h]
  · rw [State.patrolNext_ends (Nat.not_lt.1 h), (State.raise_recorded ..).lift]
    show { s.patrolCounted.lift with patrolOn := false } = _
    rw [State.lift_patrolCounted]
    simp [h]

theorem State.rd64_patrolNext (s : State) (m : Manifest) : (s.patrolNext m).rd64 pgMS 0x038 = (s.rd64 pgMS 0x038 + 1) % 2 ^ 64 := by
  have hcount : s.patrolCounted.rd64 pgMS 0x038 = (s.rd64 pgMS 0x038 + 1) % 2 ^ 64 := State.rd64_bump _ _ _ _
  by_cases h : s.lift.patrolPos + 1 < m.shards.length
  · rw [State.patrolNext_goes h, hcount]
  · rw [State.patrolNext_ends (Nat.not_lt.1 h), State.rd64_raise]
    exact hcount

/-- The last shard ends the pass with event 3 (R220). -/
theorem State.evStat_patrolNext {s : State} {m : Manifest} (h : m.shards.length ≤ s.lift.patrolPos + 1) :
    ((s.patrolNext m).hdr pgMS).evStat.getLsbD 3 = true := by
  rw [State.patrolNext_ends h]
  exact State.evStat_raise _ (by decide)

theorem State.patrolPos_markBad (s : State) (m : Manifest) (n : Nat) : (s.markBad m n).lift.patrolPos = s.lift.patrolPos := by
  rw [State.lift_markBad]
  split <;> rfl

theorem execPatrolPassStart_may {s : State} (hmounted : s.mc.vaultMounted = true) (hinstalled : s.lift.installed.isSome = true)
    (hclosed : s.lift.openInstall = false) (hoff : s.lift.patrolOn = false) :
    exec .patrolPassStart s =
      .next (if s.lift.patrolAt ≤ s.nowUs then
          s.setLift { s.lift with patrolOn := true, patrolLate := false, patrolPos := 0, patrolAt := s.lift.patrolAt + dayUs }
        else s) := by
  show execPatrolPassStart s = _
  unfold execPatrolPassStart
  simp [hmounted, hinstalled, hclosed, hoff]

theorem execPatrolShardChecked_on {s : State} {m : Manifest} {n : Nat} (ok : Bool) (hinstalled : s.lift.installed = some m) (hon : s.lift.patrolOn = true)
    (hmounted : s.mc.vaultMounted = true) (hn : (shardOrder m)[s.lift.patrolPos]? = some n) :
    exec (.patrolShardChecked ok) s =
      .next (if ok then (s.setLift { s.lift with retried := s.lift.retried.filter (· ≠ n + 2 ^ 32) }).patrolNext m
        else if (s.mismatch m (n + 2 ^ 32) n).2 then (s.mismatch m (n + 2 ^ 32) n).1.patrolNext m else (s.mismatch m (n + 2 ^ 32) n).1) := by
  show execPatrolShardChecked ok s = _
  unfold execPatrolShardChecked
  rw [if_neg (by simp [hon, hmounted])]
  simp only [hinstalled, Option.getD_some, hn]

/-! ## Installation transfers -/

theorem execInstGo_pass {s : State} {o : Origin} {r : Req} (h : s.access o (pgLF * 0x1000 + 0x070) true = .pass s r) :
    exec (.instGo o) s = .next (s.setReply .ok).instGo :=
  congrArg Host.Outcome.next (State.withWrite_pass _ h)

section
variable {s : State}

theorem State.instGo_closed (h : s.lift.instBusy = true ∨ s.lift.openInstall = false) : s.instGo = s.refuse pgLF 0x0704 :=
  if_pos (by simpa using h)

variable (hidle : s.lift.instBusy = false) (hopen : s.lift.openInstall = true)
include hidle hopen

theorem State.instGo_unaligned (h : s.rd64 pgLF 0x060 % 64 ≠ 0) : s.instGo = s.refuse pgLF 0x023B := by
  unfold State.instGo
  rw [if_neg (by simp [hidle, hopen]), if_pos h]

theorem State.instGo_begins (h : s.rd64 pgLF 0x060 % 64 = 0) :
    s.instGo =
      s.setLift { s.lift with instBusy := true
                              instLeft := transferShards (s.lift.installed.getD {}) (fld (s.rd pgLF 0x068) 23 0) (fld (s.rd pgLF 0x06C) 23 0) } := by
  unfold State.instGo
  rw [if_neg (by simp [hidle, hopen]), if_neg (by simp [h])]

end

/-- What the writing of a shard leaves of the lists that name shards. -/
theorem State.shardWritten_fields (s : State) (n : Nat) (pass scaleFF : Bool) :
    n ∈ (s.shardWritten n pass scaleFF).lift.written ∧ (n ∈ (s.shardWritten n pass scaleFF).lift.passed ↔ pass = true) ∧
      (n ∈ (s.shardWritten n pass scaleFF).lift.bad ↔ pass = false ∧ n ∈ s.lift.bad) ∧
      (n ∈ (s.shardWritten n pass scaleFF).lift.scaleFF ↔ scaleFF = true) := by
  unfold State.shardWritten State.setLift
  refine ⟨?_, ?_, ?_, ?_⟩
  · by_cases h : n ∈ s.lift.written <;> simp [h]
  · by_cases h : n ∈ s.lift.passed <;> cases pass <;> simp [h]
  · cases pass <;> simp
  · by_cases h : n ∈ s.lift.scaleFF <;> cases scaleFF <;> simp [h]

section
variable {s : State} {n : Nat} {rest : List Nat} (hbusy : s.lift.instBusy = true) (hleft : s.lift.instLeft = n :: rest)
include hbusy hleft

theorem execInstShardWritten_good (scaleFF : Bool) :
    exec (.instShardWritten n true scaleFF) s =
      .next ((s.shardWritten n (!scaleFF) scaleFF).setLift { (s.shardWritten n (!scaleFF) scaleFF).lift with instLeft := rest }) := by
  show execInstShardWritten n true scaleFF s = _
  unfold execInstShardWritten
  simp [hleft, hbusy]

theorem execInstShardWritten_wrong (scaleFF : Bool) :
    exec (.instShardWritten n false scaleFF) s =
      .next (if (s.mismatch (s.lift.installed.getD {}) (n + 3 * 2 ^ 32) n).2 then
          ((s.mismatch (s.lift.installed.getD {}) (n + 3 * 2 ^ 32) n).1.shardWritten n false false).setLift
            { ((s.mismatch (s.lift.installed.getD {}) (n + 3 * 2 ^ 32) n).1.shardWritten n false false).lift with instLeft := rest }
        else (s.mismatch (s.lift.installed.getD {}) (n + 3 * 2 ^ 32) n).1) := by
  show execInstShardWritten n false scaleFF s = _
  unfold execInstShardWritten
  simp [hleft, hbusy]

end

theorem execInstDone_done {s : State} (hbusy : s.lift.instBusy = true) (hleft : s.lift.instLeft = []) :
    exec .instDone s = .next ((s.setLift { s.lift with instBusy := false }).raise pgLF 4) :=
  congrArg Host.Outcome.next (if_pos (by simp [hbusy, hleft]))

/-! ## The statement -/

/-- Settles O49: each command is the branch that its lemma above names, and of the lift only the fields named there change. -/
theorem liftPatrolInstall : Obligations.LiftPatrolInstall := by
  unfold Obligations.LiftPatrolInstall
  refine ⟨fun s m w hbase hstreamed henabled hrun hnext => ?_, fun s m layer expert d b hbase hshard hb hlayer hclaim hneed hlanded hgood => ?_,
    fun s m layer expert hbase hshard hstreamed hexpert hlanded => ⟨_, execExpertLanded_peer hbase hshard hstreamed hexpert hlanded, rfl, rfl⟩,
    fun s hmounted hinstalled hclosed hoff => ?_, fun s m n hinstalled hon hmounted hn => ?_, fun s o r haccess => ?_,
    fun s n rest hbusy hleft => ?_, fun s => execInstDone_done⟩
  · intro again new
    rw [execLiftFillStart_starts hbase hstreamed henabled hrun hnext]
    have hservesAgain : ∀ b : WinBuf, b.servesAgain w = true ↔ again b := WinBuf.servesAgain_iff w
    refine ⟨fun hagain => ?_, fun hnone hroom => ?_, fun hnone hfull => ⟨fun hfree => ?_, fun hclaimed => ?_⟩⟩
    · simp only [← hservesAgain] at hagain ⊢
      obtain ⟨b, hb, hserves, hstart⟩ := State.startFill_again hagain
      rw [hstart]
      exact ⟨_, b, rfl, hb, hserves, mem_replaceFirst_new _ ⟨b, hb, hserves⟩, length_replaceFirst .., rfl⟩
    all_goals simp only [← hservesAgain, Bool.not_eq_true] at hnone
    · exact congrArg _ (State.startFill_room hnone hroom)
    · rw [State.startFill_free hnone hfull hfree]
      exact ⟨_, rfl, mem_replaceFirst_new _ (by simpa using hfree), length_replaceFirst .., rfl,
        fun b hb hheld => mem_replaceFirst_of_not _ hb (Option.isNone_eq_false_iff.2 hheld), rfl⟩
    · rw [State.startFill_full hnone hfull hclaimed]
      exact ⟨fun hblocked => by rw [hblocked, if_neg Bool.false_ne_true], fun hblocked => by rw [hblocked, if_pos rfl]⟩
  · have hexec : ∀ ok, _ := fun ok => execExpertLanded_waited ok hbase hshard hb hlayer hclaim hneed hlanded hgood
    refine ⟨⟨_, hexec true, ?_⟩, fun hfirst => ⟨_, hexec false, ?_⟩, fun hsecond => ⟨_, hexec false, ?_⟩⟩
    · rw [if_pos rfl, State.lift_landExpert]
      exact ⟨fun x => Lift.mem_landed_land, List.length_map .., rfl⟩
    · rw [if_neg Bool.false_ne_true, State.mismatch_first _ _ hfirst]
      exact ⟨rfl, rfl⟩
    · rw [if_neg Bool.false_ne_true, State.mismatch_second _ _ hsecond, State.lift_markBad, if_neg (by simpa [State.setLift] using hgood)]
      exact ⟨rfl, by simp [State.setLift], State.evStat_markBad _ hgood⟩
  · rw [execPatrolPassStart_may hmounted hinstalled hclosed hoff]
    exact ⟨fun hearly => congrArg _ (if_neg (Nat.not_le.2 hearly)), fun hdue => congrArg _ (if_pos hdue)⟩
  · have hexec : ∀ ok, _ := fun ok => execPatrolShardChecked_on ok hinstalled hon hmounted hn
    refine ⟨⟨_, hexec true, ?_⟩, fun hfirst => ?_, fun hsecond => ⟨_, hexec false, ?_⟩⟩
    · rw [if_pos rfl, State.lift_patrolNext, State.rd64_patrolNext]
      refine ⟨rfl, rfl, rfl, fun hmore => ?_, fun hlast => ⟨?_, State.evStat_patrolNext hlast⟩⟩
      · simpa [State.setLift, hon] using hmore
      · simpa [State.setLift, hon] using hlast
    · rw [hexec, if_neg Bool.false_ne_true, State.mismatch_first _ _ hfirst, if_neg Bool.false_ne_true]
    · rw [if_neg Bool.false_ne_true, State.mismatch_second _ _ hsecond, if_pos rfl, State.lift_patrolNext]
      exact ⟨State.mem_bad_markBad .., congrArg (· + 1) (State.patrolPos_markBad ..)⟩
  · intro a
    rw [execInstGo_pass haccess]
    exact ⟨fun h => congrArg _ (State.instGo_closed h), fun hidle hopen h => congrArg _ (State.instGo_unaligned hidle hopen h),
      fun hidle hopen h => congrArg _ (State.instGo_begins hidle hopen h)⟩
  · refine ⟨⟨_, execInstShardWritten_good hbusy hleft false, rfl, ?_⟩, ⟨_, execInstShardWritten_good hbusy hleft true, rfl, ?_⟩,
      fun hfirst => ?_, fun hsecond => ⟨_, execInstShardWritten_wrong hbusy hleft false, ?_⟩⟩
    · obtain ⟨hwritten, hpassed, hbad, -⟩ := s.shardWritten_fields n true false
      exact ⟨hwritten, hpassed.2 rfl, fun h => Bool.noConfusion (hbad.1 h).1, rfl⟩
    · obtain ⟨hwritten, hpassed, -, hscale⟩ := s.shardWritten_fields n false true
      exact ⟨hwritten, fun h => Bool.noConfusion (hpassed.1 h), hscale.2 rfl, rfl⟩
    · rw [execInstShardWritten_wrong hbusy hleft, State.mismatch_first _ _ hfirst, if_neg Bool.false_ne_true]
    · rw [State.mismatch_second _ _ hsecond, if_pos rfl]
      obtain ⟨-, hpassed, hbad, -⟩ := State.shardWritten_fields
        ((s.setLift { s.lift with retried := s.lift.retried.filter (· ≠ n + 3 * 2 ^ 32) }).markBad (s.lift.installed.getD {}) n) n false false
      exact ⟨rfl, hbad.2 ⟨rfl, State.mem_bad_markBad ..⟩, fun h => Bool.noConfusion (hpassed.1 h)⟩

end Sys2Proof.Machine
end

section
/-!
PROOF. The five collectives: what a member reads, writes and answers (R230, R237, R246, R247). That COUNT of ALL_GATHER and ALL_TO_ALL is one member's
piece is log entry 42.
-/

namespace Sys2Proof.Machine

/-! ## What a collective comes to -/

theorem State.opcode_of_taken {s : State} {c : CmdRef} {op : Nat} {x : Started} (h : s.taken c op = some x) : x.opcode = op := by
  obtain ⟨-, hfilter⟩ := Option.filter_eq_some_iff.1 h
  simp only [Bool.and_eq_true, beq_iff_eq] at hfilter
  exact hfilter.1

section
variable {s : State} {c : CmdRef} {op : Nat} {x : Started} (srcLen : Group → Nat → Nat) (f : CollFn) (htaken : s.taken c op = some x)
include htaken

theorem State.collective_quarantined (hquar : s.fab.quarantined = true) : s.collective c op srcLen f = s.refuseCmd x 0x032A := by
  unfold State.collective
  rw [State.onTaken_of_taken htaken]
  exact if_pos hquar

variable (hquar : s.fab.quarantined = false)
include hquar

/-- Under another GEN the command is abandoned (R237). -/
theorem State.collective_stale (hgroup : s.groupAt (field x.ops 16 19) (field x.ops 20 21) = none) :
    s.collective c op srcLen f = s.endCmd x 7 { reason := 0x032B } := by
  unfold State.collective
  rw [State.onTaken_of_taken htaken]
  simp [hquar, hgroup]

variable {g : Group} (hgroup : s.groupAt (field x.ops 16 19) (field x.ops 20 21) = some g)
include hgroup

/-- A BROADCAST whose ROOT is no rank of the group. -/
theorem State.collective_noRoot (hop : op = 0x53) (hroot : g.size ≤ field x.ops 22 23) : s.collective c op srcLen f = s.refuseCmd x 0x0259 := by
  unfold State.collective
  rw [State.onTaken_of_taken htaken]
  simp [hquar, hgroup, hop, hroot]

variable (hranked : ¬ (op = 0x53 ∧ g.size ≤ field x.ops 22 23))
include hranked

theorem State.collective_unreachable {m : Nat} (hlost : s.lostMember g = some m) : s.collective c op srcLen f = s.endCmd x 6 { fabric := m } := by
  unfold State.collective
  rw [State.onTaken_of_taken htaken]
  simp [hquar, hgroup, hranked, hlost]

/-- The source is read, the result written at the destination, and the command runs on. -/
theorem State.collective_runs {b r : List Byte} {s1 s2 : State} (hlost : s.lostMember g = none)
    (hload : s.load x.who (field x.ops 24 31) (srcLen g (field x.ops 40 47)) = .ok (b, s1)) (hresult : f g (field x.ops 40 47) b = some r)
    (hstore : s1.store x.who (field x.ops 32 39) r = .ok s2) :
    s.collective c op srcLen f = (s2.emit (.collective op g.id (s.collVc x) b)).setCmd { x with phase := .running, aux := r.length } := by
  unfold State.collective
  rw [State.onTaken_of_taken htaken]
  simp [hquar, hgroup, hranked, hlost, hload, hresult, hstore]

end

/-! ## The members' buffers -/

/-- The buffers stand with the member's own in its place, once there are SIZE of them and each has the length. -/
theorem ownIn_of_shape {α : Type} {g : Group} {len : Nat} {inputs : List (List α)} {own : List α} (hsize : inputs.length = g.size)
    (hlen : ∀ l ∈ inputs.set g.rank own, l.length = len) : ownIn g len inputs own = some (inputs.set g.rank own) := by
  unfold ownIn
  exact if_pos (by simpa [hsize] using hlen)

/-- Each of the five commands is a collective of its opcode. -/
theorem exec_collective {s : State} {c : CmdRef} {x : Started} {fs : List (List F32)} {bs : List (List Byte)} {data : List Byte} {i : Instr}
    (h : i = .allReduce c fs ∧ s.taken c 0x50 = some x ∨ i = .reduceScatter c fs ∧ s.taken c 0x51 = some x ∨
      i = .allGather c bs ∧ s.taken c 0x52 = some x ∨ i = .broadcast c data ∧ s.taken c 0x53 = some x ∨
      i = .allToAll c bs ∧ s.taken c 0x54 = some x) :
    ∃ op srcLen f, s.taken c op = some x ∧ exec i s = .next (s.collective c op srcLen f) := by
  obtain ⟨rfl, htaken⟩ | ⟨rfl, htaken⟩ | ⟨rfl, htaken⟩ | ⟨rfl, htaken⟩ | ⟨rfl, htaken⟩ := h <;> exact ⟨_, _, _, htaken, rfl⟩

/-! ## BROADCAST -/

section
variable {s s1 s2 : State} {c : CmdRef} {x : Started} {g : Group} {b : List Byte} (data : List Byte) (htaken : s.taken c 0x53 = some x)
  (hquar : s.fab.quarantined = false) (hgroup : s.groupAt (field x.ops 16 19) (field x.ops 20 21) = some g) (hlost : s.lostMember g = none)
  (hroot : field x.ops 22 23 < g.size)
include htaken hquar hgroup hlost hroot

/-- The root sends the bytes of its own source, which stand at its destination too. -/
theorem execBroadcast_root (hrank : g.rank = field x.ops 22 23) (hload : s.load x.who (field x.ops 24 31) (field x.ops 40 47) = .ok (b, s1))
    (hstore : s1.store x.who (field x.ops 32 39) b = .ok s2) :
    exec (.broadcast c data) s =
      .next ((s2.emit (.collective 0x53 g.id (s.collVc x) b)).setCmd { x with phase := .running, aux := b.length }) := by
  obtain ⟨hfound, -⟩ := Option.filter_eq_some_iff.1 htaken
  refine congrArg Host.Outcome.next (State.collective_runs _ _ htaken hquar hgroup (fun h => hroot.not_ge h.2) hlost ?_ ?_ hstore)
  · simpa [hfound, hrank] using hload
  · simp [hfound, hrank]

/-- Every other member reads nothing and receives the root's bytes. -/
theorem execBroadcast_member (hrank : g.rank ≠ field x.ops 22 23) (hlen : data.length = field x.ops 40 47)
    (hload : s.load x.who (field x.ops 24 31) 0 = .ok (b, s1)) (hstore : s1.store x.who (field x.ops 32 39) data = .ok s2) :
    exec (.broadcast c data) s =
      .next ((s2.emit (.collective 0x53 g.id (s.collVc x) b)).setCmd { x with phase := .running, aux := data.length }) := by
  obtain ⟨hfound, -⟩ := Option.filter_eq_some_iff.1 htaken
  refine congrArg Host.Outcome.next (State.collective_runs _ _ htaken hquar hgroup (fun h => hroot.not_ge h.2) hlost ?_ ?_ hstore)
  · simpa [hfound, hrank] using hload
  · simp [hfound, hrank, hlen]

end

/-- Settles O44: each command is a collective, whose ends the lemmas above name; what differs is the function of the members' buffers. -/
theorem collectiveResults : Obligations.CollectiveResults := by
  unfold Obligations.CollectiveResults
  intro s s1 s2 c x g b n src dst ran
  refine ⟨fun hquar hgroup hlost => ⟨fun inputs hload hsize hlen => ?_, fun inputs hsize => ?_, fun data htaken hroot => ?_⟩,
    fun fs bs data i hi => ?_⟩
  · have hown := ownIn_of_shape hsize hlen
    refine ⟨fun htaken hstore => ?_, fun htaken hstore => ?_⟩ <;>
      exact congrArg Host.Outcome.next
        (State.collective_runs _ _ htaken hquar hgroup (fun h => absurd h.1 (by decide)) hlost hload (congrArg (Option.map _) hown) hstore)
  · refine ⟨fun htaken hload hlen hstore => ?_, fun htaken hload hlen hstore => ?_⟩ <;>
      exact congrArg Host.Outcome.next
        (State.collective_runs _ _ htaken hquar hgroup (fun h => absurd h.1 (by decide)) hlost hload
          (congrArg (Option.map _) (ownIn_of_shape hsize hlen)) hstore)
  · exact ⟨execBroadcast_root data htaken hquar hgroup hlost hroot, execBroadcast_member data htaken hquar hgroup hlost hroot⟩
  · obtain ⟨op, srcLen, f, htaken, hexec⟩ := exec_collective hi
    have hop := State.opcode_of_taken htaken
    rw [hexec, hop]
    exact ⟨fun hquar => congrArg _ (State.collective_quarantined _ _ htaken hquar),
      fun hquar hgroup => congrArg _ (State.collective_stale _ _ htaken hquar hgroup),
      fun hquar hgroup => ⟨fun hbcast hout => congrArg _ (State.collective_noRoot _ _ htaken hquar hgroup hbcast hout),
        fun m hlost hroot => congrArg _ (State.collective_unreachable _ _ htaken hquar hgroup (fun h => (hroot h.1).not_ge h.2) hlost)⟩⟩

end Sys2Proof.Machine
end

section
/-!
PROOF. The registers that memory accesses leave alone: a demand access counts in the pages of the queue dies and the dies (R203, R420), which lie above
those of the links and the engines.
-/

namespace Sys2Proof.Machine

/-- From `s` to `t` no register of a page below the queue dies' changes. -/
structure LowRegsKept (s t : State) : Prop where
  rd : ∀ page off, page < 0x20 → off < 0x1000 → t.rd page off = s.rd page off

theorem LowRegsKept.of_regs {s t : State} (h : t.regs = s.regs) : LowRegsKept s t :=
  ⟨fun page off _ _ => congrArg (AMap.get (rstAt page off) · (regKey page off)) h⟩

theorem LowRegsKept.rfl {s : State} : LowRegsKept s s := .of_regs (Eq.refl _)

theorem LowRegsKept.trans {s t u : State} (h : LowRegsKept s t) (g : LowRegsKept t u) : LowRegsKept s u :=
  ⟨fun page off hpage hoff => (g.rd page off hpage hoff).trans (h.rd page off hpage hoff)⟩

theorem LowRegsKept.ite {s a b : State} {c : Prop} [Decidable c] (h : LowRegsKept s a) (g : LowRegsKept s b) : LowRegsKept s (if c then a else b) := by
  split <;> assumption

theorem LowRegsKept.foldl {α : Type} {f : State → α → State} (hf : ∀ s x, LowRegsKept s (f s x)) (l : List α) (s : State) :
    LowRegsKept s (l.foldl f s) := by
  induction l generalizing s with
  | nil => exact .rfl
  | cons x l ih => exact (hf s x).trans (ih _)

theorem LowRegsKept.setMem (s : State) (m : Mem) : LowRegsKept s (s.setMem m) := .of_regs (Eq.refl _)

/-- A register write is seen at its own key only. -/
theorem State.wr_lowRegs (s : State) {page off : Nat} (v : Word) (hpage : 0x20 ≤ page) : LowRegsKept s (s.wr page off v) :=
  ⟨fun p o hp ho => State.rd_wr_ne _ _ _ _ _ _ (by unfold regKey; omega)⟩

theorem State.bump_lowRegs (s : State) {page : Nat} (off n : Nat) (hpage : 0x20 ≤ page) : LowRegsKept s (s.bump page off n) :=
  .ite .rfl ((State.wr_lowRegs _ _ hpage).trans (State.wr_lowRegs _ _ hpage))

/-! ## A demand access -/

theorem State.touchPage_lowRegs (s : State) (who : Option Nat) (n : Nat) : LowRegsKept s (s.touchPage who n) := by
  unfold State.touchPage
  extract_lets e old s1
  have hpage : ∀ x : PageEnt, LowRegsKept s (s.setPage n x) := fun x => .of_regs rfl
  have hwant : ∀ t : State, LowRegsKept t (t.want n) := fun t => .ite (.setMem ..) .rfl
  have h1 : LowRegsKept s s1 := by
    show LowRegsKept s (match AMap.find s.mem.migr n with | some m => _ | none => _)
    split
    · exact .ite ((hpage _).trans (.setMem ..)) (hpage _)
    · exact (hpage _).trans (hwant _)
  split
  · exact .ite h1 (h1.trans (.ite .rfl (.setMem ..)))
  · exact h1

theorem State.pickOf_lowRegs (s : State) (l : List Nat) : LowRegsKept s (s.pickOf l).2 := by
  cases l with
  | nil => exact .rfl
  | cons x xs => exact .of_regs rfl

theorem State.allocLine_lowRegs (s : State) (line : Nat) : LowRegsKept s (s.allocLine line) := by
  unfold State.allocLine
  extract_lets e k ways put
  have hpick : ∀ {w s1}, s.pickOf ways = (w, s1) → LowRegsKept s s1 := fun hw => by
    simpa only [hw] using s.pickOf_lowRegs ways
  split
  · exact .setMem ..
  · split
    · next w s1 hw => exact (hpick hw).trans (.setMem ..)
    · next s1 hw => exact hpick hw

theorem State.cacheLine_lowRegs (s : State) (line : Nat) : LowRegsKept s (s.cacheLine line) :=
  have hslice : 0x20 ≤ pgQD (s.lineHome line).1 := Nat.le_add_right ..
  .ite .rfl (.ite (State.bump_lowRegs _ _ _ hslice) ((State.bump_lowRegs _ _ _ hslice).trans (State.allocLine_lowRegs ..)))

theorem State.streamLine_lowRegs (s : State) (h line : Nat) : LowRegsKept s (s.streamLine h line) := by
  unfold State.streamLine
  extract_lets l old t1 l1 streams s1
  have h1 : LowRegsKept s s1 := .setMem ..
  have hprefetch : ∀ (t : State) x, LowRegsKept t (t.prefetchLine x) := fun t x => .ite .rfl (State.allocLine_lowRegs ..)
  exact .ite (h1.trans (.foldl (fun t x => .ite (hprefetch t x) .rfl) ..)) h1

theorem State.bridgeLine_lowRegs (s : State) (h line : Nat) (isRead : Bool) : LowRegsKept s (s.bridgeLine h line isRead) :=
  .ite (State.bump_lowRegs _ _ _ (by unfold pgDIE; omega)) .rfl

theorem State.cacheRange_lowRegs (s : State) (who : MemWho) (dua len : Nat) (isRead : Bool) : LowRegsKept s (s.cacheRange who dua len isRead) := by
  refine .foldl (fun s l => ?_) _ _
  have hline := s.cacheLine_lowRegs l
  split
  · next h _ =>
    have hbridge := hline.trans ((s.cacheLine l).bridgeLine_lowRegs h.val l isRead)
    exact .ite (hbridge.trans (State.streamLine_lowRegs ..)) hbridge
  · exact hline

theorem State.demand_lowRegs (s : State) (who : MemWho) (dua len : Nat) (isRead : Bool) : LowRegsKept s (s.demand who dua len isRead) :=
  have htouch : LowRegsKept s (s.touchRange who dua len) := .ite (.foldl (fun s n => s.touchPage_lowRegs (whoNum who) n) _ s) .rfl
  .ite (htouch.trans (State.cacheRange_lowRegs ..)) .rfl

theorem State.waitChunks_lowRegs (s : State) (dua len : Nat) : LowRegsKept s (s.waitChunks dua len) := by
  refine .foldl (fun s n => ?_) _ _
  split
  · exact .setMem ..
  · exact .rfl

/-! ## A store -/

theorem State.store_lowRegs {s t : State} {who : MemWho} {dua : Nat} {data : List Byte} (h : s.store who dua data = .ok t) : LowRegsKept s t := by
  unfold State.store at h
  split at h
  · cases h; exact .rfl
  · split at h
    · cases h
    · dsimp only at h
      split at h
      · cases h
      · cases h
        rw [State.storeRaw_mem]
        exact ((State.demand_lowRegs ..).trans (State.waitChunks_lowRegs ..)).trans (.setMem ..)

theorem State.storeTry_lowRegs (s : State) (who : MemWho) (dua : Nat) (data : List Byte) : LowRegsKept s (s.storeTry who dua data) := by
  unfold State.storeTry
  split
  · exact State.store_lowRegs ‹_›
  · exact .rfl

end Sys2Proof.Machine
end

section
/-!
PROOF. What records, audits, events and the rink leave of the flue links: the links, the flits delivered, the messages sent, the counters of the links'
pages, and the bits set in their audit registers and in the event words (R228, R367, R369, R414).
-/

namespace Sys2Proof.Machine

/-- From `s` to `t` no link changes and no flit is delivered, messages are only added, the links' counters stand, and neither an event nor a mismatch of a
link that was set is lost. -/
structure FlueKept (s t : State) : Prop where
  links : t.fab.links = s.fab.links
  delivered : t.fab.delivered = s.fab.delivered
  out : s.out <:+ t.out
  events : ∀ page k, (s.hdr page).evStat.getLsbD k = true → (t.hdr page).evStat.getLsbD k = true
  counters : ∀ n off, n < 16 → off < 0x048 → t.rd (pgFL n) off = s.rd (pgFL n) off
  audits : ∀ n k, n < 16 → k < 16 → (s.rd (pgFL n) 0x048).getLsbD k = true → (t.rd (pgFL n) 0x048).getLsbD k = true

theorem FlueKept.trans {s t u : State} (h : FlueKept s t) (g : FlueKept t u) : FlueKept s u where
  links := g.links.trans h.links
  delivered := g.delivered.trans h.delivered
  out := h.out.trans g.out
  events page k hk := g.events page k (h.events page k hk)
  counters n off hn hoff := (g.counters n off hn hoff).trans (h.counters n off hn hoff)
  audits n k hn hk hset := g.audits n k hn hk (h.audits n k hn hk hset)

theorem FlueKept.ite {s a b : State} {c : Prop} [Decidable c] (h : FlueKept s a) (g : FlueKept s b) : FlueKept s (if c then a else b) := by
  split <;> assumption

/-- Changes outside registers, page headers, messages, links and flits delivered. -/
theorem FlueKept.of_eq {s t : State} (hlinks : t.fab.links = s.fab.links) (hdelivered : t.fab.delivered = s.fab.delivered) (hout : t.out = s.out)
    (hregs : t.regs = s.regs) (hpages : t.pages = s.pages) : FlueKept s t := by
  have hrd : t.rd = s.rd := funext₂ fun page off => congrArg (AMap.get (rstAt page off) · (regKey page off)) hregs
  have hhdr : t.hdr = s.hdr := funext fun page => congrArg (AMap.get ({} : PageHdr) · page) hpages
  exact ⟨hlinks, hdelivered, hout ▸ List.suffix_rfl, fun _ _ h => hhdr ▸ h, fun _ _ _ _ => hrd ▸ rfl, fun _ _ _ _ h => hrd ▸ h⟩

theorem FlueKept.rfl {s : State} : FlueKept s s := .of_eq (Eq.refl _) (Eq.refl _) (Eq.refl _) (Eq.refl _) (Eq.refl _)

theorem FlueKept.foldl {α : Type} {f : State → α → State} (hf : ∀ s x, FlueKept s (f s x)) (l : List α) (s : State) : FlueKept s (l.foldl f s) := by
  induction l generalizing s with
  | nil => exact .rfl
  | cons x l ih => exact (hf s x).trans (ih _)

theorem FlueKept.link {s t : State} (h : FlueKept s t) : t.link = s.link := funext fun n => congrArg (AMap.get ({} : Link) · n) h.links

theorem FlueKept.rd64 {s t : State} (h : FlueKept s t) {n off : Nat} (hn : n < 16) (hoff : off + 4 < 0x048) :
    t.rd64 (pgFL n) off = s.rd64 (pgFL n) off := by
  unfold State.rd64
  rw [h.counters n off hn (by omega), h.counters n (off + 4) hn hoff]

/-! ## The state's own updates -/

theorem State.emit_flue (s : State) (o : Output) : FlueKept s (s.emit o) :=
  ⟨rfl, rfl, List.suffix_cons .., fun _ _ h => h, fun _ _ _ _ => rfl, fun _ _ _ _ h => h⟩

/-- A write in a page that is no link's. -/
theorem State.wr_flue (s : State) {page off : Nat} (v : Word) (hpage : page < 0x10 ∨ 0x20 ≤ page) (hoff : off < 0x1000) :
    FlueKept s (s.wr page off v) := by
  have hrd : ∀ n o, n < 16 → o < 0x1000 → (s.wr page off v).rd (pgFL n) o = s.rd (pgFL n) o := fun n o hn ho =>
    State.rd_wr_ne _ _ _ _ _ _ (by unfold regKey pgFL; omega)
  exact ⟨rfl, rfl, List.suffix_rfl, fun _ _ h => h, fun n o hn ho => hrd n o hn (by omega), fun n k hn _ h => by rwa [hrd n _ hn (by decide)]⟩

theorem State.bump_flue (s : State) {page off : Nat} (n : Nat) (hpage : page < 0x10 ∨ 0x20 ≤ page) (hoff : off < 0xFFC) :
    FlueKept s (s.bump page off n) :=
  .ite .rfl ((State.wr_flue _ _ hpage (by omega)).trans (State.wr_flue _ _ hpage (by omega)))

/-- A header whose events stay set. -/
theorem State.setHdr_flue (s : State) {page : Nat} {h : PageHdr}
    (hevents : ∀ k, (s.hdr page).evStat.getLsbD k = true → h.evStat.getLsbD k = true) : FlueKept s (s.setHdr page h) := by
  refine ⟨rfl, rfl, List.suffix_rfl, fun j k hset => ?_, fun _ _ _ _ => rfl, fun _ _ _ _ h => h⟩
  rw [State.hdr_setHdr]
  split
  · next hj => exact hevents k (hj ▸ hset)
  · exact hset

theorem State.sendMsi_flue (s : State) (page : Nat) : FlueKept s (s.sendMsi page) :=
  .ite (.ite (.of_eq rfl rfl rfl rfl rfl) (State.emit_flue ..)) .rfl

theorem State.raise_flue (s : State) (page bit : Nat) : FlueKept s (s.raise page bit) := by
  unfold State.raise
  extract_lets h h' s1
  have h1 : FlueKept s s1 := State.setHdr_flue _ fun k hset => by simp [h', h, hset]
  exact .ite (h1.trans (State.sendMsi_flue ..)) h1

/-! ## Records and audits -/

theorem pgQP_high (p : Nat) : pgQP p < 0x10 ∨ 0x20 ≤ pgQP p := by
  unfold pgQP pgQPM
  split <;> omega

theorem State.storeTry_flue (s : State) (who : MemWho) (dua : Nat) (data : List Byte) : FlueKept s (s.storeTry who dua data) := by
  have hnear := s.storeTry_near who dua data
  have hregs := s.storeTry_lowRegs who dua data
  have hlow : ∀ n, n < 16 → pgFL n < 0x20 := fun n hn => by unfold pgFL; omega
  have hhdr : (s.storeTry who dua data).hdr = s.hdr := by rw [hnear]; rfl
  exact ⟨by rw [hnear], by rw [hnear], by rw [hnear], fun _ _ h => by rwa [hhdr],
    fun n off hn hoff => hregs.rd _ _ (hlow n hn) (by omega), fun n k hn _ h => by rwa [hregs.rd _ _ (hlow n hn) (by decide)]⟩

theorem State.produce_flue (s : State) (who : MemWho) {r : Ring} (data : List Byte) (hpage : r.ptrPage < 0x10 ∨ 0x20 ≤ r.ptrPage)
    (hprod : r.prod < 0x1000) : FlueKept s (s.produce who r data) :=
  (State.storeTry_flue ..).trans (State.wr_flue _ _ hpage hprod)

theorem State.setHeld_flue (s : State) (n : Nat) (x : HeldRecs) : FlueKept s (s.setHeld n x) := .of_eq rfl rfl rfl rfl rfl

theorem State.complete_flue (s : State) (qp : Nat) (c : CRec) : FlueKept s (s.complete qp c) := by
  have hput : FlueKept s (s.produce (whoOf qp) (ringCQ qp) c.bytes) :=
    State.produce_flue _ _ _ (pgQP_high qp) (by decide : 0x60C < 0x1000)
  unfold State.complete State.putComp
  exact .ite (.ite (hput.trans (State.raise_flue ..)) hput)
    (.ite ((State.setHeld_flue ..).trans (State.raise_flue ..)) (State.setHeld_flue ..))

theorem State.report_flue (s : State) (qp : Nat) (e : ERec) : FlueKept s (s.report qp e) := by
  have hput : FlueKept s (s.produce (whoOf qp) (ringEQ qp) e.bytes) :=
    State.produce_flue _ _ _ (pgQP_high qp) (by decide : 0x62C < 0x1000)
  unfold State.report State.putErr
  exact .ite (hput.trans (State.raise_flue ..))
    (.ite (.ite ((State.setHeld_flue ..).trans (State.raise_flue ..)) (State.setHeld_flue ..)) (State.bump_flue _ _ (pgQP_high qp) (by decide)))

theorem State.breach_flue (s : State) (law : Nat) {page off : Nat} (bits index : Nat) (hpage : page < 0x10 ∨ 0x20 ≤ page) (hoff : off < 0x1000) :
    FlueKept s (s.breach law page off bits index) := by
  unfold State.breach
  exact .ite .rfl (((State.wr_flue _ _ hpage hoff).trans (State.raise_flue ..)).trans (State.report_flue ..))

/-- A mismatch added to a link's audit register clears none. -/
theorem State.wr_audit_flue (s : State) (n bits index : Nat) :
    FlueKept s (s.wr (pgFL n) 0x048 ((s.rd (pgFL n) 0x048 &&& 0xFFFF) ||| BitVec.ofNat 32 bits ||| BitVec.ofNat 32 index)) := by
  refine ⟨rfl, rfl, List.suffix_rfl, fun _ _ h => h, fun m off hm hoff => State.rd_wr_ne _ _ _ _ _ _ (by unfold regKey pgFL; omega),
    fun m k hm hk hset => ?_⟩
  by_cases hmn : m = n
  · subst hmn
    rw [State.rd_wr]
    have hlow : (0xFFFF#32).getLsbD k = true := by interval_cases k <;> rfl
    simp [hset, hlow]
  · rwa [State.rd_wr_ne _ _ _ _ _ _ (by unfold regKey pgFL; omega)]

theorem State.checkLink_flue (s : State) (n : Nat) : FlueKept s (s.checkLink n) :=
  .ite .rfl (.foldl (fun s _ => .ite ((FlueKept.ite .rfl
    (((State.wr_audit_flue s n _ _).trans (State.raise_flue ..)).trans (State.report_flue ..))).trans (State.raise_flue ..)) .rfl) _ s)

theorem State.auditLink_flue (s : State) (n : Nat) : FlueKept s (s.auditLink n) := .ite .rfl (s.checkLink_flue n)

theorem State.auditQueue_flue (s : State) (n : Nat) : FlueKept s (s.auditQueue n) :=
  .ite .rfl (.ite .rfl (State.breach_flue _ _ _ _ (pgQP_high _) (by decide)))

/-! ## A command that ends -/

theorem State.setQueue_flue (s : State) (n : Nat) (x : Queue) : FlueKept s (s.setQueue n x) := .of_eq rfl rfl rfl rfl rfl

theorem State.finish_flue (s : State) (c : Started) (status : Nat) (i : EndInfo) : FlueKept s (s.finish c status i) := by
  unfold State.finish
  extract_lets s2 s3 s4 s5 s6
  have h2 : FlueKept s s2 := .ite .rfl (State.complete_flue ..)
  have h3 : FlueKept s s3 := h2.trans (State.bump_flue _ _ (pgQP_high _) (by decide))
  have h4 : FlueKept s s4 := .ite (h3.trans (State.bump_flue _ _ (pgQP_high _) (by decide))) h3
  have h5 : FlueKept s s5 := .ite (h4.trans (State.report_flue ..)) h4
  have h6 : FlueKept s s6 := .ite (h5.trans (State.bump_flue _ _ (by decide) (by decide))) h5
  exact (h6.trans (State.setQueue_flue ..)).trans (State.auditQueue_flue ..)

theorem State.endCmd_flue (s : State) (c : Started) (status : Nat) (i : EndInfo) : FlueKept s (s.endCmd c status i) :=
  have hdrop : FlueKept s (s.dropCmd c) := .of_eq rfl rfl rfl rfl rfl
  (hdrop.trans (State.finish_flue ..)).trans (.ite (State.setQueue_flue ..) .rfl)

theorem State.undefineDst_flue (s : State) (c : Started) : FlueKept s (s.undefineDst c) := by
  unfold State.undefineDst
  split
  · exact .ite .rfl ((State.storeTry_flue ..).trans (.of_eq rfl rfl rfl rfl rfl))
  · exact .rfl

/-! ## The rink (R240, R343, R344) -/

theorem State.endBarrier_flue (s : State) (n status : Nat) (l : List Nat) : FlueKept s (s.endBarrier n status l) :=
  have hdel : FlueKept s (s.setFab { s.fab with barriers := AMap.del s.fab.barriers n }) := .of_eq rfl rfl rfl rfl rfl
  hdel.trans (.foldl (fun _ _ => State.emit_flue ..) _ _)

theorem State.arriveBarrier_flue (s : State) (n src : Nat) (members : List Nat) : FlueKept s (s.arriveBarrier n src members) :=
  .ite (State.endBarrier_flue ..) (.ite (State.endBarrier_flue ..) (.of_eq rfl rfl rfl rfl rfl))

theorem State.putSem_flue (s : State) (n : Nat) (m : Sem) : FlueKept s (s.putSem n m) :=
  have hset : FlueKept s (s.setSem n m) := .of_eq rfl rfl rfl rfl rfl
  hset.trans (.ite .rfl (.ite .rfl (State.breach_flue _ _ _ _ (by decide) (by decide))))

theorem State.tryRinkWait_flue {s t : State} {w : RinkWait} (h : s.tryRinkWait w = some t) : FlueKept s t := by
  obtain ⟨m, -, rfl⟩ := Option.map_eq_some_iff.1 h
  exact (State.putSem_flue ..).trans (State.emit_flue ..)

theorem State.wakeRink_flue (s : State) (n : Nat) : FlueKept s (s.wakeRink n) := by
  refine .foldl (fun s w => ?_) _ _
  split
  · next t ht => exact (State.tryRinkWait_flue ht).trans (.of_eq rfl rfl rfl rfl rfl)
  · exact .rfl

theorem State.rinkDo_flue (s : State) (src : Nat) (epoch : Word) (op : RinkOp) : FlueKept s (s.rinkDo src epoch op) := by
  cases op with
  | wait n count part =>
    refine .ite (State.emit_flue ..) (.ite (State.emit_flue ..) ?_)
    dsimp only
    split
    · exact State.tryRinkWait_flue ‹_›
    · exact .of_eq rfl rfl rfl rfl rfl
  | signal n count part =>
    have hdropped : FlueKept s s.dropSignal := (State.bump_flue _ _ (by decide) (by decide)).trans (State.raise_flue ..)
    refine .ite (State.emit_flue ..) (.ite (State.emit_flue ..) (.ite (hdropped.trans (State.emit_flue ..)) ?_))
    split
    · exact ((State.putSem_flue ..).trans (State.emit_flue ..)).trans (State.wakeRink_flue ..)
    · exact State.emit_flue ..
  | barrier n members => exact .ite (State.emit_flue ..) (State.arriveBarrier_flue ..)

theorem State.loseMember_flue (s : State) (f : Nat) : FlueKept s (s.loseMember f) :=
  have hwaits : FlueKept s (s.setFab { s.fab with rinkWaits := s.fab.rinkWaits.filter (fun w => w.src ≠ f) }) := .of_eq rfl rfl rfl rfl rfl
  hwaits.trans (.foldl (fun _ _ => State.endBarrier_flue ..) _ _)

theorem State.loseDest_flue (s : State) (f : Nat) : FlueKept s (s.loseDest f) :=
  have hcmds := FlueKept.foldl (fun (s : State) x => (s.undefineDst_flue x).trans ((s.undefineDst x).endCmd_flue x 6 { fabric := f }))
    (s.collectivesOf (fun g => g.has f)) s
  ((hcmds.trans (State.raise_flue ..)).trans (State.loseMember_flue ..)).trans (State.report_flue ..)

end Sys2Proof.Machine
end

section
/-!
PROOF. The audit of law 0 at a link, and which flit of a link leaves (R226 to R228, R237, R367, R369). That a mismatch which stands is not reported again is
log entry 163.
-/

namespace Sys2Proof.Machine

/-! ## Law 0 (R367) -/

/-- The credits and the buffered flits of every channel of a link are accounted for. -/
def State.CreditsBalance (s : State) (n : Nat) : Prop :=
  ∀ v, v < 4 → ((s.link n).chan v).held + ((s.link n).chan v).flight = vcTotal v ∧ ((s.link n).chan v).buf = s.buffered n v

theorem State.auditLink_of_balance {s : State} {n : Nat} (h : s.CreditsBalance n) : s.auditLink n = s := by
  unfold State.auditLink State.checkLink
  have hgood : ∀ v, v < 4 → (decide (((s.link n).chan v).held + ((s.link n).chan v).flight ≠ vcTotal v) ||
      decide (((s.link n).chan v).buf ≠ s.buffered n v)) = false := fun v hv => by simp [h v hv]
  simp only [List.foldl_cons, List.foldl_nil, hgood, Nat.reduceLT, Bool.false_eq_true, if_false, ite_self]

/-- What a step of a fold sets and no step clears is set at the end. -/
theorem foldl_sets {α : Type} {f : State → α → State} {P : State → Prop} (hkeep : ∀ s x, P s → P (f s x)) {v : α} (hset : ∀ s, P (f s v))
    {l : List α} (s : State) (hv : v ∈ l) : P (l.foldl f s) := by
  have hlater : ∀ (l : List α) t, P t → P (l.foldl f t) := fun l => by
    induction l with
    | nil => exact fun _ h => h
    | cons y l ih => exact fun t h => ih _ (hkeep t y h)
  obtain ⟨l1, l2, rfl⟩ := List.append_of_mem hv
  rw [List.foldl_append]
  exact hlater l2 _ (hset _)

/-- Has the audit of a link shown a channel's mismatch? -/
def State.ShowsMismatch (s : State) (n v : Nat) : Prop :=
  (s.rd (pgFL n) 0x048).getLsbD v = true ∧ (s.hdr (pgFL n)).evStat.getLsbD 3 = true

theorem FlueKept.showsMismatch {s t : State} (h : FlueKept s t) {n v : Nat} (hn : n < 16) (hv : v < 4) (hs : s.ShowsMismatch n v) :
    t.ShowsMismatch n v := by
  obtain ⟨haudit, hevent⟩ := hs
  exact ⟨h.audits n v hn (by omega) haudit, h.events _ _ hevent⟩

theorem State.breach_showsMismatch (s : State) {n v : Nat} (hn : n < 16) (hv : v < 4) :
    ((s.breach 0 (pgFL n) 0x048 (2 ^ v) 0).raise (pgFL n) 3).ShowsMismatch n v := by
  refine ⟨(State.raise_flue ..).audits n v hn (by omega) ?_, State.evStat_raise _ (by decide)⟩
  have hbit : (BitVec.ofNat 32 (2 ^ v)).getLsbD v = true := by interval_cases v <;> rfl
  unfold State.breach
  dsimp only
  split
  · next hstands =>
    rw [← hstands, BitVec.getLsbD_and, Bool.and_eq_true] at hbit
    exact hbit.1
  · refine ((State.raise_flue ..).trans (State.report_flue ..)).audits n v hn (by omega) ?_
    rw [State.rd_wr, BitVec.getLsbD_or, BitVec.getLsbD_or, hbit, Bool.or_true, Bool.true_or]

/-- A channel out of balance shows, in the audit register and as event 3 of the link's page (R369). -/
theorem State.auditLink_breaks {s : State} {n v : Nat} (hn : n < 16) (hv : v < 4) (hup : (s.link n).st = .up) (hresets : s.resets = [])
    (hbad : ((s.link n).chan v).held + ((s.link n).chan v).flight ≠ vcTotal v) : (s.auditLink n).ShowsMismatch n v := by
  unfold State.auditLink State.checkLink State.auditHeld
  rw [hresets, List.any_nil, if_neg Bool.false_ne_true, if_neg (not_not.2 hup)]
  have hlisted : v ∈ [0, 1, 2, 3] := by
    simp only [List.mem_cons, List.not_mem_nil, or_false]
    omega
  extract_lets bad
  refine foldl_sets (P := (·.ShowsMismatch n v)) (fun t x ht => ?_) (fun t => ?_) s hlisted
  · refine FlueKept.showsMismatch (.ite (.trans ?_ (State.raise_flue ..)) .rfl) hn hv ht
    exact .ite .rfl (((State.wr_audit_flue ..).trans (State.raise_flue ..)).trans (State.report_flue ..))
  · rw [if_pos (by simp [bad, hbad])]
    exact t.breach_showsMismatch hn hv

/-! ## Which channel is served (R226 to R228, R237) -/

theorem Link.chan_setChan (l : Link) (v : Nat) (c : Chan) (j : Nat) : (l.setChan v c).chan j = if j = v then c else l.chan j := AMap.get_put ..

section
variable {l : Link} {w : Waiting} (hqueue : l.queue = [w]) (quar : Bool) (weight : Nat → Nat) (now : Nat)
include hqueue

theorem Link.canSend_single (v : Nat) :
    l.canSend quar v = true ↔ w.flit.vc.val = v ∧ 0 < (l.chan v).held ∧ (v = 0 ∨ quar = false) := by
  simp [Link.canSend, hqueue, and_assoc]

/-- Without a credit, or quarantined on another channel than VC0, the one flit that waits stays. -/
theorem Link.nextVc_blocked (hblocked : quar = true ∧ w.flit.vc ≠ 0 ∨ (l.chan w.flit.vc.val).held = 0) : l.nextVc quar weight now = none := by
  have hnone : ∀ v, l.canSend quar v = false := fun v => by
    rw [Bool.eq_false_iff, Ne, Link.canSend_single hqueue]
    rintro ⟨rfl, hheld, hopen⟩
    obtain ⟨hquar, hvc⟩ | hempty := hblocked
    · obtain hzero | hquar' := hopen
      · exact hvc (Fin.ext hzero)
      · exact Bool.noConfusion (hquar.symm.trans hquar')
    · omega
  simp [Link.nextVc, hnone]

/-- Else its channel is served, whichever channel's turn it is. -/
theorem Link.nextVc_single (hopen : quar = false ∨ w.flit.vc = 0) (hheld : (l.chan w.flit.vc.val).held ≠ 0)
    (hcap : w.flit.vc = 0 → l.vc0At ≠ now ∨ l.vc0Sent < vc0Cap) : ∃ turn share, l.nextVc quar weight now = some (w.flit.vc.val, turn, share) := by
  have hcan := Link.canSend_single hqueue quar
  have hmine : l.canSend quar w.flit.vc.val = true := (hcan _).2 ⟨rfl, Nat.pos_of_ne_zero hheld, hopen.symm.imp_left (congrArg Fin.val)⟩
  have honly : ∀ v, l.canSend quar v = true → v = w.flit.vc.val := fun v hv => ((hcan v).1 hv).1.symm
  unfold Link.nextVc
  by_cases hzero : w.flit.vc = 0
  · have hval : w.flit.vc.val = 0 := congrArg Fin.val hzero
    rw [hval] at hmine ⊢
    exact ⟨_, _, if_pos (by simpa [hmine] using hcap hzero)⟩
  · have hpos : 0 < w.flit.vc.val := Nat.pos_of_ne_zero fun h => hzero (Fin.ext h)
    have hnot0 : l.canSend quar 0 = false := Bool.eq_false_iff.2 fun h => by have := honly 0 h; omega
    rw [hnot0, Bool.false_and, if_neg Bool.false_ne_true]
    by_cases hturn : (l.canSend quar l.turn && decide (0 < l.share)) = true
    · rw [if_pos hturn, honly l.turn (Bool.and_eq_true_iff.1 hturn).1]
      exact ⟨_, _, rfl⟩
    · rw [if_neg hturn]
      have hlisted : w.flit.vc.val ∈ [1, 2, 3].map (fun i => (l.turn - 1 + i) % 3 + 1) := by
        simp only [List.map_cons, List.map_nil, List.mem_cons, List.not_mem_nil, or_false]
        omega
      obtain ⟨v, hv⟩ := Option.isSome_iff_exists.1 (List.find?_isSome.2 ⟨_, hlisted, hmine⟩)
      rw [hv, honly v (List.find?_some hv)]
      exact ⟨_, _, rfl⟩

end

/-! ## A flit put on a free link -/

theorem State.link_enqueue (s : State) (n : Nat) (w : Waiting) (j : Nat) :
    (s.enqueue n w).link j = if j = n then { s.link n with queue := (s.link n).queue ++ [w] } else s.link j := State.link_setLink ..

theorem State.pump_idle {s : State} {n : Nat} (h : (s.link n).queue = []) : s.pump n = s.auditLink n := by
  unfold State.pump
  rw [h]
  rfl

section
variable {s : State} {n : Nat} {w : Waiting} (hqueue : (s.link n).queue = [w])
include hqueue

theorem State.pump_blocked (hblocked : s.fab.quarantined = true ∧ w.flit.vc ≠ 0 ∨ ((s.link n).chan w.flit.vc.val).held = 0) :
    s.pump n = s.auditLink n := by
  unfold State.pump
  rw [hqueue, List.length_singleton, State.serveLink]
  simp only [Link.nextVc_blocked hqueue _ _ _ hblocked]

/-- The flit leaves; the turn and the share of the channels may move on. -/
theorem State.pump_single (hopen : s.fab.quarantined = false ∨ w.flit.vc = 0) (hheld : ((s.link n).chan w.flit.vc.val).held ≠ 0)
    (hcap : w.flit.vc = 0 → (s.link n).vc0At ≠ s.nowUs ∨ (s.link n).vc0Sent < vc0Cap) :
    ∃ turn share, s.pump n = ((s.setLink n { s.link n with turn := turn, share := share }).leave n w).auditLink n := by
  obtain ⟨turn, share, hnext⟩ := Link.nextVc_single hqueue s.fab.quarantined (s.vcWeight n) s.nowUs hopen hheld hcap
  refine ⟨turn, share, ?_⟩
  unfold State.pump
  rw [hqueue, List.length_singleton, State.serveLink]
  simp only [hnext, hqueue, List.find?_cons, beq_self_eq_true]
  rfl

end

end Sys2Proof.Machine
end

section
/-!
PROOF. FLIT_SEND and CREDIT_RETURN (R225 to R229, R235, R237, R256, R367). That a flow's first number is 0
is log entry 98, and that credits returned acknowledge their channel's oldest flits log entry 48.
-/

namespace Sys2Proof.Machine

/-! ## A flit that leaves (R228, R229, R235) -/

/-- A flit as it leaves: with the module's own fabric ID and epoch, its flow's next number, and 256 bytes. -/
def State.sentFlit (s : State) (f : Flit) : Flit :=
  { f with src := s.ownId, epoch := s.ownEpoch, seq := s.txNext f, payload := padTo 256 f.payload }

/-- An entry put in the place of those it stands for is the one found. -/
theorem find?_replaced {α : Type} {p : α → Bool} {a : α} (l : List α) (h : p a = true) : (l.filter (fun x => !p x) ++ [a]).find? p = some a := by
  have hnone : (l.filter (fun x => !p x)).find? p = none := List.find?_eq_none.2 fun x hx => by simpa using (List.mem_filter.1 hx).2
  rw [List.find?_append, hnone, Option.none_or, List.find?_cons_of_pos h]

/-- A flow's number once it has stepped. -/
theorem State.txNext_stepTx (s : State) (f : Flit) : (s.stepTx f).txNext f = s.txNext f + 1 := by
  have hfound := find?_replaced (p := fun t : TxFlow => t.dst == f.dst && t.vc == f.vc.val && t.stream == f.stream)
    (a := { dst := f.dst, vc := f.vc.val, stream := f.stream, next := s.txNext f + 1 }) s.fab.txFlows (by simp)
  rw [State.txNext]
  unfold State.stepTx State.setFab
  simp only [hfound]

theorem State.fab_bump (s : State) (page off n : Nat) : (s.bump page off n).fab = s.fab := by rw [State.bump_frame]

theorem State.txNext_of_flows {s t : State} (h : t.fab.txFlows = s.fab.txFlows) (f : Flit) : t.txNext f = s.txNext f := by
  unfold State.txNext
  rw [h]

theorem State.rd64_emit (s : State) (o : Output) : (s.emit o).rd64 = s.rd64 := rfl

/-- What a link is once a new flit has left it. -/
def Link.afterLeave (l : Link) (f : Flit) (x : Sent) (rest : List Waiting) : Link :=
  let c := l.chan f.vc.val
  let y : Link := { l.setChan f.vc.val { c with held := c.held - 1, flight := c.flight + 1 } with replay := l.replay ++ [x], queue := rest }
  if f.vc.val = 0 then { y with vc0At := x.at_, vc0Sent := if l.vc0At = x.at_ then l.vc0Sent + 1 else 1 } else y

theorem State.leave_new (s : State) (n : Nat) (f : Flit) :
    s.leave n { flit := f } =
      ((((s.stepTx f).setLink n ((s.link n).afterLeave f ⟨s.sentFlit f, s.nowUs⟩ ((s.link n).queue.erase { flit := f }))).emit
        (.flit n (s.sentFlit f))).bump (pgFL n) 0x020 1) := rfl

theorem Link.replay_afterLeave (l : Link) (f : Flit) (x : Sent) (rest : List Waiting) : (l.afterLeave f x rest).replay = l.replay ++ [x] := by
  unfold Link.afterLeave
  split <;> rfl

theorem Link.queue_afterLeave (l : Link) (f : Flit) (x : Sent) (rest : List Waiting) : (l.afterLeave f x rest).queue = rest := by
  unfold Link.afterLeave
  split <;> rfl

/-- A credit taken goes into flight. -/
theorem Link.chan_afterLeave (l : Link) (f : Flit) (x : Sent) (rest : List Waiting) (v : Nat) :
    (l.afterLeave f x rest).chan v =
      if v = f.vc.val then { l.chan f.vc.val with held := (l.chan f.vc.val).held - 1, flight := (l.chan f.vc.val).flight + 1 } else l.chan v := by
  rw [← Link.chan_setChan]
  unfold Link.afterLeave
  split <;> rfl

theorem State.link_leave (s : State) (n : Nat) (f : Flit) (k : Nat) :
    (s.leave n { flit := f }).link k =
      if k = n then (s.link n).afterLeave f ⟨s.sentFlit f, s.nowUs⟩ ((s.link n).queue.erase { flit := f }) else s.link k := by
  rw [State.leave_new]
  unfold State.link
  rw [State.fab_bump]
  exact State.link_setLink ..

theorem State.out_leave (s : State) (n : Nat) (f : Flit) : (s.leave n { flit := f }).out = .flit n (s.sentFlit f) :: s.out := by
  rw [State.leave_new, State.bump_frame]
  rfl

theorem State.txNext_leave (s : State) (n : Nat) (f : Flit) : (s.leave n { flit := f }).txNext f = s.txNext f + 1 := by
  have hflows : (s.leave n { flit := f }).fab.txFlows = (s.stepTx f).fab.txFlows := by
    rw [State.leave_new, State.fab_bump]
    rfl
  rw [State.txNext_of_flows hflows, State.txNext_stepTx]

/-- Each flit sent is counted in the page of its link. -/
theorem State.rd64_leave (s : State) (n : Nat) (f : Flit) :
    (s.leave n { flit := f }).rd64 (pgFL n) 0x020 = (s.rd64 (pgFL n) 0x020 + 1) % 2 ^ 64 := by
  rw [State.leave_new, State.rd64_bump, State.rd64_emit]
  simp [State.stepTx]

theorem State.leave_balance {s : State} {n : Nat} {f : Flit} (hheld : ((s.link n).chan f.vc.val).held ≠ 0) (h : s.CreditsBalance n) :
    (s.leave n { flit := f }).CreditsBalance n := by
  intro v hv
  have hbuffered : (s.leave n { flit := f }).buffered n v = s.buffered n v := by
    rw [State.leave_new]
    unfold State.buffered
    rw [State.fab_bump]
    rfl
  obtain ⟨hcredits, hbuf⟩ := h v hv
  rw [State.link_leave, if_pos rfl, Link.chan_afterLeave, hbuffered]
  split
  · next hvc =>
    subst hvc
    exact ⟨by dsimp only; omega, hbuf⟩
  · exact ⟨hcredits, hbuf⟩

/-! ## FLIT_SEND -/

/-- The state in which a flit is about to leave an otherwise empty link, whose turn and share have moved on. -/
def State.serving (s : State) (n : Nat) (f : Flit) (turn share : Nat) : State :=
  (s.enqueue n { flit := f }).setLink n { s.link n with queue := [{ flit := f }], turn := turn, share := share }

theorem State.link_serving (s : State) (n : Nat) (f : Flit) (turn share k : Nat) :
    (s.serving n f turn share).link k = if k = n then { s.link n with queue := [{ flit := f }], turn := turn, share := share } else s.link k := by
  unfold State.serving
  rw [State.link_setLink, State.link_enqueue]
  split <;> rfl

section
variable {s : State} {n : LinkId} {f : Flit} (hup : (s.link n.val).st = .up) (hdomain : s.isUp (0x70 + n.val) = true)
  (henabled : s.enabled (pgFL n.val) = true) (hfence : (s.hdr (pgFL n.val)).fenced = false)
include hup hdomain henabled hfence

theorem execFlitSend_notCarried (hcarry : (s.link n.val).carries f.vc.val = false) : exec (.flitSend n f) s = .next (s.setReply (.refused 0x0602)) := by
  refine congrArg Host.Outcome.next ?_
  simp [hup, hdomain, henabled, hfence, hcarry]

variable (hcarry : (s.link n.val).carries f.vc.val = true)
include hcarry

theorem execFlitSend_noDest (hdst : 32768 ≤ f.dst) : exec (.flitSend n f) s = .next (s.setReply (.refused 0x0257)) := by
  refine congrArg Host.Outcome.next ?_
  simp [hup, hdomain, henabled, hfence, hcarry, hdst]

variable (hdst : f.dst < 32768)
include hdst

theorem execFlitSend_queued : exec (.flitSend n f) s = .next ((s.enqueue n.val { flit := f }).pump n.val) := by
  refine congrArg Host.Outcome.next ?_
  simp [hup, hdomain, henabled, hfence, hcarry, hdst]

variable (hqueue : (s.link n.val).queue = [])
include hqueue

theorem execFlitSend_waits (hblocked : s.fab.quarantined = true ∧ f.vc ≠ 0 ∨ ((s.link n.val).chan f.vc.val).held = 0) :
    exec (.flitSend n f) s = .next ((s.enqueue n.val { flit := f }).auditLink n.val) := by
  rw [execFlitSend_queued hup hdomain henabled hfence hcarry hdst]
  refine congrArg Host.Outcome.next (State.pump_blocked (w := { flit := f }) ?_ ?_) <;> rw [State.link_enqueue, if_pos rfl]
  · rw [hqueue, List.nil_append]
  · exact hblocked

theorem execFlitSend_leaves (hopen : s.fab.quarantined = false ∨ f.vc = 0) (hheld : ((s.link n.val).chan f.vc.val).held ≠ 0)
    (hcap : f.vc = 0 → (s.link n.val).vc0At ≠ s.nowUs ∨ (s.link n.val).vc0Sent < vc0Cap) (hbalance : s.CreditsBalance n.val) :
    ∃ turn share, exec (.flitSend n f) s = .next ((s.serving n.val f turn share).leave n.val { flit := f }) := by
  have hlink : (s.enqueue n.val { flit := f }).link n.val = { s.link n.val with queue := [{ flit := f }] } := by
    rw [State.link_enqueue, if_pos rfl, hqueue, List.nil_append]
  obtain ⟨turn, share, hpump⟩ := State.pump_single (s := s.enqueue n.val { flit := f }) (n := n.val) (w := { flit := f })
    (by rw [hlink]) hopen (by rw [hlink]; exact hheld) (by rw [hlink]; exact hcap)
  refine ⟨turn, share, ?_⟩
  have hserving := State.link_serving s n.val f turn share n.val
  rw [if_pos rfl] at hserving
  have hstays : (s.serving n.val f turn share).CreditsBalance n.val := fun v hv => by
    rw [hserving]
    exact hbalance v hv
  have hready : (((s.serving n.val f turn share).link n.val).chan f.vc.val).held ≠ 0 := by
    rw [hserving]
    exact hheld
  rw [hlink] at hpump
  rw [execFlitSend_queued hup hdomain henabled hfence hcarry hdst, hpump]
  exact congrArg _ (State.auditLink_of_balance (State.leave_balance hready hstays))

end

/-! ## CREDIT_RETURN -/

/-- A link whose channel has `k` credits back, its oldest `k` flits acknowledged (log entry 48). -/
def Link.credited (l : Link) (v k : Nat) : Link :=
  { l.setChan v { l.chan v with held := (l.chan v).held + k, flight := (l.chan v).flight - k } with replay := dropAcked v k l.replay }

theorem Link.chan_credited (l : Link) (v k j : Nat) :
    (l.credited v k).chan j = if j = v then { l.chan v with held := (l.chan v).held + k, flight := (l.chan v).flight - k } else l.chan j :=
  Link.chan_setChan ..

section
variable {s : State} {n : LinkId} {vc : Fin 4} {k : Nat} (hup : (s.link n.val).st = .up)
include hup

theorem execCreditReturn_up : exec (.creditReturn n vc k) s = .next ((s.setLink n.val ((s.link n.val).credited vc.val k)).pump n.val) :=
  congrArg Host.Outcome.next (if_neg (not_not.2 hup))

variable (hqueue : (s.link n.val).queue = [])
include hqueue

theorem execCreditReturn_idle : exec (.creditReturn n vc k) s = .next ((s.setLink n.val ((s.link n.val).credited vc.val k)).auditLink n.val) := by
  rw [execCreditReturn_up hup, State.pump_idle]
  rw [State.link_setLink, if_pos rfl]
  exact hqueue

variable (hbalance : s.CreditsBalance n.val)
include hbalance

/-- Credits that flits had taken come back in balance. -/
theorem execCreditReturn_balanced (hk : k ≤ ((s.link n.val).chan vc.val).flight) :
    exec (.creditReturn n vc k) s = .next (s.setLink n.val ((s.link n.val).credited vc.val k)) := by
  rw [execCreditReturn_idle hup hqueue, State.auditLink_of_balance]
  intro v hv
  obtain ⟨hcredits, hbuf⟩ := hbalance v hv
  rw [State.link_setLink, if_pos rfl, Link.chan_credited]
  split
  · next hvc =>
    subst hvc
    exact ⟨by dsimp only; omega, hbuf⟩
  · exact ⟨hcredits, hbuf⟩

/-- More credits than flits took break law 0 (R367). -/
theorem execCreditReturn_breaks (hk : ((s.link n.val).chan vc.val).flight < k) (hresets : s.resets = []) :
    ∃ t, exec (.creditReturn n vc k) s = .next t ∧ t.ShowsMismatch n.val vc.val := by
  refine ⟨_, execCreditReturn_idle hup hqueue, State.auditLink_breaks n.isLt vc.isLt ?_ hresets ?_⟩ <;> rw [State.link_setLink, if_pos rfl]
  · exact hup
  · obtain ⟨hcredits, -⟩ := hbalance vc.val vc.isLt
    rw [Link.chan_credited, if_pos rfl]
    dsimp only
    omega

end

end Sys2Proof.Machine
end

section
/-!
PROOF. FLIT_RECEIVED (R228, R229, R235, R236, R240, R256).
-/

namespace Sys2Proof.Machine

/-- Is a flit of a flow at the receiver: same sender, channel and stream (R229)? -/
def Flow.has (w : Flow) (f : Flit) : Bool := w.src == f.src && w.vc == f.vc.val && w.stream == f.stream

/-- A flow in the place of the one that stood for a flit's. -/
def State.putFlow (s : State) (f : Flit) (w : Flow) : State :=
  s.setFab { s.fab with flows := s.fab.flows.filter (fun v => !v.has f) ++ [w] }

section
variable {s : State} {n : Nat} {f : Flit} {w : Flow} (hflow : s.fab.flows.find? (·.has f) = some w)
include hflow

/-- The next flit of a flow with no early ones is delivered. -/
theorem State.acceptFlit_next (hnext : f.seq = w.next) (hearly : w.early = []) :
    s.acceptFlit n f = (s.putFlow f { w with next := w.next + 1 }).deliver (n, f) := by
  have hfound : s.fab.flows.find? (fun w => w.src == f.src && w.vc == f.vc.val && w.stream == f.stream) = some w := hflow
  unfold State.acceptFlit
  simp only [hfound, Option.getD_some, if_pos hnext, hearly, List.length_nil, takeEarly, List.foldl_nil, List.foldl_cons]
  rfl

/-- Any other flit of the flow waits for its turn or is dropped. -/
theorem State.delivered_acceptFlit (hnext : f.seq ≠ w.next) : (s.acceptFlit n f).fab.delivered = s.fab.delivered := by
  have hfound : s.fab.flows.find? (fun w => w.src == f.src && w.vc == f.vc.val && w.stream == f.stream) = some w := hflow
  unfold State.acceptFlit State.fillBuf
  simp only [hfound, Option.getD_some, if_neg hnext]
  split
  · split <;> rfl
  · rfl

end

/-- A delivery adds the flit and returns its credit over the link it came by; the rink operation it may carry touches neither (R228, R240). -/
theorem State.deliver_fields (s : State) {n : Nat} (f : Flit) (hn : n < 16) :
    (s.deliver (n, f)).fab.delivered = s.fab.delivered ++ [f] ∧ .credit n f.vc.val 1 ∈ (s.deliver (n, f)).out ∧
      (s.deliver (n, f)).rd64 (pgFL n) 0x028 = s.rd64 (pgFL n) 0x028 := by
  have hkept : FlueKept ((s.setFab { s.fab with delivered := s.fab.delivered ++ [f] }).emit (.credit n f.vc.val 1)) (s.deliver (n, f)) := by
    unfold State.deliver State.giveCredit
    rw [if_pos hn]
    dsimp only
    split
    · exact .ite (State.rinkDo_flue ..) .rfl
    · exact .rfl
  exact ⟨hkept.delivered, hkept.out.subset (List.mem_cons_self ..), (hkept.rd64 hn (by decide)).trans (by rw [State.rd64_emit]; simp)⟩

/-! ## The command -/

/-- The state once a link has seen a flit: its clock, and its count of flits received. -/
def State.seenFlit (s : State) (n : Nat) : State := (s.setLink n { s.link n with lastRx := s.nowUs }).bump (pgFL n) 0x028 1

theorem State.flows_seenFlit (s : State) (n : Nat) :
    (s.seenFlit n).fab.flows = s.fab.flows ∧ (s.seenFlit n).fab.delivered = s.fab.delivered := by
  unfold State.seenFlit
  rw [State.fab_bump]
  exact ⟨rfl, rfl⟩

theorem State.rd64_seenFlit (s : State) (n : Nat) : (s.seenFlit n).rd64 (pgFL n) 0x028 = (s.rd64 (pgFL n) 0x028 + 1) % 2 ^ 64 := by
  rw [State.seenFlit, State.rd64_bump]
  simp

section
variable {s : State} {n : LinkId} {f : Flit} (hup : (s.link n.val).st = .up) (hdomain : s.isUp (0x70 + n.val) = true)
include hup hdomain

theorem execFlitReceived_notCarried (hcarry : (s.link n.val).carries f.vc.val = false) :
    exec (.flitReceived n f) s = .next (((s.seenFlit n.val).giveCredit n.val f.vc.val).setReply (.refused 0x0602)) :=
  congrArg Host.Outcome.next ((if_neg (by simp [hup, hdomain])).trans (if_pos (by simp [hcarry])))

variable (hcarry : (s.link n.val).carries f.vc.val = true)
include hcarry

/-- A flit of an epoch that is not expected is counted: one of an older epoch is answered with QUARANTINE, another sets event 2 (R236, R237). -/
theorem execFlitReceived_unexpected
    (hepoch : ¬ ((s.seenFlit n.val).expectedEpoch n.val f ≠ 0 ∧ f.epoch = (s.seenFlit n.val).expectedEpoch n.val f)) :
    exec (.flitReceived n f) s = .next (
      let t := ((s.seenFlit n.val).giveCredit n.val f.vc.val).bump (pgFL n.val) 0x038 1
      if f.epoch.toNat < ((s.seenFlit n.val).expectedEpoch n.val f).toNat then t.emit (.quarantine f.src ((s.seenFlit n.val).expectedEpoch n.val f))
      else t.raise (pgFL n.val) 2) :=
  have hrefused := fun h => hepoch ((Bool.and_eq_true_iff.1 h).imp of_decide_eq_true of_decide_eq_true)
  congrArg Host.Outcome.next ((if_neg (by simp [hup, hdomain])).trans ((if_neg (by simp [hcarry])).trans (if_neg hrefused)))

theorem execFlitReceived_older (hepoch : f.epoch.toNat < ((s.seenFlit n.val).expectedEpoch n.val f).toNat) :
    exec (.flitReceived n f) s = .next ((((s.seenFlit n.val).giveCredit n.val f.vc.val).bump (pgFL n.val) 0x038 1).emit
      (.quarantine f.src ((s.seenFlit n.val).expectedEpoch n.val f))) := by
  rw [execFlitReceived_unexpected hup hdomain hcarry fun ⟨_, h⟩ => hepoch.ne (congrArg BitVec.toNat h)]
  exact congrArg _ (if_pos hepoch)

theorem execFlitReceived_newer (hepoch : ((s.seenFlit n.val).expectedEpoch n.val f).toNat < f.epoch.toNat ∨
    (s.seenFlit n.val).expectedEpoch n.val f = 0) :
    exec (.flitReceived n f) s =
      .next ((((s.seenFlit n.val).giveCredit n.val f.vc.val).bump (pgFL n.val) 0x038 1).raise (pgFL n.val) 2) := by
  rw [execFlitReceived_unexpected hup hdomain hcarry fun ⟨h0, h⟩ => hepoch.elim (fun hlt => hlt.ne' (congrArg BitVec.toNat h)) h0]
  refine congrArg _ (if_neg ?_)
  obtain hlt | hzero := hepoch
  · exact hlt.not_gt
  · rw [hzero]
    exact Nat.not_lt_zero _

variable (hepoch : (s.seenFlit n.val).expectedEpoch n.val f ≠ 0) (hsame : f.epoch = (s.seenFlit n.val).expectedEpoch n.val f)
include hepoch hsame

theorem execFlitReceived_expected : exec (.flitReceived n f) s = .next (((s.seenFlit n.val).acceptFlit n.val f).auditLink n.val) :=
  have haccepted := Bool.and_eq_true_iff.2 ⟨decide_eq_true hepoch, decide_eq_true hsame⟩
  congrArg Host.Outcome.next ((if_neg (by simp [hup, hdomain])).trans ((if_neg (by simp [hcarry])).trans (if_pos haccepted)))

variable {w : Flow} (hflow : s.fab.flows.find? (·.has f) = some w)
include hflow

/-- The next flit of its flow is delivered, and its credit returned. -/
theorem execFlitReceived_next (hnext : f.seq = w.next) (hearly : w.early = []) :
    ∃ t, exec (.flitReceived n f) s = .next t ∧ t.fab.delivered = s.fab.delivered ++ [f] ∧ .credit n.val f.vc.val 1 ∈ t.out ∧
      t.rd64 (pgFL n.val) 0x028 = (s.rd64 (pgFL n.val) 0x028 + 1) % 2 ^ 64 := by
  obtain ⟨hflows, hdelivered⟩ := s.flows_seenFlit n.val
  rw [← hflows] at hflow
  rw [execFlitReceived_expected hup hdomain hcarry hepoch hsame, State.acceptFlit_next hflow hnext hearly, ← hdelivered, ← s.rd64_seenFlit]
  generalize s.seenFlit n.val = s1
  obtain ⟨hadded, hcredit, hcount⟩ := (s1.putFlow f { w with next := w.next + 1 }).deliver_fields f n.isLt
  have haudit := ((s1.putFlow f { w with next := w.next + 1 }).deliver (n.val, f)).auditLink_flue n.val
  exact ⟨_, rfl, haudit.delivered.trans hadded, haudit.out.subset hcredit,
    ((haudit.rd64 n.isLt (by decide)).trans hcount).trans (by simp [State.putFlow])⟩

theorem execFlitReceived_other (hnext : f.seq ≠ w.next) :
    ∃ t, exec (.flitReceived n f) s = .next t ∧ t.fab.delivered = s.fab.delivered := by
  obtain ⟨hflows, hdelivered⟩ := s.flows_seenFlit n.val
  rw [← hflows] at hflow
  exact ⟨_, execFlitReceived_expected hup hdomain hcarry hepoch hsame,
    ((State.auditLink_flue ..).delivered.trans (State.delivered_acceptFlit hflow hnext)).trans hdelivered⟩

end

end Sys2Proof.Machine
end

section
/-!
PROOF. Replay, silence and training of a link (R226, R229, R230, R235, R256). The record that a lost link leaves is log entry 104.
-/

namespace Sys2Proof.Machine

/-! ## REPLAY_TIMEOUT (R229) -/

section
variable {s : State} {n : LinkId} {x : Sent} {rest : List Sent} (hreplay : (s.link n.val).replay = x :: rest)
include hreplay

theorem execReplayTimeout_early (hearly : s.nowUs < x.at_ + 2) : exec (.replayTimeout n) s = .next s := by
  refine congrArg Host.Outcome.next ?_
  simp only [hreplay]
  exact if_neg (by simp [hearly])

theorem execReplayTimeout_due (hup : (s.link n.val).st = .up) (hdue : x.at_ + 2 ≤ s.nowUs) :
    exec (.replayTimeout n) s =
      .next (((s.setLink n.val { s.link n.val with replay := { x with at_ := s.nowUs } :: rest }).emit (.flit n.val x.flit)).bump
        (pgFL n.val) 0x030 1) := by
  show execReplayTimeout n s = _
  unfold execReplayTimeout
  simp only [hreplay]
  rw [if_pos (by simp [hup, hdue])]

end

/-! ## Links that a change at another link leaves alone -/

/-- From `s` to `t` the link `n` stands, and no event that was set is lost. -/
structure LinkStands (n : Nat) (s t : State) : Prop where
  link : t.link n = s.link n
  events : ∀ page k, (s.hdr page).evStat.getLsbD k = true → (t.hdr page).evStat.getLsbD k = true

theorem FlueKept.linkStands {s t : State} (h : FlueKept s t) (n : Nat) : LinkStands n s t := ⟨congrFun h.link n, h.events⟩

theorem LinkStands.rfl {n : Nat} {s : State} : LinkStands n s s := FlueKept.rfl.linkStands n

theorem LinkStands.trans {n : Nat} {s t u : State} (h : LinkStands n s t) (g : LinkStands n t u) : LinkStands n s u :=
  ⟨g.link.trans h.link, fun page k hk => g.events page k (h.events page k hk)⟩

/-- A fold whose steps leave a link alone while it is down. -/
theorem LinkStands.foldl {n : Nat} {α : Type} {f : State → α → State} (hf : ∀ s x, (s.link n).st = .down → LinkStands n s (f s x)) (l : List α)
    (s : State) (hdown : (s.link n).st = .down) : LinkStands n s (l.foldl f s) := by
  induction l generalizing s with
  | nil => exact .rfl
  | cons x l ih =>
    have hstep := hf s x hdown
    exact hstep.trans (ih _ (by rw [hstep.link, hdown]))

section
variable {n k : Nat} (hk : k ≠ n)
include hk

theorem State.setLink_stands (s : State) (x : Link) : LinkStands n s (s.setLink k x) :=
  ⟨by rw [State.link_setLink, if_neg hk.symm], fun _ _ h => h⟩

theorem State.leave_stands (s : State) (w : Waiting) : LinkStands n s (s.leave k w) := by
  unfold State.leave
  extract_lets f g s1 l c x y z
  have h1 : LinkStands n s s1 := by
    show LinkStands n s (if _ then _ else _)
    split
    · exact .rfl
    · exact ⟨rfl, fun _ _ h => h⟩
  have hbump : ∀ t : State, LinkStands n t (t.bump (pgFL k) 0x020 1) := fun t => by
    rw [State.bump_frame]
    exact ⟨rfl, fun _ _ h => h⟩
  exact ((h1.trans (State.setLink_stands hk ..)).trans ((State.emit_flue ..).linkStands n)).trans (hbump _)

theorem State.serveLink_stands (fuel : Nat) (s : State) : LinkStands n s (State.serveLink fuel s k) := by
  induction fuel generalizing s with
  | zero => exact .rfl
  | succ fuel ih =>
    unfold State.serveLink
    extract_lets l
    split
    · exact .rfl
    · split
      · exact .rfl
      · exact ((State.setLink_stands hk ..).trans (State.leave_stands hk ..)).trans (ih _)

theorem State.pump_stands (s : State) : LinkStands n s (s.pump k) :=
  (State.serveLink_stands hk _ s).trans ((State.auditLink_flue ..).linkStands n)

end

/-! ## A flit moved to another link (R230) -/

section
variable {s : State} {w : Waiting}

theorem State.moveFlit_served {k : Nat} (h : (List.range 16).find? (fun k => s.serves k w.flit.dst) = some k) :
    s.moveFlit w = if w.numbered then (s.enqueue k w).bump (pgFL k) 0x030 1 else s.enqueue k w := by
  unfold State.moveFlit
  simp only [h]

theorem State.queue_moveFlit {k : Nat} (h : (List.range 16).find? (fun k => s.serves k w.flit.dst) = some k) :
    ((s.moveFlit w).link k).queue = (s.link k).queue ++ [w] := by
  have hlink : ((s.enqueue k w).link k).queue = (s.link k).queue ++ [w] := by rw [State.link_enqueue, if_pos rfl]
  rw [State.moveFlit_served h]
  split
  · rw [State.bump_frame]
    exact hlink
  · exact hlink

theorem State.moveFlit_unserved (h : ∀ k, k < 16 → s.serves k w.flit.dst = false) : s.moveFlit w = s := by
  have hnone : (List.range 16).find? (fun k => s.serves k w.flit.dst) = none :=
    List.find?_eq_none.2 fun k hk => by simp [h k (List.mem_range.1 hk)]
  unfold State.moveFlit
  simp only [hnone]

/-- It waits on a link that is up, so not on one that is down. -/
theorem State.moveFlit_stands {n : Nat} (hdown : (s.link n).st = .down) : LinkStands n s (s.moveFlit w) := by
  cases h : (List.range 16).find? (fun k => s.serves k w.flit.dst) with
  | none =>
    rw [State.moveFlit_unserved fun k hk => by simpa using List.find?_eq_none.1 h k (List.mem_range.2 hk)]
    exact .rfl
  | some k =>
    have hserves := List.find?_some h
    have hk : k ≠ n := by
      rintro rfl
      simp [State.serves, hdown] at hserves
    have hput : LinkStands n s (s.enqueue k w) := State.setLink_stands hk ..
    rw [State.moveFlit_served h]
    split
    · rw [State.bump_frame]
      exact ⟨hput.link, hput.events⟩
    · exact hput

end

/-! ## LINK_IDLE_TIMEOUT (R230) -/

/-- A link just lost: nothing waits on it, no flit is unacknowledged, and the early flits that came by it are no link's any longer. -/
def State.unlinked (s : State) (n : Nat) : State :=
  let s0 := (s.setLink n { s.link n with st := .down, chans := [], replay := [], queue := [], share := 0 }).raise (pgFL n) 0
  s0.setFab { s0.fab with flows := s0.fab.flows.map (Flow.unlink n) }

theorem State.link_unlinked (s : State) (n k : Nat) :
    (s.unlinked n).link k = if k = n then { s.link n with st := .down, chans := [], replay := [], queue := [], share := 0 } else s.link k := by
  rw [← State.link_setLink]
  exact congrFun (State.raise_flue ..).link k

theorem State.evStat_unlinked (s : State) (n : Nat) : ((s.unlinked n).hdr (pgFL n)).evStat.getLsbD 0 = true :=
  State.evStat_raise (s.setLink n { s.link n with st := .down, chans := [], replay := [], queue := [], share := 0 }) (page := pgFL n) (bit := 0)
    (by decide)

/-- The links that are up serve what waits on them. -/
def State.pumpUp (s : State) (l : List Nat) : State := l.foldl (fun (s : State) k => if (s.link k).st = .up then s.pump k else s) s

/-- The flits of a lost link put on the other links. -/
def State.rerouted (s : State) (n : Nat) : State :=
  let ws := (s.link n).replay.map (fun x => { flit := x.flit, numbered := true : Waiting }) ++ (s.link n).queue
  if (s.link n).k4 then s.unlinked n else ws.foldl (fun (s : State) w => s.moveFlit w) (s.unlinked n)

theorem State.linkDown_eq (s : State) (n : Nat) :
    s.linkDown n = (s.lostDests ((s.rerouted n).pumpUp (List.range 16)) n).foldl (fun (s : State) f => s.loseDest f)
      ((s.rerouted n).pumpUp (List.range 16)) := rfl

theorem State.loseDests_flue (s : State) (l : List Nat) : FlueKept s (l.foldl (fun (s : State) f => s.loseDest f) s) :=
  .foldl (fun _ _ => State.loseDest_flue ..) l s

/-- Whatever happens to its flits, the lost link stays as it was when it went down. -/
theorem State.linkDown_stands (s : State) (n : Nat) : LinkStands n (s.unlinked n) (s.linkDown n) := by
  have hdown : ((s.unlinked n).link n).st = .down := by rw [State.link_unlinked, if_pos rfl]
  have hrerouted : LinkStands n (s.unlinked n) (s.rerouted n) := by
    show LinkStands n _ (if _ then _ else _)
    split
    · exact .rfl
    · exact .foldl (fun _ _ hdown => State.moveFlit_stands hdown) _ _ hdown
  have hpumped : LinkStands n (s.rerouted n) ((s.rerouted n).pumpUp (List.range 16)) := by
    refine .foldl (fun t k hdown => ?_) _ _ (by rw [hrerouted.link, hdown])
    split
    · next hup => exact State.pump_stands (fun hkn => by rw [hkn, hdown] at hup; cases hup) t
    · exact .rfl
  rw [State.linkDown_eq]
  exact (hrerouted.trans hpumped).trans ((State.loseDests_flue ..).linkStands n)

/-- Links with nothing waiting serve nothing. -/
theorem State.pumpUp_flue (l : List Nat) (s : State) (hidle : ∀ k ∈ l, (s.link k).queue = []) : FlueKept s (s.pumpUp l) := by
  induction l generalizing s with
  | nil => exact .rfl
  | cons k l ih =>
    obtain ⟨hk, hl⟩ := List.forall_mem_cons.1 hidle
    have hstep : FlueKept s (if (s.link k).st = .up then s.pump k else s) := by
      rw [State.pump_idle hk]
      exact .ite (State.auditLink_flue ..) .rfl
    exact hstep.trans (ih _ fun j hj => by rw [hstep.link]; exact hl j hj)

/-- Where nothing waits and nothing is unacknowledged, the other links stand. -/
theorem State.linkDown_others {s : State} {n k : Nat} (hn : n < 16) (hreplay : (s.link n).replay = [])
    (hidle : ∀ k, k < 16 → (s.link k).queue = []) (hk : k ≠ n) : (s.linkDown n).link k = s.link k := by
  have hrerouted : s.rerouted n = s.unlinked n := by
    unfold State.rerouted
    rw [hreplay, hidle n hn]
    exact ite_self _
  have hpumped : FlueKept (s.unlinked n) ((s.unlinked n).pumpUp (List.range 16)) := State.pumpUp_flue _ _ fun j hj => by
    rw [State.link_unlinked]
    split
    · rfl
    · exact hidle j (List.mem_range.1 hj)
  rw [State.linkDown_eq, hrerouted, (hpumped.trans (State.loseDests_flue ..)).link, State.link_unlinked, if_neg hk]

theorem execLinkIdleTimeout_early {s : State} {n : LinkId} (hearly : s.nowUs < (s.link n.val).lastRx + 10) :
    exec (.linkIdleTimeout n) s = .next s :=
  congrArg Host.Outcome.next (if_neg (by simp [hearly]))

theorem execLinkIdleTimeout_due {s : State} {n : LinkId} (hup : (s.link n.val).st = .up) (hdue : (s.link n.val).lastRx + 10 ≤ s.nowUs) :
    exec (.linkIdleTimeout n) s = .next (s.linkDown n.val) :=
  congrArg Host.Outcome.next (if_pos (by simp [hup, hdue]))

/-! ## LINK_TRAINED (R226, R230, R235, R256) -/

/-- A link as training leaves it. -/
def State.trained (s : State) (n : Nat) (degraded : Bool) (peer : Nat) : State :=
  s.setLink n { st := .up, degraded := degraded, k4 := (s.rd (pgFL n) 0x04C).getLsbD 0, peer := peer, chans := freshChans, lastRx := s.nowUs }

theorem State.link_trained (s : State) (n : Nat) (degraded : Bool) (peer k : Nat) :
    (s.trained n degraded peer).link k =
      if k = n then { st := .up, degraded := degraded, k4 := (s.rd (pgFL n) 0x04C).getLsbD 0, peer := peer, chans := freshChans, lastRx := s.nowUs }
      else s.link k := State.link_setLink ..

section
variable {s : State} {n : LinkId} {peer : Nat} (hdown : (s.link n.val).st ≠ .up) (hdomain : s.isUp (0x70 + n.val) = true) (hepoch : s.ownEpoch ≠ 0)
  (hpeer : peer < 32768)
include hdown hdomain hepoch hpeer

theorem execLinkTrained_full : exec (.linkTrained n 8 peer) s = .next (s.trained n.val false peer) :=
  congrArg Host.Outcome.next ((if_neg (by simpa [hdown, hdomain, hpeer] using hepoch)).trans (if_neg (by decide)))

theorem execLinkTrained_degraded : exec (.linkTrained n 4 peer) s = .next ((s.trained n.val true peer).raise (pgFL n.val) 1) :=
  congrArg Host.Outcome.next ((if_neg (by simpa [hdown, hdomain, hpeer] using hepoch)).trans (if_pos rfl))

end

end Sys2Proof.Machine
end

section
/-!
PROOF. The chunks of the chimney (R219, R242, R243), and the statement about the traffic of a flue.
-/

namespace Sys2Proof.Machine

/-! ## CHIMNEY_CHUNK_ARRIVED (R219, R242, R243) -/

/-- A chunk passed on to a node's children. -/
def State.forwardChunk (s : State) (shard : Nat) (kids : List Nat) (bad : Bool) : State :=
  kids.foldl (fun (s : State) k => s.emit (.chunkForward k shard bad)) s

theorem State.forwardChunk_eq (s : State) (shard : Nat) (kids : List Nat) (bad : Bool) :
    s.forwardChunk shard kids bad = s.setOut ((kids.map (fun k => Output.chunkForward k shard bad)).reverse ++ s.out) := by
  unfold State.forwardChunk
  induction kids generalizing s with
  | nil => rfl
  | cons k kids ih =>
    rw [List.foldl_cons, ih, List.map_cons, List.reverse_cons, List.append_assoc]
    rfl

theorem State.lift_forwardChunk (s : State) (shard : Nat) (kids : List Nat) (bad : Bool) : (s.forwardChunk shard kids bad).lift = s.lift := by
  rw [State.forwardChunk_eq]
  rfl

theorem State.bad_chimneyBad (s : State) (n : Nat) (kids : List Nat) : n ∈ (s.chimneyBad n kids).lift.bad := by
  show n ∈ (State.forwardChunk _ n kids true).lift.bad
  rw [State.lift_forwardChunk]
  show n ∈ ((s.markBad (s.lift.installed.getD {}) n).raise pgCL 3).lift.bad
  rw [(State.raise_recorded ..).lift]
  exact State.mem_bad_markBad ..

/-- One more chunk of a shard is here. -/
def Lift.chunkMore (x : Lift) (shard : Nat) : Lift :=
  let old := (x.arriving.find? (fun a => a.shard == shard)).getD ⟨shard, 0, false⟩
  { x with arriving := x.arriving.filter (fun a => a.shard != shard) ++ [{ old with chunks := old.chunks + 1 }] }

/-- A shard whose last chunk is here is no longer on its way. -/
def State.chunksEnd (s : State) (shard : Nat) : State := s.setLift { s.lift with arriving := s.lift.arriving.filter (fun a => a.shard != shard) }

section
variable {s : State} {shard : Nat} (kids : List Nat)

theorem execChimneyChunkArrived_noKey (last ok bad : Bool) (hkey : s.fbx.baseKey = none) :
    exec (.chimneyChunkArrived shard kids last ok bad) s = .next (s.setReply (.refused 0x0119)) :=
  congrArg Host.Outcome.next (if_pos (by simp [hkey]))

variable (hkey : s.fbx.baseKey.isSome = true) (hquar : s.fab.quarantined = false)
  (hshard : (Manifest.shard (s.lift.installed.getD {}) shard).isSome = true)
include hkey hquar hshard

theorem execChimneyChunkArrived_more :
    exec (.chimneyChunkArrived shard kids false true false) s = .next ((s.forwardChunk shard kids false).setLift (s.lift.chunkMore shard)) :=
  congrArg Host.Outcome.next ((if_neg (by simp [Option.isNone_eq_false_iff.2 hkey])).trans ((if_neg (by simp [hquar])).trans
    ((if_neg (by rw [Option.isNone_eq_false_iff.2 hshard]; decide)).trans (if_pos rfl))))

/-- With the last chunk the shard is marked BAD, taken in, or asked for again. -/
theorem execChimneyChunkArrived_last (ok bad : Bool) :
    exec (.chimneyChunkArrived shard kids true ok bad) s = .next (
      if bad then (s.chunksEnd shard).chimneyBad shard kids
      else if ok then ((s.chunksEnd shard).forwardChunk shard kids false).chimneyPass shard
      else if s.lift.retried.contains (shard + 2 * 2 ^ 32) then (s.chunksEnd shard).chimneyBad shard kids
      else ((s.chunksEnd shard).setLift { (s.chunksEnd shard).lift with
        retried := (s.chunksEnd shard).lift.retried ++ [shard + 2 * 2 ^ 32] }).emit (.chunkRequest shard)) :=
  congrArg Host.Outcome.next ((if_neg (by simp [Option.isNone_eq_false_iff.2 hkey])).trans ((if_neg (by simp [hquar])).trans
    ((if_neg (by rw [Option.isNone_eq_false_iff.2 hshard]; decide)).trans (if_neg (by decide)))))

/-- A shard that passes while an installation is open is written and passed, and BAD no longer (R436). -/
theorem execChimneyChunkArrived_passed (hopen : s.lift.openInstall = true) :
    ∃ t, exec (.chimneyChunkArrived shard kids true true false) s = .next t ∧
      shard ∈ t.lift.written ∧ shard ∈ t.lift.passed ∧ shard ∉ t.lift.bad := by
  have hinstalls : ((s.chunksEnd shard).forwardChunk shard kids false).chimneyPass shard =
      ((s.chunksEnd shard).forwardChunk shard kids false).shardWritten shard true false :=
    if_pos (by rw [State.lift_forwardChunk]; exact hopen)
  obtain ⟨hwritten, hpassed, hbad, -⟩ := ((s.chunksEnd shard).forwardChunk shard kids false).shardWritten_fields shard true false
  rw [← hinstalls] at hwritten hpassed hbad
  exact ⟨_, execChimneyChunkArrived_last kids hkey hquar hshard true false, hwritten, hpassed.2 rfl, fun h => Bool.noConfusion (hbad.1 h).1⟩

end

/-- Settles O50: each command is the branch that its lemma names, and audits, records and rink operations leave the links alone (`FlueKept`). -/
theorem flueTraffic : Obligations.FlueTraffic := by
  unfold Obligations.FlueTraffic
  refine ⟨fun s n f hup hdomain henabled hfence => ?_, fun s n f hup hdomain => ?_, fun s n vc k hup => ?_, fun s n x rest hreplay hup => ?_,
    fun s n hup => ?_, fun s w => ⟨fun k hk => State.queue_moveFlit hk, State.moveFlit_unserved⟩, fun s n lanes peer hdown hdomain hepoch hpeer => ?_,
    fun s shard kids hquar hshard => ?_⟩
  · refine ⟨execFlitSend_notCarried hup hdomain henabled hfence, execFlitSend_noDest hup hdomain henabled hfence,
      fun hcarry hdst hqueue => ⟨execFlitSend_waits hup hdomain henabled hfence hcarry hdst hqueue, fun hopen hheld hcap hbalance => ?_⟩⟩
    obtain ⟨turn, share, hexec⟩ := execFlitSend_leaves hup hdomain henabled hfence hcarry hdst hqueue hopen hheld hcap hbalance
    have hlink := fun k => State.link_leave (s.serving n.val f turn share) n.val f k
    simp only [State.link_serving, if_true] at hlink
    refine ⟨_, hexec, State.out_leave .., ?_, ?_, ?_, fun v hv => ?_, fun k hk => ?_, State.txNext_leave .., State.rd64_leave ..⟩
    · rw [hlink, if_pos rfl, Link.replay_afterLeave]
      rfl
    · rw [hlink, if_pos rfl, Link.queue_afterLeave]
      exact List.erase_cons_head ..
    · rw [hlink, if_pos rfl, Link.chan_afterLeave, if_pos rfl]
      rfl
    · rw [hlink, if_pos rfl, Link.chan_afterLeave, if_neg hv]
      rfl
    · rw [hlink, if_neg hk, if_neg hk]
  · exact ⟨execFlitReceived_notCarried hup hdomain, fun hcarry => ⟨execFlitReceived_older hup hdomain hcarry,
      execFlitReceived_newer hup hdomain hcarry, fun hepoch hsame =>
        ⟨fun w hflow => execFlitReceived_next hup hdomain hcarry hepoch hsame hflow,
          fun w hflow => execFlitReceived_other hup hdomain hcarry hepoch hsame hflow⟩⟩⟩
  · exact ⟨execCreditReturn_up hup, fun hqueue hbalance =>
      ⟨execCreditReturn_balanced hup hqueue hbalance, execCreditReturn_breaks hup hqueue hbalance⟩⟩
  · exact ⟨execReplayTimeout_early hreplay, execReplayTimeout_due hreplay hup⟩
  · have hstands := s.linkDown_stands n.val
    refine ⟨execLinkIdleTimeout_early, fun hdue => ⟨_, execLinkIdleTimeout_due hup hdue, ?_, hstands.events _ _ (s.evStat_unlinked n.val),
      fun hreplay hidle k => State.linkDown_others n.isLt hreplay hidle⟩⟩
    rw [hstands.link, State.link_unlinked, if_pos rfl]
  · refine ⟨fun hfull => ?_, fun hhalf => ?_⟩
    · subst hfull
      exact execLinkTrained_full hdown hdomain hepoch hpeer
    · subst hhalf
      refine ⟨_, execLinkTrained_degraded hdown hdomain hepoch hpeer, ?_⟩
      rw [(State.raise_flue ..).link, State.link_trained, if_pos rfl]
      exact ⟨rfl, rfl, rfl, State.evStat_raise _ (by decide)⟩
  · refine ⟨fun hkey last ok bad => execChimneyChunkArrived_noKey kids last ok bad hkey, fun hkey => ?_⟩
    have hlast := execChimneyChunkArrived_last kids hkey hquar hshard
    refine ⟨⟨_, execChimneyChunkArrived_more kids hkey hquar hshard, ?_⟩, fun hfirst => ⟨_, hlast false false, ?_⟩,
      fun hsecond => ⟨_, hlast false false, ?_⟩, ⟨_, hlast true true, State.bad_chimneyBad ..⟩,
      execChimneyChunkArrived_passed kids hkey hquar hshard⟩
    · rw [State.forwardChunk_eq]
      rfl
    · rw [if_neg Bool.false_ne_true, if_neg Bool.false_ne_true, if_neg (by simpa using hfirst)]
      exact ⟨rfl, rfl, rfl⟩
    · rw [if_neg Bool.false_ne_true, if_neg Bool.false_ne_true, if_pos (by simpa using hsecond)]
      exact State.bad_chimneyBad ..

end Sys2Proof.Machine
end

section
/-!
PROOF. The generations of the 16-bit identifiers (R105, R168, R277, R278). That every generation is 1 at reset is log entry 133.
-/

namespace Sys2Proof.Machine

theorem genStep_of_lt {g : Nat} (h : g < 0xFFFF) : genStep g = g + 1 := if_neg (by omega)

/-- A generation steps to 1 or to a successor. -/
theorem genStep_ne_zero (g : Nat) : genStep g ≠ 0 := by
  unfold genStep
  split <;> omega

theorem State.gen_freeSlot (s : State) (n : Nat) : ((s.freeSlot n).slot n).gen = genStep (s.slot n).gen := by
  unfold State.freeSlot
  rw [State.slot_setSlot, if_pos rfl]

theorem State.gen_freeHold (s : State) (n : Nat) : ((s.freeHold n).hold n).gen = genStep (s.hold n).gen := by
  simp [State.freeHold]

theorem State.gen_freeInf (s : State) (n : Nat) : ((s.freeInf n).inf n).gen = genStep (s.inf n).gen := by
  unfold State.freeInf
  rw [State.inf_setInf, if_pos rfl]

theorem State.gen_releaseWaxing (s : State) (n : Nat) : ((s.releaseWaxing n).wxOf n).gen = genStep (s.wxOf n).gen := by
  unfold State.releaseWaxing
  rw [State.wxOf_setWx, if_pos rfl]

/-- Settles O5: the step itself never gives 0, and each entry that is freed takes the step of the generation it had. -/
theorem generationsStep : Obligations.GenerationsStep := by
  unfold Obligations.GenerationsStep
  exact ⟨⟨rfl, fun _ => genStep_of_lt, genStep_ne_zero⟩, fun _ => ⟨rfl, rfl, rfl, rfl⟩,
    fun s n => ⟨s.gen_freeSlot n, s.gen_freeHold n, s.gen_freeInf n, s.gen_releaseWaxing n⟩⟩

end Sys2Proof.Machine
end

section
/-!
PROOF. NOP and FENCE (R265, R267).
-/

namespace Sys2Proof.Machine

/-- A command that waits in its engine changes the list of started commands only, and is found there as waiting. -/
theorem State.setCmd_waiting {s : State} {c : CmdRef} {op : Nat} {x : Started} (h : s.taken c op = some x) :
    s.setCmd { x with phase := .waiting } = { s with started := (s.setCmd { x with phase := .waiting }).started } ∧
      (s.setCmd { x with phase := .waiting }).findCmd x.key = some { x with phase := .waiting } :=
  ⟨rfl, State.findCmd_setCmd (State.findCmd_of_taken h) rfl⟩

theorem State.earlierOpen_iff (s : State) (x : Started) :
    s.earlierOpen x = true ↔ ∃ y ∈ s.started.takeWhile (fun y => y.key != x.key), y.qnum = x.qnum := by
  simp only [State.earlierOpen, List.any_eq_true, beq_iff_eq]

theorem execNop_taken {s : State} {c : CmdRef} {x : Started} (htaken : s.taken c 0x00 = some x) : exec (.nop c) s = .next (s.endCmd x 0) := by
  show Host.Outcome.next (s.onTaken c 0x00 _) = _
  rw [State.onTaken_of_taken htaken]

theorem execFence_taken {s : State} {c : CmdRef} {x : Started} (htaken : s.taken c 0x01 = some x) :
    exec (.fence c) s = .next (if s.earlierOpen x then s.setCmd { x with phase := .waiting } else s.endCmd x 0) := by
  show Host.Outcome.next (s.onTaken c 0x01 _) = _
  rw [State.onTaken_of_taken htaken]

/-- A command that waits in its engine is tried again, whatever end is offered it. -/
theorem execCommandEnd_waiting {s : State} {c : CmdRef} {x : Started} (how : EndHow) (hfind : s.findCmd (refKey c) = some x)
    (hphase : x.phase = .waiting) : exec (.commandEnd c how) s = .next (s.retryCmd x) := by
  refine congrArg Host.Outcome.next ?_
  simp only [hfind, hphase]

theorem State.retryCmd_fence {s : State} {x : Started} (hop : x.opcode = 0x01) : s.retryCmd x = if s.earlierOpen x then s else s.endCmd x 0 :=
  if_pos hop

/-- Settles O33: what a FENCE comes to turns on whether an earlier command of its queue is open, at its start as at each later try. -/
theorem nopAndFence : Obligations.NopAndFence := by
  unfold Obligations.NopAndFence
  refine ⟨fun s c x => execNop_taken, fun s c x htaken => ⟨fun hnone => ?_, fun hopen => ?_⟩, fun s c x hfind hphase hop => ?_⟩
  · have hclosed : ¬ s.earlierOpen x = true := by
      rw [State.earlierOpen_iff]
      exact fun ⟨y, hy, hq⟩ => hnone y hy hq
    rw [execFence_taken htaken, if_neg hclosed]
  · rw [execFence_taken htaken, if_pos ((s.earlierOpen_iff x).2 hopen)]
    exact ⟨_, rfl, State.setCmd_waiting htaken⟩
  · rw [execCommandEnd_waiting .ok hfind hphase, State.retryCmd_fence hop]

end Sys2Proof.Machine
end

section
/-!
PROOF. SEM_WAIT and SEM_SIGNAL (R267, R272, R343, R344). That a semaphore past 16,383 is a selector out of range is log entry 25.
-/

namespace Sys2Proof.Machine

/-! ## A semaphore's own operations -/

theorem Sem.heldBy_iff (m : Sem) (part dom : Nat) (epoch : Word) :
    m.heldBy part dom epoch = true ↔ 0 < m.held ∧ m.hPart = part ∧ m.hDom = dom ∧ m.hEpoch = epoch := by
  simp [Sem.heldBy, and_assoc]

section
variable {m : Sem} {count part dom : Nat} {epoch : Word}

theorem Sem.acquire_short (h : m.value < count) : m.acquire count part dom epoch = none := if_pos h

theorem Sem.acquire_foreign (howned : m.owned = true) (hheld : m.held ≠ 0) (hother : ¬ m.heldBy part dom epoch = true) :
    m.acquire count part dom epoch = none := by
  simp [Sem.acquire, howned, hheld, hother]

theorem Sem.acquire_shared (h : count ≤ m.value) (howned : m.owned = false) :
    m.acquire count part dom epoch = some { m with value := m.value - count, aband := false, ledger := m.ledger - count } := by
  simp [Sem.acquire, Nat.not_lt.2 h, howned]

theorem Sem.acquire_unheld (h : count ≤ m.value) (howned : m.owned = true) (hheld : m.held = 0) :
    m.acquire count part dom epoch = some { m with value := m.value - count, held := count, aband := false, hPart := if count = 0 then 0 else part,
                                                   hDom := if count = 0 then 0 else dom, hEpoch := if count = 0 then 0 else epoch } := by
  simp [Sem.acquire, Nat.not_lt.2 h, howned, hheld]

theorem Sem.acquire_more (h : count ≤ m.value) (howned : m.owned = true) (hmine : m.heldBy part dom epoch = true) :
    m.acquire count part dom epoch = some { m with value := m.value - count, held := m.held + count, aband := false } := by
  have hheld : m.held ≠ 0 := ((m.heldBy_iff part dom epoch).1 hmine).1.ne'
  simp [Sem.acquire, Nat.not_lt.2 h, howned, hheld, hmine]

/-- The tokens that a signal gives back of those the semaphore's holder has (R344). -/
def Sem.givenBack (m : Sem) (count part dom : Nat) (epoch : Word) : Nat :=
  if m.owned = true ∧ m.heldBy part dom epoch = true then min count m.held else 0

theorem Sem.signal_over (h : 65535 < m.value + count) : m.signal count part dom epoch = none := if_pos h

/-- A signal within the bound adds its tokens, and the holder record is cleared with the last token held. -/
theorem Sem.signal_within (h : m.value + count ≤ 65535) :
    ∃ m', m.signal count part dom epoch = some m' ∧ m'.value = m.value + count ∧ m'.held = m.held - m.givenBack count part dom epoch ∧
      (m.held - m.givenBack count part dom epoch = 0 → m'.hPart = 0 ∧ m'.hDom = 0 ∧ m'.hEpoch = 0) := by
  have hback : (if (m.owned && m.heldBy part dom epoch) = true then min count m.held else 0) = m.givenBack count part dom epoch := by
    simp only [Sem.givenBack, Bool.and_eq_true]
  unfold Sem.signal
  rw [hback, if_neg (Nat.not_lt.2 h)]
  split
  · next hlast => exact ⟨_, rfl, rfl, hlast.symm, fun _ => ⟨rfl, rfl, rfl⟩⟩
  · next hmore => exact ⟨_, rfl, rfl, rfl, fun h0 => absurd h0 hmore⟩

end

/-! ## A semaphore put back -/

theorem State.auditSem_recorded (s : State) (n : Nat) : Recorded s (s.auditSem n) := .ite .rfl (.ite .rfl (State.breach_recorded ..))

theorem Recorded.sem {s t : State} (h : Recorded s t) : t.sem = s.sem := by
  rw [h]
  rfl

theorem State.sem_putSem (s : State) (n : Nat) (m : Sem) (j : Nat) : (s.putSem n m).sem j = if j = n then m else s.sem j := by
  unfold State.putSem
  rw [(State.auditSem_recorded ..).sem, State.sem_setSem]

/-- The semaphores after a command that put one back has ended. -/
theorem State.sem_endCmd_putSem (s : State) (n : Nat) (m : Sem) (x : Started) (status : Nat) (i : EndInfo) (j : Nat) :
    (((s.putSem n m).endCmd x status i).sem j) = if j = n then m else s.sem j := by
  rw [(State.endCmd_recorded ..).sem, State.sem_putSem]

/-- No module's wait is tried where none waits for the semaphore. -/
theorem State.wakeRink_of_none {s : State} {n : Nat} (h : ∀ w ∈ s.fab.rinkWaits, w.sem ≠ n) : s.wakeRink n = s := by
  have hnone : s.fab.rinkWaits.filter (fun w => w.sem == n) = [] := by simpa [List.filter_eq_nil_iff] using h
  unfold State.wakeRink
  rw [hnone]
  rfl

theorem State.wakeRink_putSem {s : State} {n : Nat} (m : Sem) (h : ∀ w ∈ s.fab.rinkWaits, w.sem ≠ n) : (s.putSem n m).wakeRink n = s.putSem n m := by
  have hfab : (s.putSem n m).fab = s.fab := by
    unfold State.putSem
    rw [State.auditSem_recorded]
    rfl
  exact State.wakeRink_of_none (hfab ▸ h)

/-! ## SEM_WAIT -/

section
variable {s : State} {c : CmdRef} {x : Started} (htaken : s.taken c 0x02 = some x)
include htaken

theorem execSemWait_beyond (hn : 16384 ≤ field x.ops 16 17) : exec (.semWait c) s = .next (s.refuseCmd x 0x0259) := by
  show Host.Outcome.next (s.onTaken c 0x02 _) = _
  rw [State.onTaken_of_taken htaken, if_pos hn]

theorem execSemWait_foreign (hn : field x.ops 16 17 < 16384) (hpart : (s.sem (field x.ops 16 17)).part ≠ semPart x) :
    exec (.semWait c) s = .next (s.refuseCmd x 0x0317) := by
  show Host.Outcome.next (s.onTaken c 0x02 _) = _
  rw [State.onTaken_of_taken htaken, if_neg (Nat.not_le.2 hn), if_pos hpart]

theorem execSemWait_tried (hn : field x.ops 16 17 < 16384) (hpart : (s.sem (field x.ops 16 17)).part = semPart x) :
    exec (.semWait c) s = .next (s.trySemWait x) := by
  show Host.Outcome.next (s.onTaken c 0x02 _) = _
  rw [State.onTaken_of_taken htaken, if_neg (Nat.not_le.2 hn), if_neg (not_not_intro hpart)]

/-- A wait that succeeds takes its tokens and ends. -/
theorem execSemWait_acquires {m' : Sem} (hn : field x.ops 16 17 < 16384) (hpart : (s.sem (field x.ops 16 17)).part = semPart x)
    (hacq : (s.sem (field x.ops 16 17)).acquire (field x.ops 18 19) (semPart x) (semDom x) (s.epoch (semDom x)) = some m') :
    ∃ t, exec (.semWait c) s = .next t ∧ t.sem (field x.ops 16 17) = m' ∧ (∀ j, j ≠ field x.ops 16 17 → t.sem j = s.sem j) ∧
      t = (s.putSem (field x.ops 16 17) m').endCmd x 0 { result := if (s.sem (field x.ops 16 17)).aband then [1] else [] } := by
  refine ⟨_, execSemWait_tried htaken hn hpart, ?_⟩
  unfold State.trySemWait
  simp only [hacq, State.sem_endCmd_putSem, if_true]
  exact ⟨trivial, fun j hj => if_neg hj, trivial⟩

theorem execSemWait_waits (hn : field x.ops 16 17 < 16384) (hpart : (s.sem (field x.ops 16 17)).part = semPart x)
    (hacq : (s.sem (field x.ops 16 17)).acquire (field x.ops 18 19) (semPart x) (semDom x) (s.epoch (semDom x)) = none) :
    exec (.semWait c) s = .next (s.setCmd { x with phase := .waiting }) := by
  rw [execSemWait_tried htaken hn hpart]
  unfold State.trySemWait
  simp only [hacq]

end

/-! ## SEM_SIGNAL -/

/-- Is a signal's domain epoch below that of the holder record (R344)? -/
def State.staleSignal (s : State) (x : Started) : Prop :=
  let m := s.sem (field x.ops 16 17)
  0 < m.held ∧ m.hDom = semDom x ∧ (s.epoch (semDom x)).toNat < m.hEpoch.toNat

section
variable {s : State} {c : CmdRef} {x : Started} (htaken : s.taken c 0x03 = some x)
include htaken

theorem execSemSignal_beyond (hn : 16384 ≤ field x.ops 16 17) : exec (.semSignal c) s = .next (s.refuseCmd x 0x0259) := by
  show Host.Outcome.next (s.onTaken c 0x03 _) = _
  rw [State.onTaken_of_taken htaken, if_pos hn]

theorem execSemSignal_foreign (hn : field x.ops 16 17 < 16384) (hpart : (s.sem (field x.ops 16 17)).part ≠ semPart x) :
    exec (.semSignal c) s = .next (s.refuseCmd x 0x0317) := by
  show Host.Outcome.next (s.onTaken c 0x03 _) = _
  rw [State.onTaken_of_taken htaken, if_neg (Nat.not_le.2 hn), if_pos hpart]

variable (hn : field x.ops 16 17 < 16384) (hpart : (s.sem (field x.ops 16 17)).part = semPart x)
include hn hpart

theorem execSemSignal_stale (hstale : s.staleSignal x) : exec (.semSignal c) s = .next (s.dropSignal.endCmd x 0) := by
  obtain ⟨hheld, hdom, hepoch⟩ := hstale
  show Host.Outcome.next (s.onTaken c 0x03 _) = _
  rw [State.onTaken_of_taken htaken, if_neg (Nat.not_le.2 hn), if_neg (not_not_intro hpart), if_pos (by simp [hheld, hdom, hepoch])]

/-- A signal that is not dropped adds its tokens, or is refused. -/
theorem execSemSignal_counted (hstale : ¬ s.staleSignal x) :
    exec (.semSignal c) s =
      .next (((s.sem (field x.ops 16 17)).signal (field x.ops 18 19) (semPart x) (semDom x) (s.epoch (semDom x))).elim (s.refuseCmd x 0x025D)
        fun m' => ((s.putSem (field x.ops 16 17) m').wakeRink (field x.ops 16 17)).endCmd x 0) := by
  have hnot : ¬ (decide (0 < (s.sem (field x.ops 16 17)).held) && decide ((s.sem (field x.ops 16 17)).hDom = semDom x) &&
      decide ((s.epoch (semDom x)).toNat < (s.sem (field x.ops 16 17)).hEpoch.toNat)) = true := by
    simpa [State.staleSignal] using hstale
  show Host.Outcome.next (s.onTaken c 0x03 _) = _
  rw [State.onTaken_of_taken htaken, if_neg (Nat.not_le.2 hn), if_neg (not_not_intro hpart), if_neg hnot]
  cases (s.sem (field x.ops 16 17)).signal (field x.ops 18 19) (semPart x) (semDom x) (s.epoch (semDom x)) <;> rfl

theorem execSemSignal_over (hstale : ¬ s.staleSignal x) (hover : 65535 < (s.sem (field x.ops 16 17)).value + field x.ops 18 19) :
    exec (.semSignal c) s = .next (s.refuseCmd x 0x025D) := by
  rw [execSemSignal_counted htaken hn hpart hstale, Sem.signal_over hover, Option.elim_none]

theorem execSemSignal_within (hstale : ¬ s.staleSignal x) (hbound : (s.sem (field x.ops 16 17)).value + field x.ops 18 19 ≤ 65535)
    (hwaits : ∀ w ∈ s.fab.rinkWaits, w.sem ≠ field x.ops 16 17) :
    let m := s.sem (field x.ops 16 17)
    let back := m.givenBack (field x.ops 18 19) (semPart x) (semDom x) (s.epoch (semDom x))
    ∃ t, exec (.semSignal c) s = .next t ∧ (t.sem (field x.ops 16 17)).value = m.value + field x.ops 18 19 ∧
      (t.sem (field x.ops 16 17)).held = m.held - back ∧
      (m.held - back = 0 → (t.sem (field x.ops 16 17)).hPart = 0 ∧ (t.sem (field x.ops 16 17)).hDom = 0 ∧ (t.sem (field x.ops 16 17)).hEpoch = 0) ∧
      (∀ j, j ≠ field x.ops 16 17 → t.sem j = s.sem j) ∧ t = (s.putSem (field x.ops 16 17) (t.sem (field x.ops 16 17))).endCmd x 0 := by
  intro m back
  obtain ⟨m', hsignal, hvalue, hheld, hlast⟩ := Sem.signal_within (m := m) (part := semPart x) (dom := semDom x) (epoch := s.epoch (semDom x)) hbound
  refine ⟨(s.putSem (field x.ops 16 17) m').endCmd x 0, ?_, ?_⟩
  · rw [execSemSignal_counted htaken hn hpart hstale, hsignal, Option.elim_some, State.wakeRink_putSem m' hwaits]
  · simp only [State.sem_endCmd_putSem, if_true]
    exact ⟨hvalue, hheld, hlast, fun j hj => if_neg hj, trivial⟩

end

/-- Settles O34: a wait comes to what `Sem.acquire` answers and a signal to what `Sem.signal` does; the command's end leaves the semaphores. -/
theorem rinkSemaphores : Obligations.RinkSemaphores := by
  unfold Obligations.RinkSemaphores
  refine ⟨fun s c x htaken => ?_, fun s c x htaken => ?_⟩
  · intro n k m mine ends
    have hmine : m.heldBy (semPart x) (semDom x) (s.epoch (semDom x)) = true ↔ mine := m.heldBy_iff ..
    refine ⟨execSemWait_beyond htaken, execSemWait_foreign htaken, fun hn hpart hk howned => ?_, fun hn hpart hk howned hheld => ?_,
      fun hn hpart hk howned hown => ?_, fun hn hpart hblocked => ?_⟩
    · exact execSemWait_acquires htaken hn hpart (Sem.acquire_shared hk howned)
    · exact execSemWait_acquires htaken hn hpart (Sem.acquire_unheld hk howned hheld)
    · exact execSemWait_acquires htaken hn hpart (Sem.acquire_more hk howned (hmine.2 hown))
    · have hnone : m.acquire k (semPart x) (semDom x) (s.epoch (semDom x)) = none := by
        rcases hblocked with hshort | ⟨howned, hheld, hother⟩
        · exact Sem.acquire_short hshort
        · exact Sem.acquire_foreign howned hheld (hmine.not.2 hother)
      exact ⟨_, execSemWait_waits htaken hn hpart hnone, State.setCmd_waiting htaken⟩
  · exact ⟨execSemSignal_beyond htaken, execSemSignal_foreign htaken, execSemSignal_stale htaken,
      fun hn hpart hstale hbound hwaits => execSemSignal_within htaken hn hpart hstale hbound hwaits, execSemSignal_over htaken⟩

end Sys2Proof.Machine
end

section
/-!
PROOF. COPY and FILL (R267, R272). That overlapping ranges leave free bytes is log entry 43, and that a FILL's length may be any number of bytes log
entry 44.
-/

namespace Sys2Proof.Machine

/-! ## Loads and stores of memory space -/

theorem State.length_peek (s : State) (a n : Nat) : (s.peek a n).length = n := by
  induction n generalizing a with
  | zero => rfl
  | succ n ih => rw [State.peek, List.length_cons, ih]

theorem State.getD_peek (s : State) (a : Nat) {n i : Nat} (h : i < n) : (s.peek a n).getD i 0 = s.byteAt (a + i) := by
  induction n generalizing a i with
  | zero => omega
  | succ n ih =>
    cases i with
    | zero => rfl
    | succ i =>
      rw [State.peek, List.getD_cons_succ, ih _ (by omega)]
      congr 1
      omega

/-- A load that succeeds answers the bytes at its addresses, and every byte reads after it as before. -/
theorem State.load_bytes {s t : State} {who : MemWho} {dua len : Nat} {b : List Byte} (h : s.load who dua len = .ok (b, t)) :
    b = s.peek dua len ∧ t.byteAt = s.byteAt := by
  unfold State.load at h
  split at h
  · next hzero =>
    cases h
    subst hzero
    exact ⟨rfl, rfl⟩
  · split at h
    · cases h
    · have hnear : Near s (s.demand who dua len true) := near_demand .rfl _ _ _ _
      have hkept := s.demand_content who dua len true
      dsimp only at h
      split at h
      · cases h
      · cases h
        exact ⟨hkept.peek hnear dua len, hkept.byteAt hnear⟩

/-- A store that succeeds leaves its bytes at its addresses, none of which lies in a BASE page, and every other byte as it read before. -/
theorem State.byteAt_store {s t : State} {who : MemWho} {dua : Nat} {data : List Byte} (h : s.store who dua data = .ok t)
    (hmem : dua + data.length ≤ memTop) (a : Nat) :
    t.byteAt a = if dua ≤ a ∧ a < dua + data.length then data.getD (a - dua) 0 else s.byteAt a := by
  unfold State.store at h
  split at h
  · next hempty =>
    cases h
    rw [List.isEmpty_iff.1 hempty, if_neg (fun hin => absurd hin.2 (by simpa using hin.1))]
  · split at h
    · cases h
    · next hcheck =>
      have hnear := s.openWrite_near who dua data.length
      have hkept := s.openWrite_content who dua data.length
      dsimp only at h
      split at h
      · cases h
      · cases h
        show ((s.openWrite who dua data.length).storeRaw dua data).byteAt a = _
        rw [State.byteAt_storeRaw, hkept.byteAt hnear]
        by_cases hin : dua ≤ a ∧ a < dua + data.length
        · have howner := State.owner_of_memCheck_write hmem hcheck (show a - dua < data.length by omega)
          rw [Nat.add_sub_cancel' hin.1, ← hkept.owner] at howner
          rw [if_pos ⟨howner, hin⟩, if_pos hin]
        · rw [if_neg (fun hall => hin hall.2), if_neg hin]

theorem Near.findCmd {s t : State} (h : Near s t) : t.findCmd = s.findCmd := by
  rw [h]
  rfl

/-! ## Data written by the copy engine -/

theorem State.copyOut_eq {s t : State} {x : Started} {dst : Nat} {data : List Byte} (h : s.store x.who dst data = .ok t) :
    s.copyOut x dst data = (t.bump pgCP 0x020 data.length).setCmd { x with phase := .running, aux := data.length } := by
  simp only [State.copyOut, h]

/-- Data that can be stored is, and the command runs on to its end. -/
theorem State.copyOut_stored {s t : State} {x : Started} {dst : Nat} {data : List Byte} (hfind : s.findCmd x.key = some x)
    (hstore : s.store x.who dst data = .ok t) (hmem : dst + data.length ≤ memTop) :
    (s.copyOut x dst data).findCmd x.key = some { x with phase := .running, aux := data.length } ∧
      ∀ a, (s.copyOut x dst data).byteAt a = if dst ≤ a ∧ a < dst + data.length then data.getD (a - dst) 0 else s.byteAt a := by
  have hcounted : Near t (t.bump pgCP 0x020 data.length) := near_bump .rfl ..
  rw [State.copyOut_eq hstore]
  refine ⟨State.findCmd_setCmd ?_ rfl, fun a => ?_⟩
  · rw [hcounted.findCmd, (State.store_near hstore).findCmd, hfind]
  · show (t.bump pgCP 0x020 data.length).byteAt a = _
    rw [(State.bump_content ..).byteAt hcounted, State.byteAt_store hstore hmem]

theorem State.copyOut_refused {s : State} {x : Started} {dst r : Nat} {data : List Byte} (h : s.store x.who dst data = .error (.inl r)) :
    s.copyOut x dst data = s.refuseCmd x r { dua := some dst } := by
  simp only [State.copyOut, h, State.failCmd]

/-! ## COPY -/

theorem overlaps_iff (a b n : Nat) : overlaps a b n = true ↔ a < b + n ∧ b < a + n := by
  simp [overlaps]

/-- The free bytes that a COPY between overlapping ranges leaves (log entry 43). -/
def State.freeBytes (s : State) (dst n : Nat) : List Byte := (List.range n).map (fun i => Config.abortedByte s.freeCtr (dst + i))

theorem State.length_freeBytes (s : State) (dst n : Nat) : (s.freeBytes dst n).length = n := by
  simp [State.freeBytes]

section
variable {s s1 : State} {c : CmdRef} {x : Started} {b : List Byte} (htaken : s.taken c 0x40 = some x)
include htaken

theorem execCopy_unread {r : Nat} (hload : s.load x.who (field x.ops 16 23) (field x.ops 32 39) = .error (.inl r)) :
    exec (.copy c) s = .next (s.refuseCmd x r { dua := some (field x.ops 16 23) }) := by
  show Host.Outcome.next (s.onTaken c 0x40 _) = _
  rw [State.onTaken_of_taken htaken]
  simp only [hload, State.failCmd]

variable (hload : s.load x.who (field x.ops 16 23) (field x.ops 32 39) = .ok (b, s1))
include hload

/-- With its source read a COPY writes what was read, or free bytes where the ranges overlap without being the same. -/
theorem execCopy_read :
    exec (.copy c) s =
      .next (if field x.ops 16 23 ≠ field x.ops 24 31 ∧ overlaps (field x.ops 16 23) (field x.ops 24 31) (field x.ops 32 39) = true then
          (s1.setFreeCtr (s1.freeCtr + 1)).copyOut x (field x.ops 24 31) (s1.freeBytes (field x.ops 24 31) (field x.ops 32 39))
        else s1.copyOut x (field x.ops 24 31) b) := by
  show Host.Outcome.next (s.onTaken c 0x40 _) = _
  rw [State.onTaken_of_taken htaken]
  simp only [hload, Bool.and_eq_true, decide_eq_true_eq]
  rfl

theorem execCopy_apart (hapart : field x.ops 16 23 = field x.ops 24 31 ∨ field x.ops 16 23 + field x.ops 32 39 ≤ field x.ops 24 31 ∨
      field x.ops 24 31 + field x.ops 32 39 ≤ field x.ops 16 23) :
    exec (.copy c) s = .next (s1.copyOut x (field x.ops 24 31) b) := by
  rw [execCopy_read htaken hload, if_neg]
  rw [overlaps_iff]
  omega

theorem execCopy_overlapping (hne : field x.ops 16 23 ≠ field x.ops 24 31) (hlow : field x.ops 16 23 < field x.ops 24 31 + field x.ops 32 39)
    (hhigh : field x.ops 24 31 < field x.ops 16 23 + field x.ops 32 39) :
    exec (.copy c) s =
      .next ((s1.setFreeCtr (s1.freeCtr + 1)).copyOut x (field x.ops 24 31) (s1.freeBytes (field x.ops 24 31) (field x.ops 32 39))) := by
  rw [execCopy_read htaken hload, if_pos ⟨hne, (overlaps_iff ..).2 ⟨hlow, hhigh⟩⟩]

end

/-! ## FILL -/

theorem length_fillBytes (pattern n : Nat) : (fillBytes pattern n).length = n := by
  simp [fillBytes]

theorem getD_fillBytes (pattern : Nat) {n i : Nat} (h : i < n) : (fillBytes pattern n).getD i 0 = BitVec.ofNat 8 (pattern / 2 ^ (8 * (i % 4))) := by
  simp [fillBytes, h]

theorem execFill_taken {s : State} {c : CmdRef} {x : Started} (htaken : s.taken c 0x41 = some x) :
    exec (.fill c) s = .next (s.copyOut x (field x.ops 16 23) (fillBytes (field x.ops 32 35) (field x.ops 24 31))) := by
  show Host.Outcome.next (s.onTaken c 0x41 _) = _
  rw [State.onTaken_of_taken htaken]

/-- Settles O43: each of the two is what `copyOut` leaves of its bytes, and reading the source changes no byte. -/
theorem copyAndFill : Obligations.CopyAndFill := by
  unfold Obligations.CopyAndFill
  refine ⟨fun s s1 s2 c x b htaken => ?_, fun s c x r htaken => execCopy_unread htaken, fun s s2 c x htaken => ?_, fun s c x r htaken hstore => ?_⟩
  · intro src dst n hload hmem
    obtain ⟨hb, hread⟩ := State.load_bytes hload
    have hlen : b.length = n := hb ▸ s.length_peek src n
    have hfind : s1.findCmd x.key = some x := by rw [(State.load_near hload).findCmd, State.findCmd_of_taken htaken]
    refine ⟨fun hapart hstore => ?_, fun hne hlow hhigh hfree => ?_⟩
    · obtain ⟨hruns, hbyte⟩ := State.copyOut_stored hfind hstore (hlen.symm ▸ hmem)
      rw [hlen] at hruns hbyte
      refine ⟨_, execCopy_apart htaken hload hapart, hruns, fun i hi => ?_, fun a hout => ?_⟩
      · rw [hbyte, if_pos (by omega), Nat.add_sub_cancel_left, hb, State.getD_peek _ _ hi]
      · rw [hbyte, if_neg (by omega), hread]
    · have hcount := s1.length_freeBytes dst n
      obtain ⟨u, hstore⟩ := hfree _ hcount
      obtain ⟨hruns, hbyte⟩ := State.copyOut_stored (s := s1.setFreeCtr (s1.freeCtr + 1)) hfind hstore (hcount.symm ▸ hmem)
      rw [hcount] at hruns hbyte
      refine ⟨_, execCopy_overlapping htaken hload hne hlow hhigh, hruns, fun a hout => ?_⟩
      rw [hbyte, if_neg (by omega)]
      exact congrFun hread a
  · intro dst n bytes hmem hstore
    have hlen : bytes.length = n := length_fillBytes ..
    obtain ⟨hruns, hbyte⟩ := State.copyOut_stored (State.findCmd_of_taken htaken) hstore (hlen.symm ▸ hmem)
    rw [hlen] at hruns hbyte
    refine ⟨_, execFill_taken htaken, hruns, fun i hi => ?_, fun a hout => ?_⟩
    · rw [hbyte, if_pos (by omega), Nat.add_sub_cancel_left, getD_fillBytes _ hi]
    · rw [hbyte, if_neg (by omega)]
  · rw [execFill_taken htaken, State.copyOut_refused hstore]

end Sys2Proof.Machine
end

section
/-!
PROOF. What a store has to do with the started commands and the queue pages: it reads and changes neither, for a demand access counts in the pages of the
queue dies and the dies only (R203, R420), which lie below the queue pages.
-/

namespace Sys2Proof.Machine

/-- An operation that goes by no started command and changes none, and leaves the registers of the queue pages, which stand from page 0x100 on (R408). -/
structure Confined (f : State → State) : Prop where
  started : ∀ s l, f (s.setStarted l) = (f s).setStarted l
  rd : ∀ s page off, 0x100 ≤ page → (f s).rd page off = s.rd page off

theorem Confined.id : Confined fun s => s := ⟨fun _ _ => rfl, fun _ _ _ _ => rfl⟩

theorem Confined.comp {f g : State → State} (hf : Confined f) (hg : Confined g) : Confined fun s => g (f s) :=
  ⟨fun s l => by rw [hf.started, hg.started], fun s page off hpage => (hg.rd _ page off hpage).trans (hf.rd s page off hpage)⟩

/-- A choice that goes by no started command either. -/
theorem Confined.ite {f g : State → State} {c : State → Prop} [∀ s, Decidable (c s)] (hc : ∀ s l, c (s.setStarted l) ↔ c s) (hf : Confined f)
    (hg : Confined g) : Confined fun s => if c s then f s else g s := by
  refine ⟨fun s l => ?_, fun s page off hpage => ?_⟩
  · rw [if_congr (hc s l) (hf.started s l) (hg.started s l), apply_ite (State.setStarted · l)]
  · split
    · exact hf.rd s page off hpage
    · exact hg.rd s page off hpage

theorem Confined.foldl {α : Type} {f : State → α → State} (hf : ∀ x, Confined (f · x)) (l : List α) : Confined fun s => l.foldl f s := by
  induction l with
  | nil => exact .id
  | cons x l ih => exact (hf x).comp ih

/-- Memory changed by what stands in the rest of the state but the started commands. -/
theorem Confined.setMem {m : State → Mem} (hm : ∀ s l, m (s.setStarted l) = m s) : Confined fun s => s.setMem (m s) :=
  ⟨fun s l => by
    rw [hm]
    rfl, fun _ _ _ _ => rfl⟩

/-- A count in a page below the queue pages. -/
theorem Confined.bump {page : State → Nat} (off n : Nat) (hpage : ∀ s l, page (s.setStarted l) = page s) (hlow : ∀ s, page s < 0xFF)
    (hoff : off < 0x100) : Confined fun s => s.bump (page s) off n := by
  refine .ite (fun _ _ => Iff.rfl) .id ⟨fun s l => ?_, fun s p o hp => ?_⟩
  · rw [hpage]
    rfl
  · have hkeys : regKey p o ≠ regKey (page s) off ∧ regKey p o ≠ regKey (page s) (off + 4) := by
      have := hlow s
      unfold regKey
      omega
    exact (State.rd_wr_ne _ _ _ _ _ _ hkeys.2).trans (State.rd_wr_ne _ _ _ _ _ _ hkeys.1)

/-! ## A demand access -/

theorem State.want_confined (n : Nat) : Confined (·.want n) := .ite (fun _ _ => Iff.rfl) (.setMem fun _ _ => rfl) .id

theorem State.translate_confined (who n tier frame : Nat) : Confined (·.translate who n tier frame) :=
  .ite (fun _ _ => Iff.rfl) .id (.setMem fun _ _ => rfl)

/-- A page marked as accessed, and what it may have been waiting for (R194, R197, R199): the part of `State.touchPage` before the translation. -/
def State.markPage (s : State) (n : Nat) : State :=
  match AMap.find s.mem.migr n with
  | some m =>
    if m.tier = 2 then
      (s.setPage n { s.page n with accessed := true, migrating := false }).setMem
        { (s.setPage n { s.page n with accessed := true, migrating := false }).mem with migr := AMap.del s.mem.migr n }
    else s.setPage n { s.page n with accessed := true }
  | none => (s.setPage n { s.page n with accessed := true }).want n

theorem State.touchPage_some (s : State) (w n : Nat) :
    s.touchPage (some w) n = if (s.page n).tier = 0 then s.markPage n else (s.markPage n).translate w n (s.page n).tier (s.page n).frame := rfl

theorem State.markPage_confined (n : Nat) : Confined (·.markPage n) := by
  refine ⟨fun s l => ?_, fun s page off hpage => ?_⟩
  · unfold State.markPage
    rw [show AMap.find (s.setStarted l).mem.migr n = AMap.find s.mem.migr n from rfl]
    cases AMap.find s.mem.migr n with
    | none => exact (State.want_confined n).started (s.setPage n { s.page n with accessed := true }) l
    | some m =>
      dsimp only
      split <;> rfl
  · unfold State.markPage
    cases AMap.find s.mem.migr n with
    | none => exact (State.want_confined n).rd _ page off hpage
    | some m =>
      dsimp only
      split <;> rfl

theorem State.touchPage_confined (who : Option Nat) (n : Nat) : Confined (·.touchPage who n) := by
  have hmark := State.markPage_confined n
  cases who with
  | none => exact hmark
  | some w =>
    have htranslate : Confined fun s => (s.markPage n).translate w n (s.page n).tier (s.page n).frame :=
      ⟨fun s l => by
        rw [hmark.started]
        exact (State.translate_confined w n _ _).started _ l,
        fun s page off hpage => ((State.translate_confined w n _ _).rd _ page off hpage).trans (hmark.rd s page off hpage)⟩
    simp only [State.touchPage_some]
    exact .ite (fun _ _ => Iff.rfl) hmark htranslate

/-- The ways in force for the owner of a line's page. -/
def State.homeWays (s : State) (line : Nat) : List Nat := s.waysOf (s.page (linePage line)).owner

/-- A way of a line's set that holds no line. -/
def State.freeWay (s : State) (line : Nat) : Option Nat :=
  (s.homeWays line).find? (fun w => !s.mem.cache.any (fun c => c.slice == (s.lineHome line).1 && c.set == (s.lineHome line).2 && c.way == w))

/-- A line put into one way of its set. -/
def State.fillWay (s : State) (line w : Nat) : State :=
  let h := s.lineHome line
  let others := s.mem.cache.filter (fun c => !(c.slice == h.1 && c.set == h.2 && c.way == w))
  s.setMem { s.mem with cache := ⟨h.1, h.2, w, (s.page (linePage line)).owner, line⟩ :: others }

/-- A line goes into a free way of its set, into one of the others where none is free, and nowhere where its owner has none (R203). -/
theorem State.allocLine_free {s : State} {line w : Nat} (h : s.freeWay line = some w) : s.allocLine line = s.fillWay line w := by
  unfold State.freeWay State.homeWays at h
  simp only [State.allocLine, h]
  rfl

theorem State.allocLine_noWay {s : State} {line : Nat} (h : s.freeWay line = none) (hways : s.homeWays line = []) : s.allocLine line = s := by
  unfold State.freeWay at h
  unfold State.homeWays at h hways
  simp only [State.allocLine, h]
  rw [hways]
  rfl

theorem State.allocLine_replace {s : State} {line x : Nat} {xs : List Nat} (h : s.freeWay line = none) (hways : s.homeWays line = x :: xs) :
    s.allocLine line = (s.setFreeCtr (s.freeCtr + 1)).fillWay line ((x :: xs).getD (Config.choice s.freeCtr % (xs.length + 1)) x) := by
  unfold State.freeWay at h
  unfold State.homeWays at h hways
  simp only [State.allocLine, h]
  rw [hways]
  rfl

theorem State.allocLine_confined (line : Nat) : Confined (·.allocLine line) := by
  refine ⟨fun s l => ?_, fun s page off _ => ?_⟩
  · cases hfree : s.freeWay line with
    | some w =>
      rw [State.allocLine_free hfree, State.allocLine_free (s := s.setStarted l) hfree]
      rfl
    | none =>
      cases hways : s.homeWays line with
      | nil => rw [State.allocLine_noWay hfree hways, State.allocLine_noWay (s := s.setStarted l) hfree hways]
      | cons x xs =>
        rw [State.allocLine_replace hfree hways, State.allocLine_replace (s := s.setStarted l) hfree hways]
        rfl
  · cases hfree : s.freeWay line with
    | some w =>
      rw [State.allocLine_free hfree]
      rfl
    | none =>
      cases hways : s.homeWays line with
      | nil => rw [State.allocLine_noWay hfree hways]
      | cons x xs =>
        rw [State.allocLine_replace hfree hways]
        rfl

theorem State.cacheLine_confined (line : Nat) : Confined (·.cacheLine line) := by
  have hslice : ∀ s : State, pgQD (s.lineHome line).1 < 0xFF := fun s => by
    have : (s.lineHome line).1 < 8 := Nat.mod_lt _ (by decide)
    unfold pgQD
    omega
  exact .ite (fun _ _ => Iff.rfl) .id (.ite (fun _ _ => Iff.rfl) (.bump _ _ (fun _ _ => rfl) hslice (by decide))
    ((Confined.bump _ _ (fun _ _ => rfl) hslice (by decide)).comp (State.allocLine_confined line)))

theorem State.prefetchLine_confined (line : Nat) : Confined (·.prefetchLine line) :=
  .ite (fun _ _ => Iff.rfl) .id (State.allocLine_confined line)

theorem State.streamLine_confined (h line : Nat) : Confined (·.streamLine h line) := by
  have hahead : ∀ l : List Nat, Confined fun s => l.foldl (fun s x => if linePage x = linePage line then s.prefetchLine x else s) s :=
    .foldl fun x => .ite (fun _ _ => Iff.rfl) (State.prefetchLine_confined x) .id
  unfold State.streamLine
  dsimp only
  exact .ite (fun _ _ => Iff.rfl) ((Confined.setMem fun _ _ => rfl).comp (hahead _)) (.setMem fun _ _ => rfl)

theorem State.bridgeLine_confined (h : HearthId) (line : Nat) (isRead : Bool) : Confined (·.bridgeLine h.val line isRead) := by
  have hdie : ∀ s : State, pgDIE (if isRead then (s.lineHome line).1 / 4 else h.val / 32) < 0xFF := fun s => by
    have : (s.lineHome line).1 < 8 := Nat.mod_lt _ (by decide)
    have := h.isLt
    unfold pgDIE
    split <;> omega
  exact .ite (fun _ _ => Iff.rfl) (.bump _ _ (fun _ _ => rfl) hdie (by decide)) .id

theorem State.cacheRange_confined (who : MemWho) (dua len : Nat) (isRead : Bool) : Confined (·.cacheRange who dua len isRead) := by
  refine .foldl (fun l => ?_) _
  have hline := State.cacheLine_confined l
  split
  · next h _ =>
    have hbridge := hline.comp (State.bridgeLine_confined h l isRead)
    exact .ite (fun _ _ => Iff.rfl) (hbridge.comp (State.streamLine_confined h.val l)) hbridge
  · exact hline

theorem State.demand_confined (who : MemWho) (dua len : Nat) (isRead : Bool) : Confined (·.demand who dua len isRead) :=
  have htouch : Confined (·.touchRange who dua len) := .ite (fun _ _ => Iff.rfl) (.foldl (State.touchPage_confined (whoNum who)) _) .id
  .ite (fun _ _ => Iff.rfl) (htouch.comp (State.cacheRange_confined who dua len isRead)) .id

theorem State.waitChunks_confined (dua len : Nat) : Confined (·.waitChunks dua len) := by
  refine .foldl (fun n => ⟨fun s l => ?_, fun s page off _ => ?_⟩) _
  · rw [show AMap.find (s.setStarted l).mem.migr n = AMap.find s.mem.migr n from rfl]
    cases AMap.find s.mem.migr n <;> rfl
  · dsimp only
    split <;> rfl

/-! ## A store -/

theorem State.poke_confined (dua : Nat) (data : List Byte) (fuel : Nat) : Confined (·.poke dua data fuel) := by
  induction fuel generalizing dua data with
  | zero => exact .id
  | succ fuel ih => exact .ite (fun _ _ => Iff.rfl) .id ((Confined.setMem fun _ _ => rfl).comp (ih _ _))

theorem State.pagesCheck_setStarted (s : State) (l : List Started) (who : MemWho) (write : Bool) (first n : Nat) :
    (s.setStarted l).pagesCheck who write first n = s.pagesCheck who write first n := by
  induction n generalizing first with
  | zero => rfl
  | succ n ih =>
    unfold State.pagesCheck
    rw [ih]
    rfl

theorem State.memCheck_setStarted (s : State) (l : List Started) (who : MemWho) (write : Bool) (dua len : Nat) :
    (s.setStarted l).memCheck who write dua len = s.memCheck who write dua len := by
  unfold State.memCheck
  rw [State.pagesCheck_setStarted]
  rfl

/-- A store writes its bytes where it has some, the check passes and no partly written line is poisoned; else it changes nothing. -/
theorem State.storeTry_eq (s : State) (who : MemWho) (dua : Nat) (data : List Byte) :
    s.storeTry who dua data =
      if data = [] ∨ s.memCheck who true dua data.length ≠ none ∨ (s.openWrite who dua data.length).partialPoison dua data.length ≠ none then s
      else (s.openWrite who dua data.length).storeRaw dua data := by
  unfold State.storeTry State.store State.openWrite
  by_cases hdata : data = []
  · simp [hdata]
  cases hcheck : s.memCheck who true dua data.length with
  | some r => simp [hdata]
  | none =>
    cases hpoison : ((s.demand who dua data.length false).waitChunks dua data.length).partialPoison dua data.length <;> simp [hdata, hpoison]

theorem State.storeTry_confined (who : MemWho) (dua : Nat) (data : List Byte) : Confined (·.storeTry who dua data) := by
  have hopen : Confined (·.openWrite who dua data.length) := (State.demand_confined ..).comp (State.waitChunks_confined ..)
  simp only [State.storeTry_eq]
  refine .ite (fun s l => ?_) .id (hopen.comp (State.poke_confined dua data (data.length + 1)))
  rw [State.memCheck_setStarted, hopen.started]
  exact Iff.rfl

end Sys2Proof.Machine
end

section
/-!
PROOF. The ending of a command that is no error: its record, its count, and the audit of its queue (R272 to R274, R276, R287, R367).
-/

namespace Sys2Proof.Machine

/-! ## The registers of the queue pages under records and audits -/

theorem pgQP_ge (p : Nat) : 0x100 ≤ pgQP p := by
  unfold pgQP pgQPM
  split <;> omega

theorem State.rd_bump_ne (s : State) {page off p o : Nat} (n : Nat) (hlow : regKey page off ≠ regKey p o) (hhigh : regKey page off ≠ regKey p (o + 4)) :
    (s.bump p o n).rd page off = s.rd page off := by
  unfold State.bump
  split
  · rfl
  · exact (State.rd_wr_ne _ _ _ _ _ _ hhigh).trans (State.rd_wr_ne _ _ _ _ _ _ hlow)

theorem State.rd_raise (s : State) (p bit page off : Nat) : (s.raise p bit).rd page off = s.rd page off := by
  have hregs : (s.raise p bit).regs = s.regs := by simp
  exact congrArg (AMap.get (rstAt page off) · (regKey page off)) hregs

section
variable (s : State) {page off : Nat} (hpage : 0x100 ≤ page)
include hpage

/-- An entry written into a ring changes of the queue pages' registers the ring's PROD only (R263). -/
theorem State.rd_produce (who : MemWho) {r : Ring} (data : List Byte) (hne : regKey page off ≠ regKey r.ptrPage r.prod) :
    (s.produce who r data).rd page off = s.rd page off :=
  (State.rd_wr_ne _ _ _ _ _ _ hne).trans ((State.storeTry_confined ..).rd s page off hpage)

theorem State.rd_complete (qp : Nat) (c : CRec) (hne : regKey page off ≠ regKey (pgQP qp) 0x60C) : (s.complete qp c).rd page off = s.rd page off := by
  have hput : (s.produce (whoOf qp) (ringCQ qp) c.bytes).rd page off = s.rd page off := s.rd_produce hpage _ _ hne
  unfold State.complete State.putComp
  dsimp only
  split_ifs
  · rw [State.rd_raise, hput]
  · exact hput
  · rw [State.rd_raise]
    rfl
  · rfl

/-- An error record changes EQ's PROD, or the count of records lost (R276). -/
theorem State.rd_report (qp : Nat) (e : ERec) (hprod : off / 4 ≠ 0x18B) (hlost : off / 4 ≠ 0x0E) (hlost' : off / 4 ≠ 0x0F) (hoff : off < 0x1000) :
    (s.report qp e).rd page off = s.rd page off := by
  have hput : (s.produce (whoOf qp) (ringEQ qp) e.bytes).rd page off = s.rd page off :=
    s.rd_produce hpage _ _ (by simp only [regKey, ringEQ]; omega)
  unfold State.report State.putErr
  dsimp only
  split_ifs
  · rw [State.rd_raise, hput]
  · rw [State.rd_raise]
    rfl
  · rfl
  · exact s.rd_bump_ne _ (by unfold regKey; omega) (by unfold regKey; omega)

/-- A failed check leaves the header words below ERR_LOST. -/
theorem State.rd_breach_header (law p o bits index : Nat) (hoff : off < 0x038) (ho : 0x040 ≤ o) (ho' : o < 0x1000) :
    (s.breach law p o bits index).rd page off = s.rd page off := by
  unfold State.breach
  dsimp only
  split_ifs
  · rfl
  · rw [State.rd_report _ hpage _ _ (by omega) (by omega) (by omega) (by omega), State.rd_raise, State.rd_wr_ne]
    unfold regKey
    omega

end

/-- After a failed check of a queue the MISMATCH bit of its page's audit register stands (R369). -/
theorem State.breach_mismatch (s : State) (law index : Nat) {page : Nat} (hpage : 0x100 ≤ page) :
    ((s.breach law page 0x040 1 index).rd page 0x040).getLsbD 0 = true := by
  unfold State.breach
  dsimp only
  split_ifs with h
  · have hbit := congrArg (BitVec.getLsbD · 0) h
    simpa using hbit
  · rw [State.rd_report _ hpage _ _ (by decide) (by decide) (by decide) (by decide), State.rd_raise, State.rd_wr]
    simp

/-! ## The audit of a queue (R367) -/

/-- The commands of a queue that are outstanding. -/
def State.outstanding (s : State) (n : Nat) : List Started := s.started.filter (fun c => c.qnum == n)

theorem State.auditQueue_agrees {s : State} {n : Nat} (h : (s.queue n).taken = (s.queue n).ended + (s.outstanding n).length) : s.auditQueue n = s := by
  have hcheck : s.checkQueue n = s := if_pos h
  unfold State.auditQueue
  rw [hcheck, ite_self]

theorem State.auditQueue_breaks {s : State} {n : Nat} (h : (s.queue n).taken ≠ (s.queue n).ended + (s.outstanding n).length) (hresets : s.resets = []) :
    s.auditQueue n = s.breach 1 (pgQP (n / 40)) 0x040 1 (n % 40) := by
  have hheld : s.auditHeld (· == 0x48 + n / 40) = false := by simp [State.auditHeld, hresets]
  unfold State.auditQueue
  rw [hheld, if_neg Bool.false_ne_true]
  exact if_neg h

theorem State.queue_auditQueue (s : State) (n : Nat) : (s.auditQueue n).queue = s.queue := by
  have hqueues : (s.auditQueue n).queues = s.queues := by simp [State.auditQueue, State.checkQueue]
  exact funext fun j => congrArg (AMap.get ({} : Queue) · j) hqueues

theorem State.rd_auditQueue (s : State) (n : Nat) {page off : Nat} (hpage : 0x100 ≤ page) (hoff : off < 0x038) :
    (s.auditQueue n).rd page off = s.rd page off := by
  unfold State.auditQueue State.checkQueue
  dsimp only
  split_ifs
  · rfl
  · rfl
  · exact s.rd_breach_header hpage _ _ _ _ _ hoff (by decide) (by decide)

/-- A queue that settles changes in its state only. -/
theorem State.settleQueue_frame (s : State) (n : Nat) : s.settleQueue n = { s with queues := (s.settleQueue n).queues } := by
  unfold State.settleQueue
  dsimp only
  split <;> rfl

theorem State.settleQueue_keeps (s : State) (n : Nat) :
    (s.settleQueue n).mem = s.mem ∧ (s.settleQueue n).held = s.held ∧ (s.settleQueue n).hdr = s.hdr ∧ (s.settleQueue n).rd = s.rd := by
  rw [State.settleQueue_frame]
  exact ⟨rfl, rfl, rfl, rfl⟩

theorem State.ended_settleQueue (s : State) (n : Nat) : ((s.settleQueue n).queue n).ended = (s.queue n).ended := by
  unfold State.settleQueue
  dsimp only
  split
  · simp
  · rfl

/-! ## A completion record (R274) -/

/-- A record can be written at once: none is held before it, the page is ENABLED and the ring has room. -/
def State.compFits (s : State) (qp : Nat) : Prop := (s.heldOf qp).comp = [] ∧ s.enabled (pgQP qp) = true ∧ 0 < s.ringRoom (ringCQ qp)

theorem State.complete_fits {s : State} {qp : Nat} (c : CRec) (h : s.compFits qp) : s.complete qp c = s.putComp qp c := by
  obtain ⟨hheld, henabled, hroom⟩ := h
  exact if_pos (by simp [hheld, henabled, hroom])

theorem State.complete_waits {s : State} {qp : Nat} (c : CRec) (h : ¬ s.compFits qp) :
    s.complete qp c =
      if (s.heldOf qp).comp = [] then (s.setHeld qp { s.heldOf qp with comp := (s.heldOf qp).comp ++ [c] }).raise (pgQP qp) 3
      else s.setHeld qp { s.heldOf qp with comp := (s.heldOf qp).comp ++ [c] } := by
  refine (if_neg (by simpa [State.compFits, and_assoc] using h)).trans ?_
  simp only [List.isEmpty_iff]

theorem State.rd_produce_prod (s : State) (who : MemWho) (r : Ring) (data : List Byte) :
    (s.produce who r data).rd r.ptrPage r.prod = s.rd r.ptrPage r.prod + 1 := State.rd_wr ..

theorem State.held_produce (s : State) (who : MemWho) (r : Ring) (data : List Byte) : (s.produce who r data).held = s.held := by
  show (s.storeTry who (s.ringAddr r (s.rd r.ptrPage r.prod)) data).held = s.held
  rw [State.storeTry_near]

theorem State.mem_produce (s : State) (who : MemWho) (r : Ring) (data : List Byte) :
    (s.produce who r data).mem = (s.storeTry who (s.ringAddr r (s.rd r.ptrPage r.prod)) data).mem := rfl

/-- A record written is the next entry of its ring. -/
theorem State.putComp_writes (s : State) (qp : Nat) (c : CRec) :
    (s.putComp qp c).rd (pgQP qp) 0x60C = s.rd (pgQP qp) 0x60C + 1 ∧ (s.putComp qp c).held = s.held ∧
      (c.notify = true → ((s.putComp qp c).hdr (pgQP qp)).evStat.getLsbD 0 = true) ∧
      (s.putComp qp c).mem = (s.storeTry (whoOf qp) (s.ringAddr (ringCQ qp) (s.rd (pgQP qp) 0x60C)) c.bytes).mem := by
  have hprod : (s.produce (whoOf qp) (ringCQ qp) c.bytes).rd (pgQP qp) 0x60C = s.rd (pgQP qp) 0x60C + 1 := s.rd_produce_prod (whoOf qp) (ringCQ qp) c.bytes
  have hheld := s.held_produce (whoOf qp) (ringCQ qp) c.bytes
  have hmem : (s.produce (whoOf qp) (ringCQ qp) c.bytes).mem =
    (s.storeTry (whoOf qp) (s.ringAddr (ringCQ qp) (s.rd (pgQP qp) 0x60C)) c.bytes).mem := s.mem_produce ..
  unfold State.putComp
  generalize s.produce (whoOf qp) (ringCQ qp) c.bytes = u at hprod hheld hmem ⊢
  dsimp only
  split_ifs with hnotify
  · refine ⟨(u.rd_raise ..).trans hprod, ?_, fun _ => State.evStat_raise _ (by decide), ?_⟩
    · simpa using hheld
    · simpa using hmem
  · exact ⟨hprod, hheld, fun h => absurd h hnotify, hmem⟩

theorem State.heldOf_of_held {s t : State} (h : t.held = s.held) : t.heldOf = s.heldOf :=
  funext fun n => congrArg (AMap.get ({} : HeldRecs) · n) h

/-- A record held changes the held list, and sets CQ_FULL where it is the first. -/
theorem State.complete_holds {s : State} {qp : Nat} (c : CRec) (h : ¬ s.compFits qp) :
    (s.complete qp c).rd (pgQP qp) 0x60C = s.rd (pgQP qp) 0x60C ∧ (s.complete qp c).mem = s.mem ∧
      (s.complete qp c).heldOf qp = { s.heldOf qp with comp := (s.heldOf qp).comp ++ [c] } ∧
      ((s.heldOf qp).comp = [] → ((s.complete qp c).hdr (pgQP qp)).evStat.getLsbD 3 = true) := by
  have hlist : ∀ t : State, t.held = (s.setHeld qp { s.heldOf qp with comp := (s.heldOf qp).comp ++ [c] }).held →
      t.heldOf qp = { s.heldOf qp with comp := (s.heldOf qp).comp ++ [c] } := fun t ht => by
    rw [State.heldOf_of_held ht, State.heldOf_setHeld, if_pos rfl]
  rw [State.complete_waits c h]
  split_ifs with hfirst
  · exact ⟨State.rd_raise .., by simp, hlist _ (by simp), fun _ => State.evStat_raise _ (by decide)⟩
  · exact ⟨rfl, rfl, hlist _ rfl, fun h0 => absurd h0 hfirst⟩

theorem State.err_complete (s : State) (qp : Nat) (c : CRec) : ((s.complete qp c).heldOf qp).err = (s.heldOf qp).err := by
  by_cases h : s.compFits qp
  · obtain ⟨-, hheld, -⟩ := s.putComp_writes qp c
    rw [State.complete_fits c h, State.heldOf_of_held hheld]
  · obtain ⟨-, -, hlist, -⟩ := State.complete_holds c h
    rw [hlist]

/-! ## An ending that is no error -/

/-- The record of an ending: none for a QUIET command that ends OK (R273). -/
def State.recordEnd (s : State) (x : Started) (status : Nat) (i : EndInfo) : State :=
  if x.quiet && decide (status = 0) then s else s.complete x.page (x.comp s.nowUs status i)

/-- An ending counted, in CMD_DONE and for the queue's audit. -/
def State.countEnd (s : State) (x : Started) : State :=
  let s1 := s.bump (pgQP x.page) 0x020 1
  s1.setQueue x.qnum { s1.queue x.qnum with ended := (s1.queue x.qnum).ended + 1 }

/-- The state in which the queue of an ended command is audited. -/
def State.endCounted (s : State) (x : Started) (status : Nat) (i : EndInfo) : State := ((s.dropCmd x).recordEnd x status i).countEnd x

theorem State.endCmd_noError (s : State) {x : Started} {status : Nat} (i : EndInfo) (hstatus : status ∉ [1, 2, 4, 5, 6]) (heng : x.eng ≠ 3) :
    s.endCmd x status i = ((s.endCounted x status i).auditQueue x.qnum).settleQueue x.qnum := by
  have hone : status ≠ 1 := fun h => hstatus (by simp [h])
  have herror : ¬ [1, 2, 4, 5, 6].contains status = true := by simpa using hstatus
  unfold State.endCmd State.finish
  simp only [if_neg hone, if_neg herror, if_neg heng]
  rfl

theorem Started.qnum_page {x : Started} (heng : x.eng < 5) (hq : x.q < 8) : x.qnum / 40 = x.page := by
  unfold Started.qnum qNum
  omega

section
variable (s : State) (x : Started) (status : Nat) (i : EndInfo)

theorem State.recordEnd_cmds : (s.recordEnd x status i).queues = s.queues ∧ (s.recordEnd x status i).started = s.started := by
  unfold State.recordEnd
  split
  · exact ⟨rfl, rfl⟩
  · exact State.complete_cmds ..

theorem State.rd_recordEnd {page off : Nat} (hpage : 0x100 ≤ page) (hne : regKey page off ≠ regKey (pgQP x.page) 0x60C) :
    (s.recordEnd x status i).rd page off = s.rd page off := by
  unfold State.recordEnd
  split
  · rfl
  · exact s.rd_complete hpage _ _ hne

theorem State.err_recordEnd : ((s.recordEnd x status i).heldOf x.page).err = (s.heldOf x.page).err := by
  unfold State.recordEnd
  split
  · rfl
  · exact s.err_complete ..

/-- The counts of an ending leave what its record left in memory, in the held lists, in the page headers and in the page's registers from 0x028 on. -/
theorem State.countEnd_keeps :
    (s.countEnd x).mem = s.mem ∧ (s.countEnd x).held = s.held ∧ (s.countEnd x).hdr = s.hdr ∧
      ∀ off, 0x028 ≤ off → off < 0x1000 → (s.countEnd x).rd (pgQP x.page) off = s.rd (pgQP x.page) off := by
  refine ⟨by simp [State.countEnd], by simp [State.countEnd], funext fun n => s.hdr_bump .., fun off hlow hhigh => ?_⟩
  exact s.rd_bump_ne 1 (by unfold regKey; omega) (by unfold regKey; omega)

theorem State.queue_bump (page off n : Nat) : (s.bump page off n).queue = s.queue := by
  rw [State.bump_frame]
  rfl

theorem State.queue_endCounted : (s.endCounted x status i).queue x.qnum = { s.queue x.qnum with ended := (s.queue x.qnum).ended + 1 } := by
  obtain ⟨hqueues, -⟩ := (s.dropCmd x).recordEnd_cmds x status i
  have hqueue : ((s.dropCmd x).recordEnd x status i).queue x.qnum = s.queue x.qnum := congrArg (AMap.get ({} : Queue) · x.qnum) hqueues
  unfold State.endCounted State.countEnd
  dsimp only
  rw [State.queue_setQueue, if_pos rfl, State.queue_bump, hqueue]

theorem State.outstanding_endCounted :
    (s.endCounted x status i).outstanding x.qnum = s.started.filter (fun y => y.key != x.key && y.qnum == x.qnum) := by
  obtain ⟨-, hstarted⟩ := (s.dropCmd x).recordEnd_cmds x status i
  have hcounted : (s.endCounted x status i).started = ((s.dropCmd x).recordEnd x status i).started := by
    simp [State.endCounted, State.countEnd]
  have hdrop : (s.dropCmd x).started = s.started.filter (fun y => y.key != x.key) := rfl
  unfold State.outstanding
  rw [hcounted, hstarted, hdrop, List.filter_filter]
  simp only [Bool.and_comm]

theorem State.rd64_endCounted : (s.endCounted x status i).rd64 (pgQP x.page) 0x020 = (s.rd64 (pgQP x.page) 0x020 + 1) % 2 ^ 64 := by
  have hrecord : ((s.dropCmd x).recordEnd x status i).rd64 (pgQP x.page) 0x020 = s.rd64 (pgQP x.page) 0x020 := by
    unfold State.rd64
    rw [State.rd_recordEnd _ _ _ _ (pgQP_ge _) (by unfold regKey; omega), State.rd_recordEnd _ _ _ _ (pgQP_ge _) (by unfold regKey; omega)]
    rfl
  rw [← hrecord]
  exact State.rd64_bump ..

end

/-! ## What an ended command leaves -/

/-- The queue's commands taken are those ended, with this one, and those still outstanding (R367). -/
def State.endBalanced (s : State) (x : Started) : Prop :=
  (s.queue x.qnum).taken = (s.queue x.qnum).ended + 1 + (s.started.filter (fun y => y.key != x.key && y.qnum == x.qnum)).length

section
variable {s : State} {x : Started} {status : Nat} (i : EndInfo) (hstatus : status ∉ [1, 2, 4, 5, 6]) (heng : x.eng ≠ 3)
include hstatus heng

theorem State.ended_endCmd : ((s.endCmd x status i).queue x.qnum).ended = (s.queue x.qnum).ended + 1 := by
  rw [State.endCmd_noError s i hstatus heng, State.ended_settleQueue, State.queue_auditQueue, State.queue_endCounted]

theorem State.cmdDone_endCmd : (s.endCmd x status i).rd64 (pgQP x.page) 0x020 = (s.rd64 (pgQP x.page) 0x020 + 1) % 2 ^ 64 := by
  obtain ⟨-, -, -, hsettled⟩ := ((s.endCounted x status i).auditQueue x.qnum).settleQueue_keeps x.qnum
  rw [State.endCmd_noError s i hstatus heng, ← State.rd64_endCounted s x status i]
  unfold State.rd64
  rw [hsettled, State.rd_auditQueue _ _ (pgQP_ge _) (by decide), State.rd_auditQueue _ _ (pgQP_ge _) (by decide)]

/-- Counts that do not agree show in the audit register of the queue's page (R367, R369). -/
theorem State.mismatch_endCmd (hlt : x.eng < 5) (hq : x.q < 8) (hbalance : ¬ s.endBalanced x) (hresets : s.resets = []) :
    ((s.endCmd x status i).rd (pgQP x.page) 0x040).getLsbD 0 = true := by
  have hresets' : (s.endCounted x status i).resets = [] := by
    have hrecord : Recorded (s.dropCmd x) ((s.dropCmd x).recordEnd x status i) := .ite .rfl (State.complete_recorded ..)
    have hcounted : Recorded (s.dropCmd x) (s.endCounted x status i) :=
      (hrecord.trans (State.bump_recorded ..)).trans (State.setQueue_recorded ..)
    rw [hcounted]
    exact hresets
  have hbroken : ((s.endCounted x status i).queue x.qnum).taken ≠
      ((s.endCounted x status i).queue x.qnum).ended + ((s.endCounted x status i).outstanding x.qnum).length := by
    rw [State.queue_endCounted, State.outstanding_endCounted]
    exact hbalance
  obtain ⟨-, -, -, hsettled⟩ := ((s.endCounted x status i).breach 1 (pgQP x.page) 0x040 1 (x.qnum % 40)).settleQueue_keeps x.qnum
  rw [State.endCmd_noError s i hstatus heng, State.auditQueue_breaks hbroken hresets', Started.qnum_page hlt hq, hsettled]
  exact State.breach_mismatch _ _ _ (pgQP_ge _)

/-- Where the counts agree the record is all that an ending leaves in memory, in the held lists, in the page headers and in the page's registers. -/
theorem State.endCmd_keeps (hbalance : s.endBalanced x) :
    let t := s.endCmd x status i
    let u := (s.dropCmd x).recordEnd x status i
    t.mem = u.mem ∧ t.held = u.held ∧ t.hdr = u.hdr ∧ ∀ off, 0x028 ≤ off → off < 0x1000 → t.rd (pgQP x.page) off = u.rd (pgQP x.page) off := by
  have hagrees : ((s.endCounted x status i).queue x.qnum).taken =
      ((s.endCounted x status i).queue x.qnum).ended + ((s.endCounted x status i).outstanding x.qnum).length := by
    rw [State.queue_endCounted, State.outstanding_endCounted]
    exact hbalance
  intro t u
  have ht : t = (u.countEnd x).settleQueue x.qnum := by
    show s.endCmd x status i = _
    rw [State.endCmd_noError s i hstatus heng, State.auditQueue_agrees hagrees]
    rfl
  obtain ⟨hmem, hheld, hhdr, hrd⟩ := (u.countEnd x).settleQueue_keeps x.qnum
  obtain ⟨hmem', hheld', hhdr', hrd'⟩ := u.countEnd_keeps x
  rw [ht, hmem, hheld, hhdr, hrd]
  exact ⟨hmem', hheld', hhdr', hrd'⟩

end

theorem State.recordEnd_quiet (s : State) {x : Started} {status : Nat} (i : EndInfo) (hquiet : x.quiet = true) (hok : status = 0) :
    s.recordEnd x status i = s := if_pos (by simp [hquiet, hok])

theorem State.recordEnd_recorded (s : State) {x : Started} {status : Nat} (i : EndInfo) (h : ¬ (x.quiet = true ∧ status = 0)) :
    s.recordEnd x status i = s.complete x.page (x.comp s.nowUs status i) := if_neg (by simpa using h)

/-- What a store leaves in memory does not depend on the started commands. -/
theorem State.mem_storeTry_dropCmd (s : State) (x : Started) (who : MemWho) (dua : Nat) (data : List Byte) :
    ((s.dropCmd x).storeTry who dua data).mem = (s.storeTry who dua data).mem := by
  have h := (State.storeTry_confined who dua data).started s (s.started.filter fun y => y.key != x.key)
  exact (congrArg State.mem h).trans rfl

/-- Settles O29: beside the count and the queue an ending leaves what its record leaves, and the audit shows counts that do not agree. -/
theorem endOfCommand : Obligations.EndOfCommand := by
  unfold Obligations.EndOfCommand
  intro s x status i _ hlt hq hstatus heng t agree
  refine ⟨s.findCmd_endCmd .., fun y hy hkey => ?_, State.ended_endCmd i hstatus heng, State.cmdDone_endCmd i hstatus heng,
    State.mismatch_endCmd i hstatus heng hlt hq, fun hagree => ?_⟩
  · have hstarted : t.started = s.started.filter (fun y => y.key != x.key) := s.started_endCmd ..
    rw [hstarted]
    exact List.mem_filter.2 ⟨hy, bne_iff_ne.2 hkey⟩
  obtain ⟨hmem, hheld, hhdr, hrd⟩ := State.endCmd_keeps i hstatus heng hagree
  refine ⟨?_, ?_, fun hquiet hok => ?_, fun hrecord => ?_⟩
  · rw [hrd 0x62C (by decide) (by decide), State.rd_recordEnd _ _ _ _ (pgQP_ge _) (by unfold regKey; omega)]
    rfl
  · rw [State.heldOf_of_held hheld, State.err_recordEnd]
    rfl
  · rw [State.recordEnd_quiet _ i hquiet hok] at hmem hheld hrd
    exact ⟨hrd 0x60C (by decide) (by decide), hheld, hmem⟩
  · have hnow : (s.dropCmd x).nowUs = s.nowUs := rfl
    rw [State.recordEnd_recorded _ i hrecord, hnow] at hmem hheld hhdr hrd
    split
    · next hfits =>
      rw [State.complete_fits (s := s.dropCmd x) _ hfits] at hmem hheld hhdr hrd
      obtain ⟨hprod, hkept, hnotify, hstored⟩ := (s.dropCmd x).putComp_writes x.page (x.comp s.nowUs status i)
      refine ⟨(hrd 0x60C (by decide) (by decide)).trans hprod, hheld.trans hkept, fun hasked => ?_, ?_⟩
      · rw [hhdr]
        exact hnotify hasked
      · rw [hmem]
        exact hstored.trans (s.mem_storeTry_dropCmd ..)
    · next hfull =>
      obtain ⟨hprod, hkept, hlist, hevent⟩ := State.complete_holds (s := s.dropCmd x) (x.comp s.nowUs status i) hfull
      refine ⟨(hrd 0x60C (by decide) (by decide)).trans hprod, hmem.trans hkept, ?_, fun hfirst => ?_⟩
      · rw [State.heldOf_of_held hheld]
        exact congrArg HeldRecs.comp hlist
      · rw [hhdr]
        exact hevent hfirst

end Sys2Proof.Machine
end

section
/-!
PROOF. The CTRL word of a partition's page and the events of its freezes (R294, R297, R298, R411).
-/

namespace Sys2Proof.Machine

/-! ## Shared facts -/

theorem kindOf_pgPT (p : PartId) : kindOf (pgPT p.val) = some (.pt, p.val) := by
  revert p
  decide

/-- A partition whose stride runs reaches its boundary later. -/
theorem State.settleIdle_running {s : State} {p : Nat} (hidle : (s.seOf p).st ≠ .idle) (hpaused : (s.seOf p).st ≠ .paused) :
    s.settleIdle p = s := by
  unfold State.settleIdle
  simp [hidle, hpaused]

/-- Partitions are left alone by an event. -/
theorem State.pt_raise (s : State) (page bit : Nat) : (s.raise page bit).pt = s.pt := by
  rw [State.raise_signalled]
  rfl

theorem State.mem_raise (s : State) (page bit : Nat) : (s.raise page bit).mem = s.mem := by
  rw [State.raise_signalled]

/-! ## The bits of a CTRL word -/

/-- A word that sets FREEZE holds ENABLE and FREEZE and no ASHOUT, whatever stood there. -/
theorem ctrlWord_freeze (h : PageHdr) :
    (ctrlWord h 3 0).getLsbD 0 = true ∧ (ctrlWord h 3 0).getLsbD 1 = true ∧ (ctrlWord h 3 0).getLsbD 2 = false := by
  unfold ctrlWord PageHdr.ctrl
  cases h.enableBit <;> cases h.freeze <;> decide

theorem ctrlWord_thaw (h : PageHdr) :
    (ctrlWord h 1 2).getLsbD 0 = true ∧ (ctrlWord h 1 2).getLsbD 1 = false ∧ (ctrlWord h 1 2).getLsbD 2 = false := by
  unfold ctrlWord PageHdr.ctrl
  cases h.enableBit <;> cases h.freeze <;> decide

theorem ctrlWord_ashout (h : PageHdr) : (ctrlWord h 4 0).getLsbD 2 = true := by
  unfold ctrlWord PageHdr.ctrl
  cases h.enableBit <;> cases h.freeze <;> decide

/-! ## What a CTRL word does to a partition -/

section
variable {s : State} {p : Nat} {v : Word}

/-- ENABLE kept on a partition that neither restores nor ashes: it is checked, and FREEZE says whether it freezes or thaws. -/
theorem State.ptCtrl_enables (henable : v.getLsbD 0 = true) (hash : v.getLsbD 2 = false) (hrestoring : (s.pt p).st ≠ .restoring)
    (hashing : (s.pt p).st ≠ .ashing) :
    s.ptCtrl p v = if v.getLsbD 1 then (s.writeEnable (pgPT p)).setFreeze p else (s.writeEnable (pgPT p)).clearFreeze p := by
  simp only [State.ptCtrl, henable, hash, hrestoring, hashing, Bool.false_and, Bool.not_true, Bool.false_eq_true, decide_false, Bool.or_false, if_false]

theorem State.ptCtrl_busy (henable : v.getLsbD 0 = true) (hash : v.getLsbD 2 = false)
    (hst : (s.pt p).st = .restoring ∨ (s.pt p).st = .ashing) : s.ptCtrl p v = s.refuse (pgPT p) 0x0704 := by
  simp only [State.ptCtrl, henable, hash, Bool.false_and, Bool.not_true, Bool.false_eq_true, if_false, Bool.or_eq_true, decide_eq_true_eq, if_pos hst]

theorem State.ptCtrl_ashout (hash : v.getLsbD 2 = true) (hst : (s.pt p).st ≠ .disabled) : s.ptCtrl p v = s.startAshout p := by
  simp [State.ptCtrl, hash, hst]

theorem State.startAshout_begins (hst : (s.pt p).st ∉ [InstSt.disabled, .ashing, .saving, .restoring]) : s.startAshout p = s.beginAsh p := by
  simp only [List.mem_cons, List.not_mem_nil, or_false, not_or] at hst
  obtain ⟨hdisabled, hashing, hsaving, hrestoring⟩ := hst
  simp [State.startAshout, hdisabled, hashing, hsaving, hrestoring]

/-- A SAVE or RESTORE cut off ends ABORTED (R304). -/
theorem State.startAshout_cutsOff (hst : (s.pt p).st = .saving ∨ (s.pt p).st = .restoring) :
    s.startAshout p = (s.wr (pgPT p) 0x08C 3).beginAsh p := by
  rcases hst with hst | hst <;> simp [State.startAshout, hst]

theorem State.startAshout_ashing (hst : (s.pt p).st = .ashing) : s.startAshout p = s := by
  simp [State.startAshout, hst]

end

/-- ENABLE is written in the page's header only, checked now or held by the fence (R411, R413). -/
theorem State.writeEnable_frame (s : State) (page : Nat) : s.writeEnable page = s.setHdr page ((s.writeEnable page).hdr page) := by
  unfold State.writeEnable
  split
  · simp
  · simp [State.startCheck]

/-! ## Freezing and thawing -/

/-- A partition that freezes while its stride runs: it waits for the boundary. -/
theorem State.setFreeze_waits {s : State} {p : Nat} (hst : (s.pt p).st = .enabled) (hidle : (s.seOf p).st ≠ .idle)
    (hpaused : (s.seOf p).st ≠ .paused) :
    s.setFreeze p =
      ((s.setPt p { s.pt p with st := .freezing, freezeAt := s.nowUs, freezeLeft := none }).setHdr (pgPT p)
        { s.hdr (pgPT p) with freeze := true }).setSe p { s.seOf p with freezeLate := decide ((s.seOf p).st = .boundary) } := by
  unfold State.setFreeze
  rw [if_pos hst]
  exact State.settleIdle_running (by simpa using hidle) (by simpa using hpaused)

/-- With no entry in the park queue no fetch starts again. -/
theorem State.reopenFetches_of_no_parks {s : State} (p : Nat) (h : s.parks = []) : s.reopenFetches p = s := by
  obtain ⟨⟩ := s
  obtain rfl : _ = [] := h
  rfl

/-- Budgets that go on change hold entries and fetches only. -/
theorem State.startBudgets_keeps (s : State) (p : Nat) : (s.startBudgets p).pt = s.pt ∧ (s.startBudgets p).hdr = s.hdr := ⟨rfl, rfl⟩

theorem State.clearFreeze_thaws {s : State} {p : Nat} (hst : (s.pt p).st = .frozen) (hparks : s.parks = []) :
    s.clearFreeze p =
      ((s.setPt p { s.pt p with st := .enabled }).setHdr (pgPT p) { s.hdr (pgPT p) with freeze := false }).startBudgets p := by
  unfold State.clearFreeze
  rw [if_pos hst]
  exact State.reopenFetches_of_no_parks p hparks

/-! ## The commands -/

section
variable {s : State} {o : Origin} {p : PartId} {r : Req} (haccess : s.access o (pgPT p.val * 0x1000 + 8) true = .pass s r)
  (hcheck : (s.hdr (pgPT p.val)).checking = none)
include haccess hcheck

/-- A CTRL write that passes its gate while no check runs acts at once (R413). -/
theorem State.ctrlBy_pt (f : PageHdr → Word) :
    s.ctrlBy o (pgPT p.val) f = (s.setReply .ok).ptCtrl p.val (f (s.hdr (pgPT p.val))) := by
  have hnone : ((s.setReply .ok).hdr (pgPT p.val)).checking = none := hcheck
  unfold State.ctrlBy
  rw [State.withWrite_pass _ haccess]
  simp only [State.writeCtrl, hnone, Option.isSome_none, Bool.false_eq_true, if_false, State.applyCtrl, kindOf_pgPT]
  rfl

theorem execPtFreezeSet_enables (hrestoring : (s.pt p.val).st ≠ .restoring) (hashing : (s.pt p.val).st ≠ .ashing) :
    exec (.ptFreezeSet o p) s = .next (((s.setReply .ok).writeEnable (pgPT p.val)).setFreeze p.val) := by
  obtain ⟨henable, hfreeze, hash⟩ := ctrlWord_freeze (s.hdr (pgPT p.val))
  refine congrArg Host.Outcome.next ((State.ctrlBy_pt haccess hcheck _).trans ?_)
  exact (State.ptCtrl_enables (s := s.setReply .ok) henable hash hrestoring hashing).trans (if_pos hfreeze)

theorem execPtFreezeClear_enables (hrestoring : (s.pt p.val).st ≠ .restoring) (hashing : (s.pt p.val).st ≠ .ashing) :
    exec (.ptFreezeClear o p) s = .next (((s.setReply .ok).writeEnable (pgPT p.val)).clearFreeze p.val) := by
  obtain ⟨henable, hthaw, hash⟩ := ctrlWord_thaw (s.hdr (pgPT p.val))
  refine congrArg Host.Outcome.next ((State.ctrlBy_pt haccess hcheck _).trans ?_)
  exact (State.ptCtrl_enables (s := s.setReply .ok) henable hash hrestoring hashing).trans (if_neg (Bool.eq_false_iff.1 hthaw))

theorem execPtFreezeSet_busy (hst : (s.pt p.val).st = .restoring ∨ (s.pt p.val).st = .ashing) :
    exec (.ptFreezeSet o p) s = .next ((s.setReply .ok).refuse (pgPT p.val) 0x0704) := by
  obtain ⟨henable, -, hash⟩ := ctrlWord_freeze (s.hdr (pgPT p.val))
  exact congrArg Host.Outcome.next ((State.ctrlBy_pt haccess hcheck _).trans (State.ptCtrl_busy henable hash hst))

theorem execPtFreezeClear_busy (hst : (s.pt p.val).st = .restoring ∨ (s.pt p.val).st = .ashing) :
    exec (.ptFreezeClear o p) s = .next ((s.setReply .ok).refuse (pgPT p.val) 0x0704) := by
  obtain ⟨henable, -, hash⟩ := ctrlWord_thaw (s.hdr (pgPT p.val))
  exact congrArg Host.Outcome.next ((State.ctrlBy_pt haccess hcheck _).trans (State.ptCtrl_busy henable hash hst))

theorem execPtAshout_alive (hst : (s.pt p.val).st ≠ .disabled) : exec (.ptAshout o p) s = .next ((s.setReply .ok).startAshout p.val) :=
  congrArg Host.Outcome.next ((State.ctrlBy_pt haccess hcheck _).trans (State.ptCtrl_ashout (ctrlWord_ashout _) hst))

/-- FREEZE on an ENABLED partition whose stride runs: its budget runs from now (R294). -/
theorem execPtFreezeSet_freezes (hst : (s.pt p.val).st = .enabled) (hidle : (s.seOf p.val).st ≠ .idle) (hpaused : (s.seOf p.val).st ≠ .paused) :
    ∃ t, exec (.ptFreezeSet o p) s = .next t ∧ t.pt p.val = { s.pt p.val with st := .freezing, freezeAt := s.nowUs, freezeLeft := none } ∧
      (t.hdr (pgPT p.val)).freeze = true ∧ ∀ q, q ≠ p.val → t.pt q = s.pt q := by
  rw [execPtFreezeSet_enables haccess hcheck (by simp [hst]) (by simp [hst]), State.writeEnable_frame]
  refine ⟨_, congrArg Host.Outcome.next (State.setFreeze_waits (by simpa using hst) (by simpa using hidle) (by simpa using hpaused)), ?_, ?_,
    fun q hq => ?_⟩
  · simp
  · simp
  · simp [hq]

/-- FREEZE cleared on a FROZEN partition with an empty park queue: it is ENABLED again (R294). -/
theorem execPtFreezeClear_thaws (hst : (s.pt p.val).st = .frozen) (hparks : s.parks = []) :
    ∃ t, exec (.ptFreezeClear o p) s = .next t ∧ t.pt p.val = { s.pt p.val with st := .enabled } ∧ (t.hdr (pgPT p.val)).freeze = false ∧
      ∀ q, q ≠ p.val → t.pt q = s.pt q := by
  rw [execPtFreezeClear_enables haccess hcheck (by simp [hst]) (by simp [hst]), State.writeEnable_frame]
  refine ⟨_, congrArg Host.Outcome.next (State.clearFreeze_thaws (s := (s.setReply .ok).setHdr _ _) hst hparks), ?_, ?_, fun q hq => ?_⟩
  · simp [State.startBudgets_keeps]
  · simp [State.startBudgets_keeps]
  · simp [State.startBudgets_keeps, hq]

end

/-! ## A freeze whose budget has passed -/

section
variable {s : State} {p : PartId} (hst : (s.pt p.val).st = .freezing) (hleft : (s.pt p.val).freezeLeft = none)

theorem execFreezeBudgetExpiry_early (hearly : s.nowUs / 1000 ≤ ((s.pt p.val).freezeAt + (s.frc (pgPT p.val) 0x090).toNat * 1000) / 1000) :
    exec (.freezeBudgetExpiry p) s = .next s := by
  refine congrArg Host.Outcome.next (if_neg ?_)
  simp only [Bool.and_eq_true, decide_eq_true_eq, not_and, Nat.not_lt]
  exact fun _ => hearly

include hst hleft

/-- The freeze is taken back, with event 2 (R298). -/
theorem execFreezeBudgetExpiry_due (hdue : ((s.pt p.val).freezeAt + (s.frc (pgPT p.val) 0x090).toNat * 1000) / 1000 < s.nowUs / 1000) :
    exec (.freezeBudgetExpiry p) s =
      .next (((s.setPt p.val { s.pt p.val with st := .enabled }).setHdr (pgPT p.val)
        { s.hdr (pgPT p.val) with freeze := false }).raise (pgPT p.val) 2) := by
  refine congrArg Host.Outcome.next ((if_pos ?_).trans rfl)
  simp [hst, hleft, hdue]

theorem execFreezeBudgetExpiry_fallsBack (hdue : ((s.pt p.val).freezeAt + (s.frc (pgPT p.val) 0x090).toNat * 1000) / 1000 < s.nowUs / 1000) :
    ∃ t, exec (.freezeBudgetExpiry p) s = .next t ∧ t.pt p.val = { s.pt p.val with st := .enabled } ∧ (t.hdr (pgPT p.val)).freeze = false ∧
      (t.hdr (pgPT p.val)).evStat.getLsbD 2 = true ∧ ∀ q, q ≠ p.val → t.pt q = s.pt q := by
  refine ⟨_, execFreezeBudgetExpiry_due hst hleft hdue, ?_, ?_, State.evStat_raise _ (by decide), fun q hq => ?_⟩
  · simp [State.pt_raise]
  · simp [State.hdr_raise]
  · simp [State.pt_raise, hq]

end

/-! ## Ash-out begins -/

/-- The partition as an ash-out finds it: every other request of it is dropped (R294). -/
def State.ashAsked (s : State) (p : Nat) : State :=
  (s.setPt p { s.pt p with st := .ashing, resize := none, freezeLeft := none, map := none, ashFenced := false }).setHdr (pgPT p)
    { s.hdr (pgPT p) with freeze := false, apply := [] }

/-- With a reset of the partition or of a domain that holds it under way and not yet carried out, the clearing waits for it (R304, R337). -/
theorem State.beginAsh_merged {s : State} {p : Nat} (hp : p < 32)
    (hheld : (s.resets.any fun r => r.dom == 0x48 + p || s.domainHolds r.dom (0x48 + p)) = true) (hphase : s.resets.all (fun r => r.phase == 1) = true) :
    s.beginAsh p = s.ashAsked p := by
  have hwaits : ¬ ((s.ashAsked p).resets.any fun r => r.dom == 0x48 + p && r.phase == 2) = true := by
    rw [List.any_eq_true]
    rintro ⟨r, hr, hreset⟩
    have hone := List.all_eq_true.1 hphase r hr
    simp only [Bool.and_eq_true, beq_iff_eq] at hreset hone
    omega
  have hpart : ¬ (decide (0x48 + p = 0xFF) && (s.ashAsked p).resets.any fun r => r.dom == 0xFF && r.phase == 2) = true := by
    simp only [Bool.and_eq_true, decide_eq_true_eq]
    omega
  exact (if_neg hwaits).trans ((if_neg hpart).trans (if_pos hheld))

end Sys2Proof.Machine
end

section
/-!
PROOF. A resize asked for by GO, and a donor's hearth whose transit ends (R293, R295, R296).
-/

namespace Sys2Proof.Machine

/-! ## GO -/

/-- The values that a partition's registers ask for as they stand. -/
def State.askedNow (s : State) (p : Nat) : PtForce := s.ptAsked p (fun off => s.rd (pgPT p) off)

/-- The accounts a partition's registers count. -/
def State.acctsNow (s : State) (p : Nat) : Nat := fld (s.rd (pgPT p) 0x070) 6 0

/-- A resize that passed its checks, before a partition that stands still takes it (R295). -/
def State.resizeAsked (s : State) (p : Nat) : State :=
  let t := (s.setPt p { s.pt p with resize := some (s.askedNow p) }).setSe p { s.seOf p with resizeLate := decide ((s.seOf p).st = .boundary) }
  t.setHdr (pgPT p) { s.hdr (pgPT p) with refused := false, reason := 0, apply := t.snapOf (pgPT p) }

theorem State.resizeAsked_fields (s : State) (p : Nat) :
    (s.resizeAsked p).pt p = { s.pt p with resize := some (s.askedNow p) } ∧ (∀ q, q ≠ p → (s.resizeAsked p).pt q = s.pt q) ∧
      ((s.resizeAsked p).hdr (pgPT p)).refused = false ∧ (s.resizeAsked p).regs = s.regs ∧ (s.resizeAsked p).force = s.force ∧
      ((s.resizeAsked p).seOf p).st = (s.seOf p).st := by
  refine ⟨?_, fun q hq => ?_, ?_, rfl, rfl, ?_⟩
  · simp [State.resizeAsked]
  · simp [State.resizeAsked, hq]
  · simp [State.resizeAsked]
  · simp [State.resizeAsked]

section
variable {s : State} {p e : Nat}

theorem State.resizeGo_badValues (hvalues : s.ptCheck p (s.askedNow p) (s.acctsNow p) = some e) : s.resizeGo p = s.refuse (pgPT p) e := by
  unfold State.askedNow State.acctsNow at hvalues
  unfold State.resizeGo
  simp only [hvalues]

theorem State.resizeGo_notNow (hvalues : s.ptCheck p (s.askedNow p) (s.acctsNow p) = none) (hnow : s.ptResizeCheck p (s.askedNow p) = some e) :
    s.resizeGo p = s.refuse (pgPT p) e := by
  unfold State.askedNow State.acctsNow at hvalues
  unfold State.askedNow at hnow
  unfold State.resizeGo
  simp only [hvalues, hnow]

theorem State.resizeGo_passes (hvalues : s.ptCheck p (s.askedNow p) (s.acctsNow p) = none) (hnow : s.ptResizeCheck p (s.askedNow p) = none) :
    s.resizeGo p = (s.resizeAsked p).settleIdle p := by
  unfold State.askedNow State.acctsNow at hvalues
  unfold State.askedNow at hnow
  unfold State.resizeGo
  simp only [hvalues, hnow]
  rfl

end

theorem execPtResizeGo_pass {s : State} {o : Origin} {p : PartId} {r : Req} (h : s.access o (pgPT p.val * 0x1000 + 0x078) true = .pass s r) :
    exec (.ptResizeGo o p) s = .next ((s.setReply .ok).resizeGo p.val) :=
  congrArg Host.Outcome.next (State.withWrite_pass _ h)

/-! ## The end of a transit -/

/-- A fold whose turns change nothing. -/
theorem foldl_settleIdle_unasked {c : State → Nat → Bool} {s : State} {l : List Nat} (h : ∀ q ∈ l, c s q = false) :
    l.foldl (fun (s : State) q => if c s q then s.settleIdle q else s) s = s := by
  induction l with
  | nil => rfl
  | cons q l ih =>
    rw [List.foldl_cons, if_neg (by simp [h q])]
    exact ih fun q hq => h q (List.mem_cons_of_mem _ hq)

/-- A hearth out of transit, and out of its donor's shrinking list (R295). -/
def State.transitOver (s : State) (h p : Nat) : State :=
  (s.setHearth h { s.hearth h with transit := none }).setPt p { s.pt p with shrinking := (s.pt p).shrinking.filter (· ≠ h) }

/-- The end of a transit as its donor sees it: with the last of its hearths the RESIZED event is set (R295). -/
def State.transitTold (s : State) (h p : Nat) : State :=
  if (s.pt p).shrinking.contains h && ((s.pt p).shrinking.filter (· ≠ h)).isEmpty then (s.transitOver h p).raise (pgPT p) 0 else s.transitOver h p

theorem State.cur_transitTold (s : State) (h p q : Nat) : ((s.transitTold h p).pt q).cur = (s.pt q).cur := by
  have hover : ((s.transitOver h p).pt q).cur = (s.pt q).cur := by
    rw [State.transitOver, State.pt_setPt]
    split
    · next hq => rw [hq]
    · rfl
  unfold State.transitTold
  split
  · rw [State.pt_raise, hover]
  · exact hover

theorem State.logicalOf_transitTold (s : State) (h p : Nat) : (s.transitTold h p).logicalOf = s.logicalOf := by
  have hpart : (s.transitTold h p).part = s.part := by
    unfold State.transitTold
    split
    · rw [State.raise_signalled]
      rfl
    · rfl
  funext n
  unfold State.logicalOf State.physOf
  rw [hpart]

section
variable {s : State} {h : HearthId} {p : Nat} (htransit : (s.hearth h.val).transit = some p)
  (hnamed : ∀ q, q < 32 → s.logicalOf h.val ∉ (s.pt q).cur.hearths)
include htransit

/-- Partitions that stand still and name the hearth take it (R295). -/
theorem execHearthTransitDone_transit :
    exec (.hearthTransitDone h) s =
      .next ((List.range 32).foldl (fun (s : State) q => if (s.pt q).cur.hearths.contains (s.logicalOf h.val) then s.settleIdle q else s)
        (s.transitTold h.val p)) := by
  refine congrArg Host.Outcome.next ?_
  rw [htransit]
  rfl

include hnamed

theorem execHearthTransitDone_unnamed : exec (.hearthTransitDone h) s = .next (s.transitTold h.val p) := by
  rw [execHearthTransitDone_transit htransit]
  refine congrArg Host.Outcome.next (foldl_settleIdle_unasked (c := fun t q => (t.pt q).cur.hearths.contains (t.logicalOf h.val)) fun q hq => ?_)
  rw [State.cur_transitTold, State.logicalOf_transitTold]
  simpa using hnamed q (List.mem_range.1 hq)

/-- The donor's last hearth: its RESIZED event is set (R295). -/
theorem execHearthTransitDone_last (hin : h.val ∈ (s.pt p).shrinking) (hlast : (s.pt p).shrinking.filter (· ≠ h.val) = []) :
    exec (.hearthTransitDone h) s = .next ((s.transitOver h.val p).raise (pgPT p) 0) := by
  rw [execHearthTransitDone_unnamed htransit hnamed, State.transitTold, if_pos (by simp only [hlast, List.isEmpty_nil, Bool.and_true, List.contains_iff_mem, hin])]

theorem execHearthTransitDone_more (hmore : h.val ∉ (s.pt p).shrinking ∨ (s.pt p).shrinking.filter (· ≠ h.val) ≠ []) :
    exec (.hearthTransitDone h) s = .next (s.transitOver h.val p) := by
  rw [execHearthTransitDone_unnamed htransit hnamed, State.transitTold, if_neg]
  rw [Bool.and_eq_true, List.contains_iff_mem, List.isEmpty_iff]
  rintro ⟨hin, hlast⟩
  exact hmore.elim (· hin) (· hlast)

end

end Sys2Proof.Machine
end

section
/-!
PROOF. What an access of memory leaves of the page map: whose page is valid, and its owner.
-/

namespace Sys2Proof.Machine

/-- From `s` to `t` no page becomes VALID or stops to be so, and none changes its owner. -/
structure PagesHeld (s t : State) : Prop where
  valid : ∀ n, (t.page n).valid = (s.page n).valid
  owner : ∀ n, (t.page n).owner = (s.page n).owner

theorem PagesHeld.of_page {s t : State} (h : t.page = s.page) : PagesHeld s t :=
  ⟨fun n => by rw [h], fun n => by rw [h]⟩

theorem PagesHeld.rfl {s : State} : PagesHeld s s := .of_page (Eq.refl _)

theorem PagesHeld.trans {s t u : State} (h : PagesHeld s t) (g : PagesHeld t u) : PagesHeld s u :=
  ⟨fun n => (g.valid n).trans (h.valid n), fun n => (g.owner n).trans (h.owner n)⟩

theorem PagesHeld.ite {s a b : State} {c : Prop} [Decidable c] (h : PagesHeld s a) (g : PagesHeld s b) : PagesHeld s (if c then a else b) := by
  split <;> assumption

theorem PagesHeld.foldl {α : Type} {f : State → α → State} (hf : ∀ s x, PagesHeld s (f s x)) (l : List α) (s : State) :
    PagesHeld s (l.foldl f s) := by
  induction l generalizing s with
  | nil => exact .rfl
  | cons x l ih => exact (hf s x).trans (ih _)

/-- Memory changed beside its page map. -/
theorem PagesHeld.of_pmap {s t : State} (h : t.mem.pmap = s.mem.pmap) : PagesHeld s t :=
  .of_page (funext fun n => congrArg (fun m : AMap PageEnt => AMap.get ({} : PageEnt) m n) h)

theorem State.setPage_held {s : State} {n : Nat} {e : PageEnt} (hvalid : e.valid = (s.page n).valid) (howner : e.owner = (s.page n).owner) :
    PagesHeld s (s.setPage n e) :=
  ⟨fun j => by
    rw [State.page_setPage]
    split
    · next hj => rw [hj, hvalid]
    · rfl,
  fun j => by
    rw [State.page_setPage]
    split
    · next hj => rw [hj, howner]
    · rfl⟩

theorem State.bump_held (s : State) (page off n : Nat) : PagesHeld s (s.bump page off n) := .of_pmap (by simp)

theorem State.fillWay_held (s : State) (line w : Nat) : PagesHeld s (s.fillWay line w) := .of_pmap rfl

theorem State.allocLine_held (s : State) (line : Nat) : PagesHeld s (s.allocLine line) := by
  cases hfree : s.freeWay line with
  | some w =>
    rw [State.allocLine_free hfree]
    exact s.fillWay_held line w
  | none =>
    cases hways : s.homeWays line with
    | nil =>
      rw [State.allocLine_noWay hfree hways]
      exact .rfl
    | cons x xs =>
      rw [State.allocLine_replace hfree hways]
      exact PagesHeld.trans (t := s.setFreeCtr (s.freeCtr + 1)) (.of_pmap (Eq.refl _)) (State.fillWay_held ..)

theorem State.cacheLine_held (s : State) (line : Nat) : PagesHeld s (s.cacheLine line) :=
  .ite .rfl (.ite (State.bump_held ..) ((State.bump_held ..).trans (State.allocLine_held ..)))

theorem State.streamLine_held (s : State) (h line : Nat) : PagesHeld s (s.streamLine h line) := by
  unfold State.streamLine
  extract_lets l old t1 l1 streams s1
  have h1 : PagesHeld s s1 := .of_pmap rfl
  exact .ite (h1.trans (.foldl (fun s x => .ite (.ite .rfl (State.allocLine_held ..)) .rfl) ..)) h1

theorem State.bridgeLine_held (s : State) (h line : Nat) (isRead : Bool) : PagesHeld s (s.bridgeLine h line isRead) :=
  .ite (State.bump_held ..) .rfl

theorem State.cacheRange_held (s : State) (who : MemWho) (dua len : Nat) (isRead : Bool) : PagesHeld s (s.cacheRange who dua len isRead) := by
  refine .foldl (fun s l => ?_) _ _
  have hline := s.cacheLine_held l
  split
  · next h _ =>
    have hbridge := hline.trans ((s.cacheLine l).bridgeLine_held h.val l isRead)
    exact .ite (hbridge.trans (State.streamLine_held ..)) hbridge
  · exact hline

/-- A touched page gets its ACCESSED bit, and a demotion of it ends (R194, R199). -/
theorem State.touchPage_held (s : State) (who : Option Nat) (n : Nat) : PagesHeld s (s.touchPage who n) := by
  have hmark : PagesHeld s (s.markPage n) := by
    unfold State.markPage
    split
    · exact .ite ((State.setPage_held (e := { s.page n with accessed := true, migrating := false }) rfl rfl).trans (.of_pmap rfl))
        (State.setPage_held (e := { s.page n with accessed := true }) rfl rfl)
    · exact (State.setPage_held (e := { s.page n with accessed := true }) rfl rfl).trans (.ite (.of_pmap rfl) .rfl)
  cases who with
  | none => exact hmark
  | some w =>
    rw [State.touchPage_some]
    exact .ite hmark (hmark.trans (.ite .rfl (.of_pmap rfl)))

theorem State.openWrite_held (s : State) (who : MemWho) (dua len : Nat) : PagesHeld s (s.openWrite who dua len) := by
  have htouch : PagesHeld s (s.touchRange who dua len) := .ite (.foldl (fun s n => s.touchPage_held (whoNum who) n) _ s) .rfl
  have hdemand : PagesHeld s (s.demand who dua len false) := .ite (htouch.trans (State.cacheRange_held ..)) .rfl
  refine hdemand.trans (.foldl (fun s n => ?_) _ _)
  split
  · exact .of_pmap rfl
  · exact .rfl

theorem State.storeTry_held (s : State) (who : MemWho) (dua : Nat) (data : List Byte) : PagesHeld s (s.storeTry who dua data) := by
  rw [State.storeTry_eq]
  refine .ite .rfl ((s.openWrite_held who dua data.length).trans (.of_pmap ?_))
  rw [State.storeRaw, State.poke_frame]

end Sys2Proof.Machine
end

section
/-!
PROOF. The end of an ash-out (R304, R305): regions under new keys, pages unmapped, hearths and placement entries freed.
-/

namespace Sys2Proof.Machine

theorem State.pt_of_pts {s t : State} (h : t.pts = s.pts) : t.pt = s.pt := by
  unfold State.pt
  rw [h]

theorem State.region_of_fbx {s t : State} (h : t.fbx = s.fbx) : t.region = s.region := by
  unfold State.region
  rw [h]

theorem State.hearth_of_hearths {s t : State} (h : t.hearths = s.hearths) : t.hearth = s.hearth := by
  unfold State.hearth
  rw [h]

/-! ## The crypto-erase (R213) -/

theorem nodup_eraseDups {α : Type} [BEq α] [LawfulBEq α] (l : List α) : l.eraseDups.Nodup := by
  induction hlen : l.length using Nat.strong_induction_on generalizing l with
  | _ n ih =>
    cases l with
    | nil => simp
    | cons a l =>
      have hshort : (l.filter fun b => !b == a).length < n := by
        have := List.length_filter_le (fun b => !b == a) l
        simp only [List.length_cons] at hlen
        omega
      rw [List.eraseDups_cons, List.nodup_cons]
      exact ⟨by simp [List.mem_eraseDups], ih _ hshort _ rfl⟩

/-- From `s` to `t` the firebox changes and the count of free draws, and nothing else. -/
def FireboxOnly (s t : State) : Prop := t = { s with fbx := t.fbx, freeCtr := t.freeCtr }

theorem FireboxOnly.rfl {s : State} : FireboxOnly s s := Eq.refl s

theorem FireboxOnly.trans {s t u : State} (h : FireboxOnly s t) (g : FireboxOnly t u) : FireboxOnly s u := by
  unfold FireboxOnly at *
  rw [g, h]

theorem FireboxOnly.foldl {α : Type} {f : State → α → State} (hf : ∀ s x, FireboxOnly s (f s x)) (l : List α) (s : State) :
    FireboxOnly s (l.foldl f s) := by
  induction l generalizing s with
  | nil => exact .rfl
  | cons x l ih => exact (hf s x).trans (ih _)

theorem State.draw_only (s : State) : FireboxOnly s s.draw.2 := Eq.refl _

theorem State.drawKeys_only (s : State) : FireboxOnly s s.drawKeys.2 := (s.draw_only.trans s.draw.2.draw_only).trans s.draw.2.draw.2.draw_only

theorem State.region_draw (s : State) : s.draw.2.region = s.region := rfl

/-- Fresh keys are drawn without a region's leave. -/
theorem State.region_drawKeys (s : State) : s.drawKeys.2.region = s.region :=
  (State.region_draw s.draw.2.draw.2).trans ((State.region_draw s.draw.2).trans s.region_draw)

/-- One region under its next generation and fresh keys. -/
def State.eraseRegion (s : State) (i : Nat) : State :=
  s.drawKeys.2.setRegion i { (s.region i).step with dataKey := s.drawKeys.1.1, tagKey := s.drawKeys.1.2 }

theorem State.region_eraseRegion (s : State) (i n : Nat) :
    (s.eraseRegion i).region n = if n = i then { (s.region i).step with dataKey := s.drawKeys.1.1, tagKey := s.drawKeys.1.2 } else s.region n := by
  rw [State.eraseRegion, State.region_setRegion, State.region_drawKeys]

theorem State.region_foldl_eraseRegion_other {l : List Nat} {s : State} {n : Nat} (h : n ∉ l) :
    (l.foldl State.eraseRegion s).region n = s.region n := by
  induction l generalizing s with
  | nil => rfl
  | cons i l ih =>
    obtain ⟨hi, hl⟩ := not_or.1 (List.mem_cons.not.1 h)
    rw [List.foldl_cons, ih hl, State.region_eraseRegion, if_neg hi]

/-- A region listed once steps once. -/
theorem State.region_foldl_eraseRegion {l : List Nat} {s : State} {n : Nat} (hl : l.Nodup) (h : n ∈ l) :
    ∃ k : BitVec 512 × BitVec 256, (l.foldl State.eraseRegion s).region n = { (s.region n).step with dataKey := k.1, tagKey := k.2 } := by
  induction l generalizing s with
  | nil => cases h
  | cons i l ih =>
    obtain ⟨hi, hl⟩ := List.nodup_cons.1 hl
    rw [List.foldl_cons]
    by_cases hn : n = i
    · subst hn
      exact ⟨s.drawKeys.1, by rw [State.region_foldl_eraseRegion_other hi, State.region_eraseRegion, if_pos rfl]⟩
    · obtain ⟨k, hk⟩ := ih hl (List.mem_of_ne_of_mem hn h) (s := s.eraseRegion i)
      exact ⟨k, by rw [hk, State.region_eraseRegion, if_neg hn]⟩

/-- The regions that a crypto-erase steps. -/
def State.erasedRegions (s : State) (p : Nat) : List Nat :=
  (s.fbx.regions.map (·.1)).eraseDups.filter (fun i => (s.region i).valid && decide ((s.region i).owner = p))

theorem State.cryptoErase_eq (s : State) (p : Nat) : s.cryptoErase p = (s.erasedRegions p).foldl State.eraseRegion s := rfl

theorem State.region_cryptoErase {s : State} {p n : Nat} (hvalid : (s.region n).valid = true) (howner : (s.region n).owner = p) :
    ∃ k : BitVec 512 × BitVec 256, (s.cryptoErase p).region n = { (s.region n).step with dataKey := k.1, tagKey := k.2 } := by
  have hlisted : (n, s.region n) ∈ s.fbx.regions := AMap.get_mem (d := ({} : Region)) fun hnone => by
    have hinvalid : (s.region n).valid = false := congrArg Region.valid hnone
    rw [hinvalid] at hvalid
    cases hvalid
  refine State.region_foldl_eraseRegion ((nodup_eraseDups _).filter _) (List.mem_filter.2 ⟨?_, by simp [hvalid, howner]⟩)
  exact List.mem_eraseDups.2 (List.mem_map_of_mem (f := (·.1)) hlisted)

theorem State.region_cryptoErase_other {s : State} {p n : Nat} (howner : (s.region n).owner ≠ p) : (s.cryptoErase p).region n = s.region n :=
  State.region_foldl_eraseRegion_other fun h => by simp [howner] at h

theorem State.eraseRegion_only (s : State) (i : Nat) : FireboxOnly s (s.eraseRegion i) := s.drawKeys_only.trans (Eq.refl _)

theorem State.cryptoErase_only (s : State) (p : Nat) : FireboxOnly s (s.cryptoErase p) := .foldl State.eraseRegion_only _ _

/-! ## Pages unmapped -/

theorem State.page_dropPages_gone {s : State} {p n : Nat} (h : ((s.dropPages p).page n).valid = true) : ((s.dropPages p).page n).owner ≠ p := by
  have hpage : (s.dropPages p).page n = AMap.get {} (s.mem.pmap.filter fun e => !(e.2.owner == p && e.2.valid)) n := rfl
  rw [hpage] at h ⊢
  rcases AMap.get_filter_value ({} : PageEnt) (fun e => !(e.owner == p && e.valid)) s.mem.pmap n with hpass | hnone
  · intro howner
    rw [howner, h] at hpass
    simp at hpass
  · rw [hnone] at h
    cases h

theorem State.page_dropPages_other {s : State} {p n : Nat} (h : (s.page n).owner ≠ p) : (s.dropPages p).page n = s.page n :=
  AMap.get_filter_of_pass (p := fun e : PageEnt => !(e.owner == p && e.valid)) (by
    have howner : (AMap.get {} s.mem.pmap n).owner ≠ p := h
    simp [howner])

theorem State.zeroFrames_frame (s : State) (p : Nat) :
    s.zeroFrames p = s.setMem { s.mem with bytes := (s.zeroFrames p).mem.bytes, lines := (s.zeroFrames p).mem.lines } := by
  unfold State.zeroFrames
  generalize (s.mem.pmap.filter (fun e => e.2.owner == p && e.2.valid)).map (·.1) = l
  induction l generalizing s with
  | nil => rfl
  | cons n l ih =>
    rw [List.foldl_cons, ih]
    rfl

/-- A partition's regions erased and its pages unmapped, their frames zeroed first where its page asks for it (R304). -/
def State.ashMemory (s : State) (p : Nat) : State :=
  (if (s.rd (pgPT p) 0x07C).getLsbD 0 then (s.cryptoErase p).zeroFrames p else s.cryptoErase p).dropPages p

theorem State.ashMemory_frame (s : State) (p : Nat) :
    s.ashMemory p = { s with fbx := (s.cryptoErase p).fbx, freeCtr := (s.cryptoErase p).freeCtr, mem := (s.ashMemory p).mem } := by
  unfold State.ashMemory
  split
  · rw [State.zeroFrames_frame, s.cryptoErase_only p]
    rfl
  · rw [s.cryptoErase_only p]
    rfl

theorem State.page_ashMemory_other {s : State} {p n : Nat} (h : (s.page n).owner ≠ p) : (s.ashMemory p).page n = s.page n := by
  have hpage : (if (s.rd (pgPT p) 0x07C).getLsbD 0 then (s.cryptoErase p).zeroFrames p else s.cryptoErase p).page = s.page := by
    split
    · rw [State.zeroFrames_frame, s.cryptoErase_only p]
      rfl
    · rw [s.cryptoErase_only p]
      rfl
  rw [State.ashMemory, State.page_dropPages_other (by rwa [hpage]), hpage]

/-! ## Hearths freed -/

/-- A partition's hearths free at once. -/
def State.freeHearths (s : State) (p : Nat) : State :=
  (s.hearthsOf p).foldl (fun (s : State) h => s.setHearth h { s.hearth h with owner := none }) s

theorem State.owner_freeHearths {s : State} {p h : Nat} (hown : h ∈ s.hearthsOf p) : ((s.freeHearths p).hearth h).owner = none := by
  refine foldl_sets (P := fun s => (s.hearth h).owner = none) (fun s x hs => ?_) (fun s => ?_) s hown
  · rw [State.hearth_setHearth]
    split
    · rfl
    · exact hs
  · simp

theorem State.freeHearths_frame (s : State) (p : Nat) : s.freeHearths p = { s with hearths := (s.freeHearths p).hearths } := by
  unfold State.freeHearths
  generalize s.hearthsOf p = l
  induction l generalizing s with
  | nil => rfl
  | cons n l ih =>
    rw [List.foldl_cons, ih]
    rfl

/-! ## Placement entries cleared (R397) -/

theorem State.setPlace_near (s : State) (n : Nat) (e : Place) :
    Near (s.setHost { s.host with place := AMap.put {} s.host.place n e }) (s.setPlace n e) := State.storeTry_near ..

/-- Placement entries leave partitions, the firebox and hearths alone, and every page's owner. -/
structure PlacesOnly (s t : State) : Prop where
  pts : t.pts = s.pts
  fbx : t.fbx = s.fbx
  hearths : t.hearths = s.hearths
  held : PagesHeld s t

theorem PlacesOnly.foldl {α : Type} {f : State → α → State} (hf : ∀ s x, PlacesOnly s (f s x)) (l : List α) (s : State) :
    PlacesOnly s (l.foldl f s) where
  pts := foldl_keeps State.pts f (fun s x => (hf s x).pts) l s
  fbx := foldl_keeps State.fbx f (fun s x => (hf s x).fbx) l s
  hearths := foldl_keeps State.hearths f (fun s x => (hf s x).hearths) l s
  held := .foldl (fun s x => (hf s x).held) l s

theorem State.setPlace_only (s : State) (n : Nat) (e : Place) : PlacesOnly s (s.setPlace n e) where
  pts := by rw [s.setPlace_near n e]; rfl
  fbx := by rw [s.setPlace_near n e]; rfl
  hearths := by rw [s.setPlace_near n e]; rfl
  held := PagesHeld.trans (t := s.setHost { s.host with place := AMap.put {} s.host.place n e }) (.of_page (Eq.refl _)) (State.storeTry_held ..)

theorem State.clearPlaces_only (s : State) (f : Place → Bool) : PlacesOnly s (s.clearPlaces f) := .foldl (fun _ _ => State.setPlace_only ..) _ _

theorem State.place_setPlace (s : State) (n : Nat) (e : Place) : (s.setPlace n e).host.place = AMap.put {} s.host.place n e := by
  rw [s.setPlace_near n e]
  rfl

theorem State.place_setPlace_empty (s : State) (n : Nat) : (s.setPlace n {}).host.place = s.host.place.filter (fun e => e.1 != n) :=
  (s.place_setPlace n {}).trans (if_pos rfl)

theorem State.mem_place_foldl {l : List Nat} {s : State} {e : Nat × Place}
    (h : e ∈ (l.foldl (fun (s : State) n => s.setPlace n {}) s).host.place) : e ∈ s.host.place ∧ e.1 ∉ l := by
  induction l generalizing s with
  | nil => exact ⟨h, List.not_mem_nil⟩
  | cons n l ih =>
    obtain ⟨hplace, hl⟩ := ih h
    rw [State.place_setPlace_empty, List.mem_filter, bne_iff_ne] at hplace
    exact ⟨hplace.1, List.mem_cons.not.2 (not_or.2 ⟨hplace.2, hl⟩)⟩

theorem State.place_clearPlaces {s : State} {f : Place → Bool} {e : Nat × Place} (h : e ∈ (s.clearPlaces f).host.place) : f e.2 = false := by
  obtain ⟨hplace, hkey⟩ := State.mem_place_foldl h
  by_contra hf
  exact hkey (List.mem_map_of_mem (f := (·.1)) (List.mem_filter.2 ⟨hplace, by simpa using hf⟩))

theorem State.clearPlaces_of_none {s : State} {f : Place → Bool} (h : ∀ e ∈ s.host.place, f e.2 = false) : s.clearPlaces f = s := by
  unfold State.clearPlaces
  rw [List.filter_eq_nil_iff.2 fun e he => by simp [h e he]]
  rfl

/-! ## The partition's domain released -/

/-- From `s` to `t` resets, epochs and page headers change, and nothing else. -/
def DomainOnly (s t : State) : Prop := t = { s with resets := t.resets, epochs := t.epochs, pages := t.pages }

theorem DomainOnly.rfl {s : State} : DomainOnly s s := Eq.refl s

theorem DomainOnly.trans {s t u : State} (h : DomainOnly s t) (g : DomainOnly t u) : DomainOnly s u := by
  unfold DomainOnly at *
  rw [g, h]

theorem DomainOnly.foldl {α : Type} {f : State → α → State} (hf : ∀ s x, DomainOnly s (f s x)) (l : List α) (s : State) :
    DomainOnly s (l.foldl f s) := by
  induction l generalizing s with
  | nil => exact .rfl
  | cons x l ih => exact (hf s x).trans (ih _)

theorem State.stepEpoch_only (s : State) (d : Nat) : DomainOnly s (s.stepEpoch d) := Eq.refl _

theorem State.stepEpochs_only (s : State) (d : Nat) : DomainOnly s (s.stepEpochs d) :=
  (s.stepEpoch_only d).trans (.foldl State.stepEpoch_only _ _)

theorem State.liftFence_only (s : State) (page : Nat) : DomainOnly s (s.liftFence page) := by
  unfold State.liftFence
  dsimp only
  split <;> exact Eq.refl _

/-- A partition's domain has no crossing and no quad: its release steps epochs and lifts the fences of its pages (R336, R353). -/
theorem State.releaseDomain_partition (s : State) {p : Nat} (hp : p < 32) : DomainOnly s (s.releaseDomain (0x48 + p)) := by
  have hcross : ¬ hasCrossings (0x48 + p) = true := by
    simp only [hasCrossings, Bool.and_eq_true, Bool.not_eq_true', Bool.and_eq_false_iff, decide_eq_true_eq, decide_eq_false_iff_not]
    omega
  have hfirebox : ¬ (decide (0x48 + p = 0x84) || decide (0x48 + p = 0x85)) = true := by
    simp only [Bool.or_eq_true, decide_eq_true_eq]
    omega
  have hboot : ¬ 0x48 + p = 0x85 := by omega
  have hquads : ¬ (decide (0x48 + p < 0x48) || decide (0x48 + p = 0x68) || decide (0x48 + p = 0x69)) = true := by
    simp only [Bool.or_eq_true, decide_eq_true_eq]
    omega
  simp only [State.releaseDomain, if_neg hcross, if_neg hfirebox, if_neg hboot, if_neg hquads]
  have hresets : DomainOnly s (s.setResets (s.resets.filter fun r => r.dom ≠ 0x48 + p)) := Eq.refl _
  exact (hresets.trans (State.stepEpochs_only ..)).trans (.foldl State.liftFence_only _ _)

/-! ## ASHOUT_DONE -/

theorem State.place_raise (s : State) (page bit : Nat) : (s.raise page bit).host.place = s.host.place := by
  have hmsi : ∀ u : State, (u.sendMsi page).host.place = u.host.place := by
    intro u
    unfold State.sendMsi State.sendVector
    dsimp only
    split
    · split <;> rfl
    · rfl
  unfold State.raise
  dsimp only
  split
  · exact hmsi _
  · rfl

/-- A partition whose state is cleared is DISABLED: its values and times go, and its page shows how long the ash-out took (R304). -/
def State.ashDisabled (s : State) (p : Nat) (shrinking : List Nat) (us : Nat) : State :=
  (((s.setPt p { shrinking := shrinking }).setHdr (pgPT p)
    { s.hdr (pgPT p) with enabled := false, enableBit := false, freeze := false, stopping := false }).wr (pgPT p) 0x094
    (BitVec.ofNat 32 (min 65535 us))).bump (pgPT p) 0x030 1

theorem State.ashDisabled_frame (s : State) (p : Nat) (shrinking : List Nat) (us : Nat) :
    let t := s.ashDisabled p shrinking us
    t = { s with pts := (s.setPt p { shrinking := shrinking }).pts, pages := t.pages, regs := t.regs, force := t.force } :=
  State.bump_frame ..

/-- Its domain is released, and event 4 is set. -/
def State.ashClose (s : State) (p : Nat) (shrinking : List Nat) (us : Nat) : State :=
  ((s.ashDisabled p shrinking us).releaseDomain (0x48 + p)).raise (pgPT p) 4

/-- What the closing of an ash-out leaves of the state before it. -/
structure AshClosed (s : State) (p : Nat) (shrinking : List Nat) (t : State) : Prop where
  pt : ∀ q, t.pt q = if q = p then { shrinking := shrinking } else s.pt q
  page : t.page = s.page
  region : t.region = s.region
  hearth : t.hearth = s.hearth
  place : t.host.place = s.host.place
  event : (t.hdr (pgPT p)).evStat.getLsbD 4 = true

theorem State.ashClose_closes (s : State) {p : Nat} (shrinking : List Nat) (us : Nat) (hp : p < 32) :
    AshClosed s p shrinking (s.ashClose p shrinking us) := by
  have hdomain := (s.ashDisabled p shrinking us).releaseDomain_partition hp
  have hdisabled := s.ashDisabled_frame p shrinking us
  unfold State.ashClose
  refine ⟨fun q => ?_, ?_, ?_, ?_, ?_, State.evStat_raise _ (by decide)⟩
  · rw [State.pt_raise, hdomain, hdisabled]
    exact State.pt_setPt ..
  · rw [State.raise_signalled, hdomain, hdisabled]
    rfl
  · rw [State.raise_signalled, hdomain, hdisabled]
    rfl
  · rw [State.raise_signalled, hdomain, hdisabled]
    rfl
  · rw [State.place_raise, hdomain, hdisabled]

/-- The partition's regions, pages, hearths and placement entries given up. -/
def State.ashCleared (s : State) (p : Nat) : State :=
  ((s.ashMemory p).freeHearths p).clearPlaces (fun e => e.valid && decide (e.owner = p))

theorem execAshoutDone_done {s : State} {p : PartId} (hst : (s.pt p.val).st = .ashing) (hfenced : (s.pt p.val).ashFenced = true)
    (hready : s.fbx.trng = .ready) :
    exec (.ashoutDone p) s = .next ((s.ashCleared p.val).ashClose p.val (s.pt p.val).shrinking (s.nowUs - (s.pt p.val).ashAt)) := by
  refine congrArg Host.Outcome.next ((if_neg ?_).trans rfl)
  simp [hst, hfenced, hready]

/-- What the clearing leaves: nothing of the partition is mapped, placed or owned, and what other owners hold stands. -/
structure AshCleared (s : State) (p : Nat) (t : State) : Prop where
  pt : t.pt = s.pt
  gone : ∀ n, (t.page n).valid = true → (t.page n).owner ≠ p
  kept : (∀ e ∈ s.host.place, e.2.valid = true → e.2.owner ≠ p) → ∀ n, (s.page n).owner ≠ p → t.page n = s.page n
  region : t.region = (s.cryptoErase p).region
  hearth : ∀ h ∈ s.hearthsOf p, (t.hearth h).owner = none
  place : ∀ e ∈ t.host.place, e.2.valid = true → e.2.owner ≠ p

/-- The clearing touches a page map only where it drops the partition's pages and where it writes the placement table. -/
theorem State.ashCleared_clears (s : State) (p : Nat) : AshCleared s p (s.ashCleared p) := by
  have hmemory := s.ashMemory_frame p
  have hhearths := (s.ashMemory p).freeHearths_frame p
  have hplaces := ((s.ashMemory p).freeHearths p).clearPlaces_only (fun e => e.valid && decide (e.owner = p))
  have hpage : ((s.ashMemory p).freeHearths p).page = (s.ashMemory p).page := by
    rw [hhearths]
    rfl
  unfold State.ashCleared
  refine ⟨?_, fun n hvalid => ?_, fun hnone n howner => ?_, ?_, fun h hown => ?_, fun e he hvalid howner => ?_⟩
  · refine State.pt_of_pts ?_
    rw [hplaces.pts, hhearths, hmemory]
  · rw [hplaces.held.valid, hpage] at hvalid
    rw [hplaces.held.owner, hpage]
    exact State.page_dropPages_gone hvalid
  · rw [State.clearPlaces_of_none, hpage, State.page_ashMemory_other howner]
    intro e he
    rw [hhearths, hmemory] at he
    simpa using hnone e he
  · refine State.region_of_fbx ?_
    rw [hplaces.fbx, hhearths, hmemory]
  · rw [State.hearth_of_hearths hplaces.hearths]
    refine State.owner_freeHearths ?_
    rw [hmemory]
    exact hown
  · have hcleared := State.place_clearPlaces he
    simp [hvalid, howner] at hcleared

/-! ## The statement -/

/-- Settles O51: each command's cases are its own lemmas; those of the ash-out's end speak of the state before it closes. -/
theorem partitionControl : Obligations.PartitionControl := by
  unfold Obligations.PartitionControl
  refine ⟨fun s o p r haccess => ?_, fun s h p htransit hnamed => ?_, fun s o p r haccess hcheck => ?_, fun s p hp hheld hphase => ?_,
    fun s p hst hleft => ?_, fun s p hst hfenced hready => ?_⟩
  · rw [execPtResizeGo_pass haccess]
    refine ⟨fun e hvalues => ?_, fun e hvalues hnow => ?_, fun hvalues hnow => ?_⟩
    · rw [State.resizeGo_badValues hvalues]
    · rw [State.resizeGo_notNow hvalues hnow]
    · obtain ⟨hpt, hothers, hrefused, hregs, hforce, hst⟩ := (s.setReply .ok).resizeAsked_fields p.val
      rw [State.resizeGo_passes hvalues hnow]
      refine ⟨⟨_, rfl, hpt, hothers, hrefused, hregs, hforce⟩, fun hidle hpaused => ?_⟩
      rw [State.settleIdle_running (by rwa [hst]) (by rwa [hst])]
      exact ⟨_, rfl, hpt, hothers, hrefused, hregs, hforce⟩
  · exact ⟨fun hin hlast => execHearthTransitDone_last htransit hnamed hin hlast, fun hmore => execHearthTransitDone_more htransit hnamed hmore⟩
  · refine ⟨fun hrestoring hashing => ⟨execPtFreezeSet_enables haccess hcheck hrestoring hashing,
        execPtFreezeClear_enables haccess hcheck hrestoring hashing⟩,
      fun hst => ⟨execPtFreezeSet_busy haccess hcheck hst, execPtFreezeClear_busy haccess hcheck hst⟩,
      fun hst hidle hpaused => execPtFreezeSet_freezes haccess hcheck hst hidle hpaused,
      fun hst hparks => execPtFreezeClear_thaws haccess hcheck hst hparks, fun hdisabled hashing hsaving hrestoring => ?_, fun hst => ?_, fun hst => ?_⟩
    · rw [execPtAshout_alive haccess hcheck hdisabled, State.startAshout_begins (by simp [hdisabled, hashing, hsaving, hrestoring])]
    · rw [execPtAshout_alive haccess hcheck (by rcases hst with hst | hst <;> simp [hst]), State.startAshout_cutsOff (s := s.setReply .ok) hst]
    · rw [execPtAshout_alive haccess hcheck (by simp [hst]), State.startAshout_ashing (s := s.setReply .ok) hst]
  · rw [State.beginAsh_merged hp hheld hphase]
    exact ⟨by simp [State.ashAsked], by simp [State.ashAsked]⟩
  · exact ⟨execFreezeBudgetExpiry_early, execFreezeBudgetExpiry_fallsBack hst hleft⟩
  · have hclosed := (s.ashCleared p.val).ashClose_closes (s.pt p.val).shrinking (s.nowUs - (s.pt p.val).ashAt) p.isLt
    have hcleared := s.ashCleared_clears p.val
    refine ⟨_, execAshoutDone_done hst hfenced hready, ?_, fun q hq => ?_, ?_, ?_, fun n hvalid howner => ?_, fun n howner => ?_, ?_, ?_, hclosed.event⟩
    · rw [hclosed.pt, if_pos rfl]
    · rw [hclosed.pt, if_neg hq, hcleared.pt]
    · rw [hclosed.page]
      exact hcleared.gone
    · rw [hclosed.page]
      exact hcleared.kept
    · rw [hclosed.region, hcleared.region]
      exact State.region_cryptoErase hvalid howner
    · rw [hclosed.region, hcleared.region, State.region_cryptoErase_other howner]
    · rw [hclosed.hearth]
      exact hcleared.hearth
    · rw [hclosed.place]
      exact hcleared.place

end Sys2Proof.Machine
end

section
/-!
PROOF. Partition images: SAVE, RESTORE and their ends (R299 to R303, R308, R321).
-/

namespace Sys2Proof.Machine

/-! ## SAVE -/

theorem execImageSave_pass {s : State} {o : Origin} {p : PartId} {r : Req} (h : s.access o (pgPT p.val * 0x1000 + 0x088) true = .pass s r) :
    exec (.imageSave o p) s = .next ((s.setReply .ok).saveGo p.val) :=
  congrArg Host.Outcome.next (State.withWrite_pass _ h)

section
variable {s : State} {p : Nat}

theorem State.saveGo_notFrozen (hst : (s.pt p).st ≠ .frozen) : s.saveGo p = s.refuse (pgPT p) 0x0704 := by
  simp [State.saveGo, hst]

variable (hst : (s.pt p).st = .frozen)
include hst

theorem State.saveGo_unaligned (hdua : s.imageDua p % 64 ≠ 0) : s.saveGo p = s.refuse (pgPT p) 0x023B := by
  simp [State.saveGo, hst, hdua]

variable (hdua : s.imageDua p % 64 = 0)
include hdua

/-- No image leaves the module once the random source has failed (R321). -/
theorem State.saveGo_noRandom (htrng : s.fbx.trng = .failed) : s.saveGo p = s.refuse (pgPT p) 0x011B := by
  simp [State.saveGo, hst, hdua, htrng]

variable (htrng : s.fbx.trng ≠ .failed)
include htrng

theorem State.saveGo_noEntry (hplace : s.placeAround (s.imageDua p) (s.saveBytes p) = none) : s.saveGo p = s.refuse (pgPT p) 0x0512 := by
  simp [State.saveGo, hst, hdua, htrng, hplace]

variable {e : Place} (hplace : s.placeAround (s.imageDua p) (s.saveBytes p) = some e)
include hplace

/-- The entry must grant exports (R401). -/
theorem State.saveGo_notGranted (hgrant : e.expt = false) : s.saveGo p = s.refuse (pgPT p) 0x0342 := by
  simp [State.saveGo, hst, hdua, htrng, hplace, hgrant]

theorem State.saveGo_begins (hgrant : e.expt = true) : s.saveGo p = s.setPt p { s.pt p with st := .saving, imgAt := s.nowUs } := by
  simp [State.saveGo, hst, hdua, htrng, hplace, hgrant]

end

/-! ## RESTORE -/

theorem execImageRestore_pass {s : State} {o : Origin} {p : PartId} {r : Req} (h : s.access o (pgPT p.val * 0x1000 + 0x088) true = .pass s r) :
    exec (.imageRestore o p) s = .next ((s.setReply .ok).restoreGo p.val) :=
  congrArg Host.Outcome.next (State.withWrite_pass _ h)

section
variable {s : State} {p : Nat}

theorem State.restoreGo_notDisabled (hst : (s.pt p).st ≠ .disabled) : s.restoreGo p = s.refuse (pgPT p) 0x0704 := by
  simp [State.restoreGo, hst]

variable (hst : (s.pt p).st = .disabled)
include hst

theorem State.restoreGo_unaligned (hdua : s.imageDua p % 64 ≠ 0) : s.restoreGo p = s.refuse (pgPT p) 0x023B := by
  simp [State.restoreGo, hst, hdua]

variable (hdua : s.imageDua p % 64 = 0)
include hdua

theorem State.restoreGo_noImage (himage : s.imageAt p = none) : s.restoreGo p = s.refuse (pgPT p) 0x0512 := by
  simp [State.restoreGo, hst, hdua, himage]

variable {i : Image} (himage : s.imageAt p = some i)
include himage

/-- An image whose key has not arrived stays closed (R325). -/
theorem State.restoreGo_noKey (hkey : s.imageKeyHere i = false) : s.restoreGo p = s.refuse (pgPT p) 0x011C := by
  simp [State.restoreGo, hst, hdua, himage, hkey]

theorem State.restoreGo_begins (hkey : s.imageKeyHere i = true) :
    s.restoreGo p = s.setPt p { s.pt p with st := .restoring, imgAt := s.nowUs } := by
  simp [State.restoreGo, hst, hdua, himage, hkey]

end

/-! ## The end of a SAVE -/

/-- What the end of a SAVE or RESTORE shows: its result and reason in IMAGE_STATUS, and event 3. -/
theorem State.imageEnd_shows (s : State) (p result reason : Nat) :
    (s.imageEnd p result reason).pt = s.pt ∧ (s.imageEnd p result reason).rd (pgPT p) 0x08C = BitVec.ofNat 32 (result + reason * 65536) ∧
      ((s.imageEnd p result reason).hdr (pgPT p)).evStat.getLsbD 3 = true := by
  refine ⟨State.pt_raise .., ?_, State.evStat_raise _ (by decide)⟩
  rw [State.imageEnd, State.rd_raise, State.rd_wr]

theorem State.images_imageEnd (s : State) (p result reason : Nat) : (s.imageEnd p result reason).images = s.images := by
  rw [State.imageEnd, State.raise_signalled]
  rfl

/-- Bytes stored as an image are one more image that the module knows, and no partition changes. -/
theorem State.storeImage_ok {s s1 : State} {p : Nat} {bytes : List Byte} (h : s.storeImage p bytes = .ok s1) :
    s1.images = s.newImage p :: s.images ∧ s1.pt = s.pt := by
  unfold State.storeImage at h
  split at h
  · next t hstore =>
    have hnear := State.store_near hstore
    simp only [Except.ok.injEq] at h
    subst h
    have himages : t.images = s.images := by rw [hnear]
    have hpts : t.pts = s.pts := by rw [hnear]
    exact ⟨(congrArg State.images (State.bump_frame ..)).trans (congrArg (s.newImage p :: ·) himages),
      State.pt_of_pts ((congrArg State.pts (State.bump_frame ..)).trans hpts)⟩
  · cases h
  · cases h

theorem State.writeImage_ok {s s1 : State} {p : Nat} (h : s.writeImage p = .ok s1) :
    s1.images = s.newImage p :: s.images ∧ s1.pt = s.pt :=
  State.storeImage_ok h

/-- A partition whose SAVE has ended is FROZEN again (R294). -/
def State.saveBack (s : State) (p : Nat) : State := s.setPt p { s.pt p with st := .frozen }

/-- What the end of a SAVE makes of the image's write. -/
def State.saveEnd (back : State) (p : Nat) : Except Nat State → State
  | .ok s1 => s1.imageEnd p 1 0
  | .error reason => back.imageEnd p 2 reason

section
variable {s : State} {p : PartId} (ok : Bool) (hst : (s.pt p.val).st = .saving)
include hst

theorem execImageSaveDone_noRandom (htrng : s.fbx.trng = .failed) :
    exec (.imageSaveDone p ok) s = .next ((s.saveBack p.val).imageEnd p.val 2 0x011B) := by
  refine congrArg Host.Outcome.next ?_
  simp only [hst, htrng, ne_eq, not_true_eq_false, if_false, if_true]
  rfl

/-- Not yet READY: the SAVE waits for 100 ms from its start (R321). -/
theorem execImageSaveDone_unready (hfailed : s.fbx.trng ≠ .failed) (hready : s.fbx.trng ≠ .ready) :
    exec (.imageSaveDone p ok) s =
      .next (if (s.pt p.val).imgAt + 100000 ≤ s.nowUs then (s.saveBack p.val).imageEnd p.val 2 0x011B else s) := by
  refine congrArg Host.Outcome.next ?_
  simp only [hst, ne_eq, not_true_eq_false, if_false, if_neg hfailed, if_pos hready]
  rfl

variable (hready : s.fbx.trng = .ready)
include hready

theorem execImageSaveDone_broken : exec (.imageSaveDone p false) s = .next ((s.saveBack p.val).imageEnd p.val 2 0x0323) := by
  refine congrArg Host.Outcome.next ?_
  simp [hst, hready, State.saveBack]

theorem execImageSaveDone_ready :
    exec (.imageSaveDone p true) s = .next ((s.saveBack p.val).saveEnd p.val ((s.saveBack p.val).writeImage p.val)) := by
  refine congrArg Host.Outcome.next ?_
  unfold State.saveBack
  dsimp only
  generalize State.writeImage _ _ = written
  rw [if_neg (not_not_intro hst), if_neg (by rw [hready]; decide), if_neg (not_not_intro hready)]
  cases written
  · rfl
  · rfl

theorem execImageSaveDone_refused {e : Nat} (hwrite : (s.saveBack p.val).writeImage p.val = .error e) :
    exec (.imageSaveDone p true) s = .next ((s.saveBack p.val).imageEnd p.val 2 e) := by
  rw [execImageSaveDone_ready hst hready, hwrite, State.saveEnd]

theorem execImageSaveDone_written {s1 : State} (hwrite : (s.saveBack p.val).writeImage p.val = .ok s1) :
    exec (.imageSaveDone p true) s = .next (s1.imageEnd p.val 1 0) := by
  rw [execImageSaveDone_ready hst hready, hwrite, State.saveEnd]

end

/-! ## The end of a RESTORE -/

/-- The partition that an image was put into is FROZEN (R294, R302): the controls and the remap list written after that hold no partition's state. -/
theorem State.st_applyImage (s : State) (p : Nat) (i : Image) (dua : Nat) : ((s.applyImage p i dua).pt p).st = .frozen := by
  unfold State.applyImage
  extract_lets a s1 s2 r m s3 s4 s5 s6 s7 t7 s8 s9 x s10 s11 n
  clear_value s9 m n
  have hfrozen : (s10.pt p).st = .frozen := congrArg Pt.st ((State.pt_setPt ..).trans (if_pos rfl))
  have hcontrols : s11.pts = s10.pts := foldl_keeps State.pts _ (fun _ _ => by exact rfl) _ _
  clear_value s10 s11
  have hlist : (s11.storeTry (placeWho (s11.placeAround dua n)) (dua + n) (s11.remapList m i)).pts = s11.pts := by rw [State.storeTry_near]
  rw [State.pt_of_pts (((congrArg State.pts (State.bump_frame ..)).trans hlist).trans hcontrols), hfrozen]
section
variable {s : State} {p : PartId} (ok : Bool) (hst : (s.pt p.val).st = .restoring)
include hst

/-- An image that is no longer there: the restore has failed, and the partition is cleared (R294, R301). -/
theorem execImageRestoreDone_noImage (himage : s.imageAt p.val = none) :
    exec (.imageRestoreDone p ok) s = .next ((s.imageEnd p.val 2 0x0323).beginAsh p.val) := by
  refine congrArg Host.Outcome.next ?_
  simp [hst, himage]

variable {i : Image} (himage : s.imageAt p.val = some i)
include himage

theorem execImageRestoreDone_refused {e : Nat} (hcheck : (s.restoreRegs p.val i).restoreCheck p.val i ok = some e) :
    exec (.imageRestoreDone p ok) s = .next (((s.restoreRegs p.val i).imageEnd p.val 2 e).beginAsh p.val) := by
  refine congrArg Host.Outcome.next ?_
  simp [hst, himage, hcheck]

theorem execImageRestoreDone_restored (hcheck : (s.restoreRegs p.val i).restoreCheck p.val i ok = none) :
    exec (.imageRestoreDone p ok) s = .next (((s.restoreRegs p.val i).applyImage p.val i (s.imageDua p.val)).imageEnd p.val 1 0) := by
  refine congrArg Host.Outcome.next ?_
  simp [hst, himage, hcheck]

end

end Sys2Proof.Machine
end

section
/-!
PROOF. Mapping requests and mailboxes (R306, R307).
-/

namespace Sys2Proof.Machine

/-! ## A MAP_CTRL word that sets GO -/

theorem execMapGo_pass {s : State} {o : Origin} {p : PartId} (v : Word) {r : Req} (h : s.access o (pgPT p.val * 0x1000 + 0x0A0) true = .pass s r) :
    exec (.mapGo o p v) s = .next ((s.setReply .ok).writeMapCtrl p.val (v ||| 0x80000000)) :=
  congrArg Host.Outcome.next (State.withWrite_pass _ h)

section
variable (v : Word)

theorem mapGoWord_go : (v ||| 0x80000000).getLsbD 31 = true := by
  rw [BitVec.getLsbD_or]
  exact Bool.or_true _

/-- GO is no bit of a field, so a word with GO set has the word's own fields. -/
theorem mapGoWord_bit {k : Nat} (hk : k ≠ 31) : (v ||| 0x80000000).getLsbD k = v.getLsbD k := by
  have hgo : (0x80000000 : Word).getLsbD k = false := by
    rw [show (0x80000000 : Word) = BitVec.twoPow 32 31 from rfl, BitVec.getLsbD_twoPow]
    simp [Ne.symm hk]
  rw [BitVec.getLsbD_or, hgo, Bool.or_false]

theorem mapGoWord_kept : (v ||| 0x80000000) &&& 0x0031FFFF = v &&& 0x0031FFFF := by
  refine BitVec.eq_of_getLsbD_eq fun k _ => ?_
  rw [BitVec.getLsbD_and, BitVec.getLsbD_and]
  by_cases hk : k = 31
  · subst hk
    exact (Bool.and_false _).trans (Bool.and_false _).symm
  · rw [mapGoWord_bit v hk]

theorem mapGoWord_count : fld (v ||| 0x80000000) 15 0 = fld v 15 0 := by
  simp [fld, BitVec.toNat_or, Nat.or_mod_two_pow (n := 16)]

end

/-- The request that a MAP_CTRL word with GO set makes of the page number in MAP_DUA (R306). -/
def State.mapAsked (s : State) (p : Nat) (v : Word) : MapReq :=
  { page := s.rd64 (pgPT p) 0x098 / pageSize, left := fld v 15 0, unmap := v.getLsbD 16, pinned := v.getLsbD 20, readOnly := v.getLsbD 21 }

theorem State.mapAsked_go (s : State) (p : Nat) (v : Word) : s.mapAsked p (v ||| 0x80000000) = s.mapAsked p v := by
  unfold State.mapAsked
  rw [mapGoWord_count, mapGoWord_bit v (by decide), mapGoWord_bit v (by decide), mapGoWord_bit v (by decide)]

section
variable {s : State} {p : Nat} {v : Word} (hgo : v.getLsbD 31 = true)
include hgo

theorem State.writeMapCtrl_busy (hmap : (s.pt p).map.isSome = true) : s.writeMapCtrl p v = s.refuse (pgPT p) 0x0704 :=
  if_pos (by rw [hgo, hmap]; rfl)

theorem State.writeMapCtrl_starts (hmap : (s.pt p).map = none) :
    let t := s.writeMapCtrl p v
    t.rd (pgPT p) 0x0A4 = 0 ∧ t.rd (pgPT p) 0x0A0 = v &&& 0x0031FFFF ∧ t.pt p = { s.pt p with map := some (s.mapAsked p v) } ∧ t.mem = s.mem := by
  have hdua : (s.wr (pgPT p) 0x0A0 (v &&& 0x0031FFFF)).rd64 (pgPT p) 0x098 = s.rd64 (pgPT p) 0x098 := by
    unfold State.rd64
    rw [State.rd_wr_ne _ _ _ _ _ _ (by unfold regKey; omega), State.rd_wr_ne _ _ _ _ _ _ (by unfold regKey; omega)]
  unfold State.writeMapCtrl State.mapAsked
  simp only [hgo, hmap, hdua, Option.isSome_none, Bool.and_false, Bool.false_eq_true, if_false, if_true]
  refine ⟨State.rd_wr .., ?_, (State.pt_setPt ..).trans (if_pos rfl), rfl⟩
  exact (State.rd_wr_ne _ _ _ _ _ _ (by unfold regKey; omega)).trans (State.rd_wr ..)

end

/-! ## The pages of a request -/

theorem execMapDone_runs {s : State} {p : PartId} {r : MapReq} (hmap : (s.pt p.val).map = some r) :
    exec (.mapDone p) s = .next (s.mapRun p.val r r.left) := by
  refine congrArg Host.Outcome.next ?_
  rw [hmap]

theorem State.mapStatus_keeps (s : State) (p done reason : Nat) : (s.mapStatus p done reason).mem = s.mem ∧ (s.mapStatus p done reason).pt = s.pt :=
  ⟨by simp [State.mapStatus], State.pt_of_pts (by simp [State.mapStatus])⟩

section
variable (s : State) (p : Nat) (r : MapReq)

/-- A request with no page left has ended. -/
theorem State.mapRun_ends :
    let t := s.mapRun p r 0
    (t.pt p).map = none ∧ (t.hdr (pgPT p)).evStat.getLsbD 5 = true ∧ t.mem = s.mem ∧ t.lift = s.lift ∧
      t.rd (pgPT p) 0x0A4 = s.rd (pgPT p) 0x0A4 := by
  intro t
  refine ⟨?_, State.evStat_raise _ (by decide), State.mem_raise .., ?_, State.rd_raise ..⟩
  · exact (congrArg (fun pt => (pt p).map) (State.pt_raise ..)).trans (congrArg Pt.map ((State.pt_setPt ..).trans (if_pos rfl)))
  · show (State.raise _ _ _).lift = _
    rw [State.raise_signalled]
    rfl

variable {s p r} {n : Nat}

/-- A page that fails its check ends the request with the pages done before it. -/
theorem State.mapRun_fails {e : Nat} (hcheck : s.mapCheck p r (r.page + (r.left - (n + 1))) = some e) :
    s.mapRun p r (n + 1) = (s.mapStatus p (fld (s.rd (pgPT p) 0x0A4) 15 0) e).mapRun p r 0 := by
  simp only [State.mapRun, hcheck, (State.mapStatus_keeps ..).2]

variable (hcheck : s.mapCheck p r (r.page + (r.left - (n + 1))) = none)
include hcheck

/-- A page to unmap that is in migration is waited for. -/
theorem State.mapRun_waits (hunmap : r.unmap = true) (hmigrating : (s.page (r.page + (r.left - (n + 1)))).migrating = true) :
    s.mapRun p r (n + 1) = s.setPt p { s.pt p with map := some { r with page := r.page + (r.left - (n + 1)), left := n + 1 } } := by
  simp only [State.mapRun, hcheck, hunmap, hmigrating, Bool.and_self, if_true]

theorem State.mapRun_page (hready : r.unmap = true → (s.page (r.page + (r.left - (n + 1)))).migrating = false) :
    s.mapRun p r (n + 1) =
      ((s.mapOne p r (r.page + (r.left - (n + 1)))).mapStatus p (fld (s.rd (pgPT p) 0x0A4) 15 0 + 1) 0).mapRun p r n := by
  have hgo : (r.unmap && (s.page (r.page + (r.left - (n + 1)))).migrating) = false := by
    cases hunmap : r.unmap with
    | false => rfl
    | true => exact hready hunmap
  simp only [State.mapRun, hcheck, hgo, Bool.false_eq_true, if_false]

end

/-! ## One page -/

section
variable {s : State} {p : Nat} {r : MapReq} {page : Nat}

/-- A page unmapped is free, and no translation of it stays cached. -/
theorem State.mapOne_unmaps (hunmap : r.unmap = true) :
    (∀ n, (s.mapOne p r page).page n = if n = page then {} else s.page n) ∧ (∀ x ∈ (s.mapOne p r page).mem.tlb, x.page ≠ page) := by
  unfold State.mapOne
  rw [if_pos hunmap]
  exact ⟨fun n => AMap.get_put ({} : PageEnt) s.mem.pmap page {} n, fun x hx => by simpa using (List.mem_filter.mp hx).2⟩

/-- A page mapped is a DRAM page of the partition, and its bytes are cleared. -/
theorem State.mapOne_maps (hmap : r.unmap = false) :
    ∃ f, (∀ n, (s.mapOne p r page).page n =
        if n = page then { frame := f, tier := 1, owner := p, valid := true, pinned := r.pinned, readOnly := r.readOnly } else s.page n) ∧
      (s.mapOne p r page).mem.bytes = AMap.delRange s.mem.bytes (page * pageSize) pageSize := by
  unfold State.mapOne State.restorePage
  rw [if_neg (by simp [hmap])]
  exact ⟨(s.pickFrame 1).1, fun n => AMap.get_put ({} : PageEnt) s.mem.pmap page _ n, rfl⟩

theorem AMap.get_delRange {α : Type} (d : α) (m : AMap α) {lo n k : Nat} (hlo : lo ≤ k) (hk : k < lo + n) : AMap.get d (AMap.delRange m lo n) k = d := by
  refine AMap.get_of_ne fun e he hek => ?_
  have hout := (List.mem_filter.mp he).2
  simp [hek, hlo, hk] at hout

/-- A byte of a page of no base that stands nowhere reads zero. -/
theorem State.byteAt_cleared {a : Nat} (howner : (s.page (a / pageSize)).owner ≠ 62) (hbyte : AMap.get 0 s.mem.bytes a = 0) : s.byteAt a = 0 := by
  rw [State.byteAt_of_not_base s a howner, hbyte, ite_self]

end

theorem State.page_of_mem {s t : State} (h : t.mem = s.mem) : t.page = s.page := by
  unfold State.page
  rw [h]

section
variable {s t : State} {p : PartId} {r : MapReq} {page : Nat} (hmem : t.mem = (s.mapOne p.val r page).mem)
include hmem

theorem State.pages_of_unmap (hunmap : r.unmap = true) :
    (∀ n, n ≠ page → t.page n = s.page n) ∧ t.page page = {} ∧ (∀ x ∈ t.mem.tlb, x.page ≠ page) := by
  obtain ⟨hpages, htlb⟩ := State.mapOne_unmaps (s := s) (p := p.val) (page := page) hunmap
  rw [State.page_of_mem hmem, hmem]
  exact ⟨fun n hn => (hpages n).trans (if_neg hn), (hpages page).trans (if_pos rfl), htlb⟩

theorem State.pages_of_map (hmap : r.unmap = false) :
    (∀ n, n ≠ page → t.page n = s.page n) ∧ (t.page page).valid = true ∧ (t.page page).owner = p.val ∧ (t.page page).tier = 1 ∧
      (t.page page).pinned = r.pinned ∧ (t.page page).readOnly = r.readOnly ∧ (∀ a, a / pageSize = page → t.byteAt a = 0) := by
  obtain ⟨f, hpages, hbytes⟩ := State.mapOne_maps (s := s) (p := p.val) (page := page) hmap
  rw [← State.page_of_mem hmem] at hpages
  have hmapped := (hpages page).trans (if_pos rfl)
  refine ⟨fun n hn => (hpages n).trans (if_neg hn), ?_⟩
  rw [hmapped]
  refine ⟨rfl, rfl, rfl, rfl, rfl, fun a ha => State.byteAt_cleared ?_ ?_⟩
  · rw [ha, hmapped]
    exact Nat.ne_of_lt (p.isLt.trans (by decide))
  · rw [hmem, hbytes]
    exact AMap.get_delRange _ _ (ha ▸ Nat.div_mul_le_self ..) (by rw [← ha]; exact Nat.lt_div_mul_add (by decide))

end

/-! ## Requests of one page -/

section
variable {s : State} {p : PartId} {r : MapReq} (hmap : (s.pt p.val).map = some r) (hleft : r.left = 1)
include hleft

theorem MapReq.page_of_one : r.page + (r.left - (0 + 1)) = r.page := by
  rw [hleft]
  rfl

include hmap

theorem execMapDone_one : exec (.mapDone p) s = .next (s.mapRun p.val r (0 + 1)) := by
  rw [execMapDone_runs hmap, hleft]

theorem execMapDone_one_fails {e : Nat} (hcheck : s.mapCheck p.val r r.page = some e) :
    ∃ t, exec (.mapDone p) s = .next t ∧ (t.pt p.val).map = none ∧ t.mem = s.mem ∧ (t.hdr (pgPT p.val)).evStat.getLsbD 5 = true ∧
      t.rd (pgPT p.val) 0x0A4 = BitVec.ofNat 32 (fld (s.rd (pgPT p.val) 0x0A4) 15 0 + e % 4096 * 2 ^ 20) := by
  obtain ⟨hend, hevent, hmem, -, hstatus⟩ := State.mapRun_ends (s.mapStatus p.val (fld (s.rd (pgPT p.val) 0x0A4) 15 0) e) p.val r
  rw [execMapDone_one hmap hleft, State.mapRun_fails ((MapReq.page_of_one hleft).symm ▸ hcheck)]
  exact ⟨_, rfl, hend, hmem.trans (State.mapStatus_keeps ..).1, hevent, hstatus.trans (State.rd_wr ..)⟩

variable (hcheck : s.mapCheck p.val r r.page = none)
include hcheck

/-- The request is kept as it was: its page is still to be done. -/
theorem execMapDone_one_waits (hunmap : r.unmap = true) (hmigrating : (s.page r.page).migrating = true) :
    ∃ t, exec (.mapDone p) s = .next t ∧ t.pt p.val = s.pt p.val ∧ t.mem = s.mem := by
  rw [execMapDone_one hmap hleft, State.mapRun_waits ((MapReq.page_of_one hleft).symm ▸ hcheck) hunmap ((MapReq.page_of_one hleft).symm ▸ hmigrating)]
  refine ⟨_, rfl, ?_, rfl⟩
  have hsame : { r with page := r.page + (r.left - (0 + 1)), left := 0 + 1 } = r := by
    rw [MapReq.page_of_one hleft, Nat.zero_add, ← hleft]
  rw [State.pt_setPt, if_pos rfl, hsame, ← hmap]

/-- The request ends with its page unmapped, or mapped and cleared. -/
theorem execMapDone_one_ends (hready : r.unmap = true → (s.page r.page).migrating = false) :
    ∃ t, exec (.mapDone p) s = .next t ∧ (t.pt p.val).map = none ∧ (t.hdr (pgPT p.val)).evStat.getLsbD 5 = true ∧
      t.rd (pgPT p.val) 0x0A4 = BitVec.ofNat 32 (fld (s.rd (pgPT p.val) 0x0A4) 15 0 + 1) ∧ t.mem = (s.mapOne p.val r r.page).mem := by
  obtain ⟨hend, hevent, hmem, -, hstatus⟩ :=
    State.mapRun_ends ((s.mapOne p.val r r.page).mapStatus p.val (fld (s.rd (pgPT p.val) 0x0A4) 15 0 + 1) 0) p.val r
  rw [execMapDone_one hmap hleft, State.mapRun_page ((MapReq.page_of_one hleft).symm ▸ hcheck) ((MapReq.page_of_one hleft).symm ▸ hready),
    MapReq.page_of_one hleft]
  exact ⟨_, rfl, hend, hevent, hstatus.trans (State.rd_wr ..), hmem.trans (State.mapStatus_keeps ..).1⟩

end

/-! ## Mailboxes -/

section
variable {s : State} {o : Origin} {p : PartId} (v : Word) {r : Req}

/-- The tenant's producer word is written by the partition's own requesters, and sets event 0. -/
theorem execMbT2mProdWrite_pass (h : s.access o (pgMB p.val * 0x1000 + 0x040) true = .pass s r) :
    exec (.mbT2mProdWrite o p v) s =
      .next (if r.part.isSome then ((s.setReply .ok).wr (pgMB p.val) 0x040 v).raise (pgMB p.val) 0 else s.setReply .ok) :=
  congrArg Host.Outcome.next (State.withWrite_pass (fun s r => s.writeMb p.val 0x040 r v) h)

/-- The management processor's producer word is written by requesters of no partition, and sets event 1. -/
theorem execMbM2tProdWrite_pass (h : s.access o (pgMB p.val * 0x1000 + 0x048) true = .pass s r) :
    exec (.mbM2tProdWrite o p v) s =
      .next (if r.part.isSome then s.setReply .ok else ((s.setReply .ok).wr (pgMB p.val) 0x048 v).raise (pgMB p.val) 1) := by
  refine (congrArg Host.Outcome.next (State.withWrite_pass (fun s r => s.writeMb p.val 0x048 r v) h)).trans ?_
  cases hpart : r.part with
  | none => simp [State.writeMb, hpart]
  | some q => simp [State.writeMb, hpart]

end

end Sys2Proof.Machine
end

section
/-!
PROOF. O52: partition images, page maps and mailboxes.
-/

namespace Sys2Proof.Machine

/-- Settles O52: each step of an image, a mapping request and a mailbox word by its own lemma. -/
theorem imagesMapsMailboxes : Obligations.ImagesMapsMailboxes := by
  unfold Obligations.ImagesMapsMailboxes
  refine ⟨fun s o p r haccess => ?_, fun s s1 p ok hst => ?_, fun s p ok hst => ?_, fun s o p v r haccess => ?_, fun s p r hmap => ?_,
    fun s p r hmap hleft => ?_, fun s o p v r => ⟨execMbT2mProdWrite_pass v, execMbM2tProdWrite_pass v⟩⟩
  · rw [execImageSave_pass haccess, execImageRestore_pass haccess]
    refine ⟨fun hst => ?_, fun hst hdua => ?_, fun hst hdua htrng => ?_,
        fun hst hdua htrng => ⟨fun hplace => ?_, fun e hplace => ⟨fun hgrant => ?_, fun hgrant => ?_⟩⟩,
      fun hst => ?_, fun hst hdua => ?_, fun hst hdua => ⟨fun himage => ?_, fun i himage hkey => ?_, fun i himage hkey => ?_⟩⟩
    · rw [State.saveGo_notFrozen (s := s.setReply .ok) hst]
    · rw [State.saveGo_unaligned (s := s.setReply .ok) hst hdua]
    · rw [State.saveGo_noRandom (s := s.setReply .ok) hst hdua htrng]
    · rw [State.saveGo_noEntry (s := s.setReply .ok) hst hdua htrng hplace]
    · rw [State.saveGo_notGranted (s := s.setReply .ok) hst hdua htrng hplace hgrant]
    · rw [State.saveGo_begins (s := s.setReply .ok) hst hdua htrng hplace hgrant]
      rfl
    · rw [State.restoreGo_notDisabled (s := s.setReply .ok) hst]
    · rw [State.restoreGo_unaligned (s := s.setReply .ok) hst hdua]
    · rw [State.restoreGo_noImage (s := s.setReply .ok) hst hdua himage]
    · rw [State.restoreGo_noKey (s := s.setReply .ok) hst hdua himage hkey]
    · rw [State.restoreGo_begins (s := s.setReply .ok) hst hdua himage hkey]
      rfl
  · refine ⟨execImageSaveDone_noRandom ok hst, fun hfailed hready => ?_, fun hready =>
      ⟨execImageSaveDone_broken hst hready, fun e => execImageSaveDone_refused hst hready, fun hwrite => ?_⟩⟩
    · rw [execImageSaveDone_unready ok hst hfailed hready]
      exact ⟨fun hearly => by rw [if_neg (by omega)], fun hlate => by rw [if_pos hlate]; rfl⟩
    · obtain ⟨himages, hpt⟩ := State.writeImage_ok hwrite
      obtain ⟨hends, hresult, hevent⟩ := s1.imageEnd_shows p.val 1 0
      refine ⟨_, execImageSaveDone_written hst hready hwrite, (State.images_imageEnd ..).trans himages, ?_, hresult, hevent⟩
      rw [hends, hpt, State.pt_setPt, if_pos rfl]
  · refine ⟨execImageRestoreDone_noImage ok hst, fun i himage => ⟨fun e => execImageRestoreDone_refused ok hst himage, fun hcheck => ?_⟩⟩
    obtain ⟨hends, hresult, hevent⟩ := ((s.restoreRegs p.val i).applyImage p.val i (s.imageDua p.val)).imageEnd_shows p.val 1 0
    refine ⟨_, execImageRestoreDone_restored ok hst himage hcheck, ?_, hresult, hevent⟩
    rw [hends, State.st_applyImage]
  · rw [execMapGo_pass v haccess]
    refine ⟨fun hmap => ?_, fun hmap => ?_⟩
    · rw [State.writeMapCtrl_busy (s := s.setReply .ok) (mapGoWord_go v) hmap]
    · have hstarts := State.writeMapCtrl_starts (s := s.setReply .ok) (mapGoWord_go v) hmap
      rw [mapGoWord_kept, State.mapAsked_go] at hstarts
      exact ⟨_, rfl, hstarts⟩
  · exact ⟨execMapDone_runs hmap, fun n => State.mapRun_page⟩
  · refine ⟨fun e => execMapDone_one_fails hmap hleft, execMapDone_one_waits hmap hleft, fun hcheck hready => ?_⟩
    obtain ⟨t, hdone, hend, hevent, hstatus, hmem⟩ := execMapDone_one_ends hmap hleft hcheck hready
    refine ⟨t, hdone, hend, hevent, hstatus, ?_⟩
    cases hunmap : r.unmap with
    | true =>
      obtain ⟨hothers, hfreed⟩ := State.pages_of_unmap hmem hunmap
      exact ⟨hothers, fun _ => hfreed, fun h => absurd h (by decide)⟩
    | false =>
      obtain ⟨hothers, hmapped⟩ := State.pages_of_map hmem hunmap
      exact ⟨hothers, fun h => absurd h (by decide), fun _ => hmapped⟩

end Sys2Proof.Machine
end

section
/-!
PROOF. How a firebox request ends (R333, R334): what `State.fbEnd` writes and what it leaves, and which request is served (R321).
-/

namespace Sys2Proof.Machine

theorem Recorded.fbx {s t : State} (h : Recorded s t) : t.fbx = s.fbx := by rw [h]

/-! ## The end of a request -/

/-- STATUS, REASON and a returned handle written into the head request's record. -/
def State.fbRecord (s : State) (reason : Nat) (handle : Option Nat) : State :=
  let a := s.ringAddr ringFQ (s.rd pgFQ 0x050)
  let s1 := s.storeTry (whoOf 63) (a + 1) (leBytes (if reason = 0 then 0 else 1) 1 ++ leBytes reason 2)
  match handle with | some h => s1.storeTry (whoOf 63) (a + 4) (leBytes h 2) | none => s1

/-- The head request answered, before its event and the count of failures: its record, DONE and the times of posting. -/
def State.fbAnswered (s : State) (reason : Nat) (handle : Option Nat) : State :=
  let s2 := s.fbRecord reason handle
  let s3 := s2.wr pgFQ 0x050 (s2.rd pgFQ 0x050 + 1)
  s3.setFbx { s3.fbx with posted := s3.fbx.posted.tail }

theorem State.fbEnd_eq (s : State) (reason : Nat) (handle : Option Nat) :
    s.fbEnd reason handle =
      (if reason = 0 then s.fbAnswered reason handle else (s.fbAnswered reason handle).bump pgFB 0x030 1).raise pgFQ 0 := by
  cases handle <;> rfl

theorem State.fbRecord_near (s : State) (reason : Nat) (handle : Option Nat) : Near s (s.fbRecord reason handle) := by
  cases handle with
  | none => exact s.storeTry_near ..
  | some h => exact (s.storeTry_near ..).trans (State.storeTry_near ..)

theorem State.fbRecord_lowRegs (s : State) (reason : Nat) (handle : Option Nat) : LowRegsKept s (s.fbRecord reason handle) := by
  cases handle with
  | none => exact s.storeTry_lowRegs ..
  | some h => exact (s.storeTry_lowRegs ..).trans (State.storeTry_lowRegs ..)

theorem State.fbRecord_flue (s : State) (reason : Nat) (handle : Option Nat) : FlueKept s (s.fbRecord reason handle) := by
  cases handle with
  | none => exact s.storeTry_flue ..
  | some h => exact (s.storeTry_flue ..).trans (State.storeTry_flue ..)

/-- A request's end changes what records and events change, and of the firebox the times of posting. -/
theorem State.fbEnd_recorded (s : State) (reason : Nat) (handle : Option Nat) :
    Recorded (s.setFbx { s.fbx with posted := s.fbx.posted.tail }) (s.fbEnd reason handle) := by
  have h : Recorded (s.setFbx { s.fbx with posted := s.fbx.posted.tail }) (s.fbAnswered reason handle) := by
    unfold State.fbAnswered
    rw [s.fbRecord_near reason handle]
    exact Eq.refl _
  rw [State.fbEnd_eq]
  exact (Recorded.ite h (h.trans (State.bump_recorded ..))).trans (State.raise_recorded ..)

@[simp] theorem State.fbx_fbEnd (s : State) (reason : Nat) (handle : Option Nat) :
    (s.fbEnd reason handle).fbx = { s.fbx with posted := s.fbx.posted.tail } :=
  (s.fbEnd_recorded reason handle).fbx

@[simp] theorem State.lift_fbEnd (s : State) (reason : Nat) (handle : Option Nat) : (s.fbEnd reason handle).lift = s.lift :=
  (s.fbEnd_recorded reason handle).lift

@[simp] theorem State.region_fbEnd (s : State) (reason : Nat) (handle : Option Nat) : (s.fbEnd reason handle).region = s.region := by
  unfold State.region
  rw [State.fbx_fbEnd]

@[simp] theorem State.keyEnt_fbEnd (s : State) (reason : Nat) (handle : Option Nat) : (s.fbEnd reason handle).keyEnt = s.keyEnt := by
  unfold State.keyEnt
  rw [State.fbx_fbEnd]

@[simp] theorem State.session_fbEnd (s : State) (reason : Nat) (handle : Option Nat) : (s.fbEnd reason handle).session = s.session := by
  unfold State.session
  rw [State.fbx_fbEnd]

/-- Messages are only added and no event is lost. -/
theorem State.fbEnd_flue (s : State) (reason : Nat) (handle : Option Nat) : FlueKept s (s.fbEnd reason handle) := by
  have h : FlueKept s (s.fbAnswered reason handle) :=
    ((s.fbRecord_flue reason handle).trans (State.wr_flue _ _ (.inl (by decide)) (by decide))).trans (.of_eq rfl rfl rfl rfl rfl)
  rw [State.fbEnd_eq]
  exact (FlueKept.ite h (h.trans (State.bump_flue _ _ (.inl (by decide)) (by decide)))).trans (State.raise_flue ..)

theorem State.evStat_fbEnd (s : State) (reason : Nat) (handle : Option Nat) : ((s.fbEnd reason handle).hdr pgFQ).evStat.getLsbD 0 = true := by
  rw [State.fbEnd_eq]
  exact State.evStat_raise _ (by decide)

/-! ## The registers of FQ and FB after it -/

theorem State.rd_fbAnswered_done (s : State) (reason : Nat) (handle : Option Nat) :
    (s.fbAnswered reason handle).rd pgFQ 0x050 = s.rd pgFQ 0x050 + 1 := by
  rw [← (s.fbRecord_lowRegs reason handle).rd pgFQ 0x050 (by decide) (by decide)]
  exact State.rd_wr ..

theorem State.rd64_fbAnswered (s : State) (reason : Nat) (handle : Option Nat) {off : Nat} (hoff : off < 0xFFC) :
    (s.fbAnswered reason handle).rd64 pgFB off = s.rd64 pgFB off := by
  have hrd : ∀ o, o < 0x1000 → (s.fbAnswered reason handle).rd pgFB o = s.rd pgFB o := fun o ho =>
    (State.rd_wr_ne _ _ _ _ _ _ (by unfold regKey pgFB pgFQ; omega)).trans ((s.fbRecord_lowRegs reason handle).rd _ _ (by decide) ho)
  unfold State.rd64
  rw [hrd _ (by omega), hrd _ (by omega)]

theorem State.rd_fbEnd_done (s : State) (reason : Nat) (handle : Option Nat) :
    (s.fbEnd reason handle).rd pgFQ 0x050 = s.rd pgFQ 0x050 + 1 := by
  rw [State.fbEnd_eq, State.rd_raise]
  split
  · exact s.rd_fbAnswered_done reason handle
  · exact (State.rd_bump_ne _ _ (by decide) (by decide)).trans (s.rd_fbAnswered_done reason handle)

/-- A failure is counted in REQ_FAIL. -/
theorem State.rd64_fbEnd_failures (s : State) (reason : Nat) (handle : Option Nat) :
    (s.fbEnd reason handle).rd64 pgFB 0x030 = (s.rd64 pgFB 0x030 + (if reason = 0 then 0 else 1)) % 2 ^ 64 := by
  rw [State.fbEnd_eq, State.rd64_raise]
  split
  · rw [State.rd64_fbAnswered _ _ _ (by decide), Nat.add_zero, Nat.mod_eq_of_lt (s.rd64_lt ..)]
  · rw [State.rd64_bump, State.rd64_fbAnswered _ _ _ (by decide)]

/-- The count of key operations is another's. -/
theorem State.rd64_fbEnd_keyOps (s : State) (reason : Nat) (handle : Option Nat) :
    (s.fbEnd reason handle).rd64 pgFB 0x020 = s.rd64 pgFB 0x020 := by
  have hbump : ∀ t : State, (t.bump pgFB 0x030 1).rd64 pgFB 0x020 = t.rd64 pgFB 0x020 := fun t => by
    unfold State.rd64
    rw [State.rd_bump_ne _ _ (by decide) (by decide), State.rd_bump_ne _ _ (by decide) (by decide)]
  rw [State.fbEnd_eq, State.rd64_raise, apply_ite (State.rd64 · pgFB 0x020), hbump, ite_self, State.rd64_fbAnswered _ _ _ (by decide)]

/-! ## The request at the head -/

section
variable {s : State} {r : FbReq} {code : Nat} {f : State → FbReq → State} (hhead : s.fbHead = some r) (hcode : r.code = code)
include hhead hcode

/-- The head request is served by the command of its code, once the random bits it needs are there. -/
theorem State.fbServe_head (hrequest : ¬ (code = 0 ∨ 11 < code)) (hready : needsRandom code = false ∨ s.fbx.trng = .ready) :
    s.fbServe code f = f s r := by
  subst hcode
  unfold State.fbServe
  rw [hhead]
  rcases hready with hneeds | hready
  · simp [hrequest, hneeds]
  · simp [hrequest, hready]

/-- In FAILED it is refused where it needs random bits (R321). -/
theorem State.fbServe_noRandom (hneeds : needsRandom code = true) (hfailed : s.fbx.trng = .failed) : s.fbServe code f = s.fbEnd 0x011B := by
  subst hcode
  have hrequest : ¬ (r.code = 0 ∨ 11 < r.code) := by
    simp only [needsRandom, Bool.or_eq_true, decide_eq_true_eq] at hneeds
    omega
  unfold State.fbServe
  rw [hhead]
  simp [hrequest, hneeds, hfailed]

end

/-! ## Free choices and draws -/

@[simp] theorem State.fbx_pickOf (s : State) (l : List Nat) : (s.pickOf l).2.fbx = s.fbx := by cases l <;> rfl

theorem State.fbx_of_pickOf {s t : State} {l : List Nat} {o : Option Nat} (h : s.pickOf l = (o, t)) : t.fbx = s.fbx := by
  rw [← s.fbx_pickOf l, h]

theorem State.rd_of_pickOf {s t : State} {l : List Nat} {o : Option Nat} (h : s.pickOf l = (o, t)) : t.rd = s.rd := by
  obtain rfl : t = (s.pickOf l).2 := (congrArg Prod.snd h).symm
  cases l <;> rfl

end Sys2Proof.Machine
end

section
/-!
PROOF. Sessions, attestation, the installation of a base and the base key (R322 to R325, R436, R438, R444).
-/

namespace Sys2Proof.Machine

/-! ## Sessions (R322) -/

theorem State.session_setSession (s : State) (n : Nat) (x : Option Session) (j : Nat) :
    (s.setSession n x).session j = if j = n then x else s.session j := AMap.get_put ..

theorem State.session_bump (s : State) (page off n : Nat) : (s.bump page off n).session = s.session := by
  rw [State.bump_frame]
  rfl

section
variable {s s1 : State} {r : FbReq} {b : List Byte} {i : FbInput} {f : State → State} (hload : s.load (whoOf 63) r.inDua r.inBytes = .ok (b, s1))
include hload

/-- An input whose tag fails, or one under a session that is not open, refuses and ends its session. -/
theorem State.withInput_bad (hbad : i.tagOk = false ∨ s.session r.session = none) :
    s.withInput r i f = (s.setSession r.session none).fbEnd 0x0323 := by
  unfold State.withInput
  rw [hload]
  exact if_neg fun h => by
    obtain ⟨htag, hopen⟩ := (Bool.and_eq_true _ _).mp h
    rcases hbad with hbad | hbad <;> simp_all

/-- A good one is served past the end of its session. -/
theorem State.withInput_good (htag : i.tagOk = true) (hopen : (s.session r.session).isSome = true) :
    s.withInput r i f = f (s.setSession r.session none) := by
  unfold State.withInput
  rw [hload]
  exact if_pos (by rw [htag, hopen]; rfl)

end

/-! ## ATTEST (R321, R322) -/

section
variable {s : State} {r : FbReq} (hhead : s.fbHead = some r) (hcode : r.code = 1)
include hhead hcode

theorem execAttest_noRandom (hfailed : s.fbx.trng = .failed) : exec .attest s = .next (s.fbEnd 0x011B) :=
  congrArg Host.Outcome.next (State.fbServe_noRandom hhead hcode rfl hfailed)

theorem execAttest_head (hready : s.fbx.trng = .ready) : exec .attest s = .next (s.attest r) :=
  congrArg Host.Outcome.next (State.fbServe_head hhead hcode (by decide) (.inr hready))

end

/-- The numbers of the sessions that are not open. -/
def State.freeSessions (s : State) : List Nat := (List.range 16).filter (fun n => (s.session n).isNone)

/-- A load reads, and leaves the registers below the queue dies' pages. -/
theorem State.load_lowRegs {s t : State} {who : MemWho} {dua len : Nat} {b : List Byte} (h : s.load who dua len = .ok (b, t)) : LowRegsKept s t := by
  unfold State.load at h
  split at h
  · cases h; exact .rfl
  · split at h
    · cases h
    · dsimp only at h
      split at h
      · cases h
      · cases h; exact State.demand_lowRegs ..

section
variable {s s1 s2 s3 : State} {r : FbReq} {nonce : List Byte} {n : Nat} (hload : s.load (whoOf 63) r.inDua (min r.inBytes 32) = .ok (nonce, s1))
include hload

theorem State.attest_noSession (hpick : s1.pickOf s1.freeSessions = (none, s2)) : s.attest r = s.fbEnd 0x0510 := by
  unfold State.freeSessions at hpick
  simp only [State.attest, hload, hpick]

variable (hpick : s1.pickOf s1.freeSessions = (some n, s2))
include hpick

theorem State.attest_noRoom (hroom : r.outBytes < (s2.draw.2.attestOut n nonce s2.draw.1).length) : s.attest r = s.fbEnd 0x0511 := by
  unfold State.freeSessions at hpick
  simp only [State.attest, hload, hpick, if_pos hroom]

variable (hroom : (s2.draw.2.attestOut n nonce s2.draw.1).length ≤ r.outBytes)
include hroom

theorem State.attest_unwritten {e : Nat} (hstore : s2.draw.2.store (whoOf 63) r.outDua (s2.draw.2.attestOut n nonce s2.draw.1) = .error (.inl e)) :
    s.attest r = s.fbEnd e := by
  unfold State.freeSessions at hpick
  simp only [State.attest, hload, hpick, if_neg (Nat.not_lt.2 hroom), hstore]

variable (hstore : s2.draw.2.store (whoOf 63) r.outDua (s2.draw.2.attestOut n nonce s2.draw.1) = .ok s3)
include hstore

theorem State.attest_written :
    s.attest r = ((s3.setSession n (some { since := s3.nowUs, key := s2.draw.1 })).bump pgFB 0x028 1).fbEnd 0 := by
  unfold State.freeSessions at hpick
  simp only [State.attest, hload, hpick, if_neg (Nat.not_lt.2 hroom), hstore]

/-- A written report opens its session, and the others stand. -/
theorem State.session_attest (j : Nat) :
    (s.attest r).session j = if j = n then some { since := s3.nowUs, key := s2.draw.1 } else s3.session j := by
  rw [State.attest_written hload hpick hroom hstore, State.session_fbEnd, State.session_bump, State.session_setSession]

theorem State.rd_attest_done : (s.attest r).rd pgFQ 0x050 = s.rd pgFQ 0x050 + 1 := by
  have hread : s1.rd pgFQ 0x050 = s.rd pgFQ 0x050 := (State.load_lowRegs hload).rd _ _ (by decide) (by decide)
  have hwritten : s3.rd pgFQ 0x050 = s2.rd pgFQ 0x050 := (State.store_lowRegs hstore).rd _ _ (by decide) (by decide)
  rw [State.attest_written hload hpick hroom hstore, State.rd_fbEnd_done, State.rd_bump_ne _ _ (by decide) (by decide)]
  show s3.rd pgFQ 0x050 + 1 = _
  rw [hwritten, State.rd_of_pickOf hpick, hread]

end

/-! ## The base key -/

theorem State.setBaseKey_recorded (s : State) (k : Option (BitVec 256)) :
    Recorded (s.setFbx { s.fbx with baseKey := k }) (s.setBaseKey k) := .ite .rfl (State.raise_recorded ..)

@[simp] theorem State.fbx_setBaseKey (s : State) (k : Option (BitVec 256)) : (s.setBaseKey k).fbx = { s.fbx with baseKey := k } :=
  (s.setBaseKey_recorded k).fbx

theorem State.rd64_setBaseKey (s : State) (k : Option (BitVec 256)) : (s.setBaseKey k).rd64 = s.rd64 := by
  unfold State.setBaseKey
  dsimp only
  split
  · rfl
  · exact State.rd64_raise ..

@[simp] theorem State.fbx_keyOp (s : State) : s.keyOp.fbx = s.fbx := (State.bump_recorded ..).fbx

theorem State.rd64_keyOp (s : State) : s.keyOp.rd64 pgFB 0x020 = (s.rd64 pgFB 0x020 + 1) % 2 ^ 64 := s.rd64_bump ..

/-- Hostless operation adds a message at most (R403). -/
theorem State.mcIssues_recorded (s : State) : Recorded s s.mcIssues := .ite (Eq.refl _) .rfl

theorem State.rd64_mcIssues (s : State) : s.mcIssues.rd64 = s.rd64 := by
  unfold State.mcIssues
  split <;> rfl

section
variable {s : State} {m : Manifest} {k : BitVec 256}

theorem State.keyRelease_noBase (hinst : s.lift.installed = none) : s.keyRelease k = s.fbEnd 0x0340 := by
  simp only [State.keyRelease, hinst]

variable (hinst : s.lift.installed = some m)
include hinst

theorem State.keyRelease_wrongKey (hkey : keyMatches m k = false) : s.keyRelease k = s.fbEnd 0x0340 := by
  simp only [State.keyRelease, hinst, hkey, Bool.not_false, if_true]

theorem State.keyRelease_belowFloor (hkey : keyMatches m k = true) (hfloor : svnMeets s.fbx.svns m.ownerFloor = false) :
    s.keyRelease k = s.fbEnd 0x0607 := by
  simp only [State.keyRelease, hinst, hkey, hfloor, Bool.not_true, Bool.not_false, Bool.false_eq_true, if_false, if_true]

theorem State.keyRelease_released (hkey : keyMatches m k = true) (hfloor : svnMeets s.fbx.svns m.ownerFloor = true) :
    s.keyRelease k = (((s.setBaseKey (some k)).keyOp).fbEnd 0).mcIssues := by
  simp only [State.keyRelease, hinst, hkey, hfloor, Bool.not_true, Bool.false_eq_true, if_false]

end

/-- The released key is held and the operation counted. -/
theorem State.released_shows (s : State) (k : BitVec 256) :
    let t := (((s.setBaseKey (some k)).keyOp).fbEnd 0).mcIssues
    t.fbx.baseKey = some k ∧ t.rd64 pgFB 0x020 = (s.rd64 pgFB 0x020 + 1) % 2 ^ 64 := by
  intro t
  refine ⟨?_, ?_⟩
  · rw [(State.mcIssues_recorded _).fbx, State.fbx_fbEnd, State.fbx_keyOp, State.fbx_setBaseKey]
  · rw [State.rd64_mcIssues, State.rd64_fbEnd_keyOps, State.rd64_keyOp, State.rd64_setBaseKey]

/-! ## The requests under a session -/

section
variable {s : State} {r : FbReq} (hhead : s.fbHead = some r)
include hhead

theorem execInstallOpen_early (i : FbInput) (hcode : r.code = 2) (hearly : s.lift.base.isSome = true ∨ s.anyPartition = true ∨ s.mc.vaultMounted = false) :
    exec (.installOpen i) s = .next (s.fbEnd 0x0704) := by
  refine congrArg Host.Outcome.next ((State.fbServe_head hhead hcode (by decide) (.inl rfl)).trans (if_pos ?_))
  simpa [or_assoc] using hearly

theorem execInstallOpen_head (i : FbInput) (hcode : r.code = 2) (hbase : s.lift.base = none) (hpart : s.anyPartition = false)
    (hvault : s.mc.vaultMounted = true) : exec (.installOpen i) s = .next (s.withInput r i fun t => t.installOpen i) := by
  refine congrArg Host.Outcome.next ((State.fbServe_head hhead hcode (by decide) (.inl rfl)).trans (if_neg ?_))
  simp [hbase, hpart, hvault]

theorem execKeyRelease_head (i : FbInput) (hcode : r.code = 4) :
    exec (.keyRelease i) s = .next (s.withInput r i fun t => if t.mc.vaultMounted then t.keyRelease i.key else t.fbEnd 0x0115) :=
  congrArg Host.Outcome.next (State.fbServe_head hhead hcode (by decide) (.inl rfl))

theorem execKeyRelease_mounted {s1 : State} {b : List Byte} {i : FbInput} (hcode : r.code = 4)
    (hload : s.load (whoOf 63) r.inDua r.inBytes = .ok (b, s1)) (htag : i.tagOk = true) (hopen : (s.session r.session).isSome = true)
    (hvault : s.mc.vaultMounted = true) : exec (.keyRelease i) s = .next ((s.setSession r.session none).keyRelease i.key) := by
  rw [execKeyRelease_head hhead i hcode, State.withInput_good hload htag hopen]
  exact congrArg Host.Outcome.next (if_pos hvault)

theorem execAccountKeySet_head (i : FbInput) (hcode : r.code = 5) :
    exec (.accountKeySet i) s = .next (s.withInput r i fun t => t.keyEnd (t.installKey false r.arg i.key)) :=
  congrArg Host.Outcome.next (State.fbServe_head hhead hcode (by decide) (.inl rfl))

theorem execExportKeySet_head (i : FbInput) (hcode : r.code = 7) :
    exec (.exportKeySet i) s = .next (s.withInput r i fun t => t.keyEnd (t.installKey true r.arg i.key)) :=
  congrArg Host.Outcome.next (State.fbServe_head hhead hcode (by decide) (.inl rfl))

end

/-! ## INSTALL_OPEN and INSTALL_CLOSE -/

theorem State.installOpen_wrongKey {s : State} {i : FbInput} (hkey : keyMatches i.manifest i.key = false) : s.installOpen i = s.fbEnd 0x0340 := by
  simp only [State.installOpen, hkey, Bool.not_false, if_true]

theorem State.installOpen_badManifest {s : State} {i : FbInput} {e : Nat} (hkey : keyMatches i.manifest i.key = true)
    (hcheck : manifestCheck i.manifest = some e) : s.installOpen i = s.fbEnd e := by
  simp only [State.installOpen, hkey, hcheck, Bool.not_true, Bool.false_eq_true, if_false]

theorem State.installOpen_opens {s : State} {i : FbInput} (hkey : keyMatches i.manifest i.key = true) (hcheck : manifestCheck i.manifest = none) :
    s.installOpen i = (s.openBase i.manifest i.key).fbEnd 0 := by
  simp only [State.installOpen, hkey, hcheck, Bool.not_true, Bool.false_eq_true, if_false]

theorem execInstallClose_head {s : State} {r : FbReq} (hhead : s.fbHead = some r) (hcode : r.code = 3) :
    exec .installClose s = .next s.installClose :=
  congrArg Host.Outcome.next (State.fbServe_head hhead hcode (by decide) (.inl rfl))

theorem State.installClose_notOpen {s : State} (hopen : s.lift.openInstall = false) : s.installClose = s.fbEnd 0x0118 := by
  simp [State.installClose, hopen]

section
variable {s : State} (hopen : s.lift.openInstall = true)
include hopen

theorem State.installClose_busy (hbusy : s.lift.instBusy = true) : s.installClose = s := by
  simp [State.installClose, hopen, hbusy]

variable (hbusy : s.lift.instBusy = false)
include hbusy

theorem State.installClose_badScale (hscale : s.lift.scaleFF ≠ []) : s.installClose = s.fbEnd 0x0223 := by
  simp [State.installClose, hopen, hbusy, hscale]

variable (hscale : s.lift.scaleFF = [])
include hscale

theorem State.installClose_incomplete (hmissing : ∃ d ∈ (s.lift.installed.getD {}).shards, d.number ∉ s.lift.passed) :
    s.installClose = s.fbEnd 0x0118 := by
  have hall : (s.lift.installed.getD {}).shards.all (fun d => s.lift.passed.contains d.number) = false := by
    simpa using hmissing
  simp only [State.installClose, hopen, hbusy, hscale, hall, Bool.not_true, Bool.not_false, Bool.false_eq_true, if_false, if_true, List.isEmpty_nil]

/-- A complete installation closes, and its key is wrapped for the vault (R324). -/
theorem State.installClose_closes (hpassed : ∀ d ∈ (s.lift.installed.getD {}).shards, d.number ∈ s.lift.passed) :
    s.installClose.lift = { s.lift with openInstall := false } ∧ s.installClose.fbx.wrapped = s.fbx.baseKey := by
  have hall : (s.lift.installed.getD {}).shards.all (fun d => s.lift.passed.contains d.number) = true := by
    simpa using hpassed
  simp only [State.installClose, hopen, hbusy, hscale, hall, Bool.not_true, Bool.false_eq_true, if_false, List.isEmpty_nil, State.lift_fbEnd,
    State.fbx_fbEnd]
  exact ⟨rfl, rfl⟩

end

end Sys2Proof.Machine
end

section
/-!
PROOF. The key table and keys to peers (R318, R325, R326), regions (R316) and floors (R331).
-/

namespace Sys2Proof.Machine

/-! ## Entries of the key table (R318) -/

theorem State.keyEnt_of_fbx {s t : State} (h : t.fbx = s.fbx) : t.keyEnt = s.keyEnt := by
  unfold State.keyEnt
  rw [h]

theorem State.keyEnt_keyOp (s : State) : s.keyOp.keyEnt = s.keyEnt := State.keyEnt_of_fbx s.fbx_keyOp

theorem State.keyEnt_setKey (s : State) (n : Nat) (k : KeyEnt) (j : Nat) : (s.setKey n k).keyEnt j = if j = n then k else s.keyEnt j :=
  AMap.get_put ..

theorem State.fbx_keyPlace (s : State) (out : Bool) (account : Nat) : (s.keyPlace out account).2.fbx = s.fbx := by
  unfold State.keyPlace
  split
  · rfl
  · exact s.fbx_pickOf _

/-- The generation under which a key is put at an index: the next one over a key. -/
def KeyEnt.nextGen (e : KeyEnt) : Nat := if e.used then keyGenStep e.gen else e.gen

section
variable {s s1 : State} {out : Bool} {account n : Nat} (k : BitVec 256) (haccount : account ≠ 0)
include haccount

theorem State.installKey_full (hplace : s.keyPlace out account = (none, s1)) : s.installKey out account k = .error 0x0510 := by
  unfold State.installKey
  rw [if_neg haccount, hplace]

/-- A key with a place is put there, and the others stand. -/
theorem State.installKey_placed (hplace : s.keyPlace out account = (some n, s1)) :
    ∃ t, s.installKey out account k = .ok (handleOf n (s.keyEnt n).nextGen, t) ∧
      ∀ j, t.keyEnt j = if j = n then { gen := (s.keyEnt n).nextGen, used := true, outKey := out, account := account, key := k, dbg := s.fbx.unlocked }
        else s.keyEnt j := by
  have hfbx : s1.fbx = s.fbx := by rw [← s.fbx_keyPlace out account, hplace]
  refine ⟨(s1.setKey n { gen := (s.keyEnt n).nextGen, used := true, outKey := out, account := account, key := k, dbg := s.fbx.unlocked }).keyOp, ?_,
    fun j => ?_⟩
  · unfold State.installKey
    rw [if_neg haccount, hplace, ← State.keyEnt_of_fbx hfbx, ← hfbx]
    rfl
  · rw [State.keyEnt_keyOp, State.keyEnt_setKey, State.keyEnt_of_fbx hfbx]

end

/-! ## Requests for keys -/

section
variable {s : State} {r : FbReq} (hhead : s.fbHead = some r)
include hhead

theorem execAccountKeyCreate_head (hcode : r.code = 6) (hready : s.fbx.trng = .ready) :
    exec .accountKeyCreate s = .next (s.keyEnd (s.draw.2.installKey false r.arg s.draw.1)) :=
  congrArg Host.Outcome.next (State.fbServe_head hhead hcode (by decide) (.inr hready))

theorem execKeyTransfer_head (p : PeerReport) (hcode : r.code = 8) (hready : s.fbx.trng = .ready) :
    exec (.keyTransfer p) s = .next (s.sendKey r p) :=
  congrArg Host.Outcome.next (State.fbServe_head hhead hcode (by decide) (.inr hready))

theorem execKeyDelete_head (hcode : r.code = 10) : exec .keyDelete s = .next (s.keyDelete r.handle) :=
  congrArg Host.Outcome.next (State.fbServe_head hhead hcode (by decide) (.inl rfl))

theorem execFloorCommit_head (hcode : r.code = 11) : exec .floorCommit s = .next (s.floorCommit r.arg) :=
  congrArg Host.Outcome.next (State.fbServe_head hhead hcode (by decide) (.inl rfl))

theorem execRegionSet_head (a : RegionArgs) (hcode : r.code = 9) (hready : s.fbx.trng = .ready) : exec (.regionSet a) s = .next (s.regionSet a) :=
  congrArg Host.Outcome.next (State.fbServe_head hhead hcode (by decide) (.inr hready))

end

/-! ## KEY_DELETE -/

theorem State.keyDelete_stale {s : State} {h : Nat} (hkey : s.keyByHandle h = none) : s.keyDelete h = s.fbEnd 0x0339 := by
  simp only [State.keyDelete, hkey]

theorem State.keyEnt_keyDelete {s : State} {h n : Nat} {e : KeyEnt} (hkey : s.keyByHandle h = some (n, e)) (j : Nat) :
    (s.keyDelete h).keyEnt j = if j = n then { gen := keyGenStep e.gen } else s.keyEnt j := by
  simp only [State.keyDelete, hkey, State.keyEnt_fbEnd, State.keyEnt_keyOp, State.keyEnt_setKey]

/-! ## KEY_TRANSFER (R325) -/

/-- A peer whose report meets the base's floor (R325). -/
def State.peerMeets (s : State) (r : FbReq) (p : PeerReport) : Bool :=
  p.debugLocked && decide (p.fabric = r.arg) && svnMeets p.svn (s.lift.installed.getD {}).ownerFloor

theorem State.peerMeets_eq_true {s : State} {r : FbReq} {p : PeerReport} :
    s.peerMeets r p = true ↔ p.debugLocked = true ∧ p.fabric = r.arg ∧ svnMeets p.svn (s.lift.installed.getD {}).ownerFloor = true := by
  simp [State.peerMeets, and_assoc]

theorem State.peerMeets_eq_false {s : State} {r : FbReq} {p : PeerReport} :
    s.peerMeets r p = false ↔ p.debugLocked = false ∨ p.fabric ≠ r.arg ∨ svnMeets p.svn (s.lift.installed.getD {}).ownerFloor = false := by
  simp only [← Bool.not_eq_true, State.peerMeets_eq_true, not_and_or, ne_eq]

theorem State.sendKey_badReport {s : State} {r : FbReq} {p : PeerReport} (hmeets : s.peerMeets r p = false) : s.sendKey r p = s.fbEnd 0x0607 := by
  unfold State.peerMeets at hmeets
  simp only [State.sendKey, hmeets, Bool.not_false, if_true]

section
variable {s : State} {r : FbReq} {p : PeerReport} (hmeets : s.peerMeets r p = true)
include hmeets

theorem State.sendKey_noKey {e : Nat} (hkey : s.transferKey r = .error e) : s.sendKey r p = s.fbEnd e := by
  unfold State.peerMeets at hmeets
  simp only [State.sendKey, hmeets, hkey, Bool.not_true, Bool.false_eq_true, if_false]

theorem State.sendKey_sends {kind : Nat} {k : BitVec 256} (hkey : s.transferKey r = .ok (kind, k)) :
    s.sendKey r p = ((s.draw.2.emit (.keyTransfer r.arg kind (Config.gcmSeal s.draw.1 0 (leBytes k.toNat 32)))).keyOp).fbEnd 0 := by
  unfold State.peerMeets at hmeets
  simp only [State.sendKey, hmeets, hkey, Bool.not_true, Bool.false_eq_true, if_false]

end

theorem State.out_keyOp (s : State) : s.keyOp.out = s.out := by
  unfold State.keyOp
  rw [State.bump_frame]

/-- A key sent leaves the module, its table stands and the operation is counted. -/
theorem State.sent_shows (s : State) (o : Output) :
    let t := ((s.draw.2.emit o).keyOp).fbEnd 0
    o ∈ t.out ∧ t.fbx.keys = s.fbx.keys ∧ t.rd64 pgFB 0x020 = (s.rd64 pgFB 0x020 + 1) % 2 ^ 64 := by
  refine ⟨?_, ?_, ?_⟩
  · exact (State.fbEnd_flue ..).out.subset (by rw [State.out_keyOp]; exact List.mem_cons_self)
  · rw [State.fbx_fbEnd, State.fbx_keyOp]
    rfl
  · rw [State.rd64_fbEnd_keyOps, State.rd64_keyOp]
    rfl

/-! ## FLOOR_COMMIT (R331) -/

/-- Is the running firmware's slot committed (R330)? -/
def State.slotCommitted (s : State) : Bool := if s.mc.slotB then s.mc.committedB else s.mc.committedA

theorem State.floorCommit_beyond {s : State} {n : Nat} (hn : 3 < n) : s.floorCommit n = s.fbEnd 0x0259 := if_pos hn

theorem State.floorCommit_uncommitted {s : State} {n : Nat} (hn : n ≤ 3) (hslot : s.slotCommitted = false) : s.floorCommit n = s.fbEnd 0x0705 := by
  unfold State.slotCommitted at hslot
  simp only [State.floorCommit, if_neg (Nat.not_lt.2 hn), hslot, Bool.not_false, if_true]

/-- One floor rises to the running version. -/
theorem State.floors_floorCommit {s : State} {n : Nat} (hn : n ≤ 3) (hslot : s.slotCommitted = true) {i : Nat} (hi : i < 4) :
    (s.floorCommit n).fbx.floors.getD i 0 = if i = n then max (s.fbx.floors.getD i 0) (s.fbx.svns.getD i 0) else s.fbx.floors.getD i 0 := by
  unfold State.slotCommitted at hslot
  simp only [State.floorCommit, if_neg (Nat.not_lt.2 hn), hslot, Bool.not_true, Bool.false_eq_true, if_false, State.fbx_fbEnd]
  simp [State.setFbx, List.getD_eq_getElem?_getD, hi]

/-! ## REGION_SET (R316) -/

/-- May an owner have a region: a partition, BASE or MODULE? -/
def regionOwned (a : RegionArgs) : Prop := a.owner < 32 ∨ a.owner = 62 ∨ a.owner = 63

theorem regionRefused_iff {a : RegionArgs} :
    (!(decide (a.owner < 32) || decide (a.owner = 62) || decide (a.owner = 63))) = true ↔ ¬ regionOwned a := by
  simp [regionOwned, and_assoc]

/-- A region as it is allocated, under fresh keys. -/
def newRegion (a : RegionArgs) (k : BitVec 512 × BitVec 256) : Region :=
  { base := a.base, pages := a.pages, owner := a.owner, valid := true, secure := a.secure, keygen := 1, dataKey := k.1, tagKey := k.2 }

/-- The numbers of the regions that are not VALID. -/
def State.freeRegions (s : State) : List Nat := (List.range 1024).filter (fun i => !(s.region i).valid)

/-- What a REGION_SET that passes its checks does: the part of `State.regionSet` after them. -/
def State.regionPut (s : State) (a : RegionArgs) : State :=
  match s.regionNamed a with
  | none =>
    if a.pages = 0 then s.fbEnd 0
    else
      match s.pickOf s.freeRegions with
      | (none, _) => s.fbEnd 0x050F
      | (some i, s1) => (s1.drawKeys.2.setRegion i (newRegion a s1.drawKeys.1)).fbEnd 0
  | some (i, r) =>
    if s.validIn (r.first + a.pages) r.past then s.fbEnd 0x0335
    else if a.pages = 0 then (s.setRegion i {}).fbEnd 0
    else (s.setRegion i { r with pages := a.pages }).fbEnd 0

theorem State.regionSet_outside {s : State} {a : RegionArgs} (hrange : a.base % pageSize ≠ 0 ∨ memTop < a.base + a.pages * pageSize) :
    s.regionSet a = s.fbEnd 0x0250 := if_pos (by simpa using hrange)

section
variable {s : State} {a : RegionArgs} (halign : a.base % pageSize = 0) (htop : a.base + a.pages * pageSize ≤ memTop)
include halign htop

theorem State.regionSet_badOwner (howner : ¬ regionOwned a) : s.regionSet a = s.fbEnd 0x0259 := by
  simp only [State.regionSet, halign, Nat.not_lt.2 htop, ne_eq, not_true, decide_false, Bool.or_self, Bool.false_eq_true, if_false]
  exact if_pos (regionRefused_iff.2 howner)

variable (howner : regionOwned a)
include howner

theorem State.regionSet_clash (hclash : s.regionClash a ((s.regionNamed a).map (·.1)) = true) : s.regionSet a = s.fbEnd 0x0333 := by
  simp only [State.regionSet, halign, Nat.not_lt.2 htop, ne_eq, not_true, decide_false, Bool.or_self, Bool.false_eq_true, if_false]
  rw [if_neg (mt regionRefused_iff.1 (not_not_intro howner)), if_pos hclash]

/-- A request that passes the checks of its range, its owner and its neighbours. -/
theorem State.regionSet_passed (hclash : s.regionClash a ((s.regionNamed a).map (·.1)) = false) : s.regionSet a = s.regionPut a := by
  simp only [State.regionSet, halign, Nat.not_lt.2 htop, ne_eq, not_true, decide_false, Bool.or_self, Bool.false_eq_true, if_false]
  rw [if_neg (mt regionRefused_iff.1 (not_not_intro howner)), if_neg (by rw [hclash]; decide)]
  unfold State.regionPut State.freeRegions
  cases s.regionNamed a with
  | some e => rfl
  | none =>
    generalize s.pickOf _ = choice
    rcases choice with ⟨_ | i, s1⟩ <;> rfl

end

section
variable {s : State} {a : RegionArgs} (hnamed : s.regionNamed a = none)
include hnamed

theorem State.regionPut_nothing (hpages : a.pages = 0) : s.regionPut a = s.fbEnd 0 := by
  simp only [State.regionPut, hnamed, hpages, if_true]

variable (hpages : a.pages ≠ 0)
include hpages

theorem State.regionPut_full {s1 : State} (hpick : s.pickOf s.freeRegions = (none, s1)) : s.regionPut a = s.fbEnd 0x050F := by
  simp only [State.regionPut, hnamed, hpages, if_false, hpick]

/-- A new region has a free number, generation 1 and fresh keys, and the others stand. -/
theorem State.region_regionPut_new {n : Nat} {s1 : State} (hpick : s.pickOf s.freeRegions = (some n, s1)) (j : Nat) :
    (s.regionPut a).region j = if j = n then newRegion a s1.drawKeys.1 else s.region j := by
  have hkept : s1.drawKeys.2.region = s.region := s1.region_drawKeys.trans (State.region_of_fbx (State.fbx_of_pickOf hpick))
  simp only [State.regionPut, hnamed, hpages, if_false, hpick, State.region_fbEnd, State.region_setRegion, hkept]

end

section
variable {s : State} {a : RegionArgs} {n : Nat} {g : Region} (hnamed : s.regionNamed a = some (n, g))
include hnamed

theorem State.regionPut_inUse (huse : s.validIn (g.first + a.pages) g.past = true) : s.regionPut a = s.fbEnd 0x0335 := by
  simp only [State.regionPut, hnamed, huse, if_true]

/-- A region with no VALID page past its new end is resized, or removed. -/
theorem State.region_regionPut_resized (huse : s.validIn (g.first + a.pages) g.past = false) (j : Nat) :
    (s.regionPut a).region j = if j = n then (if a.pages = 0 then {} else { g with pages := a.pages }) else s.region j := by
  simp only [State.regionPut, hnamed, huse, Bool.false_eq_true, if_false]
  split <;> simp only [State.region_fbEnd, State.region_setRegion]

end

end Sys2Proof.Machine
end

section
/-!
PROOF. O53: the requests of the firebox.
-/

namespace Sys2Proof.Machine

/-- Settles O53: each request by the lemmas about the command that serves it, and each ending by what `State.fbEnd` leaves. -/
theorem fireboxRequests : Obligations.FireboxRequests := by
  unfold Obligations.FireboxRequests
  refine ⟨fun s reason h => ⟨s.rd_fbEnd_done reason h, s.evStat_fbEnd reason h, s.fbx_fbEnd reason h, s.rd64_fbEnd_failures reason h⟩,
    fun s r hhead hcode hready nonce s1 s2 s3 n hload hpick => ?_, fun s s1 s2 r nonce hhead hcode =>
      ⟨execAttest_noRandom hhead hcode, fun hready hload hpick => ?_⟩,
    fun s s1 r b i hhead hload => ⟨execInstallOpen_early hhead i, fun hbad => ?_, fun htag hopen => ?_⟩,
    fun s out account n k s1 => ⟨rfl, State.installKey_full k, fun haccount hplace => ?_⟩,
    fun s r hhead => ⟨fun hcode => ?_, fun hcode hready => ⟨execAccountKeyCreate_head hhead hcode hready, rfl, rfl⟩, fun hcode hready p => ?_,
      fun hcode => ?_, fun hcode => ?_⟩,
    fun s r a hhead hcode hready => ?_⟩
  · rw [execAttest_head hhead hcode hready]
    refine ⟨fun hroom => ?_, fun e hroom hstore => ?_, fun hroom hstore => ?_⟩
    · rw [State.attest_noRoom hload hpick hroom]
    · rw [State.attest_unwritten hload hpick hroom hstore]
    · have hsession := State.session_attest hload hpick hroom hstore
      exact ⟨_, rfl, (hsession n).trans (if_pos rfl), fun j hj => (hsession j).trans (if_neg hj), State.rd_attest_done hload hpick hroom hstore⟩
  · rw [execAttest_head hhead hcode hready, State.attest_noSession hload hpick]
  · refine ⟨fun hcode hbase hpart hvault => ?_, fun hcode => ?_, fun hcode => ?_, fun hcode => ?_⟩
    · rw [execInstallOpen_head hhead i hcode hbase hpart hvault, State.withInput_bad hload hbad]
    · rw [execKeyRelease_head hhead i hcode, State.withInput_bad hload hbad]
    · rw [execAccountKeySet_head hhead i hcode, State.withInput_bad hload hbad]
    · rw [execExportKeySet_head hhead i hcode, State.withInput_bad hload hbad]
  · refine ⟨fun hcode hbase hpart hvault => ?_, fun hcode hvault => ?_, fun hcode hvault hinst => ?_, fun hcode hvault m hinst => ?_,
      fun hcode => ?_, fun hcode => ?_⟩
    · rw [execInstallOpen_head hhead i hcode hbase hpart hvault, State.withInput_good hload htag hopen]
      refine ⟨fun hkey => ?_, fun hkey => ⟨fun e hcheck => ?_, fun hcheck => ?_⟩⟩
      · rw [State.installOpen_wrongKey hkey]
      · rw [State.installOpen_badManifest hkey hcheck]
      · rw [State.installOpen_opens hkey hcheck]
    · rw [execKeyRelease_head hhead i hcode, State.withInput_good hload htag hopen]
      exact congrArg Host.Outcome.next (if_neg (by rw [Bool.not_eq_true]; exact hvault))
    · rw [execKeyRelease_mounted hhead hcode hload htag hopen hvault, State.keyRelease_noBase (s := s.setSession r.session none) hinst]
    · rw [execKeyRelease_mounted hhead hcode hload htag hopen hvault]
      refine ⟨fun hkey => ?_, fun hkey hfloor => ?_, fun hkey hfloor => ⟨_, rfl, ?_⟩⟩
      · rw [State.keyRelease_wrongKey (s := s.setSession r.session none) hinst hkey]
      · rw [State.keyRelease_belowFloor (s := s.setSession r.session none) hinst hkey hfloor]
      · rw [State.keyRelease_released (s := s.setSession r.session none) hinst hkey hfloor]
        exact State.released_shows (s.setSession r.session none) i.key
    · rw [execAccountKeySet_head hhead i hcode, State.withInput_good hload htag hopen]
    · rw [execExportKeySet_head hhead i hcode, State.withInput_good hload htag hopen]
  · obtain ⟨t, hok, hkeys⟩ := State.installKey_placed k haccount hplace
    exact ⟨t, _, hok, (hkeys n).trans (if_pos rfl), fun j hj => (hkeys j).trans (if_neg hj)⟩
  · rw [execInstallClose_head hhead hcode]
    refine ⟨fun hopen => ?_, fun hopen hbusy => ?_, fun hopen hbusy hscale => ?_, fun hopen hbusy hscale hmissing => ?_,
      fun hopen hbusy hscale hpassed => ⟨_, rfl, State.installClose_closes hopen hbusy hscale hpassed⟩⟩
    · rw [State.installClose_notOpen hopen]
    · rw [State.installClose_busy hopen hbusy]
    · rw [State.installClose_badScale hopen hbusy hscale]
    · rw [State.installClose_incomplete hopen hbusy hscale hmissing]
  · rw [execKeyTransfer_head hhead p hcode hready]
    refine ⟨fun hbad => ?_, fun kind k hlocked hfabric hfloor hkey => ?_, fun e hlocked hfabric hfloor hkey => ?_⟩
    · rw [State.sendKey_badReport (State.peerMeets_eq_false.2 hbad)]
    · rw [State.sendKey_sends (State.peerMeets_eq_true.2 ⟨hlocked, hfabric, hfloor⟩) hkey]
      exact ⟨_, rfl, s.sent_shows _⟩
    · rw [State.sendKey_noKey (State.peerMeets_eq_true.2 ⟨hlocked, hfabric, hfloor⟩) hkey]
  · rw [execKeyDelete_head hhead hcode]
    refine ⟨fun hkey => ?_, fun n e hkey => ⟨_, rfl, ?_, fun j hj => ?_⟩⟩
    · rw [State.keyDelete_stale hkey]
    · rw [State.keyEnt_keyDelete hkey, if_pos rfl]
    · rw [State.keyEnt_keyDelete hkey, if_neg hj]
  · rw [execFloorCommit_head hhead hcode]
    refine ⟨fun hn => ?_, fun hn hslot => ?_, fun hn hslot => ⟨_, rfl, ?_, fun i hi hne => ?_⟩⟩
    · rw [State.floorCommit_beyond hn]
    · rw [State.floorCommit_uncommitted hn hslot]
    · rw [State.floors_floorCommit hn hslot (by omega), if_pos rfl]
    · rw [State.floors_floorCommit hn hslot hi, if_neg hne]
  · rw [execRegionSet_head hhead a hcode hready]
    refine ⟨fun hrange => ?_, fun halign htop hpart hbase hmodule => ?_, fun halign htop howner => ⟨fun hclash => ?_, fun hclash => ?_⟩⟩
    · rw [State.regionSet_outside hrange]
    · rw [State.regionSet_badOwner halign htop (by unfold regionOwned; omega)]
    · rw [State.regionSet_clash halign htop howner hclash]
    · rw [State.regionSet_passed halign htop howner hclash]
      refine ⟨fun hnamed hpages => ?_, fun s1 hnamed hpages hpick => ?_, fun n s1 hnamed hpages hpick => ?_, fun n g hnamed huse => ?_,
        fun n g hnamed huse => ?_⟩
      · rw [State.regionPut_nothing hnamed hpages]
      · rw [State.regionPut_full hnamed hpages hpick]
      · have hregion := State.region_regionPut_new hnamed hpages hpick
        exact ⟨_, s1.drawKeys.1, rfl, (hregion n).trans (if_pos rfl), fun j hj => (hregion j).trans (if_neg hj)⟩
      · rw [State.regionPut_inUse hnamed huse]
      · have hregion := State.region_regionPut_resized hnamed huse
        exact ⟨_, rfl, (hregion n).trans (if_pos rfl), fun j hj => (hregion j).trans (if_neg hj)⟩

end Sys2Proof.Machine
end

section
/-!
PROOF. The random source (R320, R321), keys from peers (R325) and the debug unlock (R329).
-/

namespace Sys2Proof.Machine

/-! ## Requests that wait for random bits (R321) -/

theorem execFbRequestTimeout_waits {s : State} {r : FbReq} (hhead : s.fbHead = some r) (hneeds : needsRandom r.code = true)
    (hready : s.fbx.trng ≠ .ready) :
    exec .fbRequestTimeout s = .next (if s.fbx.posted.headD s.nowUs + 100000 ≤ s.nowUs then s.fbEnd 0x011B else s) := by
  refine congrArg Host.Outcome.next ?_
  rw [hhead]
  simp only [hneeds, hready, ne_eq, not_false_eq_true, decide_true, Bool.and_self, Bool.true_and, decide_eq_true_eq]

theorem State.trng_refuseRandom (n : Nat) (s : State) : (s.refuseRandom n).fbx.trng = s.fbx.trng := by
  induction n generalizing s with
  | zero => rfl
  | succ n ih =>
    unfold State.refuseRandom
    split
    · split
      · rw [ih, State.fbx_fbEnd]
      · rfl
    · rfl

theorem State.refuseRandom_flue (n : Nat) (s : State) : FlueKept s (s.refuseRandom n) := by
  induction n generalizing s with
  | zero => exact .rfl
  | succ n ih =>
    unfold State.refuseRandom
    split
    · exact .ite ((s.fbEnd_flue ..).trans (ih _)) .rfl
    · exact .rfl

/-- The failure of the source lasts past the requests it refuses, and so does its event. -/
theorem State.trngFail_shows (s : State) : s.trngFail.fbx.trng = .failed ∧ (s.trngFail.hdr pgFQ).evStat.getLsbD 2 = true := by
  refine ⟨?_, (State.refuseRandom_flue 1024 _).events pgFQ 2 (State.evStat_raise _ (by decide))⟩
  unfold State.trngFail
  rw [State.trng_refuseRandom, (State.raise_recorded ..).fbx, (State.bump_recorded ..).fbx]
  rfl

/-! ## Sessions that end -/

theorem execSessionExpiry_open {s : State} {n : Fin 16} {x : Session} (hopen : s.session n.val = some x) :
    exec (.sessionExpiry n) s = .next (if x.since + 600000000 ≤ s.nowUs then s.setSession n.val none else s) := by
  refine congrArg Host.Outcome.next ?_
  rw [hopen]

/-! ## Every region under its next generation (R213) -/

/-- From `s` to `t` the firebox changes in its regions and its count of draws, and nothing else but the count of free draws. -/
def RegionsOnly (s t : State) : Prop :=
  t = { s with fbx := { s.fbx with regions := t.fbx.regions, draws := t.fbx.draws }, freeCtr := t.freeCtr }

theorem RegionsOnly.rfl {s : State} : RegionsOnly s s := Eq.refl s

theorem RegionsOnly.trans {s t u : State} (h : RegionsOnly s t) (g : RegionsOnly t u) : RegionsOnly s u := by
  unfold RegionsOnly at *
  rw [g, h]

theorem State.draw_regions (s : State) : RegionsOnly s s.draw.2 := Eq.refl _

theorem State.setRegion_regions (s : State) (n : Nat) (x : Region) : RegionsOnly s (s.setRegion n x) := Eq.refl _

theorem State.drawKeys_regions (s : State) : RegionsOnly s s.drawKeys.2 :=
  (s.draw_regions.trans s.draw.2.draw_regions).trans s.draw.2.draw.2.draw_regions

theorem State.eraseRegion_regions (s : State) (i : Nat) : RegionsOnly s (s.eraseRegion i) := s.drawKeys_regions.trans (State.setRegion_regions ..)

theorem State.foldl_eraseRegion_regions (l : List Nat) (s : State) : RegionsOnly s (l.foldl State.eraseRegion s) := by
  induction l generalizing s with
  | nil => exact .rfl
  | cons i l ih =>
    rw [List.foldl_cons]
    exact (s.eraseRegion_regions i).trans (ih _)

theorem State.stepRegions_regions (s : State) (f : Region → Bool) : RegionsOnly s (s.stepRegions f) := State.foldl_eraseRegion_regions _ s

/-- A VALID region of the kind steps once, under fresh keys. -/
theorem State.region_stepRegions {s : State} {f : Region → Bool} {n : Nat} (hvalid : (s.region n).valid = true) (hkind : f (s.region n) = true) :
    ∃ k : BitVec 512 × BitVec 256, (s.stepRegions f).region n = { (s.region n).step with dataKey := k.1, tagKey := k.2 } := by
  have hlisted : (n, s.region n) ∈ s.fbx.regions := AMap.get_mem (d := ({} : Region)) fun hnone => by
    have hinvalid : (s.region n).valid = false := congrArg Region.valid hnone
    exact absurd (hvalid.symm.trans hinvalid) (by decide)
  refine State.region_foldl_eraseRegion ((nodup_eraseDups _).filter _) (List.mem_filter.2 ⟨?_, by simp [hvalid, hkind]⟩)
  exact List.mem_eraseDups.2 (List.mem_map_of_mem (f := (·.1)) hlisted)

/-! ## Debug open (R329) -/

/-- A table entry whose key is forgotten. -/
def KeyEnt.forget (k : KeyEnt) : KeyEnt := if k.used then { gen := keyGenStep k.gen } else k

theorem KeyEnt.used_forget (k : KeyEnt) : k.forget.used = false := by
  unfold KeyEnt.forget
  split
  · rfl
  · next h => simpa using h

/-- What the firebox holds once debug is open. -/
theorem State.fbx_openDebug (s : State) :
    s.openDebug.fbx = { s.fbx with baseKey := none, regions := s.openDebug.fbx.regions, draws := s.openDebug.fbx.draws,
                                   keys := AMap.mapAll {} (fun _ => KeyEnt.forget) s.fbx.keys, sessions := [], imageKeys := [], unlocked := true,
                                   unlockWaits := false } := by
  have hregions : ((s.setBaseKey none).stepRegions fun _ => true).fbx =
      { (s.setBaseKey none).fbx with regions := ((s.setBaseKey none).stepRegions fun _ => true).fbx.regions,
                                     draws := ((s.setBaseKey none).stepRegions fun _ => true).fbx.draws } :=
    congrArg State.fbx ((s.setBaseKey none).stepRegions_regions _)
  rw [State.fbx_setBaseKey] at hregions
  unfold State.openDebug
  dsimp only [State.setFbx]
  rw [hregions]
  rfl

theorem State.keyEnt_openDebug (s : State) (n : Nat) : s.openDebug.keyEnt n = (s.keyEnt n).forget := by
  unfold State.keyEnt
  rw [State.fbx_openDebug]
  exact AMap.get_mapAll (d := ({} : KeyEnt)) (f := fun _ => KeyEnt.forget) (fun _ => rfl) _ _

theorem State.region_openDebug {s : State} {n : Nat} (hvalid : (s.region n).valid = true) :
    ∃ k : BitVec 512 × BitVec 256, s.openDebug.region n = { (s.region n).step with dataKey := k.1, tagKey := k.2 } := by
  have hkept : (s.setBaseKey none).region = s.region := by
    unfold State.region
    rw [State.fbx_setBaseKey]
  obtain ⟨k, hk⟩ := State.region_stepRegions (s := s.setBaseKey none) (f := fun _ => true) (n := n) (by rw [hkept]; exact hvalid) rfl
  rw [hkept] at hk
  exact ⟨k, hk⟩

/-- No event is lost at the unlock. -/
theorem State.evStat_openDebug {s : State} {page k : Nat} (h : (s.hdr page).evStat.getLsbD k = true) :
    (s.openDebug.hdr page).evStat.getLsbD k = true := by
  have hkey : FlueKept s (s.setBaseKey none) :=
    have hset : FlueKept s (s.setFbx { s.fbx with baseKey := none }) := .of_eq rfl rfl rfl rfl rfl
    .ite hset (hset.trans (State.raise_flue ..))
  have hpages : ((s.setBaseKey none).stepRegions fun _ => true).pages = (s.setBaseKey none).pages := by
    rw [State.stepRegions_regions]
  show ((AMap.get {} ((s.setBaseKey none).stepRegions fun _ => true).pages page : PageHdr)).evStat.getLsbD k = true
  rw [hpages]
  exact hkey.events page k h

/-! ## The random source (R320) -/

theorem execTrngStart_up {s : State} (hup : s.isUp 0x84 = true) (hoff : s.fbx.trng = .off) :
    exec .trngStart s = .next (s.setFbx { s.fbx with trng := .health, startAt := s.nowUs }) :=
  congrArg Host.Outcome.next (if_pos (by rw [hup, hoff]; rfl))

theorem execTrngTestsDone_health {s : State} (pass : Bool) (hst : s.fbx.trng = .health) :
    exec (.trngTestsDone pass) s = .next (if pass then s.setFbx { s.fbx with trng := .condition } else s.trngFail) :=
  congrArg Host.Outcome.next (if_neg (not_not_intro hst))

/-- READY, before an unlock that waited for it. -/
def State.conditioned (s : State) : State :=
  let u := s.draw.2
  (u.setFbx { u.fbx with trng := .ready, bits := 512, readyUs := min (s.nowUs - s.fbx.startAt) 65535, attKey := some s.draw.1 }).raise pgFQ 1

theorem execTrngConditioned_ready {s : State} (hst : s.fbx.trng = .condition) :
    exec .trngConditioned s = .next (if s.fbx.unlockWaits then s.conditioned.openDebug else s.conditioned) := by
  have hwaits : s.conditioned.fbx.unlockWaits = s.fbx.unlockWaits := by
    rw [State.conditioned, (State.raise_recorded ..).fbx]
    rfl
  rw [← hwaits]
  exact congrArg Host.Outcome.next (if_neg (not_not_intro hst))

theorem State.fbx_conditioned (s : State) :
    s.conditioned.fbx = { s.draw.2.fbx with trng := .ready, bits := 512, readyUs := min (s.nowUs - s.fbx.startAt) 65535,
                                            attKey := some (Config.randomBits s.freeCtr) } :=
  (State.raise_recorded ..).fbx

theorem State.evStat_conditioned (s : State) : (s.conditioned.hdr pgFQ).evStat.getLsbD 1 = true := State.evStat_raise _ (by decide)

theorem execTrngContinuousFail_ready {s : State} (hst : s.fbx.trng = .ready) : exec .trngContinuousFail s = .next s.trngFail :=
  congrArg Host.Outcome.next (if_pos hst)

/-! ## Keys from peers (R325) -/

section
variable {s : State} {k : PeerKey} (hup : s.isUp 0x84 = true)
include hup

theorem execPeerKeyReceived_base (hkind : k.kind = 0) : exec (.peerKeyReceived k) s = .next (s.setBaseKey (some k.key)).keyOp := by
  refine congrArg Host.Outcome.next ?_
  simp only [hup, hkind, Bool.not_true, Bool.false_eq_true, if_false, if_true]

theorem execPeerKeyReceived_noPlace {e : Nat} (hkind : k.kind = 1) (hkey : s.installKey false k.arg k.key = .error e) :
    exec (.peerKeyReceived k) s = .next s := by
  refine congrArg Host.Outcome.next ?_
  simp only [hup, hkind, hkey, Bool.not_true, Bool.false_eq_true, if_false, if_true, one_ne_zero]

theorem execPeerKeyReceived_account {h : Nat} {s1 : State} (hkind : k.kind = 1) (hkey : s.installKey false k.arg k.key = .ok (h, s1)) :
    exec (.peerKeyReceived k) s = .next s1 := by
  refine congrArg Host.Outcome.next ?_
  simp only [hup, hkind, hkey, Bool.not_true, Bool.false_eq_true, if_false, if_true, one_ne_zero]

theorem execPeerKeyReceived_image (hkind : k.kind = 2) :
    exec (.peerKeyReceived k) s = .next (s.setFbx { s.fbx with
      imageKeys := if s.fbx.imageKeys.contains k.arg then s.fbx.imageKeys else s.fbx.imageKeys ++ [k.arg] }).keyOp := by
  refine congrArg Host.Outcome.next ?_
  simp [hup, hkind]

end

/-! ## DEBUG_UNLOCK (R329) -/

theorem execDebugUnlock_noToken (s : State) : exec (.debugUnlock false) s = .next s := rfl

theorem execDebugUnlock_noEffect {s : State} (h : s.fbx.lockFuse = false ∨ s.fbx.trng = .failed) : exec (.debugUnlock true) s = .next s := by
  refine congrArg Host.Outcome.next (if_neg ?_)
  rcases h with h | h <;> simp [h]

theorem execDebugUnlock_locked {s : State} (hup : s.isUp 0x84 = true) (hfuse : s.fbx.lockFuse = true) (hlocked : s.fbx.unlocked = false)
    (hfailed : s.fbx.trng ≠ .failed) :
    exec (.debugUnlock true) s = .next (if s.fbx.trng = .ready then s.openDebug else s.setFbx { s.fbx with unlockWaits := true }) :=
  congrArg Host.Outcome.next (if_pos (by simp [hup, hfuse, hlocked, hfailed]))

end Sys2Proof.Machine
end

section
/-!
PROOF. O54: the firebox beside its requests.
-/

namespace Sys2Proof.Machine

/-- READY under an unlock that waited or none: the source's fields and the debug state. -/
theorem execTrngConditioned_shows {s : State} (hst : s.fbx.trng = .condition) :
    ∃ t, exec .trngConditioned s = .next t ∧ t.fbx.trng = .ready ∧ t.fbx.bits = 512 ∧ t.fbx.readyUs = min (s.nowUs - s.fbx.startAt) 65535 ∧
      t.fbx.attKey = some (Config.randomBits s.freeCtr) ∧ (t.hdr pgFQ).evStat.getLsbD 1 = true ∧
      t.fbx.unlocked = (s.fbx.unlocked || s.fbx.unlockWaits) := by
  rw [execTrngConditioned_ready hst]
  have hevent := s.evStat_conditioned
  cases hwaits : s.fbx.unlockWaits with
  | true =>
    refine ⟨_, rfl, ?_⟩
    rw [if_pos rfl, State.fbx_openDebug, State.fbx_conditioned, Bool.or_true]
    exact ⟨rfl, rfl, rfl, rfl, State.evStat_openDebug hevent, rfl⟩
  | false =>
    refine ⟨_, rfl, ?_⟩
    rw [if_neg Bool.false_ne_true, State.fbx_conditioned, Bool.or_false]
    exact ⟨rfl, rfl, rfl, rfl, hevent, rfl⟩

/-- Settles O54: each keeping command by its own lemma, the unlock by what `State.openDebug` leaves. -/
theorem fireboxKeeping : Obligations.FireboxKeeping := by
  unfold Obligations.FireboxKeeping
  refine ⟨fun s r hhead hneeds hready => ?_, fun s n x hopen => ?_,
    fun s => ⟨execTrngStart_up, fun hst => ?_, execTrngConditioned_shows, fun hst => ⟨_, execTrngContinuousFail_ready hst, s.trngFail_shows⟩⟩,
    fun s k hup => ⟨fun hkind => ⟨_, execPeerKeyReceived_base hup hkind, ?_⟩, fun e => execPeerKeyReceived_noPlace hup,
      fun h s1 => execPeerKeyReceived_account hup,
      fun hkind => ⟨_, execPeerKeyReceived_image hup hkind, ?_⟩⟩,
    fun s => ⟨execDebugUnlock_noToken s, fun hfuse => execDebugUnlock_noEffect (.inl hfuse), fun hfailed => execDebugUnlock_noEffect (.inr hfailed),
      fun hup hfuse hlocked hfailed hready => ?_, fun hup hfuse hlocked hready => ⟨s.openDebug, ?_, ?_⟩⟩⟩
  · rw [execFbRequestTimeout_waits hhead hneeds hready]
    exact ⟨fun hearly => by rw [if_neg (by omega)], fun hlate => by rw [if_pos hlate]⟩
  · rw [execSessionExpiry_open hopen]
    refine ⟨fun hearly => by rw [if_neg (by omega)], fun hlate => ?_⟩
    rw [if_pos hlate]
    exact ⟨_, rfl, by rw [State.session_setSession, if_pos rfl], fun j hj => by rw [State.session_setSession, if_neg hj], rfl⟩
  · rw [execTrngTestsDone_health true hst, execTrngTestsDone_health false hst]
    exact ⟨rfl, _, rfl, s.trngFail_shows.1⟩
  · rw [State.fbx_keyOp, State.fbx_setBaseKey]
    exact ⟨rfl, rfl⟩
  · rw [State.fbx_keyOp]
    refine ⟨?_, rfl, rfl⟩
    show k.arg ∈ if s.fbx.imageKeys.contains k.arg then s.fbx.imageKeys else s.fbx.imageKeys ++ [k.arg]
    split
    · next hheld => simpa using hheld
    · simp
  · rw [execDebugUnlock_locked hup hfuse hlocked hfailed, if_neg hready]
  · rw [execDebugUnlock_locked hup hfuse hlocked (by rw [hready]; decide), if_pos hready]
  · have hfbx := s.fbx_openDebug
    exact ⟨by rw [hfbx], by rw [hfbx], by rw [hfbx], by rw [hfbx], fun n => by rw [State.keyEnt_openDebug, KeyEnt.used_forget],
      fun n => State.region_openDebug⟩

end Sys2Proof.Machine
end

section
/-!
PROOF. CTRL.ENABLE, the end of a consistency check and of a stop (R294, R411 to R413), and the table window (R422, R423).
-/

namespace Sys2Proof.Machine

/-! ## Setting and clearing ENABLE -/

/-- Only a partition's own PT page is of kind PT. -/
theorem page_of_kindOf_pt {page n : Nat} (h : kindOf page = some (.pt, n)) : page = pgPT n := by
  unfold kindOf at h
  split at h <;> grind [pgPT]

/-- The word that sets ENABLE sets bit 0, and no word of these has ASHOUT. -/
theorem ctrlWord_enable (h : PageHdr) : (ctrlWord h 1 0).getLsbD 0 = true ∧ (ctrlWord h 1 0).getLsbD 2 = false := by
  unfold ctrlWord PageHdr.ctrl
  cases h.enableBit <;> cases h.freeze <;> decide

theorem ctrlWord_disable (h : PageHdr) : (ctrlWord h 0 1).getLsbD 0 = false ∧ (ctrlWord h 0 1).getLsbD 2 = false := by
  unfold ctrlWord PageHdr.ctrl
  cases h.enableBit <;> cases h.freeze <;> decide

/-- A partition that is DISABLED takes neither FREEZE nor its clearing: its page is checked and no more. -/
theorem State.ptCtrl_disabled {s : State} {p : Nat} {v : Word} (henable : v.getLsbD 0 = true) (hash : v.getLsbD 2 = false)
    (hst : (s.pt p).st = .disabled) : s.ptCtrl p v = s.writeEnable (pgPT p) := by
  have hkept : ((s.writeEnable (pgPT p)).pt p).st = .disabled := by
    rw [State.writeEnable_frame]
    simpa using hst
  rw [State.ptCtrl_enables henable hash (by simp [hst]) (by simp [hst])]
  unfold State.setFreeze State.clearFreeze
  simp [hkept]

/-- ENABLE is checked now, or waits for the fence (R411, R413). -/
theorem State.applyCtrl_enables {s : State} {page n : Nat} {k : Kind} {v : Word} (hk : kindOf page = some (k, n))
    (henable : v.getLsbD 0 = true) (hash : v.getLsbD 2 = false) (hpt : k = .pt → (s.pt n).st = .disabled) :
    s.applyCtrl page v = s.writeEnable page := by
  unfold State.applyCtrl
  rw [hk]
  cases k with
  | pt =>
    rw [page_of_kindOf_pt hk]
    exact State.ptCtrl_disabled henable hash (hpt rfl)
  | _ => exact if_pos henable

theorem State.applyCtrl_disables {s : State} {page n : Nat} {k : Kind} {v : Word} (hk : kindOf page = some (k, n))
    (hdisable : v.getLsbD 0 = false) (hpt : k ≠ .pt) : s.applyCtrl page v = s.writeDisable page := by
  unfold State.applyCtrl
  rw [hk]
  cases k with
  | pt => exact absurd rfl hpt
  | _ => exact if_neg (Bool.eq_false_iff.1 hdisable)

/-- ENABLE cleared on a partition that is ENABLED: its ash-out begins (R294). -/
theorem State.ptCtrl_disables {s : State} {p : Nat} {v : Word} (hdisable : v.getLsbD 0 = false) (hash : v.getLsbD 2 = false)
    (hst : (s.pt p).st = .enabled) : s.ptCtrl p v = s.beginAsh p := by
  simp only [State.ptCtrl, hdisable, hash, hst, Bool.false_and, Bool.false_eq_true, if_false, Bool.not_false, if_true, reduceCtorEq]
  exact State.startAshout_begins (by simp [hst])

section
variable {s : State} {o : Origin} {page : Nat} {r : Req} (haccess : s.access o (page * 0x1000 + 8) true = .pass s r) (f : PageHdr → Word)
include haccess

/-- A CTRL write that passes its gate acts at once while no check runs. -/
theorem State.ctrlBy_acts (hcheck : (s.hdr page).checking = none) : s.ctrlBy o page f = (s.setReply .ok).applyCtrl page (f (s.hdr page)) := by
  unfold State.ctrlBy
  rw [State.withWrite_pass _ haccess]
  exact if_neg (by simp [hcheck])

/-- While a check runs it is held (R413). -/
theorem State.ctrlBy_held (hcheck : (s.hdr page).checking.isSome = true) :
    s.ctrlBy o page f = (s.setReply .ok).setHdr page { s.hdr page with heldCtrl := (s.hdr page).heldCtrl ++ [f (s.hdr page)] } := by
  unfold State.ctrlBy
  rw [State.withWrite_pass _ haccess]
  exact if_pos hcheck

end

/-- Settles O15: the word that each command makes, acting at once or held. -/
theorem enableAndDisable : Obligations.EnableAndDisable := by
  unfold Obligations.EnableAndDisable
  refine fun s o page n k r hk haccess => ⟨fun hcheck => ⟨fun hpt => ?_, fun hpt => ?_, fun hpt hst hpage => ?_⟩,
    fun hcheck => ⟨congrArg Host.Outcome.next (State.ctrlBy_held haccess _ hcheck), congrArg Host.Outcome.next (State.ctrlBy_held haccess _ hcheck)⟩⟩
  · obtain ⟨henable, hash⟩ := ctrlWord_enable (s.hdr page)
    refine ⟨_, congrArg Host.Outcome.next ((State.ctrlBy_acts haccess _ hcheck).trans
      (State.applyCtrl_enables (s := s.setReply .ok) hk henable hash hpt)), ?_, fun j hj => ?_, fun hfenced => ?_, fun hopen => ?_⟩
    · rw [State.writeEnable_frame]
      rfl
    · rw [State.writeEnable_frame]
      simp [hj]
    · unfold State.writeEnable
      rw [if_pos (by simpa using hfenced)]
      simp
    · unfold State.writeEnable
      rw [if_neg (by simpa using hopen)]
      exact (State.hdr_setHdr ..).trans (if_pos rfl)
  · refine ⟨_, congrArg Host.Outcome.next ((State.ctrlBy_acts haccess _ hcheck).trans
      (State.applyCtrl_disables (s := s.setReply .ok) hk (ctrlWord_disable (s.hdr page)).1 hpt)), rfl, fun j hj => ?_, ?_⟩
    · exact (State.hdr_setHdr ..).trans (if_neg hj)
    · exact (State.hdr_setHdr ..).trans (if_pos rfl)
  · subst hpt
    obtain ⟨hdisable, hash⟩ := ctrlWord_disable (s.hdr page)
    refine congrArg Host.Outcome.next ((State.ctrlBy_acts haccess _ hcheck).trans ?_)
    unfold State.applyCtrl
    rw [hk]
    exact State.ptCtrl_disables (s := s.setReply .ok) hdisable hash hst

/-! ## The end of a check, and of a stop -/

theorem State.applyVals_frame (s : State) (page : Nat) (vals : List (Nat × Word)) :
    s.applyVals page vals = { s with force := (s.applyVals page vals).force } := by
  unfold State.applyVals
  induction vals generalizing s with
  | nil => rfl
  | cons e vals ih =>
    rw [List.foldl_cons, ih]
    rfl

theorem State.hdr_applyVals (s : State) (page : Nat) (vals : List (Nat × Word)) : (s.applyVals page vals).hdr = s.hdr := by
  rw [State.applyVals_frame]
  rfl

/-- A check of a page other than PT with no CTRL word held ends in its outcome (R412). -/
theorem execConsistencyCheckEnd_ends {s : State} {page n : Nat} {k : Kind} {snap : List (Nat × Word)} (hk : kindOf page = some (k, n))
    (hpt : k ≠ .pt) (hcheck : (s.hdr page).checking = some snap) (hheld : (s.hdr page).heldCtrl = []) :
    exec (.consistencyCheckEnd page) s =
      .next ((s.setHdr page { s.hdr page with checking := none, heldCtrl := [] }).checkOutcome page snap) := by
  show execConsistencyCheckEnd page s = _
  unfold execConsistencyCheckEnd
  rw [hcheck, hk]
  dsimp only
  rw [hheld]
  cases k with
  | pt => exact absurd rfl hpt
  | _ => rfl

/-- A failing check leaves a block that was not enabled as it was, REFUSED with the check's reason (R412). -/
theorem State.checkOutcome_refuses {s : State} {page reason : Nat} {snap : List (Nat × Word)} (hoff : (s.hdr page).enabled = false)
    (hfails : s.enableCheck page snap = some reason) :
    s.checkOutcome page snap =
      s.setHdr page { s.hdr page with enableBit := false, refused := true, reason := BitVec.ofNat 16 reason } := by
  unfold State.checkOutcome
  rw [hfails]
  exact if_neg (Bool.eq_false_iff.1 hoff)

/-- A passing check enables it; SE, PT and the queue pages take up more than their header. -/
theorem State.checkOutcome_enables {s : State} {page n : Nat} {k : Kind} {snap : List (Nat × Word)} (hk : kindOf page = some (k, n))
    (hoff : (s.hdr page).enabled = false) (hpasses : s.enableCheck page snap = none) (hplain : k ∉ [Kind.se, .qp, .qpm]) (hpt : k ≠ .pt) :
    s.checkOutcome page snap =
      (s.setHdr page { s.hdr page with refused := false, reason := 0, stopping := false, enabled := true, enableBit := true }).applyVals page snap := by
  unfold State.checkOutcome
  rw [hpasses, hk]
  refine (if_neg (Bool.eq_false_iff.1 hoff)).trans ?_
  cases k with
  | pt => exact absurd rfl hpt
  | se => exact absurd hplain (by decide)
  | qp => exact absurd hplain (by decide)
  | qpm => exact absurd hplain (by decide)
  | _ => rfl

/-- Settles O16: the outcome of the check, and the fall of ENABLED once the stopped block's work has ended. -/
theorem checkOutcome : Obligations.CheckOutcome := by
  unfold Obligations.CheckOutcome
  refine ⟨fun s page n k snap hk hpt hcheck hheld hoff => ?_, fun s page n k hk hstopping hcheck hquiet => ?_⟩
  · intro s1
    have hself : s1.hdr page = { s.hdr page with checking := none, heldCtrl := [] } := (State.hdr_setHdr ..).trans (if_pos rfl)
    have hother : ∀ j, j ≠ page → s1.hdr j = s.hdr j := fun j hj => (State.hdr_setHdr ..).trans (if_neg hj)
    have hoff1 : (s1.hdr page).enabled = false := by rw [hself]; exact hoff
    refine ⟨fun reason hfails => ⟨_, execConsistencyCheckEnd_ends hk hpt hcheck hheld, ?_⟩,
      fun hpasses hplain => ⟨_, execConsistencyCheckEnd_ends hk hpt hcheck hheld, ?_⟩⟩
    · rw [State.checkOutcome_refuses hoff1 hfails]
      refine ⟨rfl, fun j hj => ?_, ?_⟩
      · rw [State.hdr_setHdr, if_neg hj, hother j hj]
      · rw [State.hdr_setHdr, if_pos rfl, hself]
    · rw [State.checkOutcome_enables hk hoff1 hpasses hplain hpt]
      refine ⟨?_, fun j hj => ?_, ?_⟩
      · rw [State.applyVals_frame]
        rfl
      · rw [State.hdr_applyVals, State.hdr_setHdr, if_neg hj, hother j hj]
      · rw [State.hdr_applyVals, State.hdr_setHdr, if_pos rfl, hself]
  · show execBlockQuiesced page s = _
    unfold execBlockQuiesced
    rw [hk]
    exact congrArg Host.Outcome.next (if_pos (by simp [hstopping, hcheck, hquiet]))

/-! ## The table window -/

section
variable {s : State} {v : Word}

/-- An entry of a known table below ENTRIES is copied into DATA (R422). -/
theorem State.writeTbEntry_copies {n total : Nat} (hshape : tableShape (fld (s.rd pgTB 0x040) 7 0) = some (n, total)) (hi : fld v 15 0 < total) :
    s.writeTbEntry v = { s.wr pgTB 0x044 (v &&& 0xFFFF) with tbData := s.tableEntry (fld (s.rd pgTB 0x040) 7 0) (fld v 15 0) n } := by
  unfold State.writeTbEntry
  dsimp only
  rw [hshape]
  exact if_neg (Nat.not_le.2 hi)

theorem State.writeTbEntry_refused
    (hout : tableShape (fld (s.rd pgTB 0x040) 7 0) = none ∨ ∃ n total, tableShape (fld (s.rd pgTB 0x040) 7 0) = some (n, total) ∧ total ≤ fld v 15 0) :
    s.writeTbEntry v = s.refuse pgTB 0x0259 := by
  unfold State.writeTbEntry
  dsimp only
  rcases hout with hshape | ⟨n, total, hshape, hi⟩
  · rw [hshape]
  · rw [hshape]
    exact if_pos hi

end

/-- A table that holds no content reads as zeros (R423). -/
theorem State.tableEntry_unloaded {s : State} {t : Nat} (i n : Nat) (h : s.tableLoaded t = false) : s.tableEntry t i n = List.replicate n 0 := by
  unfold State.tableEntry
  simp [h, padTo]

theorem execTbEntryWrite_pass {s : State} {o : Origin} {r : Req} (v : Word) (h : s.access o (pgTB * 0x1000 + 0x044) true = .pass s r) :
    exec (.tbEntryWrite o v) s = .next ((s.setReply .ok).writeTbEntry v) :=
  congrArg Host.Outcome.next (State.withWrite_pass _ h)

/-- Settles O18: by whether the entry exists. -/
theorem tableWindow : Obligations.TableWindow := by
  unfold Obligations.TableWindow
  refine fun s o v r haccess => ⟨fun n total hshape hi => ?_, fun hout => ?_⟩
  · rw [execTbEntryWrite_pass v haccess, State.writeTbEntry_copies (s := s.setReply .ok) hshape hi]
    refine ⟨_, rfl, rfl, State.rd_wr s pgTB 0x044 (v &&& 0xFFFF), rfl, fun hbase hnone => ?_⟩
    exact State.tableEntry_unloaded _ _ (by simp [State.tableLoaded, hbase, hnone])
  · rw [execTbEntryWrite_pass v haccess, State.writeTbEntry_refused (s := s.setReply .ok) hout]
    exact ⟨_, rfl, rfl, (State.hdr_setHdr ..).trans (if_pos rfl), fun j hj => (State.hdr_setHdr ..).trans (if_neg hj)⟩

end Sys2Proof.Machine
end

section
/-!
PROOF. A fence that a release leaves closed: the host interface's, while the module is banked (R347, R353).
-/

namespace Sys2Proof.Machine

/-! ## Headers along a release -/

theorem State.hdr_stepEpochs (s : State) (d j : Nat) : (s.stepEpochs d).hdr j = s.hdr j :=
  foldl_keeps (fun t => t.hdr j) State.stepEpoch (fun _ _ => rfl) _ (s.stepEpoch d)

theorem State.hdr_alignTicks {s : State} {j : Nat} (hj : j ≠ pgMC) : s.alignTicks.hdr j = s.hdr j := by
  unfold State.alignTicks
  dsimp only
  split
  · rfl
  · exact (State.hdr_raise ..).trans (if_neg hj)

theorem State.hdr_liftFence_ne {s : State} {page j : Nat} (hj : j ≠ page) : (s.liftFence page).hdr j = s.hdr j := by
  unfold State.liftFence State.startCheck State.setFence
  dsimp only
  split <;> simp [hj]

theorem State.hdr_liftFences {j : Nat} {l : List Nat} (hj : j ∉ l) (s : State) :
    (l.foldl (fun (s : State) n => s.liftFence n) s).hdr j = s.hdr j := by
  induction l generalizing s with
  | nil => rfl
  | cons page l ih =>
    obtain ⟨hpage, hrest⟩ := not_or.1 (mt List.mem_cons.2 hj)
    exact (ih hrest _).trans (State.hdr_liftFence_ne hpage)

/-- While the module is banking or banked, a release keeps HI's header as it is, whatever the number of the domain (0x90 names none). -/
theorem State.hdr_releaseDomain_banked {s : State} (hbank : s.mc.bank ≠ .normal) : (s.releaseDomain 0x90).hdr pgHI = s.hdr pgHI := by
  unfold State.releaseDomain
  refine (State.hdr_liftFences ?_ _).trans ?_
  · simp [hbank]
  · exact (State.hdr_alignTicks (by decide)).trans (State.hdr_stepEpochs ..)

/-! ## The counterexample -/

/-- The module is banking with HI fenced, and a reset is noted under 0x90, a number that names no domain (R335). -/
def bankedUnderNoDomain : State :=
  { State.reset with
    up := [0x84, 0x85, 0xFF], resets := [⟨0x90, 0, 0, 2⟩], pages := [(pgHI, { fenced := true })]
    mc := { State.reset.mc with bank := .banking } }

theorem releasable_bankedUnderNoDomain : bankedUnderNoDomain.releasable 0x90 = true := rfl

theorem execDomainRelease_bankedUnderNoDomain :
    exec (.domainRelease 0x90) bankedUnderNoDomain = .next (bankedUnderNoDomain.releaseDomain 0x90) :=
  congrArg Host.Outcome.next (if_pos rfl)

/-- Refutes O55: its clause on releases is stated for every number. The pages of a number that names no domain are the module's, HI's among them, and a
release under such a number leaves HI fenced while the module is banking, which the clause allows for 0x80 alone. -/
theorem not_resetsAndErrors : ¬ Obligations.ResetsAndErrors := by
  unfold Obligations.ResetsAndErrors
  intro ⟨_, _, _, _, _, _, _, _, hrelease, _⟩
  obtain ⟨t, hexec, -, hunfenced⟩ := (hrelease bankedUnderNoDomain 0x90 (by decide) (by decide)).2 releasable_bankedUnderNoDomain
  have ht := Host.Outcome.next.inj (hexec.symm.trans execDomainRelease_bankedUnderNoDomain)
  have hopen := hunfenced (by decide) pgHI (by decide)
  rw [ht, State.hdr_releaseDomain_banked (by decide)] at hopen
  exact absurd hopen (by decide)

end Sys2Proof.Machine
end

section
/-!
PROOF. The host's state beside messages that wait: an event, an error record or a completion record of the module changes no more of it than which
vectors are pending (R270 to R276, R415).
-/

namespace Sys2Proof.Machine

/-- Of the host's state at most the vectors that wait differ. -/
def HostKept (s t : State) : Prop := t.host = { s.host with pba := t.host.pba }

theorem HostKept.of_eq {s t : State} (h : t.host = s.host) : HostKept s t := by
  unfold HostKept
  rw [h]

theorem HostKept.rfl {s : State} : HostKept s s := .of_eq (Eq.refl _)

theorem HostKept.trans {s t u : State} (h : HostKept s t) (g : HostKept t u) : HostKept s u := by
  unfold HostKept at *
  rw [g, h]

theorem HostKept.ite {s a b : State} {c : Prop} [Decidable c] (h : HostKept s a) (g : HostKept s b) : HostKept s (if c then a else b) := by
  split <;> assumption

theorem HostKept.foldl {α : Type} {f : State → α → State} (hf : ∀ s x, HostKept s (f s x)) (l : List α) (s : State) : HostKept s (l.foldl f s) := by
  induction l generalizing s with
  | nil => exact .rfl
  | cons x l ih => exact (hf s x).trans (ih _)

theorem Near.hostKept {s t : State} (h : Near s t) : HostKept s t := .of_eq (by rw [h])

theorem HostKept.linkUp {s t : State} (h : HostKept s t) : t.host.linkUp = s.host.linkUp := by rw [h]

theorem HostKept.fenced {s t : State} (h : HostKept s t) : t.host.fenced = s.host.fenced := by rw [h]

theorem HostKept.place {s t : State} (h : HostKept s t) : t.host.place = s.host.place := by rw [h]

/-! ## Events and records -/

theorem State.raise_host (s : State) (page bit : Nat) : HostKept s (s.raise page bit) := by
  unfold State.raise State.sendMsi State.sendVector
  exact .ite (.ite (.ite (Eq.refl _) (Eq.refl _)) (Eq.refl _)) (Eq.refl _)

theorem State.produce_host (s : State) (who : MemWho) (r : Ring) (data : List Byte) : HostKept s (s.produce who r data) :=
  (State.storeTry_near ..).hostKept.trans (.of_eq rfl)

theorem State.bump_host (s : State) (page off n : Nat) : HostKept s (s.bump page off n) := (near_bump .rfl ..).hostKept

theorem State.setHeld_host (s : State) (n : Nat) (x : HeldRecs) : HostKept s (s.setHeld n x) := .of_eq rfl

theorem State.report_host (s : State) (qp : Nat) (e : ERec) : HostKept s (s.report qp e) := by
  unfold State.report State.putErr
  exact .ite ((State.produce_host ..).trans (State.raise_host ..))
    (.ite (.ite ((State.setHeld_host ..).trans (State.raise_host ..)) (State.setHeld_host ..)) (State.bump_host ..))

theorem State.complete_host (s : State) (qp : Nat) (c : CRec) : HostKept s (s.complete qp c) := by
  unfold State.complete State.putComp
  exact .ite (.ite ((State.produce_host ..).trans (State.raise_host ..)) (State.produce_host ..))
    (.ite ((State.setHeld_host ..).trans (State.raise_host ..)) (State.setHeld_host ..))

theorem State.breach_host (s : State) (law page off bits index : Nat) : HostKept s (s.breach law page off bits index) := by
  unfold State.breach
  have hwr : HostKept s (s.wr page off ((s.rd page off &&& 0xFFFF) ||| BitVec.ofNat 32 bits ||| BitVec.ofNat 32 (index * 65536))) := .of_eq rfl
  exact .ite .rfl ((hwr.trans (State.raise_host ..)).trans (State.report_host ..))

/-! ## Commands that end -/

theorem State.finish_host (s : State) (c : Started) (status : Nat) (i : EndInfo) : HostKept s (s.finish c status i) := by
  unfold State.finish
  extract_lets s2 s3 s4 s5 s6
  have h2 : HostKept s s2 := .ite .rfl (State.complete_host ..)
  have h3 : HostKept s s3 := h2.trans (State.bump_host ..)
  have h4 : HostKept s s4 := .ite (h3.trans (State.bump_host ..)) h3
  have h5 : HostKept s s5 := .ite (h4.trans (State.report_host ..)) h4
  have h6 : HostKept s s6 := .ite (h5.trans (State.bump_host ..)) h5
  have hqueue (x : Queue) : HostKept s (s6.setQueue c.qnum x) := h6.trans (.of_eq rfl)
  exact (hqueue _).trans (.ite .rfl (.ite .rfl (State.breach_host ..)))

theorem State.endCmd_host (s : State) (c : Started) (status : Nat) (i : EndInfo) : HostKept s (s.endCmd c status i) :=
  have hdrop : HostKept s (s.dropCmd c) := .of_eq rfl
  (hdrop.trans (State.finish_host ..)).trans (.ite (.of_eq rfl) .rfl)

theorem State.refuseCmd_host (s : State) (c : Started) (reason : Nat) (i : EndInfo) : HostKept s (s.refuseCmd c reason i) :=
  State.endCmd_host ..

end Sys2Proof.Machine
end

section
/-!
PROOF. Semaphore configuration, loss of the host, banking and adoption (R335, R343, R347 to R349, R355). That an adoption ends within the step of its GO
is log entry 106.
-/

namespace Sys2Proof.Machine

/-! ## Semaphore configuration -/

theorem execSemCfgWrite_pass {s : State} {o : Origin} (v : Word) {r : Req} (h : s.access o (pgRK * 0x1000 + 0x044) true = .pass s r) :
    exec (.semCfgWrite o v) s = .next ((s.setReply .ok).writeSemCfg v) := congrArg Host.Outcome.next (State.withWrite_pass _ h)

/-- The semaphore as SEM_CFG sets it (R343). -/
def semConfig (m : Sem) (v : Word) : Sem :=
  { m with part := fld v 5 0, owned := v.getLsbD 8, value := fld v 31 16, aband := false, ledger := fld v 31 16 }

/-- A configured semaphore that nobody holds has nothing to report (R367), and with no module waiting it is all that changes. -/
theorem State.configureSem {s : State} {n : Nat} (v : Word) (hheld : (s.sem n).held = 0) (hwaits : s.fab.rinkWaits = []) :
    (s.putSem n (semConfig (s.sem n) v)).wakeRink n = s.setSem n (semConfig (s.sem n) v) := by
  rw [State.wakeRink_putSem _ (by simp [hwaits])]
  unfold State.putSem State.auditSem State.checkSem
  simp [State.sem_setSem, semConfig, hheld]

/-! ## Banked state is entered -/

theorem Recorded.mc {s t : State} (h : Recorded s t) : t.mc = s.mc := by rw [h]

theorem State.bankStop_frame (s : State) (p : Nat) :
    s.bankStop p = { s with slots := (s.bankStop p).slots, holds := (s.bankStop p).holds, wx := (s.bankStop p).wx, pts := (s.bankStop p).pts } := by
  unfold State.bankStop
  split
  · unfold State.stopFreezeBudget
    dsimp only
    split <;> rfl
  · rfl

/-- Entering banked state changes the MC's state, the host's fence, HI's header and what partitions that stand still stop (R347). -/
theorem State.enterBanking_fields {s : State} (cause : Nat) (hbank : s.mc.bank = .normal) :
    (s.enterBanking cause).mc = { s.mc with bank := .banking, bankCause := cause } ∧ (s.enterBanking cause).host = { s.host with fenced := true } ∧
      (s.enterBanking cause).pages = (s.setFence pgHI true).pages := by
  unfold State.enterBanking
  rw [if_neg (by simp [hbank])]
  have hstep : ∀ (t : State) (p : Nat),
      let u := if (t.seOf p).st = .idle || (t.seOf p).st = .paused then t.bankStop p else t
      u.mc = t.mc ∧ u.host = t.host ∧ u.pages = t.pages := by
    intro t p
    dsimp only
    split
    · rw [State.bankStop_frame]
      exact ⟨rfl, rfl, rfl⟩
    · exact ⟨rfl, rfl, rfl⟩
  exact ⟨foldl_keeps State.mc _ (fun t p => (hstep t p).1) .., foldl_keeps State.host _ (fun t p => (hstep t p).2.1) ..,
    foldl_keeps State.pages _ (fun t p => (hstep t p).2.2) ..⟩

/-- The link's event stays set as HI is fenced. -/
theorem State.evStat_enterBanking {s : State} (cause : Nat) (hbank : s.mc.bank = .normal) (page : Nat) :
    ((s.enterBanking cause).hdr page).evStat = (s.hdr page).evStat := by
  obtain ⟨-, -, hpages⟩ := State.enterBanking_fields cause hbank
  have hhdr : (s.enterBanking cause).hdr page = (s.setFence pgHI true).hdr page := congrArg (AMap.get ({} : PageHdr) · page) hpages
  rw [hhdr, State.setFence, State.hdr_setHdr]
  split
  · next h => rw [h]
  · rfl

/-- The loss of the link: banked state, HI's event 0 and a RESET record (R347, R407). -/
theorem State.loseHost_banks {s : State} (hup : s.host.linkUp = true) (hbank : s.mc.bank = .normal) :
    s.loseHost.host.linkUp = false ∧ s.loseHost.host.fenced = true ∧ s.loseHost.mc.bank = .banking ∧ s.loseHost.mc.bankCause = 1 ∧
      (s.loseHost.hdr pgHI).evStat.getLsbD 0 = true ∧ s.loseHost.host.place = s.host.place := by
  unfold State.loseHost
  rw [if_neg (by simp [hup])]
  extract_lets _ s1
  have hmc : s1.mc = s.mc := (State.raise_recorded ..).mc
  have hraised : s1.host.linkUp = false ∧ s1.host.place = s.host.place := ⟨(State.raise_host ..).linkUp, (State.raise_host ..).place⟩
  have hbank1 : s1.mc.bank = .normal := (congrArg Mc.bank hmc).trans hbank
  obtain ⟨hbanking, hfenced, -⟩ := State.enterBanking_fields 1 hbank1
  have hevent : ((s1.enterBanking 1).hdr pgHI).evStat.getLsbD 0 = true := by
    rw [State.evStat_enterBanking 1 hbank1]
    exact State.evStat_raise _ (by decide)
  refine ⟨(State.report_host ..).linkUp.trans ?_, (State.report_host ..).fenced.trans ?_, (congrArg Mc.bank (State.report_recorded ..).mc).trans ?_,
    (congrArg Mc.bankCause (State.report_recorded ..).mc).trans ?_, (State.report_flue ..).events _ _ hevent,
    (State.report_host ..).place.trans ?_⟩
  · rw [hfenced]
    exact hraised.1
  · rw [hfenced]
  · rw [hbanking]
  · rw [hbanking]
  · rw [hfenced]
    exact hraised.2

theorem execHostLinkDrop_down {s : State} (h : s.host.linkUp = false) : exec .hostLinkDrop s = .next s :=
  congrArg Host.Outcome.next (if_pos (by simp [h]))

/-! ## The heartbeat -/

theorem execHeartbeatTimeout_early {s : State}
    (h : s.nowUs / 1000 ≤ (s.mc.lastHb + fld (s.frc pgMC 0x114) 31 16 * 1000) / 1000) : exec .heartbeatTimeout s = .next s :=
  congrArg Host.Outcome.next (if_neg (by simp [h]))

theorem execHeartbeatTimeout_due {s : State} (hrun : s.mc.running = true) (hwatch : (s.frc pgMC 0x114).getLsbD 0 = true)
    (h : (s.mc.lastHb + fld (s.frc pgMC 0x114) 31 16 * 1000) / 1000 < s.nowUs / 1000) :
    exec .heartbeatTimeout s = .next (s.enterBanking 2) :=
  congrArg Host.Outcome.next (if_pos (by simp [hrun, hwatch, h]))

/-! ## Banking ends -/

/-- The module is BANKED once strides, commands and saves are over: no placement stands, and QPM's event 6 is set (R347, R397). -/
def State.banked (s : State) : State := ((s.setMc { s.mc with bank := .banked }).clearPlaces (fun _ => true)).raise pgQPM 6

/-- Placement entries cleared change neither the MC's state nor the host's fence. -/
theorem State.clearPlaces_fields (s : State) (f : Place → Bool) :
    (s.clearPlaces f).mc = s.mc ∧ (s.clearPlaces f).host.fenced = s.host.fenced := by
  have hstep : ∀ (t : State) (n : Nat), (t.setPlace n {}).mc = t.mc ∧ (t.setPlace n {}).host.fenced = t.host.fenced := by
    intro t n
    rw [t.setPlace_near n {}]
    exact ⟨rfl, rfl⟩
  exact ⟨foldl_keeps State.mc _ (fun t n => (hstep t n).1) .., foldl_keeps (fun t : State => t.host.fenced) _ (fun t n => (hstep t n).2) ..⟩

theorem State.banked_fields (s : State) :
    s.banked.mc = { s.mc with bank := .banked } ∧ s.banked.host.place = [] ∧ s.banked.host.fenced = s.host.fenced ∧
      (s.banked.hdr pgQPM).evStat.getLsbD 6 = true := by
  obtain ⟨hmc, hhost⟩ := (s.setMc { s.mc with bank := .banked }).clearPlaces_fields (fun _ => true)
  have hrec := ((s.setMc { s.mc with bank := .banked }).clearPlaces (fun _ => true)).raise_recorded pgQPM 6
  have hkept := ((s.setMc { s.mc with bank := .banked }).clearPlaces (fun _ => true)).raise_host pgQPM 6
  refine ⟨hrec.mc.trans hmc, ?_, ?_, State.evStat_raise _ (by decide)⟩
  · refine hkept.place.trans (List.eq_nil_iff_forall_not_mem.2 fun e he => ?_)
    exact absurd (State.place_clearPlaces he) (by decide)
  · exact hkept.fenced.trans hhost

section
variable {s : State} (hbank : s.mc.bank = .banking) (hstrides : s.stridesStopped = true) (hcmds : s.started = [])
include hbank hstrides hcmds

theorem execBankingComplete_saves (hsaves : s.bankSaves ≠ []) :
    exec .bankingComplete s = .next (s.setWax { s.wx with saves := startSaves (s.wx.saves ++ s.bankSaves) }) :=
  congrArg Host.Outcome.next ((if_neg (by simp [hbank, hstrides, hcmds])).trans (if_pos (by simpa using hsaves)))

theorem execBankingComplete_waits (hsaves : s.bankSaves = []) (hopen : s.wx.saves ≠ []) : exec .bankingComplete s = .next s :=
  congrArg Host.Outcome.next ((if_neg (by simp [hbank, hstrides, hcmds])).trans ((if_neg (by simp [hsaves])).trans (if_pos (by simpa using hopen))))

theorem execBankingComplete_banked (hsaves : s.bankSaves = []) (hopen : s.wx.saves = []) : exec .bankingComplete s = .next s.banked :=
  congrArg Host.Outcome.next ((if_neg (by simp [hbank, hstrides, hcmds])).trans ((if_neg (by simp [hsaves])).trans (if_neg (by simp [hopen]))))

end

/-! ## Adoption -/

/-- The word of a GO: the write keeps its bit 1 and sets GO. -/
theorem adoptWord (v : Word) : (v ||| 1) &&& 2 = v &&& 2 ∧ (v ||| 1).getLsbD 0 = true := by
  constructor
  · ext i hi
    simp only [BitVec.getElem_and, BitVec.getElem_or]
    by_cases h0 : i = 0
    · subst h0
      simp
    · simp [show (1#32)[i] = false by simpa [BitVec.getElem_one] using h0]
  · simp

section
variable {s : State} {o : Origin} {r : Req} (v : Word) (haccess : s.access o (pgMC * 0x1000 + 0x11C) true = .pass s r)
include haccess

theorem execAdoptGo_pass :
    exec (.adoptGo o v) s = .next (if s.mc.bank = .banked then ((s.setReply .ok).wr pgMC 0x11C (v &&& 2)).adopt
      else (s.setReply .ok).refuse pgMC 0x0704) := by
  obtain ⟨hword, hgo⟩ := adoptWord v
  refine congrArg Host.Outcome.next ((State.withWrite_pass _ haccess).trans ?_)
  unfold State.writeAdopt
  rw [hword, if_pos hgo]
  rfl

end

/-- An adoption that checks PASIDs ends the banked state. -/
theorem State.adopt_normal {s : State} (h : s.pasidsOk = true) : s.adopt.mc.bank = .normal ∧ s.adopt.mc.bankCause = 0 := by
  unfold State.adopt
  rw [if_neg (by simp [h])]
  exact ⟨rfl, rfl⟩

/-- Settles O56: what a loss of the host or a missed heartbeat leaves is what `enterBanking` and the link's event leave. -/
theorem bankingAndAdoption : Obligations.BankingAndAdoption := by
  unfold Obligations.BankingAndAdoption
  refine ⟨fun s o v r haccess => ?_, fun s => ⟨execHostLinkDrop_down, fun hup hbank => ⟨_, rfl, State.loseHost_banks hup hbank⟩⟩,
    fun s hrun hwatch => ⟨execHeartbeatTimeout_early, fun hdue hbank => ?_⟩, fun s o r haccess => ?_,
    fun s hbank hstrides hcmds => ⟨execBankingComplete_saves hbank hstrides hcmds, execBankingComplete_waits hbank hstrides hcmds, fun hsaves hopen =>
      ⟨_, execBankingComplete_banked hbank hstrides hcmds hsaves hopen, s.banked_fields⟩⟩,
    fun s o v r haccess => ⟨fun hbank => ?_, fun hbank hpasids => ?_, fun hbank hpasids => ?_⟩⟩
  · intro n
    refine ⟨fun hheld => (execSemCfgWrite_pass v haccess).trans (congrArg Host.Outcome.next (if_pos hheld)), fun hheld => ?_⟩
    have hfree := (execSemCfgWrite_pass v haccess).trans (congrArg Host.Outcome.next (if_neg (not_not.2 hheld)))
    refine ⟨hfree, fun hwaits => ⟨_, hfree.trans (congrArg Host.Outcome.next (State.configureSem (s := s.setReply .ok) v hheld hwaits)), ?_⟩⟩
    have hsem : ((s.setReply .ok).setSem n (semConfig (s.sem n) v)).sem n = semConfig (s.sem n) v := (State.sem_setSem ..).trans (if_pos rfl)
    exact ⟨congrArg Sem.part hsem, congrArg Sem.owned hsem, congrArg Sem.value hsem, (congrArg Sem.held hsem).trans hheld, congrArg Sem.aband hsem,
      fun k hk => (State.sem_setSem ..).trans (if_neg hk), rfl⟩
  · obtain ⟨hmc, hhost, -⟩ := State.enterBanking_fields 2 hbank
    exact ⟨_, execHeartbeatTimeout_due hrun hwatch hdue, by rw [hmc], by rw [hmc], by rw [hhost]⟩
  · exact congrArg Host.Outcome.next (State.withWrite_pass _ haccess)
  · rw [execAdoptGo_pass v haccess, if_neg hbank]
  · rw [execAdoptGo_pass v haccess, if_pos hbank, State.adopt, if_pos (by simpa using hpasids)]
  · rw [execAdoptGo_pass v haccess, if_pos hbank]
    exact ⟨_, rfl, State.adopt_normal hpasids⟩

end Sys2Proof.Machine
end

section
/-!
PROOF. Cuts of ordered mode (R360), and the meter card: reports, energy windows, counters, signed readings and the seal (R368, R369, R372 to R388).
-/

namespace Sys2Proof.Machine

/-! ## A sum over a sparse map -/

section
variable {α : Type} {d : α} (f : α → Nat)

theorem AMap.sum_ins (k : Nat) (v : α) (m : AMap α) : ((AMap.ins k v m).map (fun e => f e.2)).sum = f v + (m.map (fun e => f e.2)).sum := by
  induction m with
  | nil => rfl
  | cons e m ih =>
    unfold AMap.ins
    split
    · rfl
    · simp only [List.map_cons, List.sum_cons, ih]
      omega

variable {f}
variable (hd : f d = 0)
include hd

/-- A key taken out takes what it counted with it. -/
theorem AMap.sum_del {m : AMap α} (hm : AMap.Rising m) (k : Nat) :
    ((AMap.del m k).map (fun e => f e.2)).sum + f (AMap.get d m k) = (m.map (fun e => f e.2)).sum := by
  induction m with
  | nil => exact (Nat.zero_add _).trans hd
  | cons e m ih =>
    obtain ⟨hhead, htail⟩ := List.pairwise_cons.1 hm
    by_cases hk : e.1 = k
    · have hkept : AMap.del m k = m := List.filter_eq_self.2 fun x hx => by simpa [hk] using (hhead x hx).ne'
      have hdel : AMap.del (e :: m) k = AMap.del m k := List.filter_cons_of_neg (by simp [hk])
      rw [hdel, hkept, AMap.get, if_pos hk, List.map_cons, List.sum_cons, Nat.add_comm]
    · have hdel : AMap.del (e :: m) k = e :: AMap.del m k := List.filter_cons_of_pos (by simpa using hk)
      rw [hdel, AMap.get, if_neg hk, List.map_cons, List.sum_cons, List.map_cons, List.sum_cons, Nat.add_assoc, ih htail]

/-- A value put in place of another changes the sum by their difference. -/
theorem AMap.sum_put [DecidableEq α] {m : AMap α} (hm : AMap.Rising m) (k : Nat) (v : α) :
    ((AMap.put d m k v).map (fun e => f e.2)).sum + f (AMap.get d m k) = (m.map (fun e => f e.2)).sum + f v := by
  have hdel := AMap.sum_del hd hm k
  unfold AMap.put
  split
  · next hv => rw [hv, hd, Nat.add_zero, hdel]
  · rw [AMap.sum_ins]
    omega

end

/-! ## Energy windows -/

/-- The energy of all accounts with UNATTRIBUTED (R376). -/
def Meter.energy (m : Meter) : Nat := (m.accts.map (fun e => e.2.energy)).sum + m.unattr.energy

/-- A credit goes to one account or to UNATTRIBUTED, all of it (R373). -/
theorem Meter.energy_credit {m : Meter} (hm : AMap.wf {} m.accts = true) (a : Nat) (x : Acct) :
    (m.credit a x).energy = m.energy + x.energy ∧ AMap.wf {} (m.credit a x).accts = true := by
  unfold Meter.credit
  split
  · refine ⟨?_, AMap.wf_put _ _ hm⟩
    have hput := AMap.sum_put (f := Acct.energy) (d := {}) rfl ((AMap.wf_iff _ _).1 hm).1 a ((AMap.get {} m.accts a).add x)
    unfold Meter.energy
    simp only [Acct.add] at hput ⊢
    omega
  · exact ⟨(Nat.add_assoc ..).symm, hm⟩

theorem Meter.credit_fields (m : Meter) (a : Nat) (x : Acct) : (m.credit a x).total = m.total := by
  unfold Meter.credit
  split <;> rfl

/-- Credits of energy one after another. -/
theorem Meter.energy_credits (l : List (Nat × Nat)) {m : Meter} (hm : AMap.wf {} m.accts = true) :
    (l.foldl (fun (m : Meter) x => m.credit x.1 { energy := x.2 }) m).energy = m.energy + (l.map (·.2)).sum ∧
      (l.foldl (fun (m : Meter) x => m.credit x.1 { energy := x.2 }) m).total = m.total := by
  induction l generalizing m with
  | nil => exact ⟨rfl, rfl⟩
  | cons x l ih =>
    obtain ⟨hcredit, hwf⟩ := m.energy_credit hm x.1 { energy := x.2 }
    obtain ⟨henergy, htotal⟩ := ih hwf
    refine ⟨henergy.trans ?_, htotal.trans (m.credit_fields ..)⟩
    rw [hcredit, List.map_cons, List.sum_cons, Nat.add_assoc]

/-- Quotients rounded down never add up to more than the quotient of the sum. -/
theorem sum_div_le (mJ c : Nat) (l : List (Nat × Nat)) : (l.map (fun w => mJ * w.2 / c)).sum ≤ mJ * (l.map (·.2)).sum / c := by
  induction l with
  | nil => exact Nat.zero_le _
  | cons w l ih =>
    simp only [List.map_cons, List.sum_cons, Nat.mul_add]
    exact (Nat.add_le_add_left ih _).trans (Nat.div_add_div_le_add_div ..)

/-- The accounts' shares of a window's energy (R376). -/
def Meter.shares (m : Meter) (mJ : Nat) : List (Nat × Nat) :=
  m.window.map (fun w => (w.1, if (m.window.map (·.2)).sum + m.windowRest = 0 then 0 else mJ * w.2 / ((m.window.map (·.2)).sum + m.windowRest)))

theorem Meter.sum_shares_le (m : Meter) (mJ : Nat) : ((m.shares mJ).map (·.2)).sum ≤ mJ := by
  unfold Meter.shares
  rw [List.map_map]
  by_cases hc : (m.window.map (·.2)).sum + m.windowRest = 0
  · simp [Function.comp_def, hc]
  · simp only [Function.comp_def, if_neg hc]
    refine (sum_div_le ..).trans (Nat.div_le_of_le_mul ?_)
    rw [Nat.mul_comm]
    exact Nat.mul_le_mul_right _ (Nat.le_add_right ..)

/-- At the close of a window every millijoule goes to an account or to UNATTRIBUTED (R376). -/
theorem Meter.closeWindow_fields {m : Meter} (hm : AMap.wf {} m.accts = true) (mJ : Nat) (ooc : Bool) :
    (m.closeWindow mJ ooc).total = m.total + mJ ∧ (m.closeWindow mJ ooc).energy = m.energy + mJ := by
  obtain ⟨henergy, htotal⟩ := Meter.energy_credits (m.shares mJ) hm
  have hle := m.sum_shares_le mJ
  refine ⟨congrArg (· + mJ) htotal, ?_⟩
  have hclose : (m.closeWindow mJ ooc).energy =
      ((m.shares mJ).foldl (fun (m : Meter) x => m.credit x.1 { energy := x.2 }) m).energy + (mJ - ((m.shares mJ).map (·.2)).sum) :=
    (Nat.add_assoc ..).symm
  omega

/-! ## Cuts and reports -/

theorem execOrderStepWrite_pass {s : State} {o : Origin} {p : PartId} (v : Word) {r : Req}
    (h : s.access o (pgSE p.val * 0x1000 + 0x128) true = .pass s r) :
    exec (.orderStepWrite o p v) s = .next ((s.setReply .ok).writeStep p.val v) := congrArg Host.Outcome.next (State.withWrite_pass _ h)

/-- The oldest report taken and counted (R375, R380). -/
def State.reportTaken (s : State) (r : Report) (rest : List Report) : State :=
  (s.setMeter { (s.meter.takeReport r) with held := rest }).bump pgMT 0x020 1

theorem State.auditHeld_reportTaken (s : State) (r : Report) (rest : List Report) (holds : Nat → Bool) :
    (s.reportTaken r rest).auditHeld holds = s.auditHeld holds := by
  rw [State.reportTaken, State.bump_frame]
  rfl

/-- A report taken is compared with the module's sums, and what a suspended audit would say waits (R368, R369). -/
theorem execReportAck_taken {s : State} {r : Report} {rest : List Report} (hheld : s.meter.held = r :: rest) (hcard : s.cardUp = true)
    (tokens trained : Nat) :
    exec (.reportAck tokens trained) s = .next (if tokens = r.tokens ∧ trained = r.trained then s.reportTaken r rest
      else if s.auditHeld (· == 0x48 + r.part) then
        (s.reportTaken r rest).setMeter { (s.reportTaken r rest).meter with auditLate := (s.reportTaken r rest).meter.auditLate ++ [r.part] }
      else (s.reportTaken r rest).tokenMismatch r.part) := by
  rw [← s.auditHeld_reportTaken r rest]
  refine congrArg Host.Outcome.next ?_
  rw [hheld]
  dsimp only
  rw [if_neg (by simp [hcard])]
  simp only [Bool.and_eq_true, decide_eq_true_eq]
  rfl

theorem State.withRead_pass {s t : State} {o : Origin} {off : Nat} {r : Req} (f : State → Req → State) (h : s.access o off false = .pass t r) :
    s.withRead o off f = f t r := by
  unfold State.withRead
  rw [h]
  rfl

theorem execMeterCounterLoRead_pass {s : State} {o : Origin} {k : Fin 5} {r : Req}
    (h : s.access o (pgMQ * 0x1000 + 0x070 + 0x10 * k.val) false = .pass s r) :
    exec (.meterCounterLoRead o k) s = .next (s.meterLo k.val) := congrArg Host.Outcome.next (State.withRead_pass _ h)

theorem execReportAck_none {s : State} (tokens trained : Nat) (h : s.meter.held = [] ∨ s.cardUp = false) :
    exec (.reportAck tokens trained) s = .next s := by
  refine congrArg Host.Outcome.next ?_
  cases hheld : s.meter.held with
  | nil => rfl
  | cons r rest => exact if_pos (by simpa [hheld] using h)

/-! ## Meter requests -/

section
variable {s : State} {r : List Byte} (hhead : s.mqHead = some r) (hcard : (s.resets.any (fun x => x.dom == 0x86)) = false)
include hhead hcard

theorem State.mqServe_absent (h : s.meter.present = false) (code : Nat) (f : State → List Byte → State) : s.mqServe code f = s.mqEnd 0x0117 := by
  simp [State.mqServe, hhead, hcard, h]

variable (hpresent : s.meter.present = true)
include hpresent

theorem State.mqServe_unknown (h : 3 < field r 0 0) (code : Nat) (f : State → List Byte → State) : s.mqServe code f = s.mqEnd 0x0260 := by
  simp [State.mqServe, hhead, hcard, hpresent, h]

/-- A request that names its code is answered by it (R383). -/
theorem State.mqServe_code {code : Nat} (h : field r 0 0 = code) (hlow : 1 ≤ code) (hhigh : code ≤ 3) (f : State → List Byte → State) :
    s.mqServe code f = f s r := by
  simp [State.mqServe, hhead, hcard, hpresent, h, show code ≠ 0 by omega, show ¬ 3 < code by omega]

end

theorem State.mqOut_short {s : State} {r : List Byte} {need : Nat} (out : List Byte) (s' : State) (h : field r 16 19 < need) :
    s.mqOut r out need s' = s.mqEnd 0x0511 := if_pos h

theorem State.mqOut_stored {s s' s1 : State} {r out : List Byte} {need : Nat} (h : need ≤ field r 16 19)
    (hstore : s'.store (whoOf 63) (field r 8 15) out = .ok s1) : s.mqOut r out need s' = s1.mqEnd 0 := by
  refine (if_neg (by omega)).trans ?_
  rw [hstore]

theorem execReadAccount_serve (s : State) :
    exec .readAccount s = .next (s.mqServe 1 (fun s r => s.serveReading r (field r 4 7))) := rfl

theorem execReadTotal_serve (s : State) : exec .readTotal s = .next (s.mqServe 2 (fun s r => s.serveReading r (2 ^ 32))) := rfl

theorem execCert_serve (s : State) :
    exec .cert s = .next (s.mqServe 3 (fun s r => s.mqOut r ((Config.certificate 1).take 4096) 4096 s)) := rfl

/-- A request's end advances the ring and sets the page's event; the card is as it was (R383). -/
theorem State.mqEnd_fields (s : State) (reason : Nat) :
    (s.mqEnd reason).rd pgMQ 0x050 = s.rd pgMQ 0x050 + 1 ∧ ((s.mqEnd reason).hdr pgMQ).evStat.getLsbD 0 = true ∧
      (s.mqEnd reason).meter = s.meter := by
  unfold State.mqEnd
  extract_lets a s1
  have hnear : Near s s1 := State.storeTry_near ..
  have hregs : LowRegsKept s s1 := State.storeTry_lowRegs ..
  have hrd := hregs.rd pgMQ 0x050 (by decide) (by decide)
  have hrec : Recorded s ((s1.wr pgMQ 0x050 (s1.rd pgMQ 0x050 + 1)).raise pgMQ 0) :=
    (hnear.recorded.trans (State.wr_recorded ..)).trans (State.raise_recorded ..)
  refine ⟨?_, State.evStat_raise _ (by decide), by rw [hrec]⟩
  rw [State.rd_raise, State.rd_wr, hrd]

/-! ## The seal and the card's presence -/

/-- A tampering is counted, breaks the seal, and is event 2 of a card that is there (R384, R388). -/
def State.tamper (s : State) : State :=
  let s1 := s.setMeter { s.meter with tampers := s.meter.tampers + 1, sealBroken := true }
  if s.meter.present then s1.raise pgMT 2 else s1

theorem State.tamper_meter (s : State) : s.tamper.meter = { s.meter with tampers := s.meter.tampers + 1, sealBroken := true } := by
  unfold State.tamper
  dsimp only
  split
  · rw [State.raise_recorded]
    rfl
  · rfl

theorem execTamperEvent_stays (s : State) : exec (.tamperEvent false) s = .next s.tamper := rfl

/-- A card that leaves its connector is gone, which is event 0 (R387). -/
def State.removeCard (s : State) : State :=
  let s1 := s.tamper.setMeter { s.tamper.meter with present := false, out := true }
  if s.meter.present then s1.raise pgMT 0 else s1

theorem State.removeCard_meter (s : State) :
    s.removeCard.meter = { s.meter with tampers := s.meter.tampers + 1, sealBroken := true, present := false, out := true } := by
  have hgone : ∀ t : State, t.meter = { s.tamper.meter with present := false, out := true } →
      t.meter = { s.meter with tampers := s.meter.tampers + 1, sealBroken := true, present := false, out := true } := fun t ht => by
    rw [ht, State.tamper_meter]
  unfold State.removeCard
  dsimp only
  split
  · exact hgone _ (by rw [State.raise_recorded]; rfl)
  · exact hgone _ rfl

theorem execTamperEvent_removed {s : State} (h : s.meter.out = false) : exec (.tamperEvent true) s = .next s.removeCard :=
  congrArg Host.Outcome.next (if_neg (by simp [h]))

/-- Settles O58: a window's shares are rounded down, so they never pass its energy, and UNATTRIBUTED takes the rest. -/
theorem orderAndMeter : Obligations.OrderAndMeter := by
  unfold Obligations.OrderAndMeter
  refine ⟨fun s o p v r haccess => ⟨fun hstep => ?_, fun hstep hfull => ?_, fun hstep hroom => ?_⟩,
    fun s r rest tokens trained hheld hcard => ?_, fun s tokens trained h => execReportAck_none tokens trained h,
    fun s mJ ooc => ⟨fun h => congrArg Host.Outcome.next (if_neg (by simp [h])), fun hpresent hwf => ?_⟩, fun s o k r haccess => ?_,
    fun s r hhead hcard => ?_, State.mqEnd_fields, fun s => ?_⟩
  · rw [execOrderStepWrite_pass v haccess, State.writeStep, if_pos (by rw [hstep]; rfl)]
  · rw [execOrderStepWrite_pass v haccess, State.writeStep, if_neg (by rw [hstep]; decide)]
    exact congrArg Host.Outcome.next (if_pos hfull)
  · rw [execOrderStepWrite_pass v haccess, State.writeStep, if_neg (by rw [hstep]; decide)]
    refine ⟨_, s.cutNow p.val, congrArg Host.Outcome.next (if_neg (Nat.not_le.2 hroom)), ?_, rfl, fun j hj => ?_, rfl⟩
    · exact AMap.get_put_self ..
    · exact AMap.get_put_ne hj
  · intro s1
    have hack := execReportAck_taken hheld hcard tokens trained
    refine ⟨fun htokens htrained => hack.trans (congrArg Host.Outcome.next (if_pos ⟨htokens, htrained⟩)), fun hdiffer => ?_⟩
    rw [if_neg (not_and_or.2 hdiffer)] at hack
    exact ⟨fun hfree => hack.trans (congrArg Host.Outcome.next (if_neg (by simp [hfree]))),
      fun hsuspended => hack.trans (congrArg Host.Outcome.next (if_pos hsuspended))⟩
  · obtain ⟨htotal, henergy⟩ := Meter.closeWindow_fields hwf mJ ooc
    exact ⟨_, congrArg Host.Outcome.next (if_pos hpresent), rfl, htotal, henergy, rfl, rfl⟩
  · exact ⟨_, execMeterCounterLoRead_pass haccess, rfl, AMap.get_put_self .., fun j hj => AMap.get_put_ne hj, rfl⟩
  · rw [execReadAccount_serve, execReadTotal_serve, execCert_serve]
    refine ⟨fun habsent => ?_, fun hpresent => ⟨fun hunknown => ?_, ?_⟩⟩
    · simp only [State.mqServe_absent hhead hcard habsent, and_self]
    · simp only [State.mqServe_unknown hhead hcard hpresent hunknown, and_self]
    have hcode {code : Nat} (h : field r 0 0 = code) (hlow : 1 ≤ code) (hhigh : code ≤ 3) (f : State → List Byte → State) :=
      State.mqServe_code hhead hcard hpresent h hlow hhigh f
    refine ⟨fun h hshort => ?_, fun h hshort => ?_, fun h hshort => ?_, fun s1 h hroom hstore => ?_, fun s1 h hroom hstore => ?_,
      fun s1 h hroom hstore => ?_⟩
    · rw [hcode h (by decide) (by decide), State.serveReading, State.mqOut_short _ _ hshort]
    · rw [hcode h (by decide) (by decide), State.serveReading, State.mqOut_short _ _ hshort]
    · rw [hcode h (by decide) (by decide), State.mqOut_short _ _ hshort]
    · rw [hcode h (by decide) (by decide), State.serveReading, State.mqOut_stored hroom hstore]
    · rw [hcode h (by decide) (by decide), State.serveReading, State.mqOut_stored hroom hstore]
    · rw [hcode h (by decide) (by decide), State.mqOut_stored hroom hstore]
  · refine ⟨⟨_, execTamperEvent_stays s, s.tamper_meter, fun hpresent => ?_⟩, fun hout => congrArg Host.Outcome.next (if_pos (by simp [hout])),
      fun hin => ⟨_, execTamperEvent_removed hin, s.removeCard_meter⟩, fun v => rfl, congrArg Host.Outcome.next ?_⟩
    · unfold State.tamper
      rw [if_pos hpresent]
      exact State.evStat_raise _ (by decide)
    · by_cases hsb : s.mc.sbOk = true
      · simp [hsb]
      · simp [hsb]

end Sys2Proof.Machine
end

section
/-!
PROOF. What a failed fetch, a failed transfer and a broken connection leave of the host's state (R149, R150, R400, R407).
-/

namespace Sys2Proof.Machine

theorem HostKept.conns {s t : State} (h : HostKept s t) : t.host.conns = s.host.conns := by rw [h]

theorem HostKept.pushes {s t : State} (h : HostKept s t) : t.host.pushes = s.host.pushes := by rw [h]

theorem HostKept.netUp {s t : State} (h : HostKept s t) : t.host.netUp = s.host.netUp := by rw [h]

theorem State.auditFetch_host (s : State) : HostKept s s.auditFetch := by
  unfold State.auditFetch State.checkFetch
  extract_lets s1 sum
  have h1 : HostKept s s1 := .ite .rfl (State.breach_host ..)
  exact .ite .rfl (.ite h1 (h1.trans (State.breach_host ..)))

theorem State.dropFetch_host (s : State) (f : Fetch) : HostKept s (s.dropFetch f) := by
  unfold State.dropFetch
  extract_lets s1 held
  have htag : HostKept s s1 := .of_eq (Eq.trans (congrArg State.host (s.freeTag_setWax f).1) rfl)
  have hwax (x : WaxEng) : HostKept s1 (s1.setWax x) := .of_eq rfl
  exact (htag.trans (hwax _)).trans (State.auditFetch_host _)

theorem State.releaseWaxing_host (s : State) (w : Nat) : HostKept s (s.releaseWaxing w) := by
  unfold State.releaseWaxing
  dsimp only
  split
  · split <;> exact .of_eq (by simp)
  · exact .of_eq (by simp)

theorem State.cancelTrain_host (s : State) (f : Fetch) : HostKept s (s.cancelTrain f) := by
  unfold State.cancelTrain
  split
  · split
    · exact .ite .rfl (State.releaseWaxing_host ..)
    · exact .rfl
  · exact .rfl

theorem State.endByKey_host (s : State) (k : Nat × Nat × Nat × Nat) (status : Nat) (i : EndInfo) : HostKept s (s.endByKey k status i) := by
  unfold State.endByKey
  split
  · exact State.endCmd_host ..
  · exact .rfl

theorem State.endFetchCmds_host (s : State) (f : Fetch) (status : Nat) (i : EndInfo) : HostKept s (s.endFetchCmds f status i) := by
  unfold State.endFetchCmds
  extract_lets s1
  have h1 : HostKept s s1 := by
    simp only [s1]
    split
    · exact State.endByKey_host ..
    · exact .rfl
  split
  · exact h1.trans (State.endByKey_host ..)
  · exact h1

theorem State.failFetch_host (s : State) (f : Fetch) (reason : Nat) : HostKept s (s.failFetch f reason) := by
  show HostKept s (((((s.giveSlot f).failParks f reason).dropFetch f).cancelTrain f).raise pgWX 1 |>.endFetchCmds f 1 _)
  have hgive : HostKept s (s.giveSlot f) := .of_eq (by rw [State.giveSlot_frame])
  have hparks : HostKept (s.giveSlot f) ((s.giveSlot f).failParks f reason) :=
    (HostKept.of_eq rfl).trans (.foldl (fun _ _ => State.report_host ..) _ _)
  exact ((((hgive.trans hparks).trans (State.dropFetch_host ..)).trans (State.cancelTrain_host ..)).trans (State.raise_host ..)).trans
    (State.endFetchCmds_host ..)

/-- What fails with a connection leaves the connections themselves as they are. -/
theorem State.conns_connFails (s : State) (port cls : Nat) : (s.connFails port cls).host.conns = s.host.conns := by
  unfold State.connFails
  split
  · exact ((HostKept.foldl (fun _ _ => State.failFetch_host ..) _ _).trans (.foldl (fun _ _ => State.refuseCmd_host ..) _ _)).conns
  · split
    · split
      · exact (State.raise_host ..).conns
      · rfl
    · rfl

end Sys2Proof.Machine
end

section
/-!
PROOF. The host link, direct placement, the Ethernet ports, and the messages of MGMT connections (R2, R292, R349, R389 to R407, R431).
-/

namespace Sys2Proof.Machine

/-! ## The host link -/

/-- The link up in a mode and at a width (R389, R392). -/
def State.trainLink (s : State) (mode width : Nat) : State :=
  let s1 := if s.host.linkUp then s.bump pgHI 0x038 1 else s
  let s2 := s1.setHost { s1.host with linkUp := true, training := false, mode := mode, width := width }
  (if width = 8 then s2.raise pgHI 1 else s2).flushPba

theorem State.flushPba_host (s : State) : HostKept s s.flushPba := by
  refine .ite (.foldl (fun t e => ?_) _ _) .rfl
  exact .ite .rfl (Eq.refl _)

theorem State.trainLink_fields (s : State) (mode width : Nat) :
    (s.trainLink mode width).host.linkUp = true ∧ (s.trainLink mode width).host.training = false ∧ (s.trainLink mode width).host.mode = mode ∧
      (s.trainLink mode width).host.width = width := by
  unfold State.trainLink
  extract_lets s1 _ s2
  have hkept : HostKept s2 (if width = 8 then s2.raise pgHI 1 else s2).flushPba := (HostKept.ite (State.raise_host ..) .rfl).trans (State.flushPba_host _)
  rw [hkept]
  exact ⟨rfl, rfl, rfl, rfl⟩

/-- Half width is event 1. -/
theorem State.evStat_trainLink (s : State) (mode : Nat) : ((s.trainLink mode 8).hdr pgHI).evStat.getLsbD 1 = true := by
  unfold State.trainLink
  extract_lets s1 _ s2
  have hpages : (if 8 = 8 then s2.raise pgHI 1 else s2).flushPba.pages = (s2.raise pgHI 1).pages := by simp
  exact (congrArg (fun m => (AMap.get ({} : PageHdr) m pgHI).evStat.getLsbD 1) hpages).trans (State.evStat_raise _ (by decide))

/-- A link that was up has retrained, which HI counts. -/
theorem State.rd64_trainLink {s : State} (hup : s.host.linkUp = true) (mode width : Nat) :
    (s.trainLink mode width).rd64 pgHI 0x038 = (s.rd64 pgHI 0x038 + 1) % 2 ^ 64 := by
  have hregs : (s.trainLink mode width).regs = (s.bump pgHI 0x038 1).regs := by
    unfold State.trainLink
    simp only [hup, if_true]
    split <;> simp
  rw [← State.rd64_bump]
  unfold State.rd64 State.rd
  rw [hregs]

section
variable {s : State} {mode width : Nat} (hdomain : s.isUp 0x80 = true) (hhost : s.settings.hostless = false)
  (hable : s.host.training = true ∨ s.host.linkUp = true)
include hdomain hhost hable

theorem execHostLinkTrained_able : exec (.hostLinkTrained mode width) s = .next (
    if mode = 0 || 4 < mode || (width ≠ 8 && width ≠ 16) then
      (if s.host.linkUp then s else s.setHost { s.host with training := false, mode := 0, width := 0 })
    else s.trainLink mode width) :=
  congrArg Host.Outcome.next (if_neg (by rcases hable with h | h <;> simp [hdomain, hhost, h]))

theorem execHostLinkTrained_bad (hbad : mode = 0 ∨ 4 < mode ∨ width ≠ 8 ∧ width ≠ 16) :
    exec (.hostLinkTrained mode width) s = .next (if s.host.linkUp then s else s.setHost { s.host with training := false, mode := 0, width := 0 }) := by
  rw [execHostLinkTrained_able hdomain hhost hable, if_pos]
  simpa [or_assoc] using hbad

theorem execHostLinkTrained_good (hlow : 1 ≤ mode) (hhigh : mode ≤ 4) (hwidth : width = 8 ∨ width = 16) :
    exec (.hostLinkTrained mode width) s = .next (s.trainLink mode width) := by
  rw [execHostLinkTrained_able hdomain hhost hable, if_neg]
  have hmode : mode ≠ 0 ∧ ¬ 4 < mode := by omega
  rcases hwidth with h | h <;> simp [hmode, h]

end

/-! ## BAR2 (R292, R394, R395) -/

theorem State.bar2_none {s : State} {pasid : Option (BitVec 20)} {rid : BitVec 16} {part : Option Nat} {driver : Bool} {dua len : Nat}
    {w : Option (List Byte)} (h : s.host.place.find? (fun e => e.2.grants pasid rid part driver dua len w.isSome) = none) :
    s.bar2 pasid rid part driver dua len w = s.placeRefused := by
  unfold State.bar2
  rw [h]

section
variable {s : State} {pasid : Option (BitVec 20)} {rid : BitVec 16} {part : Option Nat} {driver : Bool} {dua len n : Nat} {e : Place}

/-- A granted write that is stored runs as the entry's owner and is counted. -/
theorem State.bar2_write {d : List Byte} (h : s.host.place.find? (fun e => e.2.grants pasid rid part driver dua len true) = some (n, e))
    (hok : (s.memWrite (whoOf e.owner) dua (padTo len d) true).reply = .ok) :
    s.bar2 pasid rid part driver dua len (some d) = (s.memWrite (whoOf e.owner) dua (padTo len d) true).bump pgHI 0x020 len := by
  simp only [State.bar2, Option.isSome_some, h, hok]

theorem State.bar2_read {b : List Byte} (h : s.host.place.find? (fun e => e.2.grants pasid rid part driver dua len false) = some (n, e))
    (hok : (s.memRead (whoOf e.owner) dua len true).reply = .data b) :
    s.bar2 pasid rid part driver dua len none = (s.memRead (whoOf e.owner) dua len true).bump pgHI 0x020 len := by
  simp only [State.bar2, Option.isSome_none, h, hok]

end

section
variable {s : State} {rid : BitVec 16} {dua len : Nat} {w : Option (List Byte)}

theorem execBar2Access_down (pasid : Option (BitVec 20)) (h : s.host.linkUp = false) :
    exec (.bar2Access (.host pasid rid) dua len w) s = .next s := congrArg Host.Outcome.next (if_pos (by simp [h]))

variable (hup : s.host.linkUp = true)
include hup

/-- A fenced host's access is answered FENCED, but for the driver's while the module is BANKED (R349). -/
theorem execBar2Access_fenced {pasid : Option (BitVec 20)} (hfenced : s.host.fenced = true)
    (h : pasid.isSome = true ∨ decide (rid = (s.rd pgHI 0x044).setWidth 16) = false ∨ s.mc.bank ≠ .banked) :
    exec (.bar2Access (.host pasid rid) dua len w) s = .next (s.setReply .fenced) := by
  refine congrArg Host.Outcome.next ((if_neg (by simp [hup])).trans (if_pos ?_))
  rcases h with h | h | h
  · simp [hfenced, h]
  · simp [hfenced, of_decide_eq_false h]
  · simp [hfenced, h]

variable (hopen : s.host.fenced = false)
include hopen

theorem execBar2Access_noPasid : exec (.bar2Access (.host none rid) dua len w) s =
    .next (s.bar2 none rid none (decide (rid = (s.rd pgHI 0x044).setWidth 16)) dua len w) :=
  congrArg Host.Outcome.next ((if_neg (by simp [hup])).trans ((if_neg (by simp [hopen])).trans (if_neg (by simp [hopen]))))

theorem execBar2Access_bound {pasid : BitVec 20} {p : Nat} (howner : s.pasidOwner pasid.toNat = some p) :
    exec (.bar2Access (.host (some pasid) rid) dua len w) s = .next (s.bar2 (some pasid) rid (some p) false dua len w) := by
  refine congrArg Host.Outcome.next ((if_neg (by simp [hup])).trans ((if_neg (by simp [hopen])).trans ?_))
  simp only [howner]

theorem execBar2Access_unbound {pasid : BitVec 20} (howner : s.pasidOwner pasid.toNat = none) :
    exec (.bar2Access (.host (some pasid) rid) dua len w) s = .next ((s.bump pgHI 0x030 1).setReply (.refused 0x0405)) := by
  refine congrArg Host.Outcome.next ((if_neg (by simp [hup])).trans ((if_neg (by simp [hopen])).trans ?_))
  simp only [howner]

end

/-! ## Placement (R396, R397) -/

theorem State.place_get_setPlace (s : State) (n : Nat) (e : Place) (j : Nat) : (s.setPlace n e).place j = if j = n then e else s.place j := by
  unfold State.place
  rw [State.place_setPlace, AMap.get_put]

/-- The word that sets entry `n`: GO, no CLEAR, and the number in its low bits. -/
theorem placeWord_set (n : BitVec 12) :
    fld (BitVec.ofNat 32 (n.toNat + 2 ^ 31)) 11 0 = n.toNat ∧ (BitVec.ofNat 32 (n.toNat + 2 ^ 31)).getLsbD 31 = true ∧
      (BitVec.ofNat 32 (n.toNat + 2 ^ 31)).getLsbD 16 = false := by
  have hn := n.isLt
  unfold fld
  simp only [BitVec.getLsbD, BitVec.toNat_ofNat, Nat.testBit_eq_decide_div_mod_eq, decide_eq_true_eq, decide_eq_false_iff_not]
  omega

theorem placeWord_clear (n : BitVec 12) :
    fld (BitVec.ofNat 32 (n.toNat + 2 ^ 16 + 2 ^ 31)) 11 0 = n.toNat ∧ (BitVec.ofNat 32 (n.toNat + 2 ^ 16 + 2 ^ 31)).getLsbD 31 = true ∧
      (BitVec.ofNat 32 (n.toNat + 2 ^ 16 + 2 ^ 31)).getLsbD 16 = true := by
  have hn := n.isLt
  unfold fld
  simp only [BitVec.getLsbD, BitVec.toNat_ofNat, Nat.testBit_eq_decide_div_mod_eq, decide_eq_true_eq]
  omega

theorem execPlaceSet_pass {s : State} {o : Origin} (n : BitVec 12) {r : Req} (h : s.access o (pgHI * 0x1000 + 0x060) true = .pass s r) :
    ∃ v : Word, exec (.placeSet o n) s = .next ((s.setReply .ok).writePlaceCtrl v) ∧
      fld v 11 0 = n.toNat ∧ v.getLsbD 31 = true ∧ v.getLsbD 16 = false :=
  ⟨_, congrArg Host.Outcome.next (State.withWrite_pass _ h), placeWord_set n⟩

theorem execPlaceClear_pass {s : State} {o : Origin} (n : BitVec 12) {r : Req} (h : s.access o (pgHI * 0x1000 + 0x060) true = .pass s r) :
    ∃ v : Word, exec (.placeClear o n) s = .next ((s.setReply .ok).writePlaceCtrl v) ∧
      fld v 11 0 = n.toNat ∧ v.getLsbD 31 = true ∧ v.getLsbD 16 = true :=
  ⟨_, congrArg Host.Outcome.next (State.withWrite_pass _ h), placeWord_clear n⟩

section
variable {s : State} {v : Word} (hgo : v.getLsbD 31 = true)
include hgo

theorem State.writePlaceCtrl_clear (hclear : v.getLsbD 16 = true) :
    s.writePlaceCtrl v = (s.wr pgHI 0x060 (v &&& 0x00010FFF)).setPlace (fld v 11 0) {} :=
  (if_neg (by rw [hgo]; decide)).trans (if_pos hclear)

variable (hset : v.getLsbD 16 = false)
include hset

theorem State.writePlaceCtrl_unread {e : Nat} (hload : s.load (whoOf 63) (s.rd64 pgHI 0x058) 64 = .error (.inl e)) :
    s.writePlaceCtrl v = s.placeFail e := by
  refine (if_neg (by rw [hgo]; decide)).trans ((if_neg (by rw [hset]; decide)).trans ?_)
  simp only [hload]

variable {b : List Byte} {s1 : State} (hload : s.load (whoOf 63) (s.rd64 pgHI 0x058) 64 = .ok (b, s1))
include hload

/-- A record that fails its check leaves the table (R397). -/
theorem State.writePlaceCtrl_refused {e : Nat} (hcheck : s.placeCheck (fld v 11 0) (placeOf b) = some e) : s.writePlaceCtrl v = s.placeFail e := by
  refine (if_neg (by rw [hgo]; decide)).trans ((if_neg (by rw [hset]; decide)).trans ?_)
  simp only [hload, hcheck]

theorem State.writePlaceCtrl_set (hcheck : s.placeCheck (fld v 11 0) (placeOf b) = none) :
    s.writePlaceCtrl v = (s.wr pgHI 0x060 (v &&& 0x00010FFF)).setPlace (fld v 11 0) (placeOf b) := by
  refine (if_neg (by rw [hgo]; decide)).trans ((if_neg (by rw [hset]; decide)).trans ?_)
  simp only [hload, hcheck]

end

theorem State.rd_refuse (s : State) (p reason page off : Nat) : (s.refuse p reason).rd page off = s.rd page off := by
  have hregs : (s.refuse p reason).regs = s.regs := by simp
  exact congrArg (AMap.get (rstAt page off) · (regKey page off)) hregs

theorem State.hdr_refuse (s : State) (p reason : Nat) :
    (s.refuse p reason).hdr p = { s.hdr p with refused := true, reason := BitVec.ofNat 16 reason } := (State.hdr_setHdr ..).trans (if_pos rfl)

theorem State.placeFail_fields (s : State) (e : Nat) :
    (s.placeFail e).host = s.host ∧ ((s.placeFail e).hdr pgHI).refused = true ∧ ((s.placeFail e).hdr pgHI).reason = BitVec.ofNat 16 e ∧
      (s.placeFail e).rd pgHI 0x064 = BitVec.ofNat 32 (e * 65536) := by
  unfold State.placeFail
  rw [State.hdr_refuse, State.rd_refuse, State.rd_wr]
  exact ⟨by simp, rfl, rfl, rfl⟩

/-! ## Ports and connections (R399, R400, R406, R407) -/

theorem State.conn_setConn (s : State) (port cls : Nat) (x : Conn) : (s.setConn port cls x).conn port cls = x := AMap.get_put_self ..

/-- The word of a connect: the number and VALID. -/
theorem connWord (qpn : BitVec 24) :
    fld (BitVec.ofNat 32 (qpn.toNat + 2 ^ 31)) 23 0 = qpn.toNat ∧ (BitVec.ofNat 32 (qpn.toNat + 2 ^ 31)).getLsbD 31 = true := by
  have hn := qpn.isLt
  unfold fld
  simp only [BitVec.getLsbD, BitVec.toNat_ofNat, Nat.testBit_eq_decide_div_mod_eq, decide_eq_true_eq]
  omega

theorem execConnConnect_pass {s : State} {o : Origin} {port : PortId} (qpn : BitVec 24) {r : Req}
    (h : s.access o (pgNP port.val * 0x1000 + 0x074) true = .pass s r) :
    ∃ v : Word, exec (.connConnect o port qpn) s = .next ((s.setReply .ok).writeConnQpn port.val v) ∧
      fld v 23 0 = qpn.toNat ∧ v.getLsbD 31 = true :=
  ⟨_, congrArg Host.Outcome.next (State.withWrite_pass _ h), connWord qpn⟩

/-- A connection that is not valid is entered with its number. -/
theorem State.conn_writeConnQpn {s : State} {port : Nat} {v : Word} (hvalid : (s.conn port (s.connSel port)).valid = false) :
    (s.writeConnQpn port v).conn port (s.connSel port) =
      { s.conn port (s.connSel port) with qpn := fld v 23 0, valid := v.getLsbD 31 } := by
  unfold State.writeConnQpn
  dsimp only
  rw [if_neg (by simp [hvalid])]
  split <;> exact State.conn_setConn ..

/-- A connection that breaks is no longer valid, and its port's event 1 is set. -/
theorem State.breakConn_fields {s : State} {port cls : Nat} (h : (s.conn port cls).valid = true) :
    ((s.breakConn port cls).conn port cls).valid = false ∧ ((s.breakConn port cls).hdr (pgNP port)).evStat.getLsbD 1 = true := by
  unfold State.breakConn
  rw [if_pos h]
  refine ⟨?_, State.evStat_raise _ (by decide)⟩
  unfold State.conn
  rw [(State.raise_host ..).conns, State.conns_connFails]
  exact congrArg Conn.valid (State.conn_setConn ..)

/-- A port whose link trains again is not up. -/
theorem State.portUp_training (s : State) {port : Nat} (h : AMap.get 0 s.host.netUp port = 3) : s.portUp port = false := by
  unfold State.portUp
  rw [h]
  rfl

/-! ## Pushes (R402) -/

theorem execPushGo_pass {s : State} {o : Origin} {port : PortId} {r : Req} (h : s.access o (pgNP port.val * 0x1000 + 0x0A0) true = .pass s r) :
    exec (.pushGo o port) s = .next ((s.setReply .ok).pushStart port.val) := congrArg Host.Outcome.next (State.withWrite_pass _ h)

/-- The push of a port, once set, whatever PUSH_STATUS says then. -/
theorem State.push_setPush (s : State) (port : Nat) (x : Option (Nat × Remote)) (status : Word) :
    AMap.get none ((s.setHost { s.host with pushes := AMap.put none s.host.pushes port x }).wr (pgNP port) 0x0A4 status).host.pushes port = x := by
  show AMap.get none (AMap.put none s.host.pushes port x) port = x
  exact AMap.get_put_self ..

/-- The placement entry that a port's push names. -/
def State.pushEntry (s : State) (port : Nat) : Place := s.place (fld (s.rd (pgNP port) 0x08C) 11 0)

theorem State.pushStart_busy {s : State} {port : Nat} (h : (AMap.get none s.host.pushes port).isSome = true) :
    s.pushStart port = s.refuse (pgNP port) 0x0704 := if_pos h

section
variable {s : State} {port : Nat} (hidle : AMap.get none s.host.pushes port = none)
include hidle

theorem State.pushStart_noConn (h : (s.conn port 1).valid = false) : s.pushStart port = s.refuse (pgNP port) 0x0112 :=
  (if_neg (by simp [hidle])).trans (if_pos (by simp [h]))

variable (hconn : (s.conn port 1).valid = true)
include hconn

theorem State.pushStart_noEntry (h : (s.pushEntry port).valid = false ∨ (s.pushEntry port).expt = false) :
    s.pushStart port = s.refuse (pgNP port) 0x0342 := by
  unfold State.pushEntry at h
  exact (if_neg (by simp [hidle])).trans ((if_neg (by simp [hconn])).trans (if_pos (by rcases h with h | h <;> simp [h])))

variable (hvalid : (s.pushEntry port).valid = true) (hexpt : (s.pushEntry port).expt = true)
include hvalid hexpt

/-- With its entry a push is weighed by its length alone (R402). -/
theorem State.pushStart_granted : s.pushStart port =
    if (s.pushEntry port).len < s.rd64 (pgNP port) 0x090 + s.rd64 (pgNP port) 0x098 then s.refuse (pgNP port) 0x0250
    else (s.setHost { s.host with pushes := AMap.put none s.host.pushes port (some ((s.pushEntry port).base + s.rd64 (pgNP port) 0x090,
      ⟨port, s.rd64 (pgNP port) 0x080, s.rd (pgNP port) 0x088, s.rd64 (pgNP port) 0x098⟩)) }).wr (pgNP port) 0x0A4 1 := by
  unfold State.pushEntry at *
  exact (if_neg (by simp [hidle])).trans ((if_neg (by simp [hconn])).trans (if_neg (by simp [hvalid, hexpt])))

/-- A push that fits its entry is open, and PUSH_STATUS says BUSY. -/
theorem State.pushStart_starts (h : s.rd64 (pgNP port) 0x090 + s.rd64 (pgNP port) 0x098 ≤ (s.pushEntry port).len) :
    (s.pushStart port).rd (pgNP port) 0x0A4 = 1 ∧
      AMap.get none (s.pushStart port).host.pushes port = some ((s.pushEntry port).base + s.rd64 (pgNP port) 0x090,
        ⟨port, s.rd64 (pgNP port) 0x080, s.rd (pgNP port) 0x088, s.rd64 (pgNP port) 0x098⟩) := by
  rw [State.pushStart_granted hidle hconn hvalid hexpt, if_neg (Nat.not_lt.2 h)]
  exact ⟨State.rd_wr .., State.push_setPush ..⟩

end

/-- A push's end: none is open, and PUSH_STATUS holds the result. -/
theorem State.pushEnd_fields (s : State) (port result reason : Nat) :
    AMap.get none (s.pushEnd port result reason).host.pushes port = none ∧
      (s.pushEnd port result reason).rd (pgNP port) 0x0A4 = BitVec.ofNat 32 (2 * result + reason * 65536) := by
  unfold State.pushEnd
  rw [(State.raise_host ..).pushes, State.rd_raise, State.rd_wr]
  exact ⟨State.push_setPush .., rfl⟩

theorem State.mem_out_pushEnd {s : State} {x : Output} (h : x ∈ s.out) (port result reason : Nat) : x ∈ (s.pushEnd port result reason).out := by
  unfold State.pushEnd
  refine (State.raise_flue ..).out.subset ?_
  simpa using h

theorem execPushDone_none {s : State} {port : PortId} (ok : Bool) (h : AMap.get none s.host.pushes port.val = none) :
    exec (.pushDone port ok) s = .next s := by
  refine congrArg Host.Outcome.next ?_
  rw [h]

section
variable {s : State} {port : PortId} {dua : Nat} {x : Remote} (hpush : AMap.get none s.host.pushes port.val = some (dua, x))
include hpush

theorem execPushDone_broken : exec (.pushDone port false) s = .next (s.pushEnd port.val 2 0x0113) := by
  refine congrArg Host.Outcome.next ?_
  rw [hpush]
  rfl

/-- The bytes of a push leave as the page's owner reads them (R402). -/
theorem execPushDone_sent {s1 : State} {b : List Byte} (hload : s.load (whoOf (s.page (dua / pageSize)).owner) dua x.bytes = .ok (b, s1)) :
    exec (.pushDone port true) s =
      .next (((s1.emit (.rdmaWrite x.port x.raddr x.rkey b)).bump (pgNP port.val) 0x020 x.bytes).pushEnd port.val 1 0) := by
  refine congrArg Host.Outcome.next ?_
  rw [hpush]
  simp only [Bool.not_true, Bool.false_eq_true, if_false, hload]

end

/-! ## MGMT messages (R400, R404) -/

/-- A message received, counted by its port. -/
def State.received (s : State) (m : MgmtMsg) : State := s.bump (pgNP m.port.val) 0x028 64

/-- A message served: its answer is kept against a repetition, and sent. -/
def State.answered (s : State) (op : Nat) (m : MgmtMsg) : State :=
  (s.setMgmt m.port.val { seq := some m.seq, answer := answerBytes op m s.reply.mgmtEnd }).sendAnswer m.port.val (answerBytes op m s.reply.mgmtEnd)

theorem State.serveMsg_closed {s : State} {m : MgmtMsg} (h : s.portUp m.port.val = false ∨ (s.conn m.port.val 2).valid = false) (op : Nat) (badLen : Bool)
    (f : State → State) : s.serveMsg op m badLen f = s := if_pos (by rcases h with h | h <;> simp [h])

section
variable {s : State} {m : MgmtMsg} (hport : s.portUp m.port.val = true) (hconn : (s.conn m.port.val 2).valid = true)
include hport hconn

/-- A message of the last number is answered as it was. -/
theorem State.serveMsg_again (h : ((s.received m).mgmtOf m.port.val).seq = some m.seq) (op : Nat) (badLen : Bool) (f : State → State) :
    s.serveMsg op m badLen f = (s.received m).sendAnswer m.port.val ((s.received m).mgmtOf m.port.val).answer :=
  (if_neg (by simp [hport, hconn])).trans (if_pos h)

theorem State.serveMsg_late {k : Word} (h : ((s.received m).mgmtOf m.port.val).seq = some k) (hne : m.seq ≠ k) (hnext : m.seq ≠ k + 1) (op : Nat)
    (badLen : Bool) (f : State → State) :
    s.serveMsg op m badLen f = (s.received m).sendAnswer m.port.val (answerBytes op m { status := 1, reason := 0x0702 }) := by
  unfold State.received at h
  refine (if_neg (by simp [hport, hconn])).trans ((if_neg (by simpa [h] using hne.symm)).trans (if_pos ?_))
  simpa [h] using hnext

variable (hnext : ((s.received m).mgmtOf m.port.val).seq = none ∨ ∃ k, ((s.received m).mgmtOf m.port.val).seq = some k ∧ m.seq = k + 1)
include hnext

/-- A message of the next number, or the first, is served. -/
theorem State.serveMsg_next (op : Nat) (badLen : Bool) (f : State → State) : s.serveMsg op m badLen f =
    (if badLen then (s.received m).setReply (.refused 0x0261) else f ((s.received m).setReply .none)).answered op m := by
  unfold State.received at hnext
  refine (if_neg (by simp [hport, hconn])).trans ((if_neg ?_).trans (if_neg ?_))
  · rcases hnext with h | ⟨k, h, hk⟩ <;> simp [*]
  · rcases hnext with h | ⟨k, h, hk⟩ <;> simp [*]

theorem execRegRead_next (hbytes : m.bytes = 4) : exec (.regRead m) s = .next (
    (if addrBad m then ((s.received m).setReply .none).setReply (errorReply false)
      else ((s.received m).setReply .none).withRead (.mgmt m.port) m.addr (fun s r =>
        (s.readWord m.addr r).2.setReply (.data (leBytes (s.readWord m.addr r).1.toNat 4)))).answered 1 m) :=
  congrArg Host.Outcome.next ((State.serveMsg_next hport hconn hnext ..).trans (congrArg (State.answered · 1 m) (if_neg (by simp [hbytes]))))

theorem execRegWrite_next (hbytes : m.bytes = 4) : exec (.regWrite m) s = .next (
    (if addrBad m then ((s.received m).setReply .none).setReply (errorReply true)
      else ((s.received m).setReply .none).withWrite (.mgmt m.port) m.addr (fun s r =>
        s.writeWord m.addr r (w32 (field m.data 0 3)) 0)).answered 2 m) :=
  congrArg Host.Outcome.next ((State.serveMsg_next hport hconn hnext ..).trans (congrArg (State.answered · 2 m) (if_neg (by simp [hbytes]))))

theorem execRegRead_pass {r : Req} (hbytes : m.bytes = 4) (haddr : addrBad m = false)
    (haccess : ((s.received m).setReply .none).access (.mgmt m.port) m.addr false = .pass ((s.received m).setReply .none) r) :
    exec (.regRead m) s = .next (((((s.received m).setReply .none).readWord m.addr r).2.setReply
      (.data (leBytes (((s.received m).setReply .none).readWord m.addr r).1.toNat 4))).answered 1 m) := by
  rw [execRegRead_next hport hconn hnext hbytes, if_neg (by simp [haddr]), State.withRead_pass _ haccess]

theorem execRegWrite_pass {r : Req} (hbytes : m.bytes = 4) (haddr : addrBad m = false)
    (haccess : ((s.received m).setReply .none).access (.mgmt m.port) m.addr true = .pass ((s.received m).setReply .none) r) :
    exec (.regWrite m) s = .next ((((s.received m).setReply .ok).writeWord m.addr r (w32 (field m.data 0 3)) 0).answered 2 m) := by
  rw [execRegWrite_next hport hconn hnext hbytes, if_neg (by simp [haddr]), State.withWrite_pass _ haccess]
  rfl

theorem execRegRead_badLength (hbytes : m.bytes ≠ 4) :
    exec (.regRead m) s = .next (((s.received m).setReply (.refused 0x0261)).answered 1 m) :=
  congrArg Host.Outcome.next ((State.serveMsg_next hport hconn hnext ..).trans (congrArg (State.answered · 1 m) (if_pos (by simp [hbytes]))))

theorem execRegWrite_badLength (hbytes : m.bytes ≠ 4) :
    exec (.regWrite m) s = .next (((s.received m).setReply (.refused 0x0261)).answered 2 m) :=
  congrArg Host.Outcome.next ((State.serveMsg_next hport hconn hnext ..).trans (congrArg (State.answered · 2 m) (if_pos (by simp [hbytes]))))

theorem execDuaRead_next : exec (.duaRead m) s = .next (
    (if duaLenBad m then (s.received m).setReply (.refused 0x0261)
      else ((s.received m).setReply .none).duaRead (whoOf 63) ⟨none, false, 0x81 + m.port.val, false⟩ m.addr m.bytes true).answered 3 m) :=
  congrArg Host.Outcome.next (State.serveMsg_next hport hconn hnext ..)

theorem execDuaWrite_next : exec (.duaWrite m) s = .next (
    (if duaLenBad m then (s.received m).setReply (.refused 0x0261)
      else ((s.received m).setReply .none).duaWrite (whoOf 63) ⟨none, false, 0x81 + m.port.val, false⟩ m.addr (padTo m.bytes m.data) true).answered 4 m) :=
  congrArg Host.Outcome.next (State.serveMsg_next hport hconn hnext ..)

theorem execHeartbeat_next {r : Req}
    (haccess : ((s.received m).setReply .none).access (.mgmt m.port) (pgMC * 0x1000 + 0x110) true = .pass ((s.received m).setReply .none) r) :
    exec (.heartbeat m) s =
      .next ((((s.received m).setReply .ok).setMc { (s.received m).mc with lastHb := (s.received m).nowUs }).answered 5 m) :=
  congrArg Host.Outcome.next ((State.serveMsg_next hport hconn hnext ..).trans (congrArg (State.answered · 5 m)
    ((if_neg Bool.false_ne_true).trans (State.withWrite_pass (t := (s.received m).setReply .none) _ haccess))))

end

/-- Settles O59: what breaks with a connection changes no connection, and an access of a MGMT message passes its gate as any other origin's. -/
theorem hostAndNetwork : Obligations.HostAndNetwork := by
  unfold Obligations.HostAndNetwork
  refine ⟨fun s mode width hdomain hhost htraining hdown => ?_, fun s mode width hdomain hhost hup => ?_,
    fun s => ⟨fun h => congrArg Host.Outcome.next (if_pos h), fun h => congrArg Host.Outcome.next (if_neg (by simp [h]))⟩,
    fun s pasid rid dua len w hup hopen _ => ?_, fun s pasid rid dua len w _ => ?_, fun s o n r haccess => ?_, fun s port => ?_,
    fun s o port qpn r haccess => ?_, fun s port cls => ?_, fun s o port r haccess => ?_, fun s port ok h => execPushDone_none ok h,
    fun s s1 port dua x b hpush hload => ?_, fun s m _ hport hconn => ?_, fun s m h => ?_⟩
  · refine ⟨fun hbad => ?_, fun hlow hhigh hwidth => ?_⟩
    · rw [execHostLinkTrained_bad hdomain hhost (.inl htraining) hbad, if_neg (by simp [hdown])]
    · obtain ⟨hlink, hidle, hmode, hwid⟩ := s.trainLink_fields mode width
      exact ⟨_, execHostLinkTrained_good hdomain hhost (.inl htraining) hlow hhigh hwidth, hlink, hidle, hmode, hwid,
        fun h => h ▸ s.evStat_trainLink mode⟩
  · refine ⟨fun hbad => ?_, fun hlow hhigh hwidth => ?_⟩
    · rw [execHostLinkTrained_bad hdomain hhost (.inr hup) hbad, if_pos hup]
    · obtain ⟨hlink, -, hmode, hwid⟩ := s.trainLink_fields mode width
      exact ⟨_, execHostLinkTrained_good hdomain hhost (.inr hup) hlow hhigh hwidth, hlink, hmode, hwid, State.rd64_trainLink hup mode width⟩
  · refine ⟨execBar2Access_unbound hup hopen, fun p howner => ⟨fun hnone => ?_, fun n e hentry => ⟨fun d s1 hw hs1 hok => ?_, fun b s1 hw hs1 hok => ?_⟩⟩⟩
    · rw [execBar2Access_bound hup hopen howner, State.bar2_none hnone]
    · subst hw hs1
      rw [execBar2Access_bound hup hopen howner, State.bar2_write hentry hok]
    · subst hw hs1
      rw [execBar2Access_bound hup hopen howner, State.bar2_read hentry hok]
  · refine ⟨execBar2Access_down pasid, fun hup hfenced h => execBar2Access_fenced hup hfenced h, fun hup hopen hnone => ?_, State.bar2_none⟩
    subst hnone
    exact execBar2Access_noPasid hup hopen
  · obtain ⟨v, hexec, hnum, hgo, hset⟩ := execPlaceSet_pass n haccess
    obtain ⟨vClear, hexecClear, hnumClear, hgoClear, hclear⟩ := execPlaceClear_pass n haccess
    rw [hexec, hexecClear]
    refine ⟨⟨_, rfl, ?_⟩, fun e hload => congrArg Host.Outcome.next (State.writePlaceCtrl_unread hgo hset hload), fun b s1 hload =>
      ⟨fun hcheck => ⟨_, rfl, ?_⟩, fun e hcheck _ => ⟨_, rfl, ?_⟩⟩⟩
    · rw [State.writePlaceCtrl_clear hgoClear hclear, hnumClear]
      exact ⟨(State.place_get_setPlace ..).trans (if_pos rfl), fun j hj => (State.place_get_setPlace ..).trans (if_neg hj)⟩
    · rw [State.writePlaceCtrl_set hgo hset hload (by rw [hnum]; exact hcheck), hnum]
      exact ⟨(State.place_get_setPlace ..).trans (if_pos rfl), fun j hj => (State.place_get_setPlace ..).trans (if_neg hj)⟩
    · rw [State.writePlaceCtrl_refused hgo hset hload (e := e) (by rw [hnum]; exact hcheck)]
      obtain ⟨hhost, hrefused, hreason, hstatus⟩ := (s.setReply .ok).placeFail_fields e
      exact ⟨fun j => congrArg (fun h : HostSt => AMap.get ({} : Place) h.place j) hhost, hrefused, hreason, hstatus⟩
  · refine ⟨fun h => congrArg Host.Outcome.next (if_pos h), fun h => ⟨_, congrArg Host.Outcome.next (if_pos h), State.portUp_training _ ?_,
      State.evStat_raise _ (by decide)⟩, fun hdomain hreset half => ⟨_, congrArg Host.Outcome.next (if_pos (by simp [hdomain, hreset])), ?_, rfl⟩⟩
    · rw [(State.raise_host ..).netUp]
      show AMap.get 0 (AMap.put 0 s.host.netUp port.val 3) port.val = 3
      exact AMap.get_put_self ..
    · cases half <;> simp [State.portUp]
  · intro c
    obtain ⟨v, hexec, hqpn, hvalid⟩ := execConnConnect_pass qpn haccess
    rw [hexec]
    refine ⟨fun h => congrArg Host.Outcome.next (if_pos h), fun h => ⟨_, rfl, ?_⟩⟩
    refine (State.conn_writeConnQpn (s := s.setReply .ok) h).trans ?_
    rw [hqpn, hvalid]
    rfl
  · exact ⟨fun h => congrArg Host.Outcome.next (if_neg (by simp [h])), fun h => ⟨_, rfl, State.breakConn_fields h⟩⟩
  · rw [execPushGo_pass haccess]
    refine ⟨fun h => congrArg Host.Outcome.next (State.pushStart_busy h), fun hidle => ⟨fun h => congrArg Host.Outcome.next (State.pushStart_noConn hidle h),
      fun hconn h => congrArg Host.Outcome.next (State.pushStart_noEntry hidle hconn h), fun hconn hvalid hexpt h => congrArg Host.Outcome.next ?_,
      fun hconn hvalid hexpt h => ⟨_, rfl, State.pushStart_starts (s := s.setReply .ok) hidle hconn hvalid hexpt h⟩⟩⟩
    exact (State.pushStart_granted (s := s.setReply .ok) hidle hconn hvalid hexpt).trans (if_pos h)
  · obtain ⟨hsent, hresult⟩ := State.pushEnd_fields ((s1.emit (.rdmaWrite x.port x.raddr x.rkey b)).bump (pgNP port.val) 0x020 x.bytes) port.val 1 0
    refine ⟨⟨_, execPushDone_sent hpush hload, hsent, hresult, State.mem_out_pushEnd ?_ ..⟩, ⟨_, execPushDone_broken hpush, State.pushEnd_fields ..⟩⟩
    rw [State.bump_frame]
    exact List.mem_cons_self
  · refine ⟨fun h => ?_, fun k h hne hnext => ?_, fun hnext => ?_⟩
    · exact ⟨congrArg Host.Outcome.next (State.serveMsg_again hport hconn h ..), congrArg Host.Outcome.next (State.serveMsg_again hport hconn h ..),
        congrArg Host.Outcome.next (State.serveMsg_again hport hconn h ..), congrArg Host.Outcome.next (State.serveMsg_again hport hconn h ..),
        congrArg Host.Outcome.next (State.serveMsg_again hport hconn h ..)⟩
    · exact ⟨congrArg Host.Outcome.next (State.serveMsg_late hport hconn h hne hnext ..),
        congrArg Host.Outcome.next (State.serveMsg_late hport hconn h hne hnext ..),
        congrArg Host.Outcome.next (State.serveMsg_late hport hconn h hne hnext ..),
        congrArg Host.Outcome.next (State.serveMsg_late hport hconn h hne hnext ..),
        congrArg Host.Outcome.next (State.serveMsg_late hport hconn h hne hnext ..)⟩
    · refine ⟨fun hbytes => ⟨execRegRead_badLength hport hconn hnext hbytes, execRegWrite_badLength hport hconn hnext hbytes⟩, fun hbytes haddr => ?_,
        fun hlen => ?_, fun r hbytes haddr haccess => ?_, fun r hbytes haddr haccess => ?_, fun hlen => ?_,
        fun r haccess => execHeartbeat_next hport hconn hnext haccess⟩
      · rw [execRegRead_next hport hconn hnext hbytes, execRegWrite_next hport hconn hnext hbytes, if_pos haddr, if_pos haddr]
        exact ⟨rfl, rfl⟩
      · rw [execDuaRead_next hport hconn hnext, execDuaWrite_next hport hconn hnext, if_pos hlen, if_pos hlen]
        exact ⟨rfl, rfl⟩
      · exact execRegRead_pass hport hconn hnext hbytes haddr haccess
      · exact execRegWrite_pass hport hconn hnext hbytes haddr haccess
      · rw [execDuaRead_next hport hconn hnext, execDuaWrite_next hport hconn hnext, if_neg (by simp [hlen]), if_neg (by simp [hlen])]
        exact ⟨rfl, rfl⟩
  · exact ⟨congrArg Host.Outcome.next (State.serveMsg_closed h ..), congrArg Host.Outcome.next (State.serveMsg_closed h ..),
      congrArg Host.Outcome.next (State.serveMsg_closed h ..), congrArg Host.Outcome.next (State.serveMsg_closed h ..),
      congrArg Host.Outcome.next (State.serveMsg_closed h ..)⟩

end Sys2Proof.Machine
end

section
/-!
PROOF. The power-up sequence, the rails and the operating point (R352, R382, R426 to R430, R433 to R435, R439), and what the statement on them comes to.
That the first patrol pass is a day after the mount is log entry 55, and the last VALID operating point above 105 degrees is log entry 173.
-/

namespace Sys2Proof.Machine

/-! ## Pages firmware places (R205) -/

/-- The pages placed once DRAM is trained: the tables', the slots' page tables and the rest (log entry 33). -/
def placedPages : List Nat :=
  ([0, 1, 2, 3, 4, 6] : List Nat).map (fun k => Config.tablePlace k / pageSize) ++
    (List.range 65).map (fun i => Config.tablePlace 5 / pageSize + i) ++ Config.modulePages

/-- Every valid page is a pinned MODULE page in DRAM. -/
def State.OwnPages (s : State) : Prop :=
  ∀ n, (s.page n).valid = true → (s.page n).owner = 63 ∧ (s.page n).tier = 1 ∧ (s.page n).pinned = true ∧ (s.page n).modulePinned = true

/-- Only the page map and the count of free choices differ. -/
def PlacedOnly (s t : State) : Prop := t = { s with mem := { s.mem with pmap := t.mem.pmap }, freeCtr := t.freeCtr }

theorem PlacedOnly.trans {s t u : State} (h : PlacedOnly s t) (g : PlacedOnly t u) : PlacedOnly s u := by
  unfold PlacedOnly at *
  rw [g, h]

theorem State.placeOwn_only (s : State) (n : Nat) : PlacedOnly s (s.placeOwn n) := by
  unfold State.placeOwn
  split <;> exact Eq.refl _

theorem State.placeOwn_page (s : State) (n j : Nat) :
    ((s.placeOwn n).page j = s.page j ∧ (j = n → (s.page j).valid = true)) ∨
      (j = n ∧ ((s.placeOwn n).page j).valid = true ∧ ((s.placeOwn n).page j).owner = 63 ∧ ((s.placeOwn n).page j).tier = 1 ∧
        ((s.placeOwn n).page j).pinned = true ∧ ((s.placeOwn n).page j).modulePinned = true) := by
  unfold State.placeOwn
  split
  · next hvalid => exact .inl ⟨rfl, fun hj => hj ▸ hvalid⟩
  · extract_lets f plain
    by_cases hj : j = n
    · right
      have hpage (e : PageEnt) : (f.2.setPage n e).page j = e := hj ▸ AMap.get_put_self ..
      rw [hpage]
      exact ⟨hj, rfl, rfl, rfl, rfl, rfl⟩
    · exact .inl ⟨AMap.get_put_ne hj, fun h => absurd h hj⟩

theorem State.placeOwn_own {s : State} (h : s.OwnPages) (n : Nat) : (s.placeOwn n).OwnPages := by
  intro j hvalid
  rcases s.placeOwn_page n j with ⟨hkept, -⟩ | ⟨-, -, hplaced⟩
  · rw [hkept] at hvalid ⊢
    exact h j hvalid
  · exact hplaced

theorem State.valid_placeOwn (s : State) (n j : Nat) : ((s.placeOwn n).page j).valid = true ↔ j = n ∨ (s.page j).valid = true := by
  rcases s.placeOwn_page n j with ⟨hkept, hn⟩ | ⟨hj, hvalid, -⟩
  · rw [hkept]
    exact ⟨.inr, fun h => h.elim hn id⟩
  · exact ⟨fun _ => .inl hj, fun _ => hvalid⟩

/-- Pages placed one after another: nothing else changes, all valid pages are the module's, and valid are those placed. -/
theorem State.placeOwns {l : List Nat} {s : State} (h : s.OwnPages) :
    PlacedOnly s (l.foldl (fun (s : State) n => s.placeOwn n) s) ∧ (l.foldl (fun (s : State) n => s.placeOwn n) s).OwnPages ∧
      ∀ j, ((l.foldl (fun (s : State) n => s.placeOwn n) s).page j).valid = true ↔ j ∈ l ∨ (s.page j).valid = true := by
  induction l generalizing s with
  | nil => exact ⟨Eq.refl _, h, fun j => by simp⟩
  | cons n l ih =>
    obtain ⟨honly, hown, hvalid⟩ := ih (s.placeOwn_own h n)
    refine ⟨(s.placeOwn_only n).trans honly, hown, fun j => (hvalid j).trans ?_⟩
    rw [State.valid_placeOwn, List.mem_cons]
    tauto

/-- Once DRAM is trained memory is empty but for the module's pages, and valid are those placed (R205, R213). -/
theorem State.dramTrained_fields (s : State) :
    s.dramTrained.mc = { s.mc with step := 3 } ∧ s.dramTrained.mem.bytes = [] ∧ s.dramTrained.mem.lines = [] ∧ s.dramTrained.OwnPages ∧
      ∀ j, (s.dramTrained.page j).valid = true ↔ j ∈ placedPages := by
  let s0 := (s.setMem {}).setMc { s.mc with step := 3 }
  have hnone : ∀ j, (s0.page j).valid = false := fun _ => rfl
  obtain ⟨honly, hown, hvalid⟩ := State.placeOwns (l := placedPages) (s := s0) fun j hj => absurd hj (by simp [hnone])
  have htrained : s.dramTrained = placedPages.foldl (fun (s : State) n => s.placeOwn n) s0 := rfl
  rw [htrained]
  refine ⟨by rw [honly]; rfl, by rw [honly]; rfl, by rw [honly]; rfl, hown, fun j => (hvalid j).trans ?_⟩
  simp [hnone]

/-! ## The steps of the sequence (R428 to R430) -/

section
variable {s : State} (hsb : s.mc.sbOk = true) (hrun : s.mc.running = true)
include hsb hrun

theorem execModRst_up : exec .modRst s = .next (s.requestReset 0xFF 0) := congrArg Host.Outcome.next (if_pos (by simp [hsb, hrun]))

variable (hgo : s.mc.stopped = false) (hreset : (s.resets.any (fun r => r.dom == 0xFF && r.phase == 1)) = false)
include hgo hreset

theorem execPowerStepDone_ends (ok permit : Bool) : exec (.powerStepDone ok permit) s = .next (s.endStep ok permit) :=
  congrArg Host.Outcome.next (if_pos (by simp [hsb, hrun, hgo, hreset]))

end

theorem execModRst_down {s : State} (h : s.mc.sbOk = false ∨ s.mc.running = false) : exec .modRst s = .next s :=
  congrArg Host.Outcome.next (if_neg (by rcases h with h | h <;> simp [h]))

section
variable {s : State} (ok permit : Bool)

theorem State.endStep_0 (h : s.mc.step = 0) (hoff : s.mc.mainOff = false) (htrip : s.mc.tripHold = false) :
    s.endStep ok permit = if ok && permit then (s.setMc { s.mc with mainPermit := true }).beginStep1 else s := by
  simp [State.endStep, h, hoff, htrip]

theorem State.endStep_1 (h : s.mc.step = 1) : s.endStep ok permit = if ok then s.setMc { s.mc with step := 2, mainOk := true } else s := by
  simp only [State.endStep, h]

theorem State.endStep_2 (h : s.mc.step = 2) :
    s.endStep ok permit = if ok then s.dramTrained else s.setMc { s.mc with stopped := true, failStep := 2 } := by
  simp only [State.endStep, h]

theorem State.endStep_3 (h : s.mc.step = 3) :
    s.endStep ok permit = if ok then s.mountVault else s.setMc { s.mc with step := 4, vaultMounted := false } := by
  simp only [State.endStep, h]

theorem State.endStep_4 (h : s.mc.step = 4) : s.endStep ok permit = s.alignStep ok := by
  simp only [State.endStep, h]

theorem State.endStep_5 (h : s.mc.step = 5) : s.endStep ok permit = s.releaseAll.applySettings := by
  simp only [State.endStep, h]

theorem State.endStep_6 (h : s.mc.step = 6) :
    s.endStep ok permit = ((s.setMc { s.mc with step := 7, ready := true }).raise pgMC 5).mcIssues := by
  simp only [State.endStep, h]

end

/-- Step 1 is noted and counted among the boots (R441). -/
theorem State.beginStep1_fields (s : State) :
    s.beginStep1.mc = { s.mc with step := 1 } ∧ s.beginStep1.rd64 pgMC 0x030 = (s.rd64 pgMC 0x030 + 1) % 2 ^ 64 :=
  ⟨(State.bump_recorded ..).mc, State.rd64_bump ..⟩

/-- The vault mounted, and the first patrol pass a day away. -/
theorem State.mountVault_fields (s : State) :
    s.mountVault.mc = { s.mc with step := 4, vaultMounted := true } ∧ s.mountVault.lift.patrolAt = s.nowUs + dayUs := by
  have hkey : ∀ (t : State) (k : Option (BitVec 256)), (t.setBaseKey k).mc = t.mc ∧ (t.setBaseKey k).lift = t.lift := by
    intro t k
    unfold State.setBaseKey
    dsimp only
    split
    · exact ⟨rfl, rfl⟩
    · exact ⟨(State.raise_recorded ..).mc, (State.raise_recorded ..).lift⟩
  have hunwrap : ∀ t : State, t.unwrapBase.mc = t.mc ∧ t.unwrapBase.lift = t.lift := by
    intro t
    unfold State.unwrapBase
    split
    · split
      · exact hkey ..
      · exact ⟨rfl, rfl⟩
    · exact ⟨rfl, rfl⟩
  unfold State.mountVault
  dsimp only
  rw [(hunwrap _).1, (hunwrap _).2]
  exact ⟨rfl, rfl⟩

theorem State.alignStep_fails (s : State) :
    (s.alignStep false).mc.step = 5 ∧ (s.alignStep false).mc.ticksAligned = false ∧ ((s.alignStep false).hdr pgMC).evStat.getLsbD 1 = true := by
  unfold State.alignStep
  dsimp only
  rw [if_neg Bool.false_ne_true, (State.raise_recorded ..).mc]
  exact ⟨rfl, rfl, State.evStat_raise _ (by decide)⟩

/-- Every domain of the grade is up once step 5 ends, whatever fences lift (R353). -/
theorem State.releaseAll_fields (s : State) : s.releaseAll.mc.step = 6 ∧ s.releaseAll.up = s.allDomains := by
  unfold State.releaseAll
  extract_lets ds s1 s2 s3 _ s4 s5
  have hfences : s3.up = s2.up := by
    refine foldl_keeps State.up _ (fun t n => ?_) _ _
    split
    · rw [t.liftFence_only n]
    · rfl
  have hlinks : s5.up = s4.up := by
    refine foldl_keeps State.up _ (fun t n => ?_) _ _
    rfl
  clear_value s5
  refine ⟨rfl, hlinks.trans ?_⟩
  clear_value s3
  exact hfences

theorem State.applySettings_fields (s : State) : s.applySettings.mc = s.mc ∧ s.applySettings.up = s.up := by
  unfold State.applySettings
  extract_lets st s1
  split
  · constructor
    · refine foldl_keeps State.mc _ (fun _ _ => ?_) _ s1
      rfl
    · refine foldl_keeps State.up _ (fun _ _ => ?_) _ s1
      rfl
  · exact ⟨rfl, rfl⟩

/-- READY and its event. -/
theorem State.ready_fields (s : State) :
    let t := ((s.setMc { s.mc with step := 7, ready := true }).raise pgMC 5).mcIssues
    t.mc = { s.mc with step := 7, ready := true } ∧ (t.hdr pgMC).evStat.getLsbD 5 = true := by
  refine ⟨(State.mcIssues_recorded _).mc.trans (State.raise_recorded ..).mc, ?_⟩
  have hissue : ∀ t : State, t.mcIssues.pages = t.pages := fun t => by
    unfold State.mcIssues
    split <;> rfl
  exact (congrArg (fun m => (AMap.get ({} : PageHdr) m pgMC).evStat.getLsbD 5) (hissue _)).trans (State.evStat_raise _ (by decide))

/-! ## The rails (R382, R426, R427, R439) -/

theorem AMap.get_delRange_ne {α : Type} (d : α) (m : AMap α) {lo n k : Nat} (h : k < lo) : AMap.get d (AMap.delRange m lo n) k = AMap.get d m k := by
  induction m with
  | nil => rfl
  | cons e m ih =>
    unfold AMap.delRange at *
    by_cases hk : e.1 = k
    · rw [List.filter_cons_of_pos (by simp; omega), AMap.get, AMap.get, if_pos hk, if_pos hk]
    · rw [List.filter_cons]
      split
      · rw [AMap.get, AMap.get, if_neg hk, if_neg hk, ih]
      · rw [AMap.get, if_neg hk, ih]

/-- The MC's registers are those of page 0, which no other page's clearing reaches. -/
theorem State.rd_clearPage (s : State) {page off : Nat} (hpage : page ≠ pgMC) (hoff : off < 0x1000) : (s.clearPage page).rd pgMC off = s.rd pgMC off := by
  unfold pgMC at *
  exact AMap.get_delRange_ne _ _ (by unfold regKey; omega)

theorem State.rd_clearPages {l : List Nat} (hl : pgMC ∉ l) (s : State) {off : Nat} (hoff : off < 0x1000) :
    (l.foldl (fun (s : State) n => s.clearPage n) s).rd pgMC off = s.rd pgMC off := by
  induction l generalizing s with
  | nil => rfl
  | cons page l ih =>
    obtain ⟨hpage, hrest⟩ := not_or.1 (mt List.mem_cons.2 hl)
    exact (ih hrest _).trans (s.rd_clearPage (Ne.symm hpage) hoff)

theorem pgMC_not_mem_modulePages : pgMC ∉ modulePages := fun h => absurd (List.mem_filter.1 h).2 (by decide)

/-- Everything in the module domain is lost but the vault; the card and the MC's own page stay (R335). -/
theorem State.wipeModule_fields (s : State) :
    s.wipeModule.meter = s.meter ∧ ∀ off, off + 4 < 0x1000 → s.wipeModule.rd64 pgMC off = s.rd64 pgMC off := by
  have hcleared : s.wipeModule.meter = (modulePages.foldl (fun (s : State) n => s.clearPage n) s).meter ∧
      s.wipeModule.regs = (modulePages.foldl (fun (s : State) n => s.clearPage n) s).regs := by
    unfold State.wipeModule
    exact ⟨by dsimp only, by dsimp only⟩
  obtain ⟨hmeter, hregs⟩ := hcleared
  refine ⟨?_, fun off hoff => ?_⟩
  · rw [hmeter]
    exact foldl_keeps State.meter (fun (s : State) n => s.clearPage n) (fun _ _ => rfl) modulePages s
  have hrd : ∀ off, off < 0x1000 → s.wipeModule.rd pgMC off = s.rd pgMC off := fun off hoff => by
    rw [← s.rd_clearPages pgMC_not_mem_modulePages hoff, State.rd, State.rd, hregs]
  unfold State.rd64
  exact congrArg₂ (fun a b : Word => a.toNat + 2 ^ 32 * b.toNat) (hrd off (by omega)) (hrd (off + 4) hoff)

/-- Beside what the wipe takes, the loss changes the MC's state alone. -/
theorem State.loseMain_wiped (s : State) :
    s.loseMain.meter = s.wipeModule.meter ∧ s.loseMain.rd64 pgMC 0x020 = s.wipeModule.rd64 pgMC 0x020 := by
  unfold State.loseMain
  generalize s.wipeModule = u
  exact ⟨rfl, rfl⟩

theorem State.loseMain_fields (s : State) :
    s.loseMain.mem = {} ∧ s.loseMain.started = [] ∧ s.loseMain.meter = s.meter ∧ s.loseMain.fbx.baseKey = none ∧ s.loseMain.mc.mainOk = false ∧
      s.loseMain.mc.mainOff = true ∧ s.loseMain.mc.step = 0 ∧ s.loseMain.mc.ready = false ∧ s.loseMain.mc.mainPermit = s.mc.mainPermit ∧
      s.loseMain.rd64 pgMC 0x020 = s.rd64 pgMC 0x020 := by
  obtain ⟨hmeter, hrd⟩ := s.wipeModule_fields
  obtain ⟨hmeterWiped, hrdWiped⟩ := s.loseMain_wiped
  exact ⟨rfl, rfl, hmeterWiped.trans hmeter, rfl, rfl, rfl, rfl, rfl, rfl, hrdWiped.trans (hrd 0x020 (by decide))⟩

theorem State.mainFault_lost {s : State} (hsb : s.mc.sbOk = true) (hmain : s.mc.mainOk = true) :
    s.mainFault = (s.loseMain.bump pgMC 0x020 1).raise pgMC 4 := if_pos (by simp [hsb, hmain])

theorem State.mainFault_off {s : State} (h : s.mc.sbOk = false ∨ s.mc.mainOk = false) : s.mainFault = s :=
  if_neg (by rcases h with h | h <;> simp [h])

/-- A main rail fault: what is on the rail is lost, and the fault is counted and is event 4 (R426). -/
theorem State.mainFault_fields {s : State} (hsb : s.mc.sbOk = true) (hmain : s.mc.mainOk = true) :
    s.mainFault.mc = s.loseMain.mc ∧ s.mainFault.mem = {} ∧ s.mainFault.started = [] ∧ s.mainFault.meter = s.meter ∧
      s.mainFault.fbx.baseKey = none ∧ s.mainFault.rd64 pgMC 0x020 = (s.rd64 pgMC 0x020 + 1) % 2 ^ 64 ∧
      (s.mainFault.hdr pgMC).evStat.getLsbD 4 = true := by
  obtain ⟨hmem, hstarted, hmeter, hkey, -, -, -, -, -, hrd⟩ := s.loseMain_fields
  rw [State.mainFault_lost hsb hmain, ← hrd]
  generalize s.loseMain = u at *
  have hcount : ((u.bump pgMC 0x020 1).raise pgMC 4).rd64 pgMC 0x020 = (u.bump pgMC 0x020 1).rd64 pgMC 0x020 := by
    unfold State.rd64
    rw [State.rd_raise, State.rd_raise]
  exact ⟨by simp, by simpa using hmem, by simpa using hstarted, by simpa using hmeter, by simpa using hkey, hcount.trans (State.rd64_bump ..),
    State.evStat_raise _ (by decide)⟩

/-- What is lost first as the standby rail goes: the main rail with it, if it was there (R427). -/
def State.standbyLost (s : State) : State := if s.mc.mainOk then s.loseMain else s.wipeModule

theorem State.standbyLost_fields (s : State) :
    s.standbyLost.mem = {} ∧ s.standbyLost.meter = s.meter ∧ s.standbyLost.wx.store = s.wx.store ∧ s.standbyLost.fbx.lockFuse = s.fbx.lockFuse ∧
      s.standbyLost.fbx.floors = s.fbx.floors ∧ s.standbyLost.mc.imgA = s.mc.imgA ∧ s.standbyLost.mc.imgB = s.mc.imgB ∧
      s.standbyLost.mc.active = s.mc.active ∧ s.standbyLost.mc.sa0 = s.mc.sa0 ∧ s.standbyLost.mc.sa1 = s.mc.sa1 := by
  obtain ⟨hmeter, -⟩ := s.wipeModule_fields
  unfold State.standbyLost
  split
  · exact ⟨rfl, s.loseMain_wiped.1.trans hmeter, rfl, rfl, rfl, rfl, rfl, rfl, rfl, rfl⟩
  · exact ⟨rfl, hmeter, rfl, rfl, rfl, rfl, rfl, rfl, rfl, rfl⟩

/-- What stays of a standby loss is what is non-volatile; the card completes its window (R382, R427). -/
theorem execStandbyRailLoss_lost {s : State} (hsb : s.mc.sbOk = true) :
    ∃ t, exec .standbyRailLoss s = .next t ∧ t.mem = {} ∧ t.regs = [] ∧ t.mc.sbOk = false ∧ t.mc.running = false ∧ t.mc.mainOk = false ∧ t.up = [] ∧
      t.mc.imgA = s.mc.imgA ∧ t.mc.imgB = s.mc.imgB ∧ t.mc.active = s.mc.active ∧ t.mc.sa0 = s.mc.sa0 ∧ t.mc.sa1 = s.mc.sa1 ∧
      t.fbx.baseKey = none ∧ t.fbx.lockFuse = s.fbx.lockFuse ∧ t.fbx.floors = s.fbx.floors ∧ t.wx.store = s.wx.store ∧
      t.meter.accts = (if s.meter.present then s.meter.closeWindow (Config.windowMj s.nowUs) false else s.meter).accts := by
  obtain ⟨hmem, hmeter, hstore, hlock, hfloors, himgA, himgB, hactive, hsa0, hsa1⟩ := s.standbyLost_fields
  refine ⟨_, congrArg Host.Outcome.next (if_neg (by simp [hsb])), ?_⟩
  change (s.standbyLost).mem = {} ∧ _
  refine ⟨hmem, rfl, rfl, rfl, rfl, rfl, himgA, himgB, hactive, hsa0, hsa1, rfl, hlock, hfloors, hstore, ?_⟩
  change (if s.standbyLost.meter.present then { s.standbyLost.meter.closeWindow (Config.windowMj s.nowUs) false with lossWindow := true }
    else s.standbyLost.meter).accts = _
  rw [hmeter]
  split <;> rfl

theorem execStandbyRailUp_off {s : State} (h : s.mc.sbOk = false) : ∃ t, exec .standbyRailUp s = .next t ∧
    t.mc = { s.mc with sbOk := true, step := 0, booting := true, bootAt := s.nowUs } ∧ t.up = [0x84] ∧
      t.meter = { s.meter with present := !s.meter.out } ∧ t = { s with mc := t.mc, up := t.up, meter := t.meter } :=
  ⟨_, congrArg Host.Outcome.next (if_neg (by simp [h])), rfl, rfl, rfl, rfl⟩

section
variable {s : State} {permit : Bool}

theorem execMainRailReturn_not (h : permit = false ∨ s.nowUs < s.mc.faultAt + 100000) : exec (.mainRailReturn permit) s = .next s :=
  congrArg Host.Outcome.next (if_neg (by rcases h with h | h <;> simp [h]))

variable (hoff : s.mc.mainOff = true) (hsb : s.mc.sbOk = true) (hrun : s.mc.running = true) (hpermit : permit = true)
  (htime : s.mc.faultAt + 100000 ≤ s.nowUs)
include hoff hsb hrun hpermit htime

theorem execMainRailReturn_back : exec (.mainRailReturn permit) s = .next (
    if s.mc.tripHold then s.setMc { s.mc with mainOff := false, mainPermit := true }
    else (s.setMc { s.mc with mainOff := false, mainPermit := true }).beginStep1) :=
  congrArg Host.Outcome.next (if_pos (by simp [hoff, hsb, hrun, hpermit, htime]))

end

/-! ## The operating point and heat (R433 to R435) -/

section
variable {s : State} (hrun : s.mc.running = true)
include hrun

theorem execCoolantOutOfRange_checked (inlet flow : Nat) : exec (.coolantOutOfRange inlet flow) s = .next (
    if 40 < inlet || flow < 2000 then (s.setMc { s.mc with inlet := inlet, flow := flow }).raise pgMC 6
    else s.setMc { s.mc with inlet := inlet, flow := flow }) := congrArg Host.Outcome.next (if_neg (by simp [hrun]))

variable (hmain : s.mc.mainOk = true)
include hmain

theorem execDvfsCheck_checked (watts tj : Nat) : exec (.dvfsCheck watts tj) s = .next (
    (if s.vfUp.isSome then (s.setMc { s.mc with watts := watts, tj := tj }).bump pgMC 0x028 1
      else s.setMc { s.mc with watts := watts, tj := tj }).vfCheck watts tj) :=
  congrArg Host.Outcome.next (if_neg (by simp [hrun, hmain]))

/-- A trip before the reset it asks for: noted, counted, and event 3 (R434). -/
theorem execThermalTrip_trips (h : s.mc.tripHold = false) :
    ∃ s2 : State, exec .thermalTrip s = .next (s2.requestReset 0xFF 1) ∧ s2.mc = { s.mc with tripHold := true } ∧ (s2.hdr pgMC).evStat.getLsbD 3 = true ∧
      s2.rd64 pgMC 0x038 = (s.rd64 pgMC 0x038 + 1) % 2 ^ 64 := by
  refine ⟨_, congrArg Host.Outcome.next (if_neg (by simp [hrun, hmain, h])), ?_, State.evStat_raise _ (by decide), ?_⟩
  · exact (State.raise_recorded ..).mc.trans (State.bump_recorded ..).mc
  · unfold State.rd64
    rw [State.rd_raise, State.rd_raise]
    exact State.rd64_bump (s.setMc { s.mc with tripHold := true }) pgMC 0x038 1

end

theorem State.vfGo_point (s : State) (i : Nat) : (s.vfGo i).mc.vfPoint = i := by
  unfold State.vfGo
  dsimp only
  split
  · rw [(State.raise_recorded ..).mc]
    rfl
  · rfl

/-- Above 105 degrees the clock is at the last VALID entry (R434). -/
theorem State.vfCheck_hot {s : State} (watts : Nat) {tj : Nat} (hhot : 105 < tj) (h : s.vfLast ≠ s.mc.vfPoint) :
    (s.vfCheck watts tj).mc.vfPoint = s.vfLast := by
  unfold State.vfCheck
  dsimp only
  rw [if_pos hhot, if_neg h, State.vfGo_point]

theorem execThermalTripRelease_held {s : State} (h : s.mc.tripHold = true) : exec .thermalTripRelease s = .next (
    if s.mc.mainOk || s.mc.mainOff then s.setMc { s.mc with tripHold := false } else (s.setMc { s.mc with tripHold := false }).beginStep1) :=
  congrArg Host.Outcome.next (if_neg (by simp [h]))

/-! ## What the statement comes to -/

/-- Before step 3 no table has a place, and reads as placed at page 0. -/
theorem State.tableLoc_of_step2 {s : State} (h : s.mc.step = 2) (k : Nat) : s.tableLoc k / pageSize = 0 := by
  unfold State.tableLoc
  rw [if_neg (by omega)]
  rfl

/-- The controller runs and DRAM is being trained, with nothing else in progress. -/
def dramTraining : State := { State.reset with mc := { State.reset.mc with sbOk := true, running := true, stopped := false, step := 2 }, resets := [] }

/-- O60 holds exactly if page 0 is among the pages firmware places, which the model leaves to uninterpreted constants (`Config.tablePlace`,
`Config.modulePages`; log entry 33): its clause on step 2 reads `tableLoc` before the step, where it is 0. So the model settles neither O60 nor its
negation. -/
theorem powerAndThermal_iff : Obligations.PowerAndThermal ↔ 0 ∈ placedPages := by
  unfold Obligations.PowerAndThermal
  refine ⟨fun ⟨_, hsteps, _⟩ => ?_, fun hzero => ⟨fun s => ⟨fun h => congrArg Host.Outcome.next (if_pos h), execStandbyRailUp_off⟩,
    fun s permit hsb hrun hgo hreset => ?_, fun s => ⟨execModRst_up, execModRst_down⟩, fun s => ?_, fun s permit hoff hsb hrun => ?_,
    fun s watts tj hrun hmain => ?_, fun s watts tj => State.vfCheck_hot watts, fun s => ?_, fun s inlet flow hrun => ?_⟩⟩
  · obtain ⟨-, -, hdram, -⟩ := hsteps dramTraining true rfl rfl rfl rfl
    obtain ⟨⟨t, hexec, -, -, -, -, htables⟩, -⟩ := hdram rfl
    have ht := Host.Outcome.next.inj (hexec.symm.trans (execPowerStepDone_ends (s := dramTraining) rfl rfl rfl rfl true true))
    rw [State.endStep_2 true true (s := dramTraining) rfl, if_pos rfl] at ht
    obtain ⟨-, -, -, -, hvalid⟩ := dramTraining.dramTrained_fields
    have htable := htables 0 (by decide)
    rw [State.tableLoc_of_step2 (s := dramTraining) rfl, ht] at htable
    exact (hvalid 0).1 htable
  · have hends := execPowerStepDone_ends hsb hrun hgo hreset
    simp only [hends]
    refine ⟨fun h hoff htrip => ?_, fun h => ?_, fun h => ?_, fun h => ?_, fun h => ?_, fun h => ?_, fun h => ?_⟩
    · rw [State.endStep_0 _ _ h hoff htrip, State.endStep_0 _ _ h hoff htrip]
      exact ⟨⟨_, rfl, State.beginStep1_fields (s.setMc { s.mc with mainPermit := true })⟩, rfl⟩
    · rw [State.endStep_1 _ _ h]
      rfl
    · rw [State.endStep_2 _ _ h, State.endStep_2 _ _ h]
      obtain ⟨hmc, hbytes, hlines, hown, hvalid⟩ := s.dramTrained_fields
      refine ⟨⟨_, rfl, hmc, hbytes, hlines, hown, fun k _ => ?_⟩, rfl⟩
      rw [State.tableLoc_of_step2 h]
      exact (hvalid 0).2 hzero
    · rw [State.endStep_3 _ _ h, State.endStep_3 _ _ h]
      exact ⟨⟨_, rfl, s.mountVault_fields⟩, rfl⟩
    · rw [State.endStep_4 _ _ h, State.endStep_4 _ _ h]
      exact ⟨rfl, _, rfl, s.alignStep_fails⟩
    · rw [State.endStep_5 _ _ h]
      obtain ⟨hmc, hup⟩ := s.releaseAll.applySettings_fields
      obtain ⟨hstep, hall⟩ := s.releaseAll_fields
      exact ⟨_, rfl, (congrArg Mc.step hmc).trans hstep, hup.trans hall⟩
    · rw [State.endStep_6 _ _ h]
      exact ⟨_, rfl, s.ready_fields⟩
  · refine ⟨fun h => congrArg Host.Outcome.next (State.mainFault_off h), fun hsb hmain => ⟨⟨_, rfl, ?_⟩, ⟨_, rfl, ?_⟩⟩,
      fun h => congrArg Host.Outcome.next (State.mainFault_off h), fun h => congrArg Host.Outcome.next (if_pos (by simp [h])), execStandbyRailLoss_lost⟩
    · obtain ⟨hmc, hmem, hstarted, hmeter, hkey, hcount, hevent⟩ := State.mainFault_fields hsb hmain
      rw [hmc]
      exact ⟨rfl, rfl, rfl, rfl, hmem, hstarted, hmeter, hkey, hcount, hevent⟩
    · obtain ⟨hmc, hmem, -⟩ := State.mainFault_fields (s := s.setMc { s.mc with mainPermit := false }) hsb hmain
      rw [hmc]
      exact ⟨rfl, rfl, hmem⟩
  · refine ⟨execMainRailReturn_not, fun hpermit htime htrip => ?_, fun hpermit htime htrip => ⟨_, execMainRailReturn_back hoff hsb hrun hpermit htime, ?_⟩⟩
    · rw [execMainRailReturn_back hoff hsb hrun hpermit htime, if_pos htrip]
    · rw [if_neg (by simp [htrip])]
      exact (State.beginStep1_fields _).1
  · refine ⟨fun h => ?_, fun h => ?_, fun h => congrArg Host.Outcome.next (if_pos (by simp [h])), execThermalTrip_trips hrun hmain⟩
    · rw [execDvfsCheck_checked hrun hmain, if_neg (by simp [h])]
    · rw [execDvfsCheck_checked hrun hmain, if_pos h]
  · refine ⟨fun h => congrArg Host.Outcome.next (if_pos (by simp [h])), fun h hrail => ?_, fun h hmain hoff => ⟨_, execThermalTripRelease_held h, ?_⟩⟩
    · rw [execThermalTripRelease_held h, if_pos (by simpa using hrail)]
    · rw [if_neg (by simp [hmain, hoff])]
      exact (State.beginStep1_fields _).1
  · rw [execCoolantOutOfRange_checked hrun]
    exact ⟨fun h => congrArg Host.Outcome.next (if_pos (by simpa using h)), fun hin hflow => congrArg Host.Outcome.next (if_neg (by simp; omega))⟩

end Sys2Proof.Machine
end
